-- ==== Sys2Proof/Word.lean ====
section
/-! DEFINITION. Word.lean: the machine's words and the finite maps that State is made of. -/

namespace Sys2Proof

/-- A byte of memory (R13). -/
abbrev Byte := BitVec 8

/-- A 32-bit register, per lane or per group (R148). -/
abbrev Word := BitVec 32

/-- A 64-bit quantity: a register pair, a program counter, an address (R149). -/
abbrev DWord := BitVec 64

/-- A finite map with natural keys, held as plain data: keys strictly rising, one entry a key. -/
abbrev AMap (α : Type) := List (Nat × α)

end Sys2Proof
end

