-- ==== Sys2Proof/Syntax.lean ====
section
/-! DEFINITION. Syntax.lean: the instructions and the device's steps, one constructor for each row of the opcode table.
Encodings are in Decode.lean; meanings are under Machine/. -/

namespace Sys2Proof

/-- The operand types of R107. -/
inductive Ty where
  | i32 | n32 | i64 | n64 | i16 | n16 | i8 | n8
  | f32 | f64 | f16 | bf16 | e4m3 | e5m2 | e2m1 | e8m0
  | x2f32 | x3f32 | x4f32 | x2f64 | x2f16 | x3f16 | x4f16 | x2bf16 | x3bf16 | x4bf16
  deriving DecidableEq, Repr

/-- Rounding modes (R108): nearest even, toward zero, up, down, nearest away, stochastic. -/
inductive RM where | rne | rtz | rup | rdn | rna | rst
  deriving DecidableEq, Repr

/-- Scopes (R17, R108). -/
inductive Scope where | grp | team | clu | dev | sys
  deriving DecidableEq, Repr

/-- ORDER of the access family (R108). -/
inductive AOrder where | rlx | acq | rel | acqRmt
  deriving DecidableEq, Repr

/-- ORDER of the atomic family (R108). -/
inductive SOrder where | rlx | acq | rel | acqrel | sc
  deriving DecidableEq, Repr

/-- AUX conditions (R108). The `u` forms are also true when an operand is NaN. -/
inductive Cond where
  | eq | ne | lt | le | gt | ge | ord | uno | equ | neu | ltu | leu | gtu | geu
  deriving DecidableEq, Repr

/-- COND of the S3P format (R108). -/
inductive SCond where | eq | ne | ltI | geI | ltN | geN | gtI | gtN
  deriving DecidableEq, Repr

/-- SHFL modes (R210). -/
inductive ShflMode where | idx | up | down | xor
  deriving DecidableEq, Repr

/-- Operations of the atomics (R110, R297). -/
inductive AtomFn where | add | min | max | and | or | xor | exch | cas | inc | dec
  deriving DecidableEq, Repr

/-- The B operand (R104): a register of the kind the instruction takes, a scalar register applied to every lane, or an
immediate (in LM forms, no index). -/
inductive Src where
  | reg (n : Nat)
  | scal (n : Nat)
  | imm (n : Nat)
  deriving DecidableEq, Repr

/-- Format S3 (R101). -/
structure S3 where
  d : Nat
  a : Nat
  b : Src
  deriving DecidableEq, Repr

/-- Formats S2F, and S3 with one source (R101): X makes the general register scalar. -/
structure S2 where
  d : Nat
  a : Nat
  x : Bool
  deriving DecidableEq, Repr

/-- Format SI (R101). -/
structure SI where
  d : Nat
  imm : Nat
  deriving DecidableEq, Repr

/-- Format L, arithmetic family (R102, R106). -/
structure L where
  d : Nat
  a : Nat
  b : Src
  c : Nat
  rm : RM
  ty : Ty
  aux : Nat
  deriving DecidableEq, Repr

/-- Format LM, access family (R102, R106). `off` is OFF16 as its 16 bits; `dep` is the counter named. -/
structure LM where
  d : Nat
  a : Nat
  b : Src
  off : Nat
  ty : Ty
  scope : Scope
  order : AOrder
  dep : Option Nat
  deriving DecidableEq, Repr

/-- Format L, atomic and synchronisation family (R106). -/
structure LT where
  d : Nat
  a : Nat
  b : Src
  c : Nat
  ty : Ty
  scope : Scope
  order : SOrder
  rmt : Bool
  dep : Option Nat
  deriving DecidableEq, Repr

/-- Format L, matrix family (R106). -/
structure LX where
  d : Nat
  a : Nat
  b : Src
  c : Nat
  aty : Ty
  cty : Ty
  sp : Nat
  dep : Option Nat
  deriving DecidableEq, Repr

/-- Format L, copy-engine form (R313). -/
structure LE where
  d : Nat
  a : Nat
  b : Src
  c : Nat
  sk : Nat
  dk : Nat
  w : Nat
  dep : Option Nat
  deriving DecidableEq, Repr

/-- Format L, system and remote form: MOD holds ORDER in bits 5:4 and nothing else (R401, R416, R437). -/
structure LS where
  d : Nat
  a : Nat
  b : Src
  c : Nat
  order : Nat
  dep : Option Nat
  deriving DecidableEq, Repr

/-- What a host IOMMU answers to an ATS request (R45, R279): a grant of a physical page, a page that is not present or lacks
the permission, or an error. `host` says that the page is host memory. -/
inductive AtsAnswer where
  | grant (pa size : Nat) (host r w x : Bool)
  | absent
  | error
  deriving DecidableEq, Repr

/-- The response code of a PRI page request group (R280). -/
inductive PriCode where | success | invalid | failure
  deriving DecidableEq, Repr

/-- A remote operation as it travels (R397 to R403). -/
inductive RemOp where
  | ld | st | stCnt (c : Nat)
  | atom (fn : AtomFn) (ty : Ty)
  | note (c : Nat)
  deriving DecidableEq, Repr

/-- A remote request of a Runnel peer, as the target receives it (R397). `data` is the operand, `cmp` the CAS
compare value. -/
structure RemMsg where
  op : RemOp
  ectx : Nat
  win : Nat
  key : Nat
  off : Nat
  width : Nat
  data : List Nat
  cmp : Nat
  /-- the bytes to store are poisoned: an engine read them so (R317) -/
  poison : Bool := false
  deriving DecidableEq, Repr

/-- An answer to a remote request: data bytes, an acknowledgement, or poison (R397). -/
inductive RemAns where
  | data (bytes : List Nat)
  | ack
  | poison
  deriving DecidableEq, Repr

/-- The operands of a device step: what the host, the environment or the schedule supplies. Which fields a step reads stands
beside its constructor in Instr. -/
structure Ev where
  a : Nat := 0
  b : Nat := 0
  c : Nat := 0
  d : Nat := 0
  flag : Bool := false
  data : List Nat := []
  ats : AtsAnswer := .absent
  pri : PriCode := .success
  msg : Option RemMsg := none
  ans : RemAns := .ack
  deriving DecidableEq, Repr

/-- The instructions of the ISA, then the steps of the device: one constructor for each row of spec/opcode_table.json. An
instruction carries its operand fields. The operands of a device step stand in State.ev, as an issue's stand in State.sel:
a constructor of its own has no room for them, since Lean runs no constructor with fields beyond the 245th. -/
inductive Instr where
  -- control (R177)
  | nop
  | bra (off : Nat)
  | brx (b : Src)
  | call (d off : Nat)
  | callx (d : Nat) (b : Src)
  | ret (b : Src)
  | loop (lc len cnt : Nat) (x : Bool)
  | join (d : Nat)
  | leave (d : Nat)
  | waitk (d : Nat)
  | exit
  | yield
  | sleep (d imm : Nat) (x : Bool)
  | bkpt (imm : Nat)
  | pcrel (d off : Nat)
  -- scalar integer (R192 to R196)
  | sadd (p : S3)
  | ssub (p : S3)
  | smul (p : S3)
  | sand (p : S3)
  | sor (p : S3)
  | sxor (p : S3)
  | sshl (p : S3)
  | sshr (p : S3)
  | ssra (p : S3)
  | smovi (p : SI)
  | smovh (p : SI)
  | smov (d a : Nat)
  | snot (d a : Nat)
  | spopc (d a : Nat)
  | sclz (d a : Nat)
  | saddr (p : L)
  | smulh (p : L)
  | smad (p : L)
  | smin (p : L)
  | smax (p : L)
  | scmp (p : L)
  | ssel (p : L)
  -- vector integer (R192, R198 to R203)
  | iadd (p : S3)
  | isub (p : S3)
  | imul (p : S3)
  | and (p : S3)
  | or (p : S3)
  | xor (p : S3)
  | shl (p : S3)
  | shr (p : S3)
  | sra (p : S3)
  | icmp (cond : SCond) (pd a : Nat) (b : Src)
  | movi (p : SI)
  | moviH (p : SI)
  | mov (p : S2)
  | not (p : S2)
  | popc (p : S2)
  | clz (p : S2)
  | brev (p : S2)
  | iabs (p : S2)
  | ineg (p : S2)
  | vrdi (d a : Nat)
  | vwri (d a : Nat)
  | iaddc (p : L)
  | imulh (p : L)
  | imad (p : L)
  | imadw (p : L)
  | imin (p : L)
  | imax (p : L)
  | isel (p : L)
  | rot (p : L)
  | bfe (p : L)
  | bfi (p : L)
  | cvti (p : L)
  | icmpLong (p : L)
  -- special registers, predicates, masks (R205 to R208)
  | srd (p : S2)
  | swr (p : S2)
  | pset (d a : Nat)
  | pnot (d a : Nat)
  | pmov (d a : Nat)
  | ptok (d a : Nat)
  | ktop (d a : Nat)
  | kand (p : L)
  | kor (p : L)
  | kxor (p : L)
  | knot (p : L)
  | kpopc (p : L)
  | kffs (p : L)
  | kmov (p : L)
  | kact (p : L)
  -- lane operations (R210 to R216)
  | shfl (p : L) (mode : ShflMode)
  | vote (p : L)
  | matchL (p : L)
  | reduce (p : L)
  | scan (p : L)
  | bcast (p : L)
  | split (p : L)
  -- floating point (R221 to R240)
  | faddF32 (p : S3)
  | fsubF32 (p : S3)
  | fmulF32 (p : S3)
  | ffmaF32 (p : S3)
  | fadd (p : L)
  | fsub (p : L)
  | fmul (p : L)
  | ffma (p : L)
  | fmin (p : L)
  | fmax (p : L)
  | fminnum (p : L)
  | fmaxnum (p : L)
  | fdiv (p : L)
  | fscale (p : L)
  | fabs (p : L)
  | fneg (p : L)
  | fsqrt (p : L)
  | frcp (p : L)
  | frsq (p : L)
  | fex2 (p : L)
  | flg2 (p : L)
  | fsin (p : L)
  | fcos (p : L)
  | frnd (p : L)
  | fclass (p : L)
  | fcmp (p : L)
  | fcvt (p : L) (src : Ty)
  | fcvti (p : L) (src : Ty)
  | icvtf (p : L) (src : Ty)
  | fpack (p : L) (src : Ty)
  | funpk (p : L) (src : Ty)
  | fstatRd (d : Nat)
  | fstatWr (a : Nat) (x : Bool)
  | fstatClr (a : Nat)
  -- exact transforms, expansions, random numbers (R241 to R260)
  | ftwosum (p : L)
  | ffastsum (p : L)
  | ftwoprod (p : L)
  | ffma3 (p : L)
  | fsplit (p : L)
  | fsplit3 (p : L)
  | xadd (p : L)
  | xsub (p : L)
  | xmul (p : L)
  | xren (p : L)
  | xcomp (p : L)
  | xneg (p : L)
  | xabs (p : L)
  | xcmp (p : L)
  | xcvt (p : L) (src : Ty)
  | rnd (p : L)
  | rndg (p : L)
  -- loads and stores (R291 to R296); `vbase`: the base A is a vector register (R110)
  | ld (p : LM)
  | st (p : LM)
  | lds (p : LM) (vbase : Bool)
  | sts (p : LM) (vbase : Bool)
  | ldsc (p : LM) (vbase : Bool)
  | stsc (p : LM) (vbase : Bool)
  | ldx (p : LM)
  | stx (p : LM)
  | ldc (p : LM)
  | pld (p : LM)
  | pst (p : LM)
  | pref (p : LM)
  -- atomics, fences, barriers, barrier objects (R297 to R312)
  | atom (p : LT) (fn : AtomFn)
  | atoms (p : LT) (fn : AtomFn)
  | atomc (p : LT)
  | red (p : LT) (fn : AtomFn)
  | fence (p : LT)
  | bar (p : LT)
  | barc (p : LT)
  | gsync (p : LT)
  | binit (p : LT)
  | barrive (p : LT)
  | bexpect (p : LT)
  | bwait (p : LT)
  | btest (p : LT)
  | bdrop (p : LT)
  | binv (p : LT)
  | stscb (p : LT)
  -- asynchronous copies (R313 to R318)
  | acopy (p : LE)
  | agath (p : LE)
  | ascat (p : LE)
  | acopym (p : LE)
  | acancel (p : LE)
  -- matrix (R363 to R375); `shape` is FN[3:0], `r` is FN[4]
  | mma (p : LX) (shape : Nat) (r : Bool)
  | mmaj (p : LX) (shape : Nat) (r : Bool)
  | mmas (p : LX) (shape : Nat) (r : Bool)
  | mmajs (p : LX) (shape : Nat) (r : Bool)
  | talloc (p : LX)
  | tfree (p : LX)
  | tzero (p : LX)
  | tstat (p : LX)
  | tld (p : LX)
  | tst (p : LX)
  | tread (p : LX)
  | twrite (p : LX)
  | tscale (p : LX)
  -- remote operations, completion counters, collectives (R398 to R416)
  | rld (p : LM)
  | rst (p : LM)
  | rstCnt (p : LM)
  | ratom (p : LT) (fn : AtomFn)
  | rfence (p : LS)
  | cwait (p : LS)
  | cnote (p : LS)
  | coll (p : LS)
  | bknote (p : LS)
  -- layers (R389)
  | lreq (p : LS)
  | lwait (p : LS)
  | lrel (p : LS)
  | lstat (p : LS)
  -- system (R437)
  | trap (imm : Nat)
  | tret
  | hcall (p : SI)
  | srdp (p : LS)
  | swrp (p : LS)
  | ctxyield (p : LS)
  | illrd (p : LS)
  | frmrd (p : LS)
  -- weirs, inspection, trace (R458, R463, R472, R474)
  | weirset (p : LS)
  | weirclr (p : LS)
  | weirrd (p : LS)
  | hrd (p : LS)
  | hwr (p : LS)
  | hprd (p : LS)
  | hfront (p : LS)
  | hscb (p : LS)
  | hstep (p : LS)
  | hresume (p : LS)
  | trcmark (p : LS)
  | cntrd (p : LS)
  -- the steps of the device (chapters 02, 03, 05, 09, 13 to 17); their operands are the fields of Ev named
  | registerWrite  -- a offset, b size in bytes, c value
  | partcfgWrite  -- a partition, c value
  | ctxLoad  -- a slot
  | ctxUnload  -- a slot
  | ctxcmdDone
  | doorbellWrite  -- a chain, c value
  | chainEnable  -- a chain
  | chainDisable  -- a chain
  | chainResume  -- a chain
  | chainAbort  -- a chain
  | chstatLinkerrClear  -- a chain
  | launchTake
  | streamOpen  -- a launch
  | modelNextKernel  -- a launch
  | launchComplete  -- a launch
  | clusterAdmit  -- a partition
  | admissionStarvationLimit  -- a partition
  | teamReadmit  -- a team
  | teamEvict  -- a partition
  | teamRetire  -- a team
  | vgridQuantumExpiry  -- a core
  | vgridTurnEnd  -- a core
  | timeSliceExpiry  -- a partition
  | turnPass  -- a partition
  | xchgOutIn  -- a slot
  | xchgSuspend  -- a slot
  | xchgResume  -- a slot
  | exchangeDone  -- a partition
  | basincfgWrite  -- c value
  | sluicepoolWrite  -- a partition, c value
  | rmtinvPeer  -- a slot
  | rmtinvWindow  -- a slot
  | rmtinvComm  -- a slot
  | rmtinvDone
  | routeReload
  | routeReloadDone
  | inspcfgWrite  -- a partition, c value
  | plumeStart  -- a die
  | plumeStop  -- a die
  | plumeDump  -- a die
  | plumeDumpDone  -- a die
  | plumeDiscard  -- a die
  | plumeWindowFull  -- a die
  | monClear  -- a die, b unit
  | softCounterRead  -- a counter, 0 to 6
  | errlogRead
  | mbInfo  -- flag IEN
  | mbErase  -- flag IEN
  | mbWrite  -- flag IEN
  | mbVerify  -- flag IEN
  | mbActivate  -- flag IEN
  | mbRaisemin  -- flag IEN
  | mbReset  -- flag IEN
  | mbUnknownOp  -- a OP, flag IEN
  | mbCommandDone
  | spdmGetVersion
  | spdmGetCapabilities
  | spdmNegotiateAlgorithms
  | spdmGetDigests
  | spdmGetCertificate  -- a slot, b offset, c length
  | spdmChallenge  -- a slot, data the nonce
  | spdmGetMeasurements  -- a block, or 255 for all
  | deviceReset
  | firmwareVerified
  | thermalCritical
  | powerInterval  -- c AVGW in watts
  | eccCorrected  -- a source (R480)
  | eccUncorrectable  -- a source, b unit, c address, d context, data the place in a core
  | dyxihanScrub  -- a core, flag: the location still fails
  | rillFlitFail  -- flag: delivered after retry, b base die, c address, d context
  | linkFailure  -- a link
  | collEndNoticeReceive  -- a CID, b SEQ, c status
  | atsResponse  -- a PASID, c page, ats the answer
  | atsTimeout  -- a PASID, c page
  | priResponse  -- a PASID, c page, pri the code
  | priTimeout  -- a PASID, c page
  | atsInvalidation  -- a PASID, b size, c address
  | atsInvalidationDone  -- a PASID, c address
  | faultStallBlocking  -- a group
  | faultReplay  -- a group
  | bar4Access  -- a length, b 1 for a poisoned TLP, c address, flag: write, data the bytes written
  | clauseFetch  -- a group, c header address
  | sliceCycle  -- a core, b slice
  | groupPromotion  -- a group
  | entryOverdue  -- a group, c PC
  | opComplete  -- a group, b operation
  | laneUnpark  -- a group, b lane
  | sleepWake  -- a group
  | cwaitPoll  -- a group
  | trapEntry  -- a group
  | watchdogExpiry  -- a group
  | haltComplete  -- a slot
  | matrixOpBegin  -- a core, b quad
  | matrixOpDone  -- a core, b quad
  | engineBeat  -- a operation
  | engineOpDone  -- a operation
  | engineOpError  -- a operation, b cause
  | sluiceBeat
  | layerTransferStart  -- a launch
  | layerTransferDone  -- a launch
  | layerEvictDone  -- a launch, b layer
  | remoteRequestArrive  -- msg the request, a the request of this device that loops back, or 0
  | remoteAnswer  -- a request, ans the answer
  | remoteTimeout  -- a request
  | collStart  -- a slot, b communicator, c SEQ
  | collMessage  -- a CID, b SEQ, c rank, data the contribution, flag: poisoned
  | collComplete  -- a slot, b communicator, c SEQ
  | hcallWriteDone  -- flag: the host completed the write
  deriving DecidableEq, Repr

/-- A clause header as its fields (R93). -/
structure Header where
  wait : Nat
  fuse : Bool
  pri : Nat
  gneg : Bool
  guard : Nat
  eclass : Nat
  count : Nat
  deriving DecidableEq, Repr

/-- Why an encoding is not an instruction (R111); the constructors stand in the order of their REASON codes. -/
inductive Reason where
  | sig | hdrBits | count0 | guard | eclass | fuse | opcode | cls | cut | fn | modv | field | notLast | priv
  deriving DecidableEq, Repr

end Sys2Proof
end

