-- ==== Sys2Proof/Config.lean ====
section
/-! DEFINITION. Config.lean: what an implementation fixes, and the free values that the spec leaves open. A free value is an
opaque constant, applied to the operands it depends on or to a counter of State: no proof can see a value of it. -/

namespace Sys2Proof.Config

/-- The order in which device units act (R436), and the words that a unit refuses in a cycle (R119): a choice for each turn. -/
opaque pick (turn : Nat) : Nat

/-- FRCP, FRSQ, FEX2, FLG2 of .f32 and FSIN, FCOS of every type: a result within the bound of R230, for an instruction number, a
type code and the operand's bits. -/
opaque special (fn ty x : Nat) : Nat

/-- The L1 set of a line, modulo 128 (R275), and which line of an over-full set leaves it, for a counter. -/
opaque l1Set (line : Nat) : Nat
opaque l1Victim (n : Nat) : Nat

/-- The L1 TLB set of a page, modulo the sets that the filling team has (R279, R281), and which entry of a full set is replaced. -/
opaque tlbSet (pasid page : Nat) : Nat
opaque tlbVictim (n : Nat) : Nat

/-- The Basin set of a page, modulo the sets that Basin has (R281), and which entry of a full set is replaced. -/
opaque basinSet (pasid page : Nat) : Nat
opaque basinVictim (n : Nat) : Nat

/-- The latency of a global load that missed the L1, whether it missed the L2 too, and the latency of HBM then, for a counter: timing, which
only the monitors show (R475). -/
opaque missLatency (n : Nat) : Nat
opaque l2Miss (n : Nat) : Bool
opaque hbmLatency (n : Nat) : Nat

/-- Whether a fetch sees an old copy of an instruction-cache line, for a counter and the line (R92). -/
opaque oldLine (n line : Nat) : Bool

/-- A byte that an operation stopped before it was written holds its old or its new value (R266, R318). -/
opaque keepsNew (n : Nat) : Bool

/-- A byte of DST after a collective that did not succeed: whether it is the old one, and otherwise which (R410). -/
opaque collByte (n : Nat) : Option Nat

/-- A byte of a layer's destination after its eviction (R385). -/
opaque evictByte (n : Nat) : Nat

/-- Whether both signatures of a firmware image verify (R485), given its bytes. -/
opaque imageOk (bytes : List (Nat × BitVec 8)) : Bool

/-- The security version of a firmware image. -/
opaque imageSvn (bytes : List (Nat × BitVec 8)) : Nat

/-- The SHA-384 digest of a measurement block, or of the certificate chain (block 0): of the block and what it covers, in an encoding that the
spec does not give (R488). -/
opaque digest (block : Nat) (what : List Nat) : List Nat

/-- The body of an SPDM response apart from what R488 has it hold: the request code, and a counter. -/
opaque spdmBody (code n : Nat) : List Nat

/-- The length of the SPDM certificate chain of slot 0, and its bytes (R488). -/
opaque certChain : List Nat

/-- Whether a flash operation of the mailbox fails with RESULT 4 (R487). -/
opaque flashFails (n : Nat) : Bool

/-- The address of the HBM areas that hold saved teams (R278): its first byte and its length. -/
opaque savedArea : Nat × Nat

/-- A byte that a read gives where the host's IOMMU refuses it. -/
opaque refusedByte (addr : Nat) : Nat

end Sys2Proof.Config
end

