-- ==== Sys2Proof/Machine/Types.lean ====
section
/-! DEFINITION. Machine/Types.lean: codes and sizes of the operand types, and the codes of the modifier fields (R107, R108). -/

namespace Sys2Proof.Machine

/-- The type code of R107. -/
def tyCode : Ty → Nat
  | .i32 => 0x00 | .n32 => 0x01 | .i64 => 0x02 | .n64 => 0x03
  | .i16 => 0x04 | .n16 => 0x05 | .i8 => 0x06 | .n8 => 0x07
  | .f32 => 0x08 | .f64 => 0x09 | .f16 => 0x0A | .bf16 => 0x0B
  | .e4m3 => 0x0C | .e5m2 => 0x0D | .e2m1 => 0x0E | .e8m0 => 0x0F
  | .x2f32 => 0x10 | .x3f32 => 0x11 | .x4f32 => 0x12 | .x2f64 => 0x13
  | .x2f16 => 0x14 | .x3f16 => 0x15 | .x4f16 => 0x16
  | .x2bf16 => 0x18 | .x3bf16 => 0x19 | .x4bf16 => 0x1A

/-- The type of a code; codes 0x17 and 0x1B to 0x1F are reserved (R107). -/
def tyOf : Nat → Option Ty
  | 0x00 => some .i32 | 0x01 => some .n32 | 0x02 => some .i64 | 0x03 => some .n64
  | 0x04 => some .i16 | 0x05 => some .n16 | 0x06 => some .i8 | 0x07 => some .n8
  | 0x08 => some .f32 | 0x09 => some .f64 | 0x0A => some .f16 | 0x0B => some .bf16
  | 0x0C => some .e4m3 | 0x0D => some .e5m2 | 0x0E => some .e2m1 | 0x0F => some .e8m0
  | 0x10 => some .x2f32 | 0x11 => some .x3f32 | 0x12 => some .x4f32 | 0x13 => some .x2f64
  | 0x14 => some .x2f16 | 0x15 => some .x3f16 | 0x16 => some .x4f16
  | 0x18 => some .x2bf16 | 0x19 => some .x3bf16 | 0x1A => some .x4bf16
  | _ => none

/-- Rounding-mode codes (R108). -/
def rmCode : RM → Nat
  | .rne => 0 | .rtz => 1 | .rup => 2 | .rdn => 3 | .rna => 4 | .rst => 5

/-- The rounding mode of a code; 6 and 7 are reserved (R108). -/
def rmOf : Nat → Option RM
  | 0 => some .rne | 1 => some .rtz | 2 => some .rup | 3 => some .rdn | 4 => some .rna | 5 => some .rst
  | _ => none

/-- Scope codes (R108). -/
def scopeCode : Scope → Nat
  | .grp => 0 | .team => 1 | .clu => 2 | .dev => 3 | .sys => 4

/-- The scope of a code; 5 to 7 are reserved (R108). -/
def scopeOf : Nat → Option Scope
  | 0 => some .grp | 1 => some .team | 2 => some .clu | 3 => some .dev | 4 => some .sys
  | _ => none

/-- ORDER codes of the access family (R108). -/
def aorderCode : AOrder → Nat
  | .rlx => 0 | .acq => 1 | .rel => 2 | .acqRmt => 3

/-- ORDER of the access family; all four codes are used (R108). -/
def aorderOf : Nat → Option AOrder
  | 0 => some .rlx | 1 => some .acq | 2 => some .rel | 3 => some .acqRmt
  | _ => none

/-- ORDER codes of the atomic family (R108). -/
def sorderCode : SOrder → Nat
  | .rlx => 0 | .acq => 1 | .rel => 2 | .acqrel => 3 | .sc => 4

/-- ORDER of the atomic family; 5 to 7 are reserved (R108). -/
def sorderOf : Nat → Option SOrder
  | 0 => some .rlx | 1 => some .acq | 2 => some .rel | 3 => some .acqrel | 4 => some .sc
  | _ => none

/-- The AUX condition of a code; 14 and 15 are reserved (R108). -/
def condOf : Nat → Option Cond
  | 0 => some .eq | 1 => some .ne | 2 => some .lt | 3 => some .le | 4 => some .gt | 5 => some .ge
  | 6 => some .ord | 7 => some .uno
  | 8 => some .equ | 9 => some .neu | 10 => some .ltu | 11 => some .leu | 12 => some .gtu | 13 => some .geu
  | _ => none

/-- COND codes of S3P (R108). -/
def scondCode : SCond → Nat
  | .eq => 0 | .ne => 1 | .ltI => 2 | .geI => 3 | .ltN => 4 | .geN => 5 | .gtI => 6 | .gtN => 7

/-- COND of S3P: three bits, all used (R108). -/
def scondOf : Nat → SCond
  | 0 => .eq | 1 => .ne | 2 => .ltI | 3 => .geI | 4 => .ltN | 5 => .geN | 6 => .gtI | _ => .gtN

/-- FN codes of the atomics (R110). -/
def atomCode : AtomFn → Nat
  | .add => 0 | .min => 1 | .max => 2 | .and => 3 | .or => 4 | .xor => 5
  | .exch => 6 | .cas => 7 | .inc => 8 | .dec => 9

/-- The atomic operation of an FN (R110). -/
def atomOf : Nat → Option AtomFn
  | 0 => some .add | 1 => some .min | 2 => some .max | 3 => some .and | 4 => some .or | 5 => some .xor
  | 6 => some .exch | 7 => some .cas | 8 => some .inc | 9 => some .dec
  | _ => none

/-- SHFL modes (R210). -/
def shflCode : ShflMode → Nat
  | .idx => 0 | .up => 1 | .down => 2 | .xor => 3

/-- The SHFL mode of an FN (R110). -/
def shflOf : Nat → Option ShflMode
  | 0 => some .idx | 1 => some .up | 2 => some .down | 3 => some .xor
  | _ => none

/-- REASON codes (R111). -/
def reasonCode : Reason → Nat
  | .sig => 1 | .hdrBits => 2 | .count0 => 3 | .guard => 4 | .eclass => 5 | .fuse => 6 | .opcode => 7
  | .cls => 8 | .cut => 9 | .fn => 0xA | .modv => 0xB | .field => 0xC | .notLast => 0xD | .priv => 0xE

/-- Whether a type is an expansion (R164). -/
def tyExp : Ty → Bool
  | .x2f32 | .x3f32 | .x4f32 | .x2f64 | .x2f16 | .x3f16 | .x4f16 | .x2bf16 | .x3bf16 | .x4bf16 => true
  | _ => false

/-- Components of a type: 1 for a plain type (R164). -/
def tyN : Ty → Nat
  | .x2f32 | .x2f64 | .x2f16 | .x2bf16 => 2
  | .x3f32 | .x3f16 | .x3bf16 => 3
  | .x4f32 | .x4f16 | .x4bf16 => 4
  | _ => 1

/-- The component format of a type (R164); a plain type is its own component. -/
def tyComp : Ty → Ty
  | .x2f32 | .x3f32 | .x4f32 => .f32
  | .x2f64 => .f64
  | .x2f16 | .x3f16 | .x4f16 => .f16
  | .x2bf16 | .x3bf16 | .x4bf16 => .bf16
  | t => t

/-- Bytes of a plain type in memory; .e2m1 has no access of its own (R287). -/
def tyBytes1 : Ty → Nat
  | .i64 | .n64 | .f64 => 8
  | .i32 | .n32 | .f32 => 4
  | .i16 | .n16 | .f16 | .bf16 => 2
  | _ => 1

/-- Bytes that an access of a type moves (R107, R287). -/
def tyBytes (t : Ty) : Nat := tyN t * tyBytes1 (tyComp t)

/-- Alignment of an access (R287): the width, or a component's width for the triples. -/
def tyAlign (t : Ty) : Nat := if tyN t = 3 then tyBytes1 (tyComp t) else tyBytes t

/-- Registers that one plain value takes: a pair for a 64-bit type (R149). -/
def tyRegs1 : Ty → Nat
  | .i64 | .n64 | .f64 => 2
  | _ => 1

/-- Registers that a value of a type takes (R149, R164). -/
def tyRegs (t : Ty) : Nat := tyN t * tyRegs1 (tyComp t)

/-- Integer types (R152). -/
def tyInt : Ty → Bool
  | .i32 | .n32 | .i64 | .n64 | .i16 | .n16 | .i8 | .n8 => true
  | _ => false

/-- Signed integer types (R152). -/
def tySigned : Ty → Bool
  | .i32 | .i64 | .i16 | .i8 => true
  | _ => false

/-- Width in bits of an integer type (R152). -/
def tyBits (t : Ty) : Nat := 8 * tyBytes1 t

/-- The four lone floating-point types of the arithmetic family (R221). -/
def tyLone : Ty → Bool
  | .f64 | .f32 | .f16 | .bf16 => true
  | _ => false

/-- The 16-bit types that have a packed form (R221). -/
def tyPk : Ty → Bool
  | .f16 | .bf16 => true
  | _ => false

/-- Element types of FPACK and FUNPK (R238). -/
def tyElem : Ty → Bool
  | .f16 | .bf16 | .e4m3 | .e5m2 | .e2m1 => true
  | _ => false

/-- Element pairs that one register holds, for FPACK and FUNPK (R238). -/
def tyPairs : Ty → Nat
  | .e2m1 => 4
  | .e4m3 | .e5m2 => 2
  | _ => 1

end Sys2Proof.Machine
end

