-- ==== Sys2Proof/Machine/Legal.lean ====
section
/-! DEFINITION. Machine/Legal.lean: the field, type, modifier and register-value rules that each instruction's description
states (R105, R111). The REASON found is the lowest; 0x0B rules come before 0x0C rules. Register groups and bounds, which
raise 0x02 instead, are in Machine/Operands.lean. -/

namespace Sys2Proof.Machine

/-- The first broken rule: `bs` are the 0x0B rules that must hold, `cs` the 0x0C rules. -/
def rules (bs cs : List Bool) : Option Reason :=
  if bs.all id then if cs.all id then none else some .field else some .modv

/-- A vector register field. -/
def isV (n : Nat) : Bool := n < 256
/-- A scalar register field: bit 7 zero (R103). -/
def isS (n : Nat) : Bool := n < 128
/-- A predicate field (R103). -/
def isP (n : Nat) : Bool := n < 24
/-- A mask field (R103). -/
def isK (n : Nat) : Bool := n < 12

/-- B unused: zero, with X = 0. -/
def bZero (b : Src) : Bool := b == .reg 0
/-- B of a scalar-kind operand (R104, R175): a scalar under either X, or an immediate. -/
def bScal : Src → Bool
  | .reg n => isS n
  | _ => true
/-- B names a register, vector or scalar (R104): no immediate. -/
def bReg : Src → Bool
  | .imm _ => false
  | _ => true
/-- B with X = 1: a scalar or an immediate. -/
def bX1 : Src → Bool
  | .reg _ => false
  | _ => true
/-- B names a scalar register with X = 1 and B[7] = 1. -/
def bScalX : Src → Bool
  | .scal _ => true
  | _ => false
/-- B of an LM form (R104): without an index, B[6:0] is zero. -/
def bIndex : Src → Bool
  | .imm n => n == 0
  | _ => true
/-- B of an LM form whose index is a scalar or absent (R293, R295). -/
def bIndexS : Src → Bool
  | .imm n => n == 0
  | .scal _ => true
  | .reg _ => false

/-- Scalar short forms (R175). -/
def okScalar (p : S3) : Option Reason := rules [] [isS p.d, isS p.a, bScal p.b]
/-- Vector short forms (R104). -/
def okVector (_ : S3) : Option Reason := none
/-- The .f32 short forms have no immediate (R104). -/
def okF32 (p : S3) : Option Reason := rules [] [bReg p.b]
/-- Vector unary forms (R200): X makes A a scalar. -/
def okUnary (p : S2) : Option Reason := rules [] [!p.x || isS p.a]

/-- The rules every long form of chapter 07 shares: RM and AUX zero, a TYPE of the list (R175). -/
def okL (tys : List Ty) (p : L) (cs : List Bool) : Option Reason :=
  rules [p.rm == .rne, tys.contains p.ty, p.aux == 0] cs
/-- Long compares: AUX is a condition 0 to 5 (R195, R199). -/
def okCmp (tys : List Ty) (p : L) (cs : List Bool) : Option Reason :=
  rules [p.rm == .rne, tys.contains p.ty, p.aux ≤ 5] cs
/-- The integer types of 32 and 64 bits. -/
def ty64s : List Ty := [.i32, .n32, .i64, .n64]
/-- Mask instructions (R208): X, RM, TYPE and AUX are zero. -/
def okMask (p : L) (cs : List Bool) : Option Reason := okL [.i32] p cs
/-- A mask named in B with X = 0. -/
def bMask : Src → Bool
  | .reg n => isK n
  | _ => false

/-- REDUCE and SCAN: the types that AUX allows (R213). -/
def okRed (p : L) (cs : List Bool) : Option Reason :=
  rules [p.rm == .rne, if p.aux == 6 then p.ty == .f32 || p.ty == .f64 else ty64s.contains p.ty, p.aux ≤ 6] cs

/-- RM up to mode `m` (R108). -/
def rmLe (m : Nat) (p : L) : Bool := rmCode p.rm ≤ m

/-- C of opcode 0x34, FN 0 to 7 (R222): u under RM = 5; otherwise 0 lone, 1 packed for the 16-bit types. -/
def okC34 (p : L) : Bool := p.rm == .rst || p.c == 0 || (p.c == 1 && tyPk p.ty)

/-- FADD, FSUB, FMUL (R221): RM 0 to 5. -/
def okFAdd (p : L) : Option Reason := rules [tyLone p.ty, p.aux == 0] [bReg p.b, okC34 p]
/-- FFMA (R221, R222): RM 0 to 4 for .f64 and .f32, whose addend is C. -/
def okFFma (p : L) : Option Reason :=
  rules [tyLone p.ty, tyPk p.ty || rmLe 4 p, p.aux == 0] [bReg p.b, !tyPk p.ty || okC34 p]
/-- FMIN, FMAX, FMINNUM, FMAXNUM (R221). -/
def okFMin (p : L) : Option Reason := rules [tyLone p.ty, p.rm == .rne, p.aux == 0] [bReg p.b, okC34 p]
/-- Unary floating point (R227): modes up to `m`, C zero but for a packed selector. -/
def okFUn (tys : List Ty) (m : Nat) (pk : Bool) (p : L) : Option Reason :=
  rules [tys.contains p.ty, rmLe m p, p.aux == 0] [bZero p.b, p.c == 0 || (pk && p.c == 1 && tyPk p.ty)]
/-- The lone types (R221). -/
def lones : List Ty := [.f64, .f32, .f16, .bf16]

/-- The pairs of FCVT (R234). -/
def fcvtPair (dst src : Ty) : Bool :=
  let ok (t : Ty) : Bool := [Ty.f64, .f32, .f16, .bf16, .e4m3, .e5m2, .e2m1].contains t
  (ok dst && ok src && dst != src) || (dst == .e8m0 && src == .f32) || (dst == .f32 && src == .e8m0)
/-- C of a conversion is u under RM = 5 and zero otherwise (R234). -/
def okU (p : L) : Bool := p.rm == .rst || p.c == 0

/-- Error-free transforms (R241). -/
def okEft (p : L) (c0 : Bool) : Option Reason :=
  rules [tyLone p.ty, p.rm == .rne, p.aux == 0] [bReg p.b, !c0 || p.c == 0]
/-- The splits (R247): C names the source type. -/
def okSplit (p : L) : Option Reason :=
  rules [p.ty == .f16 || p.ty == .bf16 || (p.ty == .f32 && p.c != 0x08), p.rm == .rne, p.aux == 0]
    [p.c == 0x08 || p.c == 0x09, bZero p.b]
/-- An expansion register operand B: X = 0 (R217). -/
def bExp : Src → Bool
  | .reg _ => true
  | _ => false
/-- Expansion instructions (R250). -/
def okX (p : L) (cs : List Bool) : Option Reason := rules [tyExp p.ty, p.rm == .rne, p.aux == 0] cs

/-- ORDER of a load (R108). -/
def ordLd (o : AOrder) : Bool := o == .rlx || o == .acq || o == .acqRmt
/-- ORDER of a store (R108). -/
def ordSt (o : AOrder) : Bool := o == .rlx || o == .rel
/-- Scopes up to .clu, of the scratchpads (R291). -/
def scopeClu (s : Scope) : Bool := scopeCode s ≤ 2

/-- The types that an atomic operation allows (R297). -/
def atomTy (fn : AtomFn) (t : Ty) : Bool :=
  match fn with
  | .add => [Ty.i32, .n32, .i64, .n64, .f32, .f64].contains t
  | .min | .max | .and | .or | .xor => ty64s.contains t
  | .exch | .cas => [Ty.i32, .n32, .i64, .n64, .f32, .f64].contains t
  | .inc | .dec => t == .n32 || t == .n64
/-- RMT only with an acquire (R108). -/
def okRmt (p : LT) : Bool := !p.rmt || p.order == .acq || p.order == .acqrel || p.order == .sc
/-- The MOD rules of barriers and barrier objects: TYPE .i32, one SCOPE, no RMT, no counter (R302, R306). -/
def okSync (p : LT) (sc : Bool) (ords : List SOrder) (cs : List Bool) : Option Reason :=
  rules [p.ty == .i32, sc, ords.contains p.order, !p.rmt, p.dep == none] cs
/-- The parity operand of BWAIT and BTEST (R309). -/
def bParity : Src → Bool
  | .imm n => n ≤ 1
  | b => bScal b

/-- An engine instruction's C: a scalar, or 0x80 for none (R313). -/
def okObj (c : Nat) : Bool := isS c || c == 0x80
/-- The MOD rules of matrix and tile words without types: ATYPE, CTYPE and SP zero (R367, R372). -/
def okTile (p : LX) (dep : Bool) (cs : List Bool) : Option Reason :=
  rules [p.aty == .i32, p.cty == .i32, p.sp == 0, dep || p.dep == none] cs
/-- A scalar named in B with X = 0 (R372). -/
def bScal0 : Src → Bool
  | .reg n => isS n
  | _ => false
/-- The combinations of ATYPE, CTYPE and SP that exist (R349). -/
def mmaCombo (aty cty : Ty) : Bool :=
  match aty with
  | .f64 => cty == .f64
  | .f32 => cty == .f32
  | .bf16 => cty == .f32 || cty == .bf16
  | .f16 => cty == .f32 || cty == .f16
  | .e4m3 | .e5m2 => cty == .f32 || cty == .bf16 || cty == .f16
  | .e2m1 => cty == .f32 || cty == .bf16
  | .i8 => cty == .i32
  | _ => false
/-- The types that have sparse forms (R349). -/
def mmaSparse (aty : Ty) : Bool := aty != .f64 && aty != .f32 && aty != .i8
/-- MMA and MMAJ, dense (R350, R363). -/
def okMma (p : LX) (r : Bool) (sparse : Bool) : Option Reason :=
  rules [mmaCombo p.aty p.cty, if sparse then (p.sp == 1 || p.sp == 2) && mmaSparse p.aty else p.sp == 0, !(r && p.aty == .i8)]
    [isS p.d, bExp p.b, sparse || p.c == 0]

/-- Remote accesses (R398). -/
def okRem (p : LM) (ord : Bool) (cs : List Bool) : Option Reason :=
  rules [p.ty != .e2m1, p.scope == .sys, ord] (isS p.a :: bIndex p.b :: cs)
/-- System words: MOD and DEP zero (R437, R458, R463). -/
def okSys (p : LS) (cs : List Bool) : Option Reason := rules [p.order == 0, p.dep == none] cs
/-- The words of opcode 0x7B: every field that is not named breaks with 0x0C, MOD and DEP too (R437). -/
def okPriv (p : LS) (cs : List Bool) : Option Reason := rules [] ([p.order == 0, p.dep == none] ++ cs)
/-- Remote and completion words: an ORDER of the list, a counter only where allowed (R401, R416). -/
def okOrd (p : LS) (ords : List Nat) (dep : Bool) (cs : List Bool) : Option Reason :=
  rules [ords.contains p.order, dep || p.dep == none] cs

/-- The field rules of every instruction. Device steps have no encoding and no rule. -/
def legal (i : Instr) : Option Reason :=
  match i with
  -- control (R177 to R187)
  | .nop | .bra _ | .call _ _ | .exit | .yield | .bkpt _ => none
  | .brx b | .ret b | .callx _ b => rules [] [bReg b]
  | .loop lc _ cnt x => rules [] [lc < 3, !x || isS cnt]
  | .join d | .leave d | .waitk d => rules [] [isK d]
  | .sleep d imm x => rules [] [if x then isS d && imm == 0 else d == 0]
  | .pcrel d _ => rules [] [isS d]
  -- scalar
  | .sadd p | .ssub p | .smul p | .sand p | .sor p | .sxor p | .sshl p | .sshr p | .ssra p => okScalar p
  | .smovi p | .smovh p => rules [] [isS p.d]
  | .smov d a | .snot d a | .spopc d a | .sclz d a => rules [] [isS d, isS a]
  | .saddr p => okL [.i32, .n32, .i64] p [isS p.d, isS p.a, bScal p.b, p.c ≤ 3]
  | .smulh p | .smin p | .smax p => okL [.i32, .n32] p [isS p.d, isS p.a, bScal p.b, p.c == 0]
  | .smad p | .ssel p => okL [.i32] p [isS p.d, isS p.a, bScal p.b, isS p.c]
  | .scmp p => okCmp [.i32, .n32] p [isS p.d, isS p.a, bScal p.b, p.c == 0]
  -- vector integer
  | .iadd p | .isub p | .imul p | .and p | .or p | .xor p | .shl p | .shr p | .sra p => okVector p
  | .icmp _ pd _ _ => rules [] [isP pd]
  | .movi _ | .moviH _ => none
  | .mov p | .not p | .popc p | .clz p | .brev p | .iabs p | .ineg p => okUnary p
  | .vrdi _ a => rules [] [isS a]
  | .vwri d _ => rules [] [isS d]
  | .iaddc p => okL [.n32] p [isP p.c]
  | .imulh p => okL [.i32, .n32] p [p.c == 0]
  | .imad p => okL [.i32] p []
  | .imadw p => okL [.i32, .n32] p []
  | .imin p | .imax p => okL ty64s p [p.c == 0]
  | .isel p => okL [.n32, .n64] p [isP p.c]
  | .rot p => okL [.n32] p [p.c == 0]
  | .bfe p => okL [.i32, .n32] p [1 ≤ p.c && p.c ≤ 32]
  | .bfi p => okL [.n32] p [1 ≤ p.c && p.c ≤ 32]
  | .cvti p => rules [p.rm == .rne, tyInt p.ty, p.aux ≤ 1] [p.c ≤ 7, bZero p.b]
  | .icmpLong p => okCmp ty64s p [isP p.d, p.c == 0]
  -- special registers, predicates, masks
  | .srd p => rules [] [p.a ≤ 0x16, !p.x || (isS p.d && p.a != 0)]
  | .swr p => rules [] [0x12 ≤ p.d && p.d ≤ 0x16, !p.x || isS p.a]
  | .pset d a => rules [] [isP d, a ≤ 1]
  | .pnot d a | .pmov d a => rules [] [isP d, isP a]
  | .ptok d a => rules [] [isK d, isP a]
  | .ktop d a => rules [] [isP d, isK a]
  | .kand p | .kor p | .kxor p => okMask p [isK p.d, isK p.a, bMask p.b, p.c == 0]
  | .knot p => okMask p [isK p.d, isK p.a, bZero p.b, p.c == 0]
  | .kpopc p | .kffs p => okMask p [isS p.d, isK p.a, bZero p.b, p.c == 0]
  | .kmov p => okMask p [p.c ≤ 2, bZero p.b, if p.c == 1 then isS p.d else isK p.d, if p.c == 0 then isS p.a else isK p.a]
  | .kact p => okMask p [isK p.d, p.a == 0, bZero p.b, p.c == 0]
  -- lane operations
  | .shfl p _ => rules [p.rm == .rne, p.ty == .n32 || p.ty == .n64, p.aux ≤ 1] [p.c == 0]
  | .vote p => okL [.i32] p [p.c ≤ 3, isP p.a, p.c == 3 || isP p.d, bZero p.b]
  | .matchL p | .bcast p => okL [.n32, .n64] p [bZero p.b, p.c == 0]
  | .reduce p => okRed p [bZero p.b, p.c == 0]
  | .scan p => okRed p [bZero p.b, p.c ≤ 1]
  | .split p => okL [.i32] p [bX1 p.b, p.d == 0, p.a == 0, p.c == 0]
  -- floating point
  | .faddF32 p | .fsubF32 p | .fmulF32 p | .ffmaF32 p => okF32 p
  | .fadd p | .fsub p | .fmul p => okFAdd p
  | .ffma p => okFFma p
  | .fmin p | .fmax p | .fminnum p | .fmaxnum p => okFMin p
  | .fdiv p => rules [tyLone p.ty, p.aux == 0] [bReg p.b, p.rm == .rst || p.c == 0]
  | .fscale p => rules [tyLone p.ty, rmLe 4 p, p.aux == 0] [p.c == 0]
  | .fabs p | .fneg p => okFUn lones 0 true p
  | .fsqrt p | .frnd p => okFUn lones 4 false p
  | .frcp p | .frsq p | .fex2 p | .flg2 p | .fsin p | .fcos p => okFUn [.f32, .f16, .bf16] 0 false p
  | .fclass p => okFUn [.f64, .f32, .f16, .bf16, .e4m3, .e5m2, .e2m1, .e8m0] 0 false p
  | .fcmp p => rules [tyLone p.ty, p.rm == .rne, p.aux ≤ 13] [isP p.d, p.c == 0, bReg p.b]
  | .fcvt p src => rules [fcvtPair p.ty src, p.aux ≤ 1] [bZero p.b, okU p]
  | .fcvti p src => rules [tyInt p.ty, tyLone src, rmLe 4 p, p.aux ≤ 1] [bZero p.b, p.c == 0]
  | .icvtf p src => rules [tyLone p.ty, tyInt src, p.aux ≤ 1] [bZero p.b, okU p]
  | .fpack p src => rules [tyElem p.ty, [Ty.f32, .f16, .bf16].contains src, rmLe 4 p, p.aux ≤ 1] [p.c < tyPairs p.ty]
  | .funpk p src => rules [[Ty.f32, .f16, .bf16].contains p.ty, tyElem src, rmLe 4 p, p.aux ≤ 1] [p.c < tyPairs src]
  | .fstatRd d => rules [] [isS d]
  | .fstatWr a x => rules [] [!x || isS a]
  | .fstatClr a => rules [] [a < 64]
  -- exact transforms and expansions
  | .ftwosum p | .ffastsum p | .ftwoprod p => okEft p true
  | .ffma3 p => okEft p false
  | .fsplit p | .fsplit3 p => okSplit p
  | .xadd p | .xsub p | .xmul p => okX p [bExp p.b, p.c == 0]
  | .xren p | .xneg p | .xabs p => okX p [bZero p.b, p.c == 0]
  | .xcomp p => rules [tyExp p.ty, p.rm == .rne || (p.c == 1 && rmLe 4 p), p.aux == 0] [1 ≤ p.c && p.c < tyN p.ty, bZero p.b]
  | .xcmp p => rules [tyExp p.ty, p.rm == .rne, p.aux ≤ 13] [isP p.d, bExp p.b, p.c == 0]
  | .xcvt p src =>
    rules [tyExp p.ty || tyLone p.ty, tyExp src || tyLone src, tyExp p.ty || tyExp src, tyComp p.ty != tyComp src,
        if tyExp p.ty then p.rm == .rne && p.aux == 0 else p.aux ≤ 1]
      [bZero p.b, okU p]
  | .rnd p => okL [.n32] p [bReg p.b, p.c == 0]
  | .rndg p => okL [.n32] p [isS p.a, bScalX p.b, p.c == 0]
  -- loads and stores
  | .ld p => rules [p.ty != .e2m1, ordLd p.order] [isS p.a, bIndex p.b]
  | .st p => rules [p.ty != .e2m1, ordSt p.order] [isS p.a, bIndex p.b]
  | .lds p vb | .ldsc p vb =>
    rules [p.ty != .e2m1, p.order == .rlx || p.order == .acq, scopeClu p.scope] [vb || isS p.a, bIndex p.b]
  | .sts p vb | .stsc p vb => rules [p.ty != .e2m1, ordSt p.order, scopeClu p.scope] [vb || isS p.a, bIndex p.b]
  | .ldx p => rules [tyExp p.ty, ordLd p.order] [isS p.a, p.off == 0, bIndex p.b]
  | .stx p => rules [tyExp p.ty, ordSt p.order] [isS p.a, p.off == 0, bIndex p.b]
  | .ldc p =>
    rules [p.ty != .e2m1 && (p.a < 128 || !tyExp p.ty), p.order == .rlx, p.scope == .grp]
      [p.a % 128 ≤ 1, bIndex p.b, p.a < 128 || (bIndexS p.b && isS p.d)]
  | .pld p => rules [p.ty == .n32, ordLd p.order] [isP p.d, isS p.a, bIndexS p.b]
  | .pst p => rules [p.ty == .n32, ordSt p.order] [isP p.d, isS p.a, bIndexS p.b]
  | .pref p => rules [p.ty == .i32, p.order == .rlx, p.scope == .grp, p.dep == none] [p.d ≤ 1, isS p.a, bIndex p.b]
  -- atomics and synchronisation
  | .atom p fn => rules [atomTy fn p.ty, okRmt p] [isS p.a]
  | .atoms p fn => rules [atomTy fn p.ty, scopeClu p.scope, !p.rmt] []
  | .atomc p => rules [p.ty == .f32 || p.ty == .f64, okRmt p] [isS p.a]
  | .red p fn => rules [atomTy fn p.ty, p.order == .rlx || p.order == .rel, !p.rmt] [isS p.a, p.d == 0]
  | .fence p =>
    rules [p.ty == .i32, p.order != .rlx, okRmt p, p.dep == none] [p.d == 0, p.a == 0, bZero p.b, p.c == 0]
  | .bar p => okSync p (p.scope == .team) [.rlx, .acqrel]
      [p.d == 0, p.a < 16, match p.b with | .imm n => n ≤ 64 | b => bScal b, p.c == 0]
  | .barc p => okSync p (p.scope == .clu) [.rlx, .acqrel] [p.d == 0, p.a == 0, p.b == .imm 0, p.c == 0]
  | .gsync p => okSync p (p.scope == .dev || p.scope == .sys) [.rlx, .acqrel] [p.d == 0, p.a == 0, p.b == .imm 0, p.c == 0]
  | .binit p | .bexpect p => okSync p (p.scope == .team) [.rlx] [p.d == 0, isS p.a, bScal p.b, p.c == 0]
  | .barrive p | .bdrop p => okSync p (p.scope == .team) [.rlx, .rel] [isS p.d, isS p.a, bScal p.b, p.c == 0]
  | .bwait p => okSync p (p.scope == .team) [.rlx, .acq] [p.d == 0, isS p.a, bParity p.b, p.c == 0]
  | .btest p => okSync p (p.scope == .team) [.rlx, .acq] [isP p.d, isS p.a, bParity p.b, p.c == 0]
  | .binv p => okSync p (p.scope == .team) [.rlx] [p.d == 0, isS p.a, bZero p.b, p.c == 0]
  | .stscb p => rules [p.ty == .n32 || p.ty == .n64, p.scope == .clu, p.order == .rlx, !p.rmt] [bScalX p.b, p.c == 0]
  -- engines
  | .acopy p => rules [p.w == 0] [p.d == 0, isS p.a, bZero p.b, okObj p.c]
  | .agath p | .ascat p => rules [] [isS p.d, isS p.a, okObj p.c]
  | .acopym p => rules [p.w == 0] [p.d == 0, isS p.a, bScalX p.b, okObj p.c]
  | .acancel p => rules [p.sk == 0, p.dk == 0, p.w == 0] [p.d == 0, p.a == 0, bZero p.b, okObj p.c]
  -- matrix
  | .mma p _ r | .mmaj p _ r => okMma p r false
  | .mmas p _ r | .mmajs p _ r => okMma p r true
  | .talloc p => okTile p false [isP p.d, isS p.a, bZero p.b, p.c == 0]
  | .tfree p => okTile p false [p.d == 0, isS p.a, bZero p.b, p.c == 0]
  | .tzero p => okTile p true [p.d == 0, isS p.a, bZero p.b, p.c == 0]
  | .tstat p => okTile p false [isS p.d, p.a == 0, match p.b with | .imm n => n ≤ 1 | _ => false, p.c == 0]
  | .tld p | .tst p => okTile p true [p.d == 0, isS p.a, bScal0 p.b, isS p.c]
  | .tread p | .twrite p => okTile p true [isS p.a, bZero p.b, p.c == 0]
  | .tscale p => rules [p.aty == .i32, tyLone p.cty, p.sp == 0] [p.d == 0, isS p.a, bScal p.b, p.c == 0]
  -- remote
  | .rld p => okRem p (p.order == .rlx || p.order == .acq) []
  | .rst p => okRem p (ordSt p.order) []
  | .rstCnt p => okRem p (ordSt p.order) [p.off < 256]
  | .ratom p fn => rules [atomTy fn p.ty && tyInt p.ty, p.scope == .sys, !p.rmt] [isS p.a]
  | .rfence p => okOrd p [2, 3] true [p.d == 0, p.a == 0, bZero p.b, p.c == 0]
  | .cwait p => okOrd p [0, 1] false [p.d == 0, isS p.a, bX1 p.b, p.c == 0]
  | .cnote p => okOrd p [0, 2] false [p.d == 0, isS p.a, bX1 p.b, isS p.c]
  | .coll p => okOrd p [0] true [isS p.d, isS p.a, bZero p.b, okObj p.c]
  | .bknote p => okOrd p [0, 2] false [p.d == 0, isS p.a, bScalX p.b, isS p.c]
  -- layers
  | .lreq p | .lstat p => okSys p [isS p.d, p.a == 0, bX1 p.b, p.c == 0]
  | .lwait p | .lrel p => okSys p [p.d == 0, p.a == 0, bX1 p.b, p.c == 0]
  -- system
  | .trap _ | .tret => none
  | .hcall p => rules [] [isS p.d]
  | .srdp p => okPriv p [isS p.d, p.a ≤ 6, bZero p.b, p.c == 0]
  | .swrp p => okPriv p [p.d == 0, isS p.a, bZero p.b, p.c == 0]
  | .ctxyield p => okPriv p [p.d == 0, p.a == 0, bZero p.b, p.c == 0]
  | .illrd p | .frmrd p => okPriv p [isS p.d, p.a == 0, bZero p.b, p.c == 0]
  | .weirset p => okSys p [p.d == 0, isS p.a, bX1 p.b, p.c == 0]
  | .weirclr p => okSys p [p.d == 0, p.a == 0, bX1 p.b, p.c == 0]
  | .weirrd p => okSys p [isS p.d, p.a == 0, bX1 p.b, p.c ≤ 5 || (p.c == 8 && p.b == .imm 0)]
  | .hrd p => okSys p [isS p.d, isS p.a, bZero p.b, p.c == 0]
  | .hwr p => okSys p [p.d == 0, isS p.a, bScalX p.b, p.c == 0]
  | .hprd p | .hstep p => okSys p [isS p.d, isS p.a, bZero p.b, p.c == 0]
  | .hfront p | .hscb p => okSys p [isS p.d, isS p.a, bScal p.b, p.c == 0]
  | .hresume p => okSys p [p.d == 0, isS p.a, bScal p.b, p.c == 0]
  | .trcmark p => okSys p [p.d == 0, p.a == 0, bX1 p.b, p.c < 0xE0]
  | .cntrd p => okSys p [isS p.d, p.a == 0, bX1 p.b, p.c == 0]
  | .registerWrite | .partcfgWrite | .ctxLoad | .ctxUnload | .ctxcmdDone | .doorbellWrite | .chainEnable
  | .chainDisable | .chainResume | .chainAbort | .chstatLinkerrClear | .launchTake | .streamOpen
  | .modelNextKernel | .launchComplete | .clusterAdmit | .admissionStarvationLimit | .teamReadmit | .teamEvict
  | .teamRetire | .vgridQuantumExpiry | .vgridTurnEnd | .timeSliceExpiry | .turnPass | .xchgOutIn | .xchgSuspend
  | .xchgResume | .exchangeDone | .basincfgWrite | .sluicepoolWrite | .rmtinvPeer | .rmtinvWindow | .rmtinvComm
  | .rmtinvDone | .routeReload | .routeReloadDone | .inspcfgWrite | .plumeStart | .plumeStop | .plumeDump
  | .plumeDumpDone | .plumeDiscard | .plumeWindowFull | .monClear | .softCounterRead | .errlogRead | .mbInfo
  | .mbErase | .mbWrite | .mbVerify | .mbActivate | .mbRaisemin | .mbReset | .mbUnknownOp | .mbCommandDone
  | .spdmGetVersion | .spdmGetCapabilities | .spdmNegotiateAlgorithms | .spdmGetDigests | .spdmGetCertificate
  | .spdmChallenge | .spdmGetMeasurements | .deviceReset | .firmwareVerified | .thermalCritical | .powerInterval
  | .eccCorrected | .eccUncorrectable | .dyxihanScrub | .rillFlitFail | .linkFailure | .collEndNoticeReceive
  | .atsResponse | .atsTimeout | .priResponse | .priTimeout | .atsInvalidation | .atsInvalidationDone
  | .faultStallBlocking | .faultReplay | .bar4Access | .clauseFetch | .sliceCycle | .groupPromotion
  | .entryOverdue | .opComplete | .laneUnpark | .sleepWake | .cwaitPoll | .trapEntry | .watchdogExpiry
  | .haltComplete | .matrixOpBegin | .matrixOpDone | .engineBeat | .engineOpDone | .engineOpError | .sluiceBeat
  | .layerTransferStart | .layerTransferDone | .layerEvictDone | .remoteRequestArrive | .remoteAnswer
  | .remoteTimeout | .collStart | .collMessage | .collComplete | .hcallWriteDone => none

end Sys2Proof.Machine
end

