-- ==== Sys2Proof/WellFormed.lean ====
section
/-! DEFINITION. WellFormed.lean: when an instruction term is one that the encoding can hold and the descriptions allow. -/

namespace Sys2Proof

/-- B fits its fields (R101, R104). -/
def Src.fits : Src → Bool
  | .reg n => n < 256
  | .scal n => n < 128
  | .imm n => n < 128

/-- A counter fits DEP (R102). -/
def depFits : Option Nat → Bool
  | none => true
  | some n => n < 8

/-- The fields of format S3 fit (R101). -/
def S3.fits (p : S3) : Bool := p.d < 256 && p.a < 256 && p.b.fits
/-- The fields of format S2F fit (R101). -/
def S2.fits (p : S2) : Bool := p.d < 256 && p.a < 256
/-- The fields of format SI fit (R101). -/
def SI.fits (p : SI) : Bool := p.d < 256 && p.imm < 65536
/-- The fields of the arithmetic long form fit (R102). -/
def L.fits (p : L) : Bool := p.d < 256 && p.a < 256 && p.b.fits && p.c < 256 && p.aux < 16
/-- The fields of format LM fit (R102). -/
def LM.fits (p : LM) : Bool := p.d < 256 && p.a < 256 && p.b.fits && p.off < 65536 && depFits p.dep
/-- The fields of the atomic long form fit (R106). -/
def LT.fits (p : LT) : Bool := p.d < 256 && p.a < 256 && p.b.fits && p.c < 256 && depFits p.dep
/-- The fields of the matrix long form fit (R106). -/
def LX.fits (p : LX) : Bool := p.d < 256 && p.a < 256 && p.b.fits && p.c < 256 && p.sp < 3 && depFits p.dep
/-- The fields of the engine long form fit (R313). -/
def LE.fits (p : LE) : Bool :=
  p.d < 256 && p.a < 256 && p.b.fits && p.c < 256 && p.sk < 3 && p.dk < 3 && p.w < 3 && depFits p.dep
/-- The fields of the system long form fit (R401, R437). -/
def LS.fits (p : LS) : Bool := p.d < 256 && p.a < 256 && p.b.fits && p.c < 256 && p.order < 4 && depFits p.dep

/-- Every field of the instruction fits the bits that hold it (R101, R102); RED has no EXCH and no CAS
(R110). A device step has no encoding. -/
def Instr.fits : Instr → Bool
  | .bra off => off < 2 ^ 25
  | .brx b | .ret b => b.fits
  | .call d off | .pcrel d off => d < 256 && off < 2 ^ 17
  | .callx d b => d < 256 && b.fits
  | .loop lc len cnt _ => lc < 4 && len < 256 && cnt < 2 ^ 14
  | .join d | .leave d | .waitk d | .fstatRd d => d < 256
  | .sleep d imm _ => d < 256 && imm < 65536
  | .bkpt imm | .trap imm => imm < 65536
  | .sadd p | .ssub p | .smul p | .sand p | .sor p | .sxor p | .sshl p | .sshr p | .ssra p
  | .iadd p | .isub p | .imul p | .and p | .or p | .xor p | .shl p | .shr p | .sra p
  | .faddF32 p | .fsubF32 p | .fmulF32 p | .ffmaF32 p => p.fits
  | .smovi p | .smovh p | .movi p | .moviH p | .hcall p => p.fits
  | .smov d a | .snot d a | .spopc d a | .sclz d a | .vrdi d a | .vwri d a
  | .pset d a | .pnot d a | .pmov d a | .ptok d a | .ktop d a => d < 256 && a < 256
  | .icmp _ pd a b => pd < 32 && a < 256 && b.fits
  | .mov p | .not p | .popc p | .clz p | .brev p | .iabs p | .ineg p | .srd p | .swr p => p.fits
  | .fstatWr a _ | .fstatClr a => a < 256
  | .saddr p | .smulh p | .smad p | .smin p | .smax p | .scmp p | .ssel p
  | .iaddc p | .imulh p | .imad p | .imadw p | .imin p | .imax p | .isel p | .rot p | .bfe p | .bfi p | .cvti p
  | .icmpLong p | .kand p | .kor p | .kxor p | .knot p | .kpopc p | .kffs p | .kmov p | .kact p
  | .shfl p _ | .vote p | .matchL p | .reduce p | .scan p | .bcast p | .split p
  | .fadd p | .fsub p | .fmul p | .ffma p | .fmin p | .fmax p | .fminnum p | .fmaxnum p | .fdiv p | .fscale p
  | .fabs p | .fneg p | .fsqrt p | .frcp p | .frsq p | .fex2 p | .flg2 p | .fsin p | .fcos p | .frnd p | .fclass p
  | .fcmp p | .fcvt p _ | .fcvti p _ | .icvtf p _ | .fpack p _ | .funpk p _
  | .ftwosum p | .ffastsum p | .ftwoprod p | .ffma3 p | .fsplit p | .fsplit3 p
  | .xadd p | .xsub p | .xmul p | .xren p | .xcomp p | .xneg p | .xabs p | .xcmp p | .xcvt p _ | .rnd p | .rndg p =>
    p.fits
  | .ld p | .st p | .lds p _ | .sts p _ | .ldsc p _ | .stsc p _ | .ldx p | .stx p | .ldc p | .pld p | .pst p | .pref p
  | .rld p | .rst p | .rstCnt p => p.fits
  | .red p fn => p.fits && fn != .exch && fn != .cas
  | .atom p _ | .atoms p _ | .atomc p | .fence p | .bar p | .barc p | .gsync p | .binit p | .barrive p
  | .bexpect p | .bwait p | .btest p | .bdrop p | .binv p | .stscb p | .ratom p _ => p.fits
  | .acopy p | .agath p | .ascat p | .acopym p | .acancel p => p.fits
  | .mma p sh _ | .mmaj p sh _ | .mmas p sh _ | .mmajs p sh _ => p.fits && sh < 4
  | .talloc p | .tfree p | .tzero p | .tstat p | .tld p | .tst p | .tread p | .twrite p | .tscale p => p.fits
  | .rfence p | .cwait p | .cnote p | .coll p | .bknote p | .lreq p | .lwait p | .lrel p | .lstat p
  | .srdp p | .swrp p | .ctxyield p | .illrd p | .frmrd p | .weirset p | .weirclr p | .weirrd p
  | .hrd p | .hwr p | .hprd p | .hfront p | .hscb p | .hstep p | .hresume p | .trcmark p | .cntrd p => p.fits
  | .nop | .exit | .yield | .tret => true
  | .registerWrite | .partcfgWrite | .ctxLoad | .ctxUnload | .ctxcmdDone | .doorbellWrite | .chainEnable
  | .chainDisable | .chainResume | .chainAbort | .chstatLinkerrClear | .launchTake | .streamOpen
  | .modelNextKernel | .launchComplete | .clusterAdmit | .admissionStarvationLimit | .teamReadmit | .teamEvict
  | .teamRetire | .vgridQuantumExpiry | .vgridTurnEnd | .timeSliceExpiry | .turnPass | .xchgOutIn | .xchgSuspend
  | .xchgResume | .exchangeDone | .basincfgWrite | .sluicepoolWrite | .rmtinvPeer | .rmtinvWindow | .rmtinvComm
  | .rmtinvDone | .routeReload | .routeReloadDone | .inspcfgWrite | .plumeStart | .plumeStop | .plumeDump
  | .plumeDumpDone | .plumeDiscard | .plumeWindowFull | .monClear | .softCounterRead | .errlogRead | .mbInfo
  | .mbErase | .mbWrite | .mbVerify | .mbActivate | .mbRaisemin | .mbReset | .mbUnknownOp | .mbCommandDone
  | .spdmGetVersion | .spdmGetCapabilities | .spdmNegotiateAlgorithms | .spdmGetDigests | .spdmGetCertificate
  | .spdmChallenge | .spdmGetMeasurements | .deviceReset | .firmwareVerified | .thermalCritical | .powerInterval
  | .eccCorrected | .eccUncorrectable | .dyxihanScrub | .rillFlitFail | .linkFailure | .collEndNoticeReceive
  | .atsResponse | .atsTimeout | .priResponse | .priTimeout | .atsInvalidation | .atsInvalidationDone
  | .faultStallBlocking | .faultReplay | .bar4Access | .clauseFetch | .sliceCycle | .groupPromotion
  | .entryOverdue | .opComplete | .laneUnpark | .sleepWake | .cwaitPoll | .trapEntry | .watchdogExpiry
  | .haltComplete | .matrixOpBegin | .matrixOpDone | .engineBeat | .engineOpDone | .engineOpError | .sluiceBeat
  | .layerTransferStart | .layerTransferDone | .layerEvictDone | .remoteRequestArrive | .remoteAnswer
  | .remoteTimeout | .collStart | .collMessage | .collComplete | .hcallWriteDone => true

/-- The instruction of the ISA, or step of the device, is well formed: its fields fit and its description allows them. -/
def Instr.wf (i : Instr) : Bool := i.fits && Machine.legal i == none

end Sys2Proof
end

