-- ==== Sys2Proof/Decode.lean ====
section
/-! DEFINITION. Decode.lean: the clause header, the instruction decoder and the encoder (R93 to R111). The decoder is total;
what it refuses, it refuses with the lowest REASON of R111. -/

namespace Sys2Proof

open Machine

/-! ### Fields of a word (R101, R102) -/

/-- `n` bits of `w` from bit `k`. -/
def bitsOf (w k n : Nat) : Nat := w / 2 ^ k % 2 ^ n

/-- The bit of a Bool. -/
def bit (b : Bool) : Nat := if b then 1 else 0

/-- The major opcode. -/
def opOf (w : Nat) : Nat := bitsOf w 25 7
/-- Field D. -/
def dOf (w : Nat) : Nat := bitsOf w 17 8
/-- Field A. -/
def aOf (w : Nat) : Nat := bitsOf w 9 8
/-- Field B. -/
def bOf (w : Nat) : Nat := bitsOf w 1 8
/-- Bit X. -/
def xOf (w : Nat) : Bool := bitsOf w 0 1 == 1
/-- IMM16 of format SI. -/
def immOf (w : Nat) : Nat := bitsOf w 1 16

/-- B under X (R104). -/
def srcOf (b : Nat) (x : Bool) : Src := if x then if b < 128 then .imm b else .scal (b - 128) else .reg b

/-- Field B of an operand. -/
def srcB : Src → Nat
  | .reg n => n
  | .scal n => n + 128
  | .imm n => n
/-- Bit X of an operand. -/
def srcX : Src → Nat
  | .reg _ => 0
  | _ => 1

/-- DEP (R102): 0 for none, bit 3 set for a counter. Other values name nothing. -/
def depOf (n : Nat) : Option (Option Nat) :=
  if n = 0 then some none else if n < 8 then none else some (some (n - 8))
/-- DEP as its bits. -/
def depCode : Option Nat → Nat
  | none => 0
  | some n => n + 8

/-! ### The clause header (R93, R94) -/

/-- A header word's fields. -/
def headerOf (w : Nat) : Header :=
  { wait := bitsOf w 18 8, fuse := bitsOf w 17 1 == 1, pri := bitsOf w 13 4, gneg := bitsOf w 12 1 == 1,
    guard := bitsOf w 7 5, eclass := bitsOf w 4 3, count := bitsOf w 0 4 }

/-- The rules of R94, in the order of their REASON codes. -/
def headerReason (w : Nat) : Option Reason :=
  let h := headerOf w
  if bitsOf w 28 4 != 0xB then some .sig
  else if bitsOf w 26 2 != 0 then some .hdrBits
  else if h.count == 0 then some .count0
  else if (24 ≤ h.guard && h.guard ≤ 30) || (h.gneg && h.guard == 31) then some .guard
  else if 6 ≤ h.eclass then some .eclass
  else if h.fuse && h.eclass != 0 then some .fuse
  else none

/-- A header word from its fields. -/
def encHeader (h : Header) : Nat :=
  0xB * 2 ^ 28 + h.wait * 2 ^ 18 + bit h.fuse * 2 ^ 17 + h.pri * 2 ^ 13 + bit h.gneg * 2 ^ 12 + h.guard * 2 ^ 7
    + h.eclass * 2 ^ 4 + h.count

/-! ### Opcodes (R98, R109) -/

/-- The ECLASS of a major opcode's range (R98). -/
def classOf (op : Nat) : Nat :=
  if op < 0x10 then 4 else if op < 0x50 then 0 else if op < 0x68 then 1 else if op < 0x70 then 2
  else if op < 0x78 then 3 else 5

/-- The major opcodes that R109 marks res. -/
def opReserved (op : Nat) : Bool :=
  [0x0F, 0x1E, 0x1F, 0x2D, 0x2E, 0x2F, 0x3A, 0x3B, 0x3C, 0x3D, 0x3E, 0x3F, 0x4E, 0x4F, 0x58, 0x59, 0x5A, 0x5B, 0x5C,
    0x5D, 0x5E, 0x5F, 0x6F, 0x77, 0x7F].contains op

/-- The major opcodes of the two-word formats L and LM (R109). -/
def opLong (op : Nat) : Bool :=
  [0x1B, 0x1D, 0x2C, 0x34, 0x35, 0x36, 0x37, 0x38, 0x40, 0x41, 0x42, 0x43, 0x44, 0x45, 0x46, 0x47, 0x4A, 0x4B, 0x4D,
    0x50, 0x51, 0x52, 0x53, 0x54, 0x55, 0x56, 0x57, 0x60, 0x61, 0x62, 0x63, 0x64, 0x65, 0x66, 0x67, 0x68, 0x69, 0x6A,
    0x6B, 0x6C, 0x6D, 0x6E, 0x70, 0x71, 0x72, 0x73, 0x74, 0x75, 0x76, 0x7B, 0x7C, 0x7D, 0x7E].contains op

/-- The transfers of control, which end their clause (R99). -/
def Instr.transfers : Instr → Bool
  | .bra _ | .brx _ | .call _ _ | .callx _ _ | .ret _ | .loop _ _ _ _ | .exit => true
  | _ => false

/-! ### Formats: a word or two read as fields, and fields written as words -/

/-- A format S3 word. -/
def encW (op d a : Nat) (b : Src) : Nat := op * 2 ^ 25 + d * 2 ^ 17 + a * 2 ^ 9 + srcB b * 2 + srcX b
/-- A format S2F word: FN stands in B. -/
def encF (op fn d a : Nat) (x : Bool) : Nat := op * 2 ^ 25 + d * 2 ^ 17 + a * 2 ^ 9 + fn * 2 + bit x
/-- A format SI word. -/
def encI (op d imm : Nat) (x : Bool) : Nat := op * 2 ^ 25 + d * 2 ^ 17 + imm * 2 + bit x
/-- An L extension word: C, FN, MOD[15:4] and DEP. -/
def encE (c fn m dep : Nat) : Nat := c * 2 ^ 24 + fn * 2 ^ 16 + m * 2 ^ 4 + dep

/-- The words of the arithmetic form (R106). -/
def encL (op fn : Nat) (p : L) : List Nat :=
  [encW op p.d p.a p.b, encE p.c fn (rmCode p.rm * 2 ^ 9 + tyCode p.ty * 2 ^ 4 + p.aux) 0]
/-- The words of the access form (R106). -/
def encLM (op sub : Nat) (p : LM) : List Nat :=
  [encW op p.d p.a p.b,
    p.off * 2 ^ 16 + (sub * 2 ^ 10 + tyCode p.ty * 2 ^ 5 + scopeCode p.scope * 2 ^ 2 + aorderCode p.order) * 2 ^ 4
      + depCode p.dep]
/-- The words of the atomic form (R106). -/
def encLT (op fn : Nat) (p : LT) : List Nat :=
  [encW op p.d p.a p.b,
    encE p.c fn (tyCode p.ty * 2 ^ 7 + scopeCode p.scope * 2 ^ 4 + sorderCode p.order * 2 + bit p.rmt) (depCode p.dep)]
/-- The words of the matrix form (R106). -/
def encLX (op fn : Nat) (p : LX) : List Nat :=
  [encW op p.d p.a p.b, encE p.c fn (tyCode p.aty * 2 ^ 7 + tyCode p.cty * 2 ^ 2 + p.sp) (depCode p.dep)]
/-- The words of the engine form (R313). -/
def encLE (fn : Nat) (p : LE) : List Nat :=
  [encW 0x70 p.d p.a p.b, encE p.c fn (p.sk * 2 ^ 10 + p.dk * 2 ^ 8 + p.w * 2 ^ 6) (depCode p.dep)]
/-- The words of the system form (R401, R437). -/
def encLS (op fn : Nat) (p : LS) : List Nat := [encW op p.d p.a p.b, encE p.c fn p.order (depCode p.dep)]

/-- The arithmetic form's fields; none where RM, TYPE or DEP is reserved (R106, R108, R175, R217). -/
def parseL (w e : Nat) : Option L :=
  match rmOf (bitsOf e 13 3), tyOf (bitsOf e 8 5), bitsOf e 0 4 with
  | some rm, some ty, 0 =>
    some { d := dOf w, a := aOf w, b := srcOf (bOf w) (xOf w), c := bitsOf e 24 8, rm := rm, ty := ty, aux := bitsOf e 4 4 }
  | _, _, _ => none
/-- The access form's fields; none where TYPE, SCOPE or DEP is reserved. -/
def parseLM (w e : Nat) : Option LM :=
  match tyOf (bitsOf e 9 5), scopeOf (bitsOf e 6 3), aorderOf (bitsOf e 4 2), depOf (bitsOf e 0 4) with
  | some ty, some sc, some o, some dep =>
    some { d := dOf w, a := aOf w, b := srcOf (bOf w) (xOf w), off := bitsOf e 16 16, ty := ty, scope := sc, order := o,
           dep := dep }
  | _, _, _, _ => none
/-- The atomic form's fields; none where TYPE, SCOPE, ORDER or DEP is reserved. -/
def parseLT (w e : Nat) : Option LT :=
  match tyOf (bitsOf e 11 5), scopeOf (bitsOf e 8 3), sorderOf (bitsOf e 5 3), depOf (bitsOf e 0 4) with
  | some ty, some sc, some o, some dep =>
    some { d := dOf w, a := aOf w, b := srcOf (bOf w) (xOf w), c := bitsOf e 24 8, ty := ty, scope := sc, order := o,
           rmt := bitsOf e 4 1 == 1, dep := dep }
  | _, _, _, _ => none
/-- The matrix form's fields; none where ATYPE, CTYPE, SP or DEP is reserved. -/
def parseLX (w e : Nat) : Option LX :=
  match tyOf (bitsOf e 11 5), tyOf (bitsOf e 6 5), depOf (bitsOf e 0 4) with
  | some at_, some ct, some dep =>
    if bitsOf e 4 2 < 3 then
      some { d := dOf w, a := aOf w, b := srcOf (bOf w) (xOf w), c := bitsOf e 24 8, aty := at_, cty := ct,
             sp := bitsOf e 4 2, dep := dep }
    else none
  | _, _, _ => none
/-- The engine form's fields; none where SK, DK, W, MOD[9:4] or DEP is reserved (R313). -/
def parseLE (w e : Nat) : Option LE :=
  match depOf (bitsOf e 0 4) with
  | some dep =>
    if bitsOf e 14 2 < 3 && bitsOf e 12 2 < 3 && bitsOf e 10 2 < 3 && bitsOf e 4 6 == 0 then
      some { d := dOf w, a := aOf w, b := srcOf (bOf w) (xOf w), c := bitsOf e 24 8, sk := bitsOf e 14 2,
             dk := bitsOf e 12 2, w := bitsOf e 10 2, dep := dep }
    else none
  | none => none
/-- The system form's fields; none where MOD[15:6] or DEP is reserved (R401, R437). -/
def parseLS (w e : Nat) : Option LS :=
  match depOf (bitsOf e 0 4) with
  | some dep =>
    if bitsOf e 6 10 == 0 then
      some { d := dOf w, a := aOf w, b := srcOf (bOf w) (xOf w), c := bitsOf e 24 8, order := bitsOf e 4 2, dep := dep }
    else none
  | none => none

/-- What a long opcode's selector names: the format and the constructor (R110). -/
inductive LForm where
  | l (mk : L → Instr)
  | lsrc (mk : L → Ty → Instr)
  | lm (mk : LM → Instr)
  | lt (mk : LT → Instr)
  | lx (mk : LX → Instr)
  | le (mk : LE → Instr)
  | ls (mk : LS → Instr)

/-- The matrix selector (R350): shape code in FN[3:0], .r in FN[4]. -/
def mmaForm (fn : Nat) (mk : LX → Nat → Bool → Instr) : Option LForm :=
  if fn < 4 then some (.lx fun p => mk p fn false) else if 16 ≤ fn && fn < 20 then some (.lx fun p => mk p (fn - 16) true) else none

/-- The atomic selector (R110). -/
def atomForm (fn : Nat) (mk : LT → AtomFn → Instr) : Option LForm := (atomOf fn).map fun f => .lt fun p => mk p f

/-- The sub-map of R110: `fn` is FN (FN[2:0] where FN[7:3] is a type code), `sub` is SUB. -/
def longForm (op fn sub : Nat) : Option LForm :=
  match op with
  | 0x1B => match fn with | 0 => some (.l .saddr) | _ => none
  | 0x1D =>
    match fn with
    | 0 => some (.l .smulh) | 1 => some (.l .smad) | 2 => some (.l .smin) | 3 => some (.l .smax)
    | 4 => some (.l .scmp) | 5 => some (.l .ssel) | _ => none
  | 0x2C =>
    match fn with
    | 0 => some (.l .iaddc) | 1 => some (.l .imulh) | 2 => some (.l .imad) | 3 => some (.l .imadw)
    | 4 => some (.l .imin) | 5 => some (.l .imax) | 6 => some (.l .isel) | 7 => some (.l .rot)
    | 8 => some (.l .bfe) | 9 => some (.l .bfi) | 10 => some (.l .cvti) | 11 => some (.l .icmpLong) | _ => none
  | 0x34 =>
    match fn with
    | 0 => some (.l .fadd) | 1 => some (.l .fsub) | 2 => some (.l .fmul) | 3 => some (.l .ffma)
    | 4 => some (.l .fmin) | 5 => some (.l .fmax) | 6 => some (.l .fminnum) | 7 => some (.l .fmaxnum)
    | 8 => some (.l .fdiv) | 9 => some (.l .fscale) | _ => none
  | 0x35 =>
    match fn with
    | 0 => some (.l .fabs) | 1 => some (.l .fneg) | 2 => some (.l .fsqrt) | 3 => some (.l .frcp)
    | 4 => some (.l .frsq) | 5 => some (.l .fex2) | 6 => some (.l .flg2) | 7 => some (.l .fsin)
    | 8 => some (.l .fcos) | 9 => some (.l .frnd) | 10 => some (.l .fclass) | _ => none
  | 0x36 => match fn with | 0 => some (.l .fcmp) | _ => none
  | 0x37 => match fn % 8 with | 0 => some (.lsrc .fcvt) | 1 => some (.lsrc .fcvti) | 2 => some (.lsrc .icvtf) | _ => none
  | 0x38 => match fn % 8 with | 0 => some (.lsrc .fpack) | 1 => some (.lsrc .funpk) | _ => none
  | 0x40 => match fn with | 0 => some (.l .ftwosum) | _ => none
  | 0x41 => match fn with | 0 => some (.l .ffastsum) | _ => none
  | 0x42 => match fn with | 0 => some (.l .ftwoprod) | _ => none
  | 0x43 => match fn with | 0 => some (.l .ffma3) | _ => none
  | 0x44 => match fn with | 0 => some (.l .fsplit) | 1 => some (.l .fsplit3) | _ => none
  | 0x45 =>
    match fn with
    | 0 => some (.l .xadd) | 1 => some (.l .xsub) | 2 => some (.l .xmul) | 3 => some (.l .xren)
    | 4 => some (.l .xcomp) | 5 => some (.l .xneg) | 6 => some (.l .xabs) | _ => none
  | 0x46 => if fn = 0 then some (.l .xcmp) else if fn % 8 = 1 then some (.lsrc .xcvt) else none
  | 0x47 => match fn with | 0 => some (.l .rnd) | 1 => some (.l .rndg) | _ => none
  | 0x4A => (shflOf fn).map fun m => .l fun p => .shfl p m
  | 0x4B =>
    match fn with
    | 0 => some (.l .vote) | 1 => some (.l .matchL) | 2 => some (.l .reduce) | 3 => some (.l .scan)
    | 4 => some (.l .bcast) | 5 => some (.l .split) | _ => none
  | 0x4D =>
    match fn with
    | 0 => some (.l .kand) | 1 => some (.l .kor) | 2 => some (.l .kxor) | 3 => some (.l .knot)
    | 4 => some (.l .kpopc) | 5 => some (.l .kffs) | 6 => some (.l .kmov) | 7 => some (.l .kact) | _ => none
  | 0x50 => match sub with | 0 => some (.lm .ld) | _ => none
  | 0x51 => match sub with | 0 => some (.lm .st) | _ => none
  | 0x52 => match sub with | 0 => some (.lm fun p => .lds p false) | 1 => some (.lm fun p => .lds p true) | _ => none
  | 0x53 => match sub with | 0 => some (.lm fun p => .sts p false) | 1 => some (.lm fun p => .sts p true) | _ => none
  | 0x54 =>
    match sub with
    | 0 => some (.lm fun p => .ldsc p false) | 1 => some (.lm fun p => .ldsc p true)
    | 2 => some (.lm fun p => .stsc p false) | _ => some (.lm fun p => .stsc p true)
  | 0x55 => match sub with | 0 => some (.lm .ldx) | 1 => some (.lm .stx) | _ => none
  | 0x56 => match sub with | 0 => some (.lm .ldc) | _ => none
  | 0x57 => match sub with | 0 => some (.lm .pld) | 1 => some (.lm .pst) | 2 => some (.lm .pref) | _ => none
  | 0x60 => atomForm fn .atom
  | 0x61 => atomForm fn .atoms
  | 0x62 => match fn with | 0 => some (.lt .atomc) | _ => none
  | 0x63 => if fn = 6 ∨ fn = 7 then none else atomForm fn .red
  | 0x64 => match fn with | 0 => some (.lt .fence) | _ => none
  | 0x65 => match fn with | 0 => some (.lt .bar) | 1 => some (.lt .barc) | 2 => some (.lt .gsync) | _ => none
  | 0x66 =>
    match fn with
    | 0 => some (.lt .binit) | 1 => some (.lt .barrive) | 2 => some (.lt .bexpect) | 3 => some (.lt .bwait)
    | 4 => some (.lt .btest) | _ => none
  | 0x67 => match fn with | 0 => some (.lt .bdrop) | 1 => some (.lt .binv) | 2 => some (.lt .stscb) | _ => none
  | 0x68 => mmaForm fn .mma
  | 0x69 => mmaForm fn .mmaj
  | 0x6A => mmaForm fn .mmas
  | 0x6B => mmaForm fn .mmajs
  | 0x6C =>
    match fn with
    | 0 => some (.lx .talloc) | 1 => some (.lx .tfree) | 2 => some (.lx .tzero) | 3 => some (.lx .tstat) | _ => none
  | 0x6D =>
    match fn with
    | 0 => some (.lx .tld) | 1 => some (.lx .tst) | 2 => some (.lx .tread) | 3 => some (.lx .twrite) | _ => none
  | 0x6E => match fn with | 0 => some (.lx .tscale) | _ => none
  | 0x70 =>
    match fn with
    | 0 => some (.le .acopy) | 1 => some (.le .agath) | 2 => some (.le .ascat) | 3 => some (.le .acopym)
    | 4 => some (.le .acancel) | _ => none
  | 0x71 => match sub with | 0 => some (.lm .rld) | _ => none
  | 0x72 => match sub with | 0 => some (.lm .rst) | 1 => some (.lm .rstCnt) | _ => none
  | 0x73 => atomForm fn .ratom
  | 0x74 => match fn with | 0 => some (.ls .rfence) | 1 => some (.ls .cwait) | 2 => some (.ls .cnote) | _ => none
  | 0x75 => match fn with | 0 => some (.ls .coll) | 1 => some (.ls .bknote) | _ => none
  | 0x76 =>
    match fn with
    | 0 => some (.ls .lreq) | 1 => some (.ls .lwait) | 2 => some (.ls .lrel) | 3 => some (.ls .lstat) | _ => none
  | 0x7B =>
    match fn with
    | 0 => some (.ls .srdp) | 1 => some (.ls .swrp) | 2 => some (.ls .ctxyield) | 3 => some (.ls .illrd)
    | 4 => some (.ls .frmrd) | _ => none
  | 0x7C => match fn with | 0 => some (.ls .weirset) | 1 => some (.ls .weirclr) | 2 => some (.ls .weirrd) | _ => none
  | 0x7D =>
    match fn with
    | 0 => some (.ls .hrd) | 1 => some (.ls .hwr) | 2 => some (.ls .hprd) | 3 => some (.ls .hfront)
    | 4 => some (.ls .hscb) | 5 => some (.ls .hstep) | 6 => some (.ls .hresume) | _ => none
  | 0x7E => match fn with | 0 => some (.ls .trcmark) | 1 => some (.ls .cntrd) | _ => none
  | _ => none

/-- An answer refused with `r` where it is none. -/
def orR {α β : Type} (r : Reason) (o : Option α) (f : α → Except Reason β) : Except Reason β :=
  match o with
  | some a => f a
  | none => .error r

/-- A long form read from its two words: first the selector (0x0A), then MOD (0x0B; 0x0C in the words of R437). -/
def decodeLong (op w e : Nat) : Except Reason Instr :=
  orR .fn (longForm op (bitsOf e 16 8) (bitsOf e 14 2)) fun
    | .l mk => orR .modv (parseL w e) fun p => .ok (mk p)
    | .lsrc mk => orR .modv (parseL w e) fun p => orR .modv (tyOf (bitsOf e 19 5)) fun t => .ok (mk p t)
    | .lm mk => orR .modv (parseLM w e) fun p => .ok (mk p)
    | .lt mk => orR .modv (parseLT w e) fun p => .ok (mk p)
    | .lx mk => orR .modv (parseLX w e) fun p => .ok (mk p)
    | .le mk => orR .modv (parseLE w e) fun p => .ok (mk p)
    | .ls mk => orR (if op = 0x7B then .field else .modv) (parseLS w e) fun p => .ok (mk p)

/-- A short word whose unused fields must be zero (0x0C). -/
def need (c : Bool) (i : Instr) : Except Reason Instr := if c then .ok i else .error .field

/-- The S2F selector of a short word: FN stands in B (R101). -/
def decodeF (op w : Nat) : Except Reason Instr :=
  let d := dOf w; let a := aOf w; let x := xOf w; let p : S2 := { d := d, a := a, x := x }
  match op, bOf w with
  | 0x1C, 0 => need (!x) (.smov d a)
  | 0x1C, 1 => need (!x) (.snot d a)
  | 0x1C, 2 => need (!x) (.spopc d a)
  | 0x1C, 3 => need (!x) (.sclz d a)
  | 0x2B, 0 => .ok (.mov p)
  | 0x2B, 1 => .ok (.not p)
  | 0x2B, 2 => .ok (.popc p)
  | 0x2B, 3 => .ok (.clz p)
  | 0x2B, 4 => .ok (.brev p)
  | 0x2B, 5 => .ok (.iabs p)
  | 0x2B, 6 => .ok (.ineg p)
  | 0x2B, 7 => need x (.vrdi d a)
  | 0x2B, 8 => need (!x) (.vwri d a)
  | 0x39, 0 => need (a == 0 && !x) (.fstatRd d)
  | 0x39, 1 => need (d == 0) (.fstatWr a x)
  | 0x39, 2 => need (d == 0 && !x) (.fstatClr a)
  | 0x4C, 0 => need (!x) (.pset d a)
  | 0x4C, 1 => need (!x) (.pnot d a)
  | 0x4C, 2 => need (!x) (.pmov d a)
  | 0x4C, 3 => need (!x) (.ptok d a)
  | 0x4C, 4 => need (!x) (.ktop d a)
  | _, _ => .error .fn

/-- A short word (R101, R109). -/
def decodeShort (op w : Nat) : Except Reason Instr :=
  let d := dOf w; let a := aOf w; let x := xOf w; let b := srcOf (bOf w) x
  let s3 : S3 := { d := d, a := a, b := b }
  let si : SI := { d := d, imm := immOf w }
  match op with
  | 0x00 => need (bitsOf w 0 25 == 0) .nop
  | 0x01 => .ok (.bra (bitsOf w 0 25))
  | 0x02 => need (d == 0 && a == 0) (.brx b)
  | 0x03 => .ok (.call d (bitsOf w 0 17))
  | 0x04 => need (a == 0) (.callx d b)
  | 0x05 => need (d == 0 && a == 0) (.ret b)
  | 0x06 => .ok (.loop (bitsOf w 23 2) (bitsOf w 15 8) (bitsOf w 1 14) x)
  | 0x07 => need (bitsOf w 0 17 == 0) (.join d)
  | 0x08 => need (bitsOf w 0 17 == 0) (.leave d)
  | 0x09 => need (bitsOf w 0 17 == 0) (.waitk d)
  | 0x0A => need (bitsOf w 0 25 == 0) .exit
  | 0x0B => need (bitsOf w 0 25 == 0) .yield
  | 0x0C => .ok (.sleep d (immOf w) x)
  | 0x0D => need (d == 0 && !x) (.bkpt (immOf w))
  | 0x0E => .ok (.pcrel d (bitsOf w 0 17))
  | 0x10 => .ok (.sadd s3)
  | 0x11 => .ok (.ssub s3)
  | 0x12 => .ok (.smul s3)
  | 0x13 => .ok (.sand s3)
  | 0x14 => .ok (.sor s3)
  | 0x15 => .ok (.sxor s3)
  | 0x16 => .ok (.sshl s3)
  | 0x17 => .ok (.sshr s3)
  | 0x18 => .ok (.ssra s3)
  | 0x19 => need (!x) (.smovi si)
  | 0x1A => need (!x) (.smovh si)
  | 0x20 => .ok (.iadd s3)
  | 0x21 => .ok (.isub s3)
  | 0x22 => .ok (.imul s3)
  | 0x23 => .ok (.and s3)
  | 0x24 => .ok (.or s3)
  | 0x25 => .ok (.xor s3)
  | 0x26 => .ok (.shl s3)
  | 0x27 => .ok (.shr s3)
  | 0x28 => .ok (.sra s3)
  | 0x29 => .ok (.icmp (scondOf (bitsOf w 22 3)) (bitsOf w 17 5) a b)
  | 0x2A => .ok (if x then .moviH si else .movi si)
  | 0x30 => .ok (.faddF32 s3)
  | 0x31 => .ok (.fsubF32 s3)
  | 0x32 => .ok (.fmulF32 s3)
  | 0x33 => .ok (.ffmaF32 s3)
  | 0x48 => need (bOf w == 0) (.srd { d := d, a := a, x := x })
  | 0x49 => need (bOf w == 0) (.swr { d := d, a := a, x := x })
  | 0x78 => need (d == 0 && !x) (.trap (immOf w))
  | 0x79 => need (bitsOf w 0 25 == 0) .tret
  | 0x7A => need (!x) (.hcall si)
  | _ => decodeF op w

/-- The instruction of a first word `w` and, for a long form, the word `e` after it; or the lowest REASON that the words
break on their own (0x07, then 0x0A to 0x0C). REASON 0x08, 0x09, 0x0D and 0x0E depend on the clause and the group. -/
def decode (w e : Nat) : Except Reason Instr :=
  let op := opOf w
  if opReserved op then .error .opcode
  else
    match (if opLong op then decodeLong op w e else decodeShort op w) with
    | .error r => .error r
    | .ok i => match legal i with
      | none => .ok i
      | some r => .error r

/-- The words of an instruction (R101 to R110). A device step has none. -/
def encode (i : Instr) : List Nat :=
  match i with
  | .nop => [0]
  | .bra o => [0x01 * 2 ^ 25 + o]
  | .brx b => [encW 0x02 0 0 b]
  | .call d o => [0x03 * 2 ^ 25 + d * 2 ^ 17 + o]
  | .callx d b => [encW 0x04 d 0 b]
  | .ret b => [encW 0x05 0 0 b]
  | .loop lc len cnt x => [0x06 * 2 ^ 25 + lc * 2 ^ 23 + len * 2 ^ 15 + cnt * 2 + bit x]
  | .join d => [0x07 * 2 ^ 25 + d * 2 ^ 17]
  | .leave d => [0x08 * 2 ^ 25 + d * 2 ^ 17]
  | .waitk d => [0x09 * 2 ^ 25 + d * 2 ^ 17]
  | .exit => [0x0A * 2 ^ 25]
  | .yield => [0x0B * 2 ^ 25]
  | .sleep d imm x => [encI 0x0C d imm x]
  | .bkpt imm => [encI 0x0D 0 imm false]
  | .pcrel d o => [0x0E * 2 ^ 25 + d * 2 ^ 17 + o]
  | .sadd p => [encW 0x10 p.d p.a p.b]
  | .ssub p => [encW 0x11 p.d p.a p.b]
  | .smul p => [encW 0x12 p.d p.a p.b]
  | .sand p => [encW 0x13 p.d p.a p.b]
  | .sor p => [encW 0x14 p.d p.a p.b]
  | .sxor p => [encW 0x15 p.d p.a p.b]
  | .sshl p => [encW 0x16 p.d p.a p.b]
  | .sshr p => [encW 0x17 p.d p.a p.b]
  | .ssra p => [encW 0x18 p.d p.a p.b]
  | .smovi p => [encI 0x19 p.d p.imm false]
  | .smovh p => [encI 0x1A p.d p.imm false]
  | .smov d a => [encF 0x1C 0 d a false]
  | .snot d a => [encF 0x1C 1 d a false]
  | .spopc d a => [encF 0x1C 2 d a false]
  | .sclz d a => [encF 0x1C 3 d a false]
  | .saddr p => encL 0x1B 0 p
  | .smulh p => encL 0x1D 0 p
  | .smad p => encL 0x1D 1 p
  | .smin p => encL 0x1D 2 p
  | .smax p => encL 0x1D 3 p
  | .scmp p => encL 0x1D 4 p
  | .ssel p => encL 0x1D 5 p
  | .iadd p => [encW 0x20 p.d p.a p.b]
  | .isub p => [encW 0x21 p.d p.a p.b]
  | .imul p => [encW 0x22 p.d p.a p.b]
  | .and p => [encW 0x23 p.d p.a p.b]
  | .or p => [encW 0x24 p.d p.a p.b]
  | .xor p => [encW 0x25 p.d p.a p.b]
  | .shl p => [encW 0x26 p.d p.a p.b]
  | .shr p => [encW 0x27 p.d p.a p.b]
  | .sra p => [encW 0x28 p.d p.a p.b]
  | .icmp c pd a b => [encW 0x29 (scondCode c * 2 ^ 5 + pd) a b]
  | .movi p => [encI 0x2A p.d p.imm false]
  | .moviH p => [encI 0x2A p.d p.imm true]
  | .mov p => [encF 0x2B 0 p.d p.a p.x]
  | .not p => [encF 0x2B 1 p.d p.a p.x]
  | .popc p => [encF 0x2B 2 p.d p.a p.x]
  | .clz p => [encF 0x2B 3 p.d p.a p.x]
  | .brev p => [encF 0x2B 4 p.d p.a p.x]
  | .iabs p => [encF 0x2B 5 p.d p.a p.x]
  | .ineg p => [encF 0x2B 6 p.d p.a p.x]
  | .vrdi d a => [encF 0x2B 7 d a true]
  | .vwri d a => [encF 0x2B 8 d a false]
  | .iaddc p => encL 0x2C 0 p
  | .imulh p => encL 0x2C 1 p
  | .imad p => encL 0x2C 2 p
  | .imadw p => encL 0x2C 3 p
  | .imin p => encL 0x2C 4 p
  | .imax p => encL 0x2C 5 p
  | .isel p => encL 0x2C 6 p
  | .rot p => encL 0x2C 7 p
  | .bfe p => encL 0x2C 8 p
  | .bfi p => encL 0x2C 9 p
  | .cvti p => encL 0x2C 10 p
  | .icmpLong p => encL 0x2C 11 p
  | .srd p => [encF 0x48 0 p.d p.a p.x]
  | .swr p => [encF 0x49 0 p.d p.a p.x]
  | .pset d a => [encF 0x4C 0 d a false]
  | .pnot d a => [encF 0x4C 1 d a false]
  | .pmov d a => [encF 0x4C 2 d a false]
  | .ptok d a => [encF 0x4C 3 d a false]
  | .ktop d a => [encF 0x4C 4 d a false]
  | .kand p => encL 0x4D 0 p
  | .kor p => encL 0x4D 1 p
  | .kxor p => encL 0x4D 2 p
  | .knot p => encL 0x4D 3 p
  | .kpopc p => encL 0x4D 4 p
  | .kffs p => encL 0x4D 5 p
  | .kmov p => encL 0x4D 6 p
  | .kact p => encL 0x4D 7 p
  | .shfl p m => encL 0x4A (shflCode m) p
  | .vote p => encL 0x4B 0 p
  | .matchL p => encL 0x4B 1 p
  | .reduce p => encL 0x4B 2 p
  | .scan p => encL 0x4B 3 p
  | .bcast p => encL 0x4B 4 p
  | .split p => encL 0x4B 5 p
  | .faddF32 p => [encW 0x30 p.d p.a p.b]
  | .fsubF32 p => [encW 0x31 p.d p.a p.b]
  | .fmulF32 p => [encW 0x32 p.d p.a p.b]
  | .ffmaF32 p => [encW 0x33 p.d p.a p.b]
  | .fadd p => encL 0x34 0 p
  | .fsub p => encL 0x34 1 p
  | .fmul p => encL 0x34 2 p
  | .ffma p => encL 0x34 3 p
  | .fmin p => encL 0x34 4 p
  | .fmax p => encL 0x34 5 p
  | .fminnum p => encL 0x34 6 p
  | .fmaxnum p => encL 0x34 7 p
  | .fdiv p => encL 0x34 8 p
  | .fscale p => encL 0x34 9 p
  | .fabs p => encL 0x35 0 p
  | .fneg p => encL 0x35 1 p
  | .fsqrt p => encL 0x35 2 p
  | .frcp p => encL 0x35 3 p
  | .frsq p => encL 0x35 4 p
  | .fex2 p => encL 0x35 5 p
  | .flg2 p => encL 0x35 6 p
  | .fsin p => encL 0x35 7 p
  | .fcos p => encL 0x35 8 p
  | .frnd p => encL 0x35 9 p
  | .fclass p => encL 0x35 10 p
  | .fcmp p => encL 0x36 0 p
  | .fcvt p t => encL 0x37 (tyCode t * 8) p
  | .fcvti p t => encL 0x37 (tyCode t * 8 + 1) p
  | .icvtf p t => encL 0x37 (tyCode t * 8 + 2) p
  | .fpack p t => encL 0x38 (tyCode t * 8) p
  | .funpk p t => encL 0x38 (tyCode t * 8 + 1) p
  | .fstatRd d => [encF 0x39 0 d 0 false]
  | .fstatWr a x => [encF 0x39 1 0 a x]
  | .fstatClr a => [encF 0x39 2 0 a false]
  | .ftwosum p => encL 0x40 0 p
  | .ffastsum p => encL 0x41 0 p
  | .ftwoprod p => encL 0x42 0 p
  | .ffma3 p => encL 0x43 0 p
  | .fsplit p => encL 0x44 0 p
  | .fsplit3 p => encL 0x44 1 p
  | .xadd p => encL 0x45 0 p
  | .xsub p => encL 0x45 1 p
  | .xmul p => encL 0x45 2 p
  | .xren p => encL 0x45 3 p
  | .xcomp p => encL 0x45 4 p
  | .xneg p => encL 0x45 5 p
  | .xabs p => encL 0x45 6 p
  | .xcmp p => encL 0x46 0 p
  | .xcvt p t => encL 0x46 (tyCode t * 8 + 1) p
  | .rnd p => encL 0x47 0 p
  | .rndg p => encL 0x47 1 p
  | .ld p => encLM 0x50 0 p
  | .st p => encLM 0x51 0 p
  | .lds p vb => encLM 0x52 (bit vb) p
  | .sts p vb => encLM 0x53 (bit vb) p
  | .ldsc p vb => encLM 0x54 (bit vb) p
  | .stsc p vb => encLM 0x54 (2 + bit vb) p
  | .ldx p => encLM 0x55 0 p
  | .stx p => encLM 0x55 1 p
  | .ldc p => encLM 0x56 0 p
  | .pld p => encLM 0x57 0 p
  | .pst p => encLM 0x57 1 p
  | .pref p => encLM 0x57 2 p
  | .atom p f => encLT 0x60 (atomCode f) p
  | .atoms p f => encLT 0x61 (atomCode f) p
  | .atomc p => encLT 0x62 0 p
  | .red p f => encLT 0x63 (atomCode f) p
  | .fence p => encLT 0x64 0 p
  | .bar p => encLT 0x65 0 p
  | .barc p => encLT 0x65 1 p
  | .gsync p => encLT 0x65 2 p
  | .binit p => encLT 0x66 0 p
  | .barrive p => encLT 0x66 1 p
  | .bexpect p => encLT 0x66 2 p
  | .bwait p => encLT 0x66 3 p
  | .btest p => encLT 0x66 4 p
  | .bdrop p => encLT 0x67 0 p
  | .binv p => encLT 0x67 1 p
  | .stscb p => encLT 0x67 2 p
  | .acopy p => encLE 0 p
  | .agath p => encLE 1 p
  | .ascat p => encLE 2 p
  | .acopym p => encLE 3 p
  | .acancel p => encLE 4 p
  | .mma p sh r => encLX 0x68 (sh + 16 * bit r) p
  | .mmaj p sh r => encLX 0x69 (sh + 16 * bit r) p
  | .mmas p sh r => encLX 0x6A (sh + 16 * bit r) p
  | .mmajs p sh r => encLX 0x6B (sh + 16 * bit r) p
  | .talloc p => encLX 0x6C 0 p
  | .tfree p => encLX 0x6C 1 p
  | .tzero p => encLX 0x6C 2 p
  | .tstat p => encLX 0x6C 3 p
  | .tld p => encLX 0x6D 0 p
  | .tst p => encLX 0x6D 1 p
  | .tread p => encLX 0x6D 2 p
  | .twrite p => encLX 0x6D 3 p
  | .tscale p => encLX 0x6E 0 p
  | .rld p => encLM 0x71 0 p
  | .rst p => encLM 0x72 0 p
  | .rstCnt p => encLM 0x72 1 p
  | .ratom p f => encLT 0x73 (atomCode f) p
  | .rfence p => encLS 0x74 0 p
  | .cwait p => encLS 0x74 1 p
  | .cnote p => encLS 0x74 2 p
  | .coll p => encLS 0x75 0 p
  | .bknote p => encLS 0x75 1 p
  | .lreq p => encLS 0x76 0 p
  | .lwait p => encLS 0x76 1 p
  | .lrel p => encLS 0x76 2 p
  | .lstat p => encLS 0x76 3 p
  | .trap imm => [encI 0x78 0 imm false]
  | .tret => [0x79 * 2 ^ 25]
  | .hcall p => [encI 0x7A p.d p.imm false]
  | .srdp p => encLS 0x7B 0 p
  | .swrp p => encLS 0x7B 1 p
  | .ctxyield p => encLS 0x7B 2 p
  | .illrd p => encLS 0x7B 3 p
  | .frmrd p => encLS 0x7B 4 p
  | .weirset p => encLS 0x7C 0 p
  | .weirclr p => encLS 0x7C 1 p
  | .weirrd p => encLS 0x7C 2 p
  | .hrd p => encLS 0x7D 0 p
  | .hwr p => encLS 0x7D 1 p
  | .hprd p => encLS 0x7D 2 p
  | .hfront p => encLS 0x7D 3 p
  | .hscb p => encLS 0x7D 4 p
  | .hstep p => encLS 0x7D 5 p
  | .hresume p => encLS 0x7D 6 p
  | .trcmark p => encLS 0x7E 0 p
  | .cntrd p => encLS 0x7E 1 p
  | .registerWrite | .partcfgWrite | .ctxLoad | .ctxUnload | .ctxcmdDone | .doorbellWrite | .chainEnable
  | .chainDisable | .chainResume | .chainAbort | .chstatLinkerrClear | .launchTake | .streamOpen
  | .modelNextKernel | .launchComplete | .clusterAdmit | .admissionStarvationLimit | .teamReadmit | .teamEvict
  | .teamRetire | .vgridQuantumExpiry | .vgridTurnEnd | .timeSliceExpiry | .turnPass | .xchgOutIn | .xchgSuspend
  | .xchgResume | .exchangeDone | .basincfgWrite | .sluicepoolWrite | .rmtinvPeer | .rmtinvWindow | .rmtinvComm
  | .rmtinvDone | .routeReload | .routeReloadDone | .inspcfgWrite | .plumeStart | .plumeStop | .plumeDump
  | .plumeDumpDone | .plumeDiscard | .plumeWindowFull | .monClear | .softCounterRead | .errlogRead | .mbInfo
  | .mbErase | .mbWrite | .mbVerify | .mbActivate | .mbRaisemin | .mbReset | .mbUnknownOp | .mbCommandDone
  | .spdmGetVersion | .spdmGetCapabilities | .spdmNegotiateAlgorithms | .spdmGetDigests | .spdmGetCertificate
  | .spdmChallenge | .spdmGetMeasurements | .deviceReset | .firmwareVerified | .thermalCritical | .powerInterval
  | .eccCorrected | .eccUncorrectable | .dyxihanScrub | .rillFlitFail | .linkFailure | .collEndNoticeReceive
  | .atsResponse | .atsTimeout | .priResponse | .priTimeout | .atsInvalidation | .atsInvalidationDone
  | .faultStallBlocking | .faultReplay | .bar4Access | .clauseFetch | .sliceCycle | .groupPromotion
  | .entryOverdue | .opComplete | .laneUnpark | .sleepWake | .cwaitPoll | .trapEntry | .watchdogExpiry
  | .haltComplete | .matrixOpBegin | .matrixOpDone | .engineBeat | .engineOpDone | .engineOpError | .sluiceBeat
  | .layerTransferStart | .layerTransferDone | .layerEvictDone | .remoteRequestArrive | .remoteAnswer
  | .remoteTimeout | .collStart | .collMessage | .collComplete | .hcallWriteDone => []

/-! ### Bytes -/

/-- The four bytes of a word, lowest address first (R13). -/
def wordBytes (w : Nat) : List Nat := [w % 256, w / 256 % 256, w / 65536 % 256, w / 16777216 % 256]

/-- The word at the head of a byte list, and the rest. -/
def takeWord : List Nat → Option (Nat × List Nat)
  | a :: b :: c :: d :: r => some (a + b * 256 + c * 65536 + d * 16777216, r)
  | _ => none

/-- The instruction at the head of the bytes that memory holds, and the bytes after it. A long form cut short is refused
with REASON 0x09. -/
def decodeBytes (bs : List Nat) : Except Reason (Instr × List Nat) :=
  match takeWord bs with
  | none => .error .cut
  | some (w, r) =>
    if opLong (opOf w) then
      match takeWord r with
      | none => .error .cut
      | some (e, r') => match decode w e with
        | .ok i => .ok (i, r')
        | .error x => .error x
    else match decode w 0 with
      | .ok i => .ok (i, r)
      | .error x => .error x

/-- The instruction that the decoder reads from an instruction of the opcode table whose bits are `w`, bit 0 the least
significant bit of the first word: the words are laid out as memory holds them, the bits above `nbits` zero. -/
def decodeTableWord (nbits w : Nat) : Option Instr :=
  let v := w % 2 ^ nbits
  match decodeBytes (wordBytes (v % 2 ^ 32) ++ wordBytes (v / 2 ^ 32 % 2 ^ 32)) with
  | .ok (i, _) => some i
  | .error _ => none

end Sys2Proof
end

