-- ==== Sys2Proof/Machine/Map.lean ====
section
/-! DEFINITION. Machine/Map.lean: operations on the finite maps of State. A map is a list of pairs with strictly rising keys, so that
equal maps are equal lists; `setD` also lists no value equal to the default. -/

namespace Sys2Proof.Machine

variable {α β : Type}

/-- The entry of a key. -/
def mget? (m : AMap α) (k : Nat) : Option α :=
  match m with
  | [] => none
  | (j, v) :: r => if j = k then some v else mget? r k

/-- The entry of a key, or a default. -/
def mget (m : AMap α) (d : α) (k : Nat) : α := (mget? m k).getD d

/-- Set a key's entry, keeping the keys in order. -/
def mput (m : AMap α) (k : Nat) (v : α) : AMap α :=
  match m with
  | [] => [(k, v)]
  | (j, w) :: r => if k < j then (k, v) :: (j, w) :: r else if j = k then (k, v) :: r else (j, w) :: mput r k v

/-- Remove a key. -/
def mdel (m : AMap α) (k : Nat) : AMap α :=
  match m with
  | [] => []
  | (j, w) :: r => if j = k then mdel r k else (j, w) :: mdel r k

/-- Set a key's entry; an entry equal to the default is not listed. -/
def msetD [DecidableEq α] (m : AMap α) (d : α) (k : Nat) (v : α) : AMap α :=
  if v = d then mdel m k else mput m k v

/-- Change an entry that exists. -/
def mmod (m : AMap α) (k : Nat) (f : α → α) : AMap α :=
  match mget? m k with
  | none => m
  | some v => mput m k (f v)

/-- Apply a function to every entry. -/
def mmap (m : AMap α) (f : Nat → α → α) : AMap α := m.map fun (k, v) => (k, f k v)

/-- The keys. -/
def mkeys (m : AMap α) : List Nat := m.map Prod.fst

/-- Every key is above the bound, and the keys rise strictly. -/
def mordFrom (b : Nat) : AMap α → Bool
  | [] => true
  | (j, _) :: r => b ≤ j && mordFrom (j + 1) r

/-- The keys rise strictly. -/
def mord (m : AMap α) : Bool := mordFrom 0 m

/-- The canonical form: the keys rise strictly and no entry equals the default. -/
def mwf [DecidableEq α] (d : α) (m : AMap α) : Bool := mord m && m.all fun e => e.2 != d

end Sys2Proof.Machine
end

