-- ==== Sys2Proof/Machine/State.lean ====
section
/-! DEFINITION. Machine/State.lean: everything the spec gives the machine, as plain data, the state after reset, and the reasons
for which a step can stop. A field marked MODEL is the model's own bookkeeping, not the spec's. -/

namespace Sys2Proof.Machine

/-! ### Values -/

/-- An exact floating-point value: ±m × 2^e, an infinity, or a NaN as its bits. It also holds the extended value that a fused
clause delivers (R170). -/
inductive FV where
  | nan (bits : Nat)
  | inf (neg : Bool)
  | fin (neg : Bool) (m : Nat) (e : Int)
  deriving DecidableEq, Repr

/-- The extended value that a writer of a fused clause left in a register of a lane (R169). -/
structure Ext where
  ty : Ty
  x : FV
  deriving DecidableEq, Repr

/-! ### Lanes (R127) -/

/-- A barrier wait of a lane (R303, R309). -/
inductive BWhy where
  | bar (id n : Nat)
  | barc
  | gsync
  | obj (off : Nat) (acq : Bool)
  deriving DecidableEq, Repr

/-- Why a lane is parked. -/
inductive Park where
  /-- an access of the lane waits: an absent line, a layer, a cluster target saved out, or a page (R266, R272, R265, R282) -/
  | access (seq : Nat)
  /-- a barrier-object instruction waits for its line, and issues again then (R306) -/
  | line (team line seq : Nat)
  /-- a clause fetch, or a LOOP's header reads, waits for a layer (R91, R115) -/
  | fetch (launch layer : Nat)
  /-- LWAIT (R384) -/
  | layer (idx : Nat)
  /-- the remote wait of R399 -/
  | remote (seq : Nat)
  /-- RFENCE (R402): the requests issued before it -/
  | rfence (seq : Nat)
  /-- CWAIT (R404) -/
  | cwait (c val : Nat)
  /-- SLEEP: resident cycles left (R185) -/
  | sleep (left : Nat)
  deriving DecidableEq, Repr

/-- The state of a lane (R127, R190, R421). -/
inductive LSt where
  | dead
  | run
  | park (w : Park)
  | waitK (k : Nat)
  | halted
  | loopEnd (n : Nat)
  | bar (w : BWhy) (since : Nat)
  deriving DecidableEq, Repr

/-- A clause as it was fetched: its header's address, and the header followed by its COUNT words (R91, R117). -/
structure Clause where
  addr : DWord
  words : List Word
  deriving DecidableEq, Repr

/-- A lane of a group. -/
structure Lane where
  pc : DWord := 0
  /-- the clause fetched for the lane at its PC; none where it must be fetched -/
  cl : Option Clause := none
  st : LSt := .dead
  /-- the lane is in a handler (R131) -/
  hand : Bool := false
  /-- the handler lane has reached a TRET and waits there (R423) -/
  tret : Bool := false
  /-- WAIT of its clause has been honoured (R97) -/
  waited : Bool := false
  /-- a halt is pending for when the lane's wait ends (R452) -/
  haltPend : Bool := false
  /-- the store at this PC was stopped by these PRE weirs, and is performed once without their check (R453) -/
  preOk : Option (DWord × List Nat) := none
  /-- the trap is held at its next PC behind a higher-ranked one (R497) -/
  heldT : Bool := false
  /-- skip count of the lane's entry (R129) -/
  skip : Nat := 0
  /-- the entry is overdue (R129) -/
  overdue : Bool := false
  /-- MODEL: the word of its entry was held by its unit: the leaf that R473 charges for it, and 0x100 more where R122 calls the wait long;
  only trials of a word set it -/
  blocked : Option Nat := none
  /-- its wait has ended while other lanes run in a handler: it goes on when the handler is over (R131, R136) -/
  wake : Bool := false
  /-- the cycle in which the lane parked -/
  since : Nat := 0
  deriving DecidableEq, Repr

/-- A loop counter's loop state (R191). -/
structure Loop where
  active : Bool := false
  start : DWord := 0
  len : Nat := 0
  members : Word := 0
  /-- it began in the handler that runs now: lanes of the handler advance through it (R191) -/
  hand : Bool := false
  deriving DecidableEq, Repr

/-! ### Records of work in flight -/

/-- A register of a group, as the scoreboard names it (R140). -/
inductive RegRef where
  | v (n : Nat) | s (n : Nat) | p (n : Nat) | k (n : Nat) | lc (n : Nat)
  deriving DecidableEq, Repr

/-- A trap to be taken, with what its frame records (R420). -/
structure TrapRec where
  cause : Nat
  reason : Nat := 0
  pc : DWord
  npc : DWord
  /-- the clause of the word -/
  cl : Option Clause := none
  tlanes : Word
  exec : Word := 0
  w0 : Word := 0
  w1 : Option Word := none
  eng : Bool := false
  detail : Nat := 0
  faddr : DWord := 0
  /-- FPCLS: classes by lane -/
  fpcls : AMap Nat := []
  /-- cause 0x09: the launch and the layer -/
  lyr : Option (Nat × Nat) := none
  /-- the word in flight that lanes of it trap at while others of it go on waiting (R388) -/
  own : Option Nat := none
  deriving DecidableEq, Repr

/-- An instruction that has issued and not completed (R140, R142). -/
structure Fly where
  seq : Nat
  ins : Instr
  pc : DWord
  w0 : Word
  w1 : Option Word
  lanes : Word
  dep : Option Nat
  /-- registers still to be written -/
  regs : List RegRef := []
  /-- registers still to be read: a pending joint operation (R348) -/
  srcs : List RegRef := []
  /-- lanes whose part has not been performed -/
  left : Word := 0
  /-- the unit has still to finish it: a matrix array, an engine, a collective -/
  unit : Bool := false
  /-- the lanes whose answers were poisoned, and the address of the lowest (R399) -/
  poison : Word := 0
  poisAddr : Nat := 0
  /-- the clause of the word -/
  cl : Option Clause := none
  /-- what the weirs see when the instruction completes (R451): accesses and values, and the lanes of EXEC -/
  late : Bool := false
  /-- the lanes of EXEC stay at the word until it has completed, and the group issues nothing (R359, R451) -/
  hold : Bool := false
  /-- FSTAT classes raised, by lane, for its completion (R162) -/
  fl : AMap Nat := []
  /-- the joint operation that it began (R346) -/
  jid : Nat := 0
  obsAcc : List (Nat × Nat × Bool × Nat × Nat) := []
  obsVal : List (Nat × Nat × Nat) := []
  /-- STSCB: team, object offset and bytes to be counted at completion (R312) -/
  cnt : List (Nat × Nat × Nat) := []
  /-- issued by HSTEP: no trap or halt action (R454) -/
  stepped : Bool := false
  /-- a load or atomic of it did not find its line in the core's L1 (R122) -/
  miss : Bool := false
  deriving DecidableEq, Repr

/-- What an access does at its address. -/
inductive AccOp where
  | load
  | store
  | atom (fn : AtomFn)
  | atomc
  deriving DecidableEq, Repr

/-- Where an access goes (R261). -/
inductive Space where
  | global
  /-- the scratchpad grant of a team -/
  | scratch (team : Nat)
  deriving DecidableEq, Repr

/-- One lane's access, held until it can be performed (R266, R272, R282). -/
structure Acc where
  seq : Nat
  lane : Nat
  op : AccOp
  ty : Ty
  space : Space
  /-- (address, bytes) of each component, in the order of the components -/
  comps : List (Nat × Nat)
  /-- component values of a store, or the operand of an atomic -/
  data : List Nat := []
  cmp : Nat := 0
  /-- destination register of a load or atomic; none for a store -/
  dst : Option RegRef := none
  ctx : Nat
  launch : Nat
  /-- the object lowered by STSCB (R312): the target team and the offset -/
  obj : Option (Nat × Nat) := none
  sysScope : Bool := false
  /-- every lane of these takes the one value: PLD, or LDC and PST act on one address -/
  shared : Word := 0
  /-- bytes of a store that a higher lane of its word has written before it: address and count (R288) -/
  cut : List (Nat × Nat) := []
  deriving DecidableEq, Repr

/-- Who waits for a translation. -/
inductive Waiter where
  /-- faulted lanes of an access of a group (R282) -/
  | lanes (gid seq : Nat)
  /-- the trap frame of a group (R419) -/
  | frame (gid : Nat)
  /-- a clause fetch of a group (R91), or the header reads of a LOOP (R115) -/
  | fetch (gid : Nat) (pc : DWord)
  | op (id : Nat)
  | stream (launch : Nat)
  /-- the launch front-end (R498) -/
  | frontEnd
  /-- the front-end, for the next kernel of a model launch (R31) -/
  | kern (launch : Nat)
  | ctxLoad
  | dump (die : Nat)
  /-- a remote request at this target (R397) -/
  | target (id : Nat)
  /-- the lanes of a group that wait in CWAIT for a counter of the context (R404) -/
  | counter (gid c : Nat)
  | coll (id : Nat)
  deriving DecidableEq, Repr

/-- How far a translation request has come (R279, R280, R283). -/
inductive PStage where
  /-- an ATS request is outstanding -/
  | ats
  /-- the page is absent and no replay entry or page request group is free (R283) -/
  | stalled
  /-- a PRI page request group is outstanding -/
  | pri
  /-- the ATS request after a PRI response of Success -/
  | again
  /-- granted: the waiter may go on -/
  | ok
  /-- denied after a PRI response -/
  | deny
  deriving DecidableEq, Repr

/-- A translation that the device holds (R279). -/
structure Trans where
  pasid : Nat
  va : Nat
  size : Nat
  pa : Nat
  host : Bool
  r : Bool
  w : Bool
  x : Bool
  deriving DecidableEq, Repr

/-- A translation in a set of a core's L1 TLB, or of Basin (R279, R281). -/
structure TransEnt where
  set : Nat
  tr : Trans
  deriving DecidableEq, Repr

/-- A line of a core's L1 (R275). -/
structure L1Line where
  /-- its 128 bytes as the core sees them; none listed for a coherent line, which the directory keeps equal to memory (R271) -/
  bytes : List Nat := []
  /-- the bytes stored and not written back, one bit each (R273) -/
  dirty : Nat := 0
  /-- its poisoned granules, one bit each (R478) -/
  pois : Nat := 0
  deriving DecidableEq, Repr

/-- A translation that a unit waits for. -/
structure PWait where
  id : Nat
  who : Waiter
  ctx : Nat
  pasid : Nat
  page : Nat
  lanes : Word := 0
  /-- the permissions that the access needs -/
  r : Bool := true
  w : Bool := false
  x : Bool := false
  stage : PStage := .ats
  /-- the cycle in which the stage began -/
  since : Nat := 0
  /-- a page request has been sent for it, and its replay entry, for lanes of a group, is held until they replay (R282) -/
  asked : Bool := false
  /-- the translation that was granted, until an invalidation removes it -/
  tr : Option Trans := none
  deriving DecidableEq, Repr

/-- A trap taken whose frame has not been written yet (R418, R419). -/
structure TrapPend where
  tr : TrapRec
  frame : Nat
  /-- the lanes as they stood at the instruction -/
  lanes : AMap Lane
  deriving DecidableEq, Repr

/-- The handler that a group runs: its frame and TLANES (R423, R440, R443). -/
structure Hnd where
  frame : Nat
  tlanes : Word
  cl : Option Clause
  cause : Nat
  lyr : Option (Nat × Nat)
  deriving DecidableEq, Repr

/-- A watched wait (R435): its kind as R427 numbers it, and the barrier id, object offset, mask or blocks. -/
structure Watch where
  kind : Nat
  id : Nat
  /-- the cycle in which it began -/
  since : Nat := 0
  deriving DecidableEq, Repr

/-! ### Groups and teams -/

/-- A group: 32 lanes on one slice (R12, R148). -/
structure Group where
  team : Nat
  launch : Nat
  ctx : Nat
  /-- %group -/
  idx : Nat := 0
  slice : Nat := 0
  slot : Nat := 0
  /-- vector registers: register × 32 + lane -/
  v : AMap Word := []
  s : AMap Word := []
  /-- predicates, one bit a lane -/
  p : AMap Word := []
  k : AMap Word := []
  d : AMap Nat := []
  lc : AMap Word := []
  loops : AMap Loop := []
  gsplit : Nat := 32
  fstat : Nat := 0
  steprnd : Bool := false
  fptrap : Nat := 0
  /-- extended values: register × 32 + lane (R169) -/
  ext : AMap Ext := []
  /-- poisoned vector registers: register × 32 + lane; poisoned scalar registers (R478) -/
  vpois : AMap Bool := []
  spois : AMap Bool := []
  lanes : AMap Lane := []
  fly : List Fly := []
  accs : List Acc := []
  /-- traps that lanes take when they next resume: 0x0A of a lane that a weir halted (R454), and 0x0B of a weir that matched a
  word whose wait has not ended (R451) -/
  fpPend : AMap TrapRec := []
  /-- traps of lower rank, in rank order (R497) -/
  held : List TrapRec := []
  trap : Option TrapPend := none
  hnd : Option Hnd := none
  /-- errors and weir traps of engine operations, for the group's next issue, with the objects (team, offset) that an error is also
  reported at (R317, R455) -/
  engTrap : List (TrapRec × List (Nat × Nat)) := []
  /-- halts that engine write hits left for the next issue boundary (R455) -/
  engHalt : Word := 0
  frozen : Bool := false
  ended : Bool := false
  exited : Bool := false
  /-- the cycle a page-fault stall began, or none (R284) -/
  stallAt : Option Nat := none
  /-- past 50 µs: the stall is a blocking point -/
  stallLong : Bool := false
  /-- the TFREE that is held (R368, R435): the cycle it began, its blocks and quads -/
  tfree : Option Watch := none
  -- scheduling (R120 to R126)
  active : Bool := false
  ready : Bool := false
  readySince : Nat := 0
  waitCnt : Nat := 0
  promoted : Option Nat := none
  tradeCd : Nat := 0
  -- the barrier watchdog (R435)
  wd : Nat := 0
  wdFor : Option Watch := none
  deriving DecidableEq, Repr

/-- Where a team's state is (R75, R78, R143). -/
inductive TSt where
  | resident | evicted | held | retired
  deriving DecidableEq, Repr

/-- A store or atomic in a deferred-store queue (R86); its component addresses are those of memory, after translation. -/
structure DStore where
  group : Nat
  n : Nat
  acc : Acc
  /-- an atomic that can raise flags: what its lane's trap 0x0A would record -/
  tr : Option TrapRec := none
  deriving DecidableEq, Repr

/-- The phase of a BAR id (R303): the first arrival's count, and the groups that have arrived. -/
structure BarSt where
  n : Nat
  arrived : List Nat
  deriving DecidableEq, Repr

/-- A team (R12, R64). -/
structure Team where
  launch : Nat
  ctx : Nat
  /-- linear index t -/
  t : Nat
  cluster : Nat
  crank : Nat
  core : Nat
  /-- slice of group 0 (R70) -/
  base : Nat := 0
  groups : List Nat := []
  scrBase : Nat := 0
  scrBytes : Nat := 0
  scr : AMap Byte := []
  /-- poisoned scratchpad words (R478) -/
  scrPois : AMap Bool := []
  /-- absent lines: the operation that writes each (R266) -/
  absent : AMap Nat := []
  /-- held blocks: quad × 16 + team block; true where TALLOC granted it (R361) -/
  blocks : AMap Bool := []
  /-- tile-store words: (quad × 256 + team row) × 128 + column -/
  tile : AMap Word := []
  tilePois : AMap Bool := []
  /-- layers held (R382) -/
  holds : List Nat := []
  /-- deferred stores of the phase, oldest first (R86) -/
  defer : List DStore := []
  bars : AMap BarSt := []
  st : TSt := .resident
  /-- cycles of residency in this turn (R79) -/
  turn : Nat := 0
  admitted : Nat := 0
  deriving DecidableEq, Repr

/-! ### Contexts, launches and chains -/

/-- A region (R270). -/
structure Region where
  base : Nat
  limit : Nat
  kind : Nat
  nol1 : Bool
  deriving DecidableEq, Repr

/-- A halt of a context (R424 to R427). -/
structure Halt where
  cause : Nat
  kind : Nat := 0
  /-- the raising group, or none -/
  gid : Option Nat := none
  launch : Option Nat := none
  core : Nat := 0xFFFF
  slice : Nat := 0
  slot : Nat := 0
  pc : DWord := 0
  team : Nat := 0xFFFFFFFF
  id : Nat := 0
  obj : List Nat := []
  arrived : Nat := 0
  exited : Nat := 0
  /-- the cycle of the raise -/
  at_ : Nat := 0
  /-- raised by CTXCMD unload -/
  unload : Bool := false
  /-- HALT_COMPLETE has written the records -/
  done : Bool := false
  deriving DecidableEq, Repr

/-- A loaded context (R48). -/
structure Ctx where
  pasid : Nat
  part : Nat
  start : Bool := false
  wdlog : Nat := 26
  fptrap : Nat := 0
  trapArea : Nat := 0
  trapSize : Nat := 0
  regions : List Region := []
  /-- frames taken, and by which group (R419) -/
  frames : AMap Nat := []
  halt : Option Halt := none
  suspended : Bool := false
  /-- its state is on the partition (R433) -/
  onPart : Bool := false
  unloading : Bool := false
  deriving DecidableEq, Repr

/-- A weir's four configuration words. -/
structure WeirCfg where
  cmp0 : Nat := 0
  cmp1 : Nat := 0
  qual : Nat := 0
  ctl : Nat := 0
  deriving DecidableEq, Repr

/-- A kernel descriptor as copied (R26, R29). -/
structure Kern where
  entry : DWord := 0
  trapEntry : DWord := 0
  weirs : List WeirCfg := []
  const0 : List Nat := []
  argSize : Nat := 0
  vregs : Nat := 32
  sregs : Nat := 16
  groups : Nat := 1
  energy : Nat := 0
  quartets : Nat := 0
  scrMin : Nat := 0
  scrMax : Nat := 0
  tbMin : Nat := 0
  cluW : Nat := 1
  cluH : Nat := 1
  gridX : Nat := 0
  gridY : Nat := 0
  gridZ : Nat := 0
  vgrid : Nat := 0
  ordered : Bool := false
  steprnd : Bool := false
  deriving DecidableEq, Repr

/-- A buffer of the ownership table (R83). -/
structure OwnBuf where
  base : Nat
  bytes : Nat
  map : Nat
  deriving DecidableEq, Repr

/-- A layer table entry, with what Sluice keeps of the layer (R32, R378 to R385). -/
structure Layer where
  src : Nat
  dst : Nat
  bytes : Nat
  flag : Nat
  wlo : Nat
  whi : Nat
  kind : Nat
  pri : Nat
  /-- the state and GEN that Sluice last wrote -/
  state : Nat := 0
  gen : Nat := 0
  fcause : Nat := 0
  /-- counted against the pool -/
  counted : Bool := false
  /-- release time; none while held (R383) -/
  release : Option Nat := none
  /-- some team has held it (R383) -/
  heldOnce : Bool := false
  deriving DecidableEq, Repr

/-- A transfer of a stream (R380). -/
structure Xfer where
  layer : Nat
  /-- it was a re-request (R378) -/
  asked : Bool := false
  done : Nat := 0
  /-- KIND 1: a remote request of the beat is outstanding -/
  req : Option Nat := none
  deriving DecidableEq, Repr

/-- The model of a model launch (R31). -/
structure Model where
  layers : List Layer
  mpri : Nat
  klist : List Nat
  margSize : Nat
  /-- the stream is open (R377) -/
  open_ : Bool := false
  /-- re-requests and initial entries queued (R378) -/
  rereq : List Nat := []
  initial : List Nat := []
  cur : Option Xfer := none
  /-- layers being evicted -/
  evicting : List Nat := []
  /-- layers whose flag's memory is still to be written with what Sluice holds: its page is not translated -/
  flagPend : List Nat := []
  deriving DecidableEq, Repr

/-- A launch taken and not completed (R57, R59). -/
structure Launch where
  chain : Nat
  record : Nat
  seq : Nat
  ctx : Nat
  prio : Nat := 0
  /-- take order -/
  order : Nat := 0
  crAddr : Nat := 0
  kern : Kern := {}
  gridX : Nat := 1
  gridY : Nat := 1
  gridZ : Nat := 1
  /-- constant bank 1: the argument block -/
  args : List Nat := []
  owns : List OwnBuf := []
  ownTab : Nat := 0
  ownLen : Nat := 0
  model : Option Model := none
  kidx : Nat := 0
  /-- remap table of a virtual grid: core of each logical core (R77) -/
  remap : AMap Nat := []
  /-- clusters admitted: the next one in grid order -/
  nextClu : Nat := 0
  /-- logical cores that have been resident (R82) -/
  ran : List Nat := []
  /-- the logical core that had the last turn on a core (R79) -/
  turns : AMap Nat := []
  retired : List Nat := []
  firstAdmit : Option Nat := none
  /-- the cycle since which its first unadmitted cluster is passed over (R74) -/
  passed : Option Nat := none
  /-- its status is settled and no more work starts -/
  status : Option Nat := none
  cause : Nat := 0
  detail : Nat := 0
  cancelled : Bool := false
  /-- kernels to come must first be checked (R31) -/
  needKern : Bool := false
  serialDone : Bool := false
  deriving DecidableEq, Repr

/-- A command chain (R50 to R53, R61). -/
structure Chain where
  base : Nat := 0
  comp : Nat := 0
  prio : Nat := 0
  en : Bool := false
  state : Nat := 0
  linkErr : Bool := false
  tailErr : Bool := false
  head : Nat := 0
  tail : Nat := 0
  /-- S of R52, and the completion word as last written -/
  s0 : Nat := 0
  word : Nat := 0
  /-- address of the segment of record `head`; and that its NEXT must be read first -/
  seg : Nat := 0
  needNext : Bool := false
  /-- a NEXT word failed, and is read again only after a doorbell or a clear of LINKERR (R53) -/
  stuck : Bool := false
  /-- completed records not yet under the word: record number to status -/
  recs : AMap Nat := []
  deriving DecidableEq, Repr

/-- A whole-context exchange under way (R433). -/
structure Exch where
  out : Option Nat
  inn : Option Nat
  /-- BUSY of XCHGCMD waits for it -/
  cmd : Bool := false
  deriving DecidableEq, Repr

/-- A partition and its registers (R46, R379, R426, R460). -/
structure Part where
  slicep : Nat := 0x000A
  granules : Nat := 0
  pool : Nat := 0
  haltBase : Nat := 0
  haltValid : Bool := false
  haltEn : Bool := false
  tctx : Nat := 0
  ictx : Nat := 0
  insp : Bool := false
  /-- the context that holds the turn, and the cycle its turn began (R47) -/
  turn : Option Nat := none
  turnAt : Nat := 0
  /-- the context whose turn was the last to end -/
  lastCtx : Option Nat := none
  exch : Option Exch := none
  lastAnchor : Option Nat := none
  /-- the launch that alone may admit (R74) -/
  starved : Option Nat := none
  deriving DecidableEq, Repr

/-! ### Cores and units -/

/-- A weir of a core (R444). -/
structure Weir where
  /-- 0 free, 1 loaded, 2 set -/
  st : Nat := 0
  owner : Nat := 0
  /-- the launches that loaded it, or the one that set it -/
  launches : List Nat := []
  cfg : WeirCfg := {}
  count : Nat := 0
  deriving DecidableEq, Repr

/-- A core (R66, R67, R70, R113, R456, R473). -/
structure Core where
  budget : Nat := 64
  nb : Nat := 0
  weirs : AMap Weir := []
  weirLog : Nat := 0
  /-- MODEL: the cycle, slice and weir of the hit that WEIRLOG holds (R456) -/
  hitAt : Nat := 0
  illog : Nat := 0
  /-- leaf counters 0x01 to 0x12 -/
  leaf : AMap Nat := []
  marked : Bool := false
  /-- slices that have had their cycle of `now` -/
  did : Word := 0
  /-- round-robin pointers of the slices (R123) -/
  ptr : AMap Nat := []
  /-- the first cycle in which a slice's vector datapath accepts an instruction again (R118) -/
  vbusy : AMap Nat := []
  /-- units that serve slices in turn: (cycle + 1) × 16 + slice, as last served (R119) -/
  served : AMap Nat := []
  deriving DecidableEq, Repr

/-- An operation of a matrix array: a matrix-class word that was accepted, or waits in a joint operation (R345, R346). -/
structure MatOp where
  gid : Nat
  seq : Nat
  ins : Instr
  team : Nat
  core : Nat
  quad : Nat
  exec : Word
  pc : DWord
  npc : DWord
  w0 : Word
  w1 : Option Word
  /-- the scalars it read -/
  word : Nat := 0
  arg1 : Nat := 0
  arg2 : Nat := 0
  /-- operands captured at issue: (register offset × 32 + lane), or words of a rectangle -/
  regs : AMap Word := []
  /-- the B operand: (member × 64 + register offset) × 32 + lane; member 0 for a solo operation -/
  bq : AMap Word := []
  begun : Bool := false
  poison : Bool := false
  /-- the joint operation that it belongs to; 0 for a solo operation -/
  jid : Nat := 0
  /-- the cycle of its issue -/
  at_ : Nat := 0
  deriving DecidableEq, Repr

/-- A pending joint operation of a quartet (R346, R347). -/
structure Joint where
  team : Nat
  quartet : Nat
  /-- opcode, FN, ATYPE, CTYPE, SP of the member that issued first -/
  params : List Nat
  members : AMap MatOp := []
  since : Nat := 0
  deriving DecidableEq, Repr

/-- A quad's array: the operations it has accepted, oldest first (R345). -/
structure Quad where
  queue : List MatOp := []
  deriving DecidableEq, Repr

/-- The kinds of copy (R315). -/
inductive CopyKind where
  | rows | gather | scatter
  deriving DecidableEq, Repr

/-- An end of a copy: global (local or remote), or the grant of a team. -/
inductive End where
  | glob
  | team (id : Nat)
  deriving DecidableEq, Repr

/-- An engine operation (R313 to R319). -/
structure EngOp where
  id : Nat
  gid : Nat
  team : Nat
  ctx : Nat
  launch : Nat
  core : Nat
  seq : Nat
  ins : Instr
  pc : DWord
  w0 : Word
  w1 : Word
  exec : Word
  kind : CopyKind
  src : End
  /-- destinations: one, or each target team of ACOPYM -/
  dsts : List End
  srcAddr : Nat := 0
  dstAddr : Nat := 0
  bytes : Nat := 0
  rows : Nat := 1
  sstride : Nat := 0
  dstride : Nat := 0
  /-- gather and scatter: lane, and its global address -/
  elems : List (Nat × Nat) := []
  /-- barrier objects: team and offset -/
  objs : List (Nat × Nat) := []
  /-- the offset that C names -/
  objOff : Option Nat := none
  /-- bytes written, of each destination alike -/
  done : Nat := 0
  /-- a remote request of the current beat is outstanding -/
  req : Option Nat := none
  /-- the operation ends in error: the trap that its group takes (R317) -/
  err : Option TrapRec := none
  /-- KIND 0 weirs that have matched (R450) -/
  weirs : List Nat := []
  deriving DecidableEq, Repr

/-- Who sent a remote request (R397). -/
inductive RemWho where
  | lanes (gid seq : Nat) (lanes : Word)
  | op (id : Nat)
  | stream (launch : Nat)
  deriving DecidableEq, Repr

/-- A remote request sent and not answered (R397, R399). -/
structure Rem where
  id : Nat
  who : RemWho
  ctx : Nat
  core : Nat := 0
  dev : Nat
  rclass : Nat
  addr : Nat
  msg : RemMsg
  since : Nat
  team : Nat := 0
  group : Nat := 0
  pc : DWord := 0
  w0 : Word := 0
  w1 : Word := 0
  /-- the operands of the lanes of a combined atomic, in lane order (R400), and those of one sent lane by lane -/
  args : List (Nat × Nat × Nat) := []
  ty : Ty := .n32
  /-- an answer is due: check 4 of R397 failed -/
  ready : Option RemAns := none
  deriving DecidableEq, Repr

/-- A remote request that waits at this target for a page or a layer (R397). -/
structure TReq where
  id : Nat
  msg : RemMsg
  loop : Nat
  /-- its address, once checks 5 to 7 have passed: it completes as checked (R394) -/
  addr : Option Nat := none
  deriving DecidableEq, Repr

/-- A collective posted on this device (R410, R414). -/
structure Coll where
  id : Nat
  slot : Nat
  comm : Nat
  cid : Nat
  seq : Nat
  m : Nat
  rank : Nat
  gid : Nat
  fly : Nat
  team : Nat
  launch : Nat
  core : Nat
  pc : DWord
  w0 : Word
  w1 : Word
  exec : Word
  dreg : Nat
  src : Nat
  dst : Nat
  count : Nat
  op : Nat
  ty : Ty
  block : Bool
  bucket : Bool
  root : Nat
  counter : Option Nat
  /-- where the device numbers of the members stand, and the route class, as the entry gave them (R409) -/
  members : Nat := 0
  rclass : Nat := 0
  fill : Nat := 0
  started : Bool := false
  /-- its own contribution, as read when it started, and whether that was poisoned -/
  mine : List Nat := []
  minePois : Bool := false
  /-- ended with this status -/
  ended : Option Nat := none
  /-- the cycle in which it was posted -/
  posted : Nat := 0
  deriving DecidableEq, Repr

/-- A contribution of another rank that has arrived for a communicator of a slot (R409, R411). -/
structure CMsg where
  slot : Nat
  comm : Nat
  seq : Nat
  rank : Nat
  bytes : List Nat
  poison : Bool
  deriving DecidableEq, Repr

/-- A communicator of a context: the next expected SEQ, and those above it that have started (R414). -/
structure Comm where
  next : Nat := 1
  started : List Nat := []
  deriving DecidableEq, Repr

/-! ### Device registers and management -/

/-- A monitor unit (R475). -/
structure Mon where
  cfg : Nat := 0
  min : Nat := 0xFFFFFFFFFFFFFFFF
  max : Nat := 0
  count : Nat := 0
  sum : Nat := 0
  buckets : AMap Nat := []
  deriving DecidableEq, Repr

/-- The Plume of a die (R469 to R471). -/
structure Plume where
  core : Nat := 0
  head : Nat := 0
  wrapped : Bool := false
  stoph : Bool := false
  wrap : Bool := false
  recording : Bool := false
  /-- recording has stopped and the contents are held -/
  held : Bool := false
  daddr : Nat := 0
  dctx : Nat := 0
  truncOff : Nat := 0
  trunc : Bool := false
  done : Bool := false
  busy : Bool := false
  t0 : Nat := 0
  /-- records: cycle index × 16 + slice -/
  recs : AMap Nat := []
  /-- a halt on the attached core stops the recording after this cycle (STOPH) -/
  stopNow : Bool := false
  deriving DecidableEq, Repr

/-- A firmware slot of the flash (R485, R487). -/
structure FwSlot where
  /-- something has been written since the last erase -/
  used : Bool := false
  bytes : AMap Byte := []
  /-- the image has passed VERIFY since its last ERASE or WRITE -/
  verified : Bool := false
  deriving DecidableEq, Repr

/-- The Runnel registers of a context slot (R393). -/
structure SlotRegs where
  peerCfg : Nat := 0
  expCfg : Nat := 0
  expCnt : Nat := 0
  commCfg : Nat := 0
  deriving DecidableEq, Repr

/-- The device's registers outside chains and partitions. -/
structure Dev where
  -- DEVSTAT, CORESAV (R486)
  svn : Nat := 0
  slot : Nat := 0
  state : Nat := 0
  /-- usable cores, one bit each -/
  coresav : Nat := 2 ^ 384 - 1
  -- the mailbox (R487)
  mbBusy : Bool := false
  mbIen : Bool := false
  mbResult : Nat := 0
  mbOp : Nat := 0
  mbArg : AMap Nat := []
  mbBuf : AMap Byte := []
  /-- the next reset tries this slot first -/
  bootNext : Nat := 1
  /-- slot A holds an image, of which the spec says nothing (Config.imageOk) -/
  fwA : FwSlot := { used := true }
  fwB : FwSlot := {}
  fusedMin : Nat := 0
  /-- a reset is due once every context is unloaded -/
  resetDue : Bool := false
  -- CTXBASE, CTXCMD (R48, R49)
  ctxBase : Nat := 0
  ctxBusy : Bool := false
  ctxOp : Nat := 0
  ctxResult : Nat := 0
  ctxSlot : Nat := 0
  /-- GiB of the BAR4 window, set through the Resizable BAR capability (R44) -/
  bar4Gib : Nat := 512
  -- BASINCFG (R281)
  basinBase : Nat := 0
  basinLogn : Nat := 0
  basinEn : Bool := false
  -- RMTINV (R394)
  rmtBusy : Bool := false
  rmtSlot : Nat := 0
  -- ROUTECTL (R407)
  linkDown : Nat := 0
  rtBase : Nat := 0
  devnum : Nat := 0
  reload : Bool := false
  routeEn : Bool := false
  /-- the device number and table in force since the last reload -/
  devNow : Nat := 0
  /-- route bytes in force: entries of the table that are not 31 -/
  route : AMap Nat := []
  -- XCHGCMD (R432)
  xBusy : Bool := false
  xResult : Nat := 0
  xSlot : Nat := 0
  -- the host-call ring (R439)
  hcBase : Nat := 0
  hcLogn : Nat := 0
  hcEn : Bool := false
  hcProd : Nat := 0
  hcCons : Nat := 0
  hcDrop : Nat := 0
  /-- records appended and not yet written, oldest first: the 24 bytes that follow SEQ -/
  hcPend : List (List Nat) := []
  -- errors (R479, R480)
  errStat : Nat := 0
  errEn : Nat := 0xFE
  errLog : Nat := 0
  soft : AMap Nat := []
  -- power (R483)
  limitW : Nat := 2000
  avgW : Nat := 0
  lowCnt : Nat := 0
  highCnt : Nat := 0
  deriving DecidableEq, Repr

/-- A message that leaves the device. -/
inductive Out where
  | msix (vector : Nat)
  | ats (pasid page : Nat) (w x : Bool)
  | pri (pasid page : Nat) (w x : Bool)
  | invDone (pasid addr : Nat)
  | remote (id dev : Nat) (msg : RemMsg)
  | remoteAnswer (ans : RemAns)
  /-- a contribution, to the devices of the other members over a route class: all of it, or for an all-to-all to each its chunk -/
  | coll (cid seq rank : Nat) (dests : List Nat) (rclass : Nat) (bytes : List Nat) (poison : Bool)
  /-- an end notice, to the devices of the other members that a route reaches (R415) -/
  | endNotice (cid seq status : Nat) (dests : List Nat)
  | hostAtomic (addr : Nat)
  | hcall (bytes : List Nat)
  | read (bytes : List Nat) (poison : Bool)
  | spdm (code : Nat) (body : List Nat)
  deriving DecidableEq, Repr

/-- An address range of the requester ID's space, where the host maps it: to HBM or to host memory (R45); its IOMMU may refuse reads of it
(R53). -/
structure RidRange where
  base : Nat
  size : Nat
  hbm : Bool
  dest : Nat
  noRead : Bool := false
  deriving DecidableEq, Repr

/-- A thing the environment does, when it is due. -/
structure Due where
  at_ : Nat
  ins : Instr
  ev : Ev
  deriving DecidableEq, Repr

/-- The word that a slice has chosen to issue (R118 to R129). -/
structure Issue where
  gid : Nat
  pc : DWord
  cl : Clause
  lanes : Word
  /-- HSTEP: the group, register and sequence of the inspector that steps this lane (R467) -/
  step : Option (Nat × Nat) := none
  deriving DecidableEq, Repr

/-! ### The machine -/

structure State where
  /-- the device cycle count (R469 T0, R473 CYCLES) -/
  now : Nat := 0
  -- MODEL: what happens next
  agenda : List Due := []
  ev : Ev := {}
  sel : Option Issue := none
  turn : Nat := 0
  free : Nat := 0
  nextId : Nat := 1
  /-- the place (core, slice, slot) of the last group in this cycle that the event arbiter has seen (R436) -/
  pos : Nat := 0
  -- the device
  dev : Dev := {}
  slots : AMap SlotRegs := []
  parts : AMap Part := []
  chains : AMap Chain := []
  /-- round-robin pointer of the front-end among chains of each PRIO (R56) -/
  rrChain : AMap Nat := []
  /-- the chain whose record the front-end is taking, while a read of it waits (R498) -/
  feChain : Option Nat := none
  cores : AMap Core := []
  plume : AMap Plume := []
  mons : AMap Mon := []
  -- work
  ctxs : AMap Ctx := []
  launches : AMap Launch := []
  teams : AMap Team := []
  groups : AMap Group := []
  quads : AMap Quad := []
  joints : AMap Joint := []
  ops : AMap EngOp := []
  rems : AMap Rem := []
  treqs : AMap TReq := []
  colls : AMap Coll := []
  cmsgs : List CMsg := []
  comms : AMap Comm := []
  /-- table entries that the device holds (R394): (slot × 4 + table) × 4096 + index -/
  tabs : AMap Nat := []
  -- translation and instruction lines
  /-- instruction-cache lines (R90): by core, PASID and line (`lineKey`), the 128 bytes as they were when the line was filled -/
  ilines : AMap (List Nat) := []
  /-- the lines of the cores' L1s (R275), by core, PASID and line of memory (`l1Key`) -/
  l1 : AMap L1Line := []
  /-- the cores' L1 TLBs (R279) -/
  ctlb : AMap (List TransEnt) := []
  /-- the translations in Basin (R281) -/
  basin : List TransEnt := []
  /-- translations that units outside the cores hold -/
  tlb : List Trans := []
  waits : List PWait := []
  /-- ATS invalidations received and not completed: PASID, address -/
  invs : List (Nat × Nat) := []
  /-- the host's map of the requester ID's space; elsewhere it is host memory at the same address -/
  rid : List RidRange := []
  -- memory: HBM by physical address, host memory from 2^64 on
  mem : List Host.Cell := []
  /-- poisoned 16-byte granules (R478) -/
  pois : AMap Bool := []
  out : List Out := []
  deriving DecidableEq, Repr

/-- The machine right after a device reset (R485, R486): every register at the value its field map gives, no context, no work,
and memory with nothing listed. DESIGN CHOICE: see notes/assumptions for the registers whose reset value the spec does not give. -/
def State.reset : State := {}

/-- Why the machine stops. -/
inductive Fault where
  /-- An instruction of the ISA was to run with no issue chosen, or with an issue whose group does not exist: no state that a step
  makes. Raised by every ISA meaning. Safe. -/
  | noIssue
  deriving DecidableEq, Repr

/-- Why the model gives no meaning. -/
inductive Refusal where
  /-- The instruction has no meaning in the model yet; raised by its arm of `exec` only. Safe. -/
  | notModelled (mnemonic : String)
  deriving DecidableEq, Repr

end Sys2Proof.Machine
end

