-- ==== Sys2Proof/Machine/Ops.lean ====
section
/-! DEFINITION. Machine/Ops.lean: the named operations over bytes, masks, registers, lanes, memory and translation; raising the
halt line; taking a trap and returning from one. -/

namespace Sys2Proof.Machine

/-! ### Numbers and bytes (R13) -/

/-- The `n` bytes of a number, lowest first. -/
def leBytes : Nat → Nat → List Nat
  | 0, _ => []
  | n + 1, v => v % 256 :: leBytes n (v / 256)

/-- The number that bytes spell, lowest first. -/
def leNat : List Nat → Nat
  | [] => 0
  | b :: r => b % 256 + 256 * leNat r

/-- Sign-extend the low `n` bits of a number (R173), as an integer. -/
def sextI (n v : Nat) : Int := if v % 2 ^ n < 2 ^ (n - 1) then ((v % 2 ^ n : Nat) : Int) else ((v % 2 ^ n : Nat) : Int) - 2 ^ n

/-- An integer modulo 2^n. -/
def wrapN (n : Nat) (i : Int) : Nat := (i % (2 ^ n : Int)).toNat

/-- Sign-extend from `n` bits to 64 (R173, R286). -/
def sext64 (n v : Nat) : Nat := wrapN 64 (sextI n v)

/-- CRC-32C of bytes (R21), one bit at a time. -/
def crcBit (c : Nat) : Nat := if c % 2 = 1 then Nat.xor (c / 2) 0x82F63B78 else c / 2
/-- CRC-32C after one more byte. -/
def crcByte (c b : Nat) : Nat := crcBit (crcBit (crcBit (crcBit (crcBit (crcBit (crcBit (crcBit (Nat.xor c (b % 256)))))))))
/-- CRC-32C of bytes (R21). -/
def crc32c (bs : List Nat) : Nat := Nat.xor (bs.foldl crcByte 0xFFFFFFFF) 0xFFFFFFFF

/-- `n` elements from index `i`. -/
def slice {α : Type} (l : List α) (i n : Nat) : List α := (l.drop i).take n

/-- The number at offset `i` of `n` bytes of a byte list. -/
def fieldAt (bs : List Nat) (i n : Nat) : Nat := leNat (slice bs i n)

/-- Insert by a key into a rising list. -/
def insertBy {α : Type} (key : α → Nat) (x : α) : List α → List α
  | [] => [x]
  | y :: r => if key x < key y then x :: y :: r else y :: insertBy key x r
/-- Sort by a key, stably. -/
def sortBy {α : Type} (key : α → Nat) (l : List α) : List α := l.foldl (fun a x => insertBy key x a) []

/-! ### Lane masks -/

/-- The lanes of a mask, ascending. -/
def lanesOf (m : Word) : List Nat := (List.range 32).filter fun i => m.getLsbD i

/-- The mask of one lane. -/
def lbit (i : Nat) : Word := BitVec.ofNat 32 (2 ^ i)

/-- The mask of the lanes for which `f` holds. -/
def maskOf (f : Nat → Bool) : Word := (List.range 32).foldl (fun a i => if f i then a ||| lbit i else a) 0

/-- All 32 lanes. -/
def allLanes : Word := 0xFFFFFFFF

/-- The lowest lane of a mask. -/
def lowLane (m : Word) : Nat := ((lanesOf m).head?).getD 0

/-- How many lanes a mask holds. -/
def popc (m : Word) : Nat := (lanesOf m).length

/-! ### Registers of a group (R148, R149) -/

/-- Vector register `r` of lane `L`. -/
def vget (g : Group) (r L : Nat) : Word := mget g.v 0 (r * 32 + L)

/-- Write a vector register of a lane. The write drops its extended value (R171) and clears its poison (R478). -/
def vset (g : Group) (r L : Nat) (x : Word) : Group :=
  { g with v := msetD g.v 0 (r * 32 + L) x, ext := mdel g.ext (r * 32 + L), vpois := mdel g.vpois (r * 32 + L) }

/-- A pair of vector registers, low word first. -/
def vget64 (g : Group) (r L : Nat) : DWord := vget g (r + 1) L ++ vget g r L

/-- Write a pair of vector registers. -/
def vset64 (g : Group) (r L : Nat) (x : DWord) : Group :=
  vset (vset g r L (x.truncate 32)) (r + 1) L ((x >>> 32).truncate 32)

/-- Scalar register `r`. -/
def sget (g : Group) (r : Nat) : Word := mget g.s 0 r

/-- Write a scalar register; the write clears its poison (R478). -/
def sset (g : Group) (r : Nat) (x : Word) : Group := { g with s := msetD g.s 0 r x, spois := mdel g.spois r }

/-- A scalar pair. -/
def sget64 (g : Group) (r : Nat) : DWord := sget g (r + 1) ++ sget g r

/-- Write a scalar pair. -/
def sset64 (g : Group) (r : Nat) (x : DWord) : Group := sset (sset g r (x.truncate 32)) (r + 1) ((x >>> 32).truncate 32)

/-- Predicate `n`, bit L for lane L. -/
def pget (g : Group) (n : Nat) : Word := mget g.p 0 n

/-- Write the bits of a predicate in the lanes of `m`. -/
def pset (g : Group) (n : Nat) (m x : Word) : Group := { g with p := msetD g.p 0 n ((pget g n &&& ~~~m) ||| (x &&& m)) }

/-- Mask register `n`. -/
def kget (g : Group) (n : Nat) : Word := mget g.k 0 n

/-- Write a mask register. -/
def kset (g : Group) (n : Nat) (x : Word) : Group := { g with k := msetD g.k 0 n x }

/-- Dependency counter `n` (R142). -/
def dget (g : Group) (n : Nat) : Nat := mget g.d 0 n

/-- Write a dependency counter. -/
def dset (g : Group) (n x : Nat) : Group := { g with d := msetD g.d 0 n x }

/-- Loop counter `n` (R188). -/
def lcget (g : Group) (n : Nat) : Word := mget g.lc 0 n

/-- Write a loop counter. -/
def lcset (g : Group) (n : Nat) (x : Word) : Group := { g with lc := msetD g.lc 0 n x }

/-- Loop state `n` (R191). -/
def loopGet (g : Group) (n : Nat) : Loop := mget g.loops {} n

/-- Write a loop state. -/
def loopSet (g : Group) (n : Nat) (x : Loop) : Group := { g with loops := msetD g.loops {} n x }

/-- Mark a vector register of a lane poisoned (R478). -/
def vpoison (g : Group) (r L : Nat) : Group := { g with vpois := mput g.vpois (r * 32 + L) true }

/-- Drop the extended values of the lanes of `m` (R171). -/
def dropExt (g : Group) (m : Word) : Group := { g with ext := g.ext.filter fun e => !m.getLsbD (e.1 % 32) }

/-! ### Lanes -/

/-- Lane `L` of a group. -/
def laneGet (g : Group) (L : Nat) : Lane := mget g.lanes {} L

/-- Write a lane. -/
def laneSet (g : Group) (L : Nat) (x : Lane) : Group := { g with lanes := msetD g.lanes {} L x }

/-- Change the lanes of a mask. -/
def laneMod (g : Group) (m : Word) (f : Nat → Lane → Lane) : Group :=
  (lanesOf m).foldl (fun g L => laneSet g L (f L (laneGet g L))) g

/-- The lanes whose record satisfies `f`. -/
def lanesWhere (g : Group) (f : Lane → Bool) : Word := maskOf fun L => f (laneGet g L)

/-- Live lanes (R127). -/
def liveLanes (g : Group) : Word := lanesWhere g fun l => l.st != .dead

/-- Lanes in a handler (R131). -/
def handLanes (g : Group) : Word := lanesWhere g fun l => l.st != .dead && l.hand

/-- Running lanes that may issue: those of the handler while a lane is in it (R127, R131). -/
def runLanes (g : Group) : Word :=
  if handLanes g = 0 then lanesWhere g fun l => l.st == .run && !l.heldT
  else lanesWhere g fun l => l.st == .run && l.hand && !l.tret

/-- A lane becomes halted; it honours its clause's WAIT again when it resumes (R97, R100). -/
def haltLane (l : Lane) : Lane := { l with st := .halted, waited := false }

/-- A lane goes on running, or becomes halted where a halt is pending for it (R452). -/
def goOn (l : Lane) : Lane := if l.haltPend then { haltLane l with haltPend := false } else { l with st := .run }

/-- The address after a clause. -/
def clauseEnd (c : Clause) : DWord := c.addr + BitVec.ofNat 64 (4 * c.words.length)

/-- A lane at an address inside its clause, or at its end, where the next clause must be fetched. -/
def laneAt (l : Lane) (c : Clause) (pc : DWord) : Lane :=
  { l with pc := pc, cl := if pc = clauseEnd c then none else some c }

/-! ### Parts of the state -/

/-- A group. -/
def group? (s : State) (id : Nat) : Option Group := mget? s.groups id
/-- Write a group. -/
def setGroup (s : State) (id : Nat) (g : Group) : State := { s with groups := mput s.groups id g }
/-- Change a group that exists. -/
def modGroup (s : State) (id : Nat) (f : Group → Group) : State := { s with groups := mmod s.groups id f }
/-- Change every group. -/
def mapGroups (s : State) (f : Nat → Group → Group) : State := { s with groups := mmap s.groups f }
/-- A team. -/
def team? (s : State) (id : Nat) : Option Team := mget? s.teams id
/-- Change a team that exists. -/
def modTeam (s : State) (id : Nat) (f : Team → Team) : State := { s with teams := mmod s.teams id f }
/-- A context slot's context. -/
def ctx? (s : State) (id : Nat) : Option Ctx := mget? s.ctxs id
/-- Change a context that exists. -/
def modCtx (s : State) (id : Nat) (f : Ctx → Ctx) : State := { s with ctxs := mmod s.ctxs id f }
/-- A launch. -/
def launch? (s : State) (id : Nat) : Option Launch := mget? s.launches id
/-- Change a launch that exists. -/
def modLaunch (s : State) (id : Nat) (f : Launch → Launch) : State := { s with launches := mmod s.launches id f }
/-- A core. -/
def coreAt (s : State) (id : Nat) : Core := mget s.cores {} id
/-- Change a core. -/
def modCore (s : State) (id : Nat) (f : Core → Core) : State := { s with cores := msetD s.cores {} id (f (coreAt s id)) }
/-- A partition. -/
def part (s : State) (id : Nat) : Part := mget s.parts {} id
/-- Change a partition. -/
def modPart (s : State) (id : Nat) (f : Part → Part) : State := { s with parts := msetD s.parts {} id (f (part s id)) }
/-- A chain. -/
def chain (s : State) (id : Nat) : Chain := mget s.chains {} id
/-- Change a chain. -/
def modChain (s : State) (id : Nat) (f : Chain → Chain) : State := { s with chains := msetD s.chains {} id (f (chain s id)) }
/-- The Runnel registers of a slot (R393). -/
def slotRegs (s : State) (id : Nat) : SlotRegs := mget s.slots {} id
/-- A quad's array. -/
def quad (s : State) (id : Nat) : Quad := mget s.quads {} id
/-- Change a quad's array. -/
def modQuad (s : State) (id : Nat) (f : Quad → Quad) : State := { s with quads := msetD s.quads {} id (f (quad s id)) }
/-- Change the device's registers. -/
def modDev (s : State) (f : Dev → Dev) : State := { s with dev := f s.dev }
/-- A message leaves the device. -/
def emit (s : State) (o : Out) : State := { s with out := s.out ++ [o] }
/-- The core of a group's team. -/
def coreOf (s : State) (g : Group) : Nat := ((team? s g.team).map (·.core)).getD 0
/-- The groups of a context, with their numbers. -/
def ctxGroups (s : State) (c : Nat) : List (Nat × Group) := s.groups.filter fun e => e.2.ctx == c && !e.2.ended

/-! ### Errors (R480) -/

/-- Set a bit of ERRSTAT; vector 0 is sent when ERRSTAT & ERREN becomes non-zero. -/
def raiseErr (s : State) (bit : Nat) : State :=
  let e := if s.dev.errStat.testBit bit then s.dev.errStat else s.dev.errStat + 2 ^ bit
  let s' := modDev s fun d => { d with errStat := e }
  if Nat.land s.dev.errStat s.dev.errEn = 0 ∧ Nat.land e s.dev.errEn ≠ 0 then emit s' (.msix 0) else s'

/-! ### Monitors (R475) -/

/-- A monitor unit takes a value. -/
def monTake (m : Mon) (x : Nat) : Mon :=
  let base := bitsOf m.cfg 0 32
  let b := if x < base then 0 else min 15 (1 + (x - base) / 2 ^ bitsOf m.cfg 32 5)
  let top := 2 ^ 64 - 1
  { m with count := min top (m.count + 1), sum := min top (m.sum + x), min := min m.min x, max := max m.max x,
           buckets := mput m.buckets b (min top (mget m.buckets 0 b + 1)) }

/-- A unit of a die records a source of a core and a context; without a core, only where it records every core. -/
def monHears (m : Mon) (core : Option Nat) (cx src : Nat) : Bool :=
  m.cfg.testBit 63 && bitsOf m.cfg 40 4 == src && (m.cfg.testBit 52 || bitsOf m.cfg 53 9 == cx)
    && (m.cfg.testBit 51 || match core with | some c => bitsOf m.cfg 44 7 == c % 96 | none => false)

/-- A latency of a source is recorded by the units of its die (R475). -/
def monRecord (s : State) (core : Option Nat) (cx src x : Nat) : State :=
  if s.mons = [] then s
  else
    let die := core.getD 0 / 96
    { s with mons := mmap s.mons fun k m => if k / 64 == die && monHears m core cx src then monTake m (min x (2 ^ 32 - 1)) else m }

/-! ### Memory (R13, R278, R478) -/

/-- Bytes of HBM (R278). -/
def hbmSize : Nat := 576 * 2 ^ 30
/-- A range meets the areas of HBM that lie outside every context's reach: Basin's, and that of saved teams (R278, R281). -/
def kept (d : Dev) (a n : Nat) : Bool :=
  (d.basinEn && a < d.basinBase * 4096 + 16 * 2 ^ d.basinLogn && d.basinBase * 4096 < a + n)
    || (a < Config.savedArea.1 + Config.savedArea.2 && Config.savedArea.1 < a + n)

/-- The key of host memory address 0; HBM keys are physical addresses below it. -/
def hostBase : Nat := 2 ^ 64

/-- A byte of memory; one that nothing has written reads as 0 (DESIGN CHOICE, see notes/assumptions/1.md). -/
def readByte (s : State) (a : Nat) : Byte := mget s.mem 0 a

/-- `n` bytes from a key. -/
def readBytes (s : State) (a n : Nat) : List Nat := (List.range n).map fun i => (readByte s (a + i)).toNat

/-- A number of `n` bytes from a key. -/
def readNat (s : State) (a n : Nat) : Nat := leNat (readBytes s a n)

/-- The canonical form of memory: addresses strictly rising, and no entry equal to what an unlisted address reads as, 0
(notes/assumptions/1.md). -/
def Memory.wf (m : List Host.Cell) : Bool := mwf (0 : Byte) m

/-- Write a byte. -/
def writeByte (m : List Host.Cell) (a : Nat) (b : Byte) : List Host.Cell := msetD m (0 : Byte) a b

/-- Write bytes into the cells. -/
def writeCells (m : List Host.Cell) (a : Nat) : List Nat → List Host.Cell
  | [] => m
  | b :: r => writeCells (writeByte m a (BitVec.ofNat 8 b)) (a + 1) r

/-- Whether a byte lies in a poisoned granule. -/
def poisoned (s : State) (a n : Nat) : Bool :=
  (List.range ((a + n + 15) / 16 - a / 16)).any fun i => mget s.pois false (a / 16 + i)

/-- The granules that `n` bytes at `a` cover whole become clean (R478). -/
def cleanGran (p : AMap Bool) (a n : Nat) : AMap Bool :=
  (List.range ((a + n) / 16 - (a + 15) / 16)).foldl (fun p i => mdel p ((a + 15) / 16 + i)) p

/-- Every granule that `n` bytes at `a` touch becomes poisoned. -/
def poisonGran (p : AMap Bool) (a n : Nat) : AMap Bool :=
  (List.range ((a + n + 15) / 16 - a / 16)).foldl (fun p i => mput p (a / 16 + i) true) p

/-- The key of an instruction-cache line: a core, a PASID and the line of an address (R90). -/
def lineKey (cr pasid va : Nat) : Nat := (cr * 2 ^ 20 + pasid) * 2 ^ 50 + va / 128

/-- Write clean bytes (R478). -/
def writeBytes (s : State) (a : Nat) (bs : List Nat) : State :=
  { s with mem := writeCells s.mem a bs, pois := cleanGran s.pois a bs.length }

/-- Write bytes with poison (R267, R478). -/
def writePoison (s : State) (a : Nat) (bs : List Nat) : State :=
  { s with mem := writeCells s.mem a bs, pois := poisonGran s.pois a bs.length }

/-- The key of an address of the requester ID's space (R45): as the host maps it, else host memory. -/
def ridKey (s : State) (a : Nat) : Nat :=
  match s.rid.find? fun r => r.base ≤ a && a < r.base + r.size with
  | some r => (if r.hbm then 0 else hostBase) + r.dest + (a - r.base)
  | none => hostBase + a

/-- The host's IOMMU refuses a read at an address of the requester ID's space (R53). -/
def ridRefused (s : State) (a : Nat) : Bool := s.rid.any fun r => r.base ≤ a && a < r.base + r.size && r.noRead

/-- Bytes at an address of the requester ID's space; the host maps it in whole pages, and no unit of the device reads across two. What
comes of a read that is refused is free (log entry 5). -/
def ridRead (s : State) (a n : Nat) : List Nat :=
  if ridRefused s a then (List.range n).map fun i => Config.refusedByte (a + i) % 256 else readBytes s (ridKey s a) n
/-- The range is unreadable: a byte of it is poisoned, or the read is refused. -/
def ridBad (s : State) (a n : Nat) : Bool := ridRefused s a || poisoned s (ridKey s a) n

/-! ### Translation (R279) -/

/-- What a lookup gives: the key of the byte, and whether the page is host memory. -/
inductive TrRes where
  | ok (key : Nat) (host : Bool)
  | miss
  | deny
  deriving DecidableEq, Repr

/-- The permissions that an access needs: those of a load, a store, an atomic, or a fetch (R90, R262). -/
inductive Need where | rd | wr | rw | ex
  deriving DecidableEq, Repr

/-- The access reads. -/
def Need.r : Need → Bool | .wr => false | _ => true
/-- The access writes. -/
def Need.w : Need → Bool | .wr | .rw => true | _ => false
/-- The access executes. -/
def Need.x : Need → Bool | .ex => true | _ => false

/-- Permissions suffice for an access. -/
def Need.met (n : Need) (r w x : Bool) : Bool := (!n.r || r) && (!n.w || w) && (!n.x || x)

/-- A translation covers an address of a PASID. -/
def Trans.covers (t : Trans) (pasid va : Nat) : Bool := t.pasid == pasid && t.va ≤ va && va < t.va + t.size

/-- Two ranges meet. -/
def meets (a n b m : Nat) : Bool := a < b + m && b < a + n

/-- The entry of a TLB or of Basin that covers an address. -/
def entOf (l : List TransEnt) (pasid va : Nat) : Option Trans := (l.find? fun e => e.tr.covers pasid va).map (·.tr)

/-- The entries of a core's L1 TLB. -/
def coreTlb (s : State) (cr : Nat) : List TransEnt := mget s.ctlb [] cr

/-- What Basin answers, where it is enabled (R281). -/
def basinOf (s : State) (pasid va : Nat) : Option Trans := if s.dev.basinEn then entOf s.basin pasid va else none

/-- The translation that covers an address, for a core, or for a unit outside the cores (`u` is none): the core's L1 TLB, then
Basin (R279). A unit outside the cores has no L1 TLB; DESIGN CHOICE (log entry 63): it keeps the translations that ATS has granted it. -/
def transOf (s : State) (u : Option Nat) (pasid va : Nat) : Option Trans :=
  match (match u with | some cr => entOf (coreTlb s cr) pasid va | none => s.tlb.find? fun t => t.covers pasid va) with
  | some t => some t
  | none => basinOf s pasid va

/-- A translation applied to an address. A hit that lacks the permission is check 8's denial. -/
def useTrans (t : Trans) (va : Nat) (n : Need) : TrRes :=
  if n.met t.r t.w t.x then .ok ((if t.host then hostBase else 0) + t.pa + (va - t.va)) t.host else .deny

/-- Look an address up. -/
def translate (s : State) (u : Option Nat) (pasid va : Nat) (n : Need) : TrRes :=
  match transOf s u pasid va with
  | none => .miss
  | some t => useTrans t va n

/-- A translation that a waiter was granted. -/
def grantedTo (s : State) (who : Waiter) (pasid va : Nat) : Option Trans :=
  s.waits.findSome? fun p => if p.who == who && p.stage == .ok then p.tr.filter fun t => t.covers pasid va else none

/-- Look an address up for a waiter, which may use what it was granted although the TLB no longer holds it (R280). -/
def translateFor (s : State) (u : Option Nat) (who : Waiter) (pasid va : Nat) (n : Need) : TrRes :=
  match transOf s u pasid va with
  | some t => useTrans t va n
  | none => match grantedTo s who pasid va with
    | some t => useTrans t va n
    | none => .miss

/-- An entry enters a list of sets of 8 ways, in place of those that it meets; a full set loses the entry that `n` names. -/
def putEnt (l : List TransEnt) (set n : Nat) (t : Trans) : List TransEnt :=
  let l1 := l.filter fun e => !(e.tr.pasid == t.pasid && meets e.tr.va e.tr.size t.va t.size)
  let same := l1.filter fun e => e.set == set
  let l2 := if l1.length < 8 || same.length < 8 then l1 else match same[n % same.length]? with
    | some v => l1.erase v
    | none => l1
  { set := set, tr := t } :: l2

/-- The teams resident on a core, in admission order. -/
def coreTeams (s : State) (cr : Nat) : List Nat :=
  let l := (s.teams.filter fun e => e.2.core == cr && e.2.st == .resident).map fun e => (e.2.admitted, e.1)
  (sortBy (fun e => e.1 * 2 ^ 64 + e.2) l).map Prod.snd

/-- The sets of a core's L1 TLB that a team fills: the first of them and how many. All 64 where Basin is enabled, else the team's range
(R281). -/
def tlbRange (s : State) (cr : Nat) (team : Option Nat) : Nat × Nat :=
  match if s.dev.basinEn then none else team with
  | none => (0, 64)
  | some t =>
    let l := coreTeams s cr
    let m := min l.length 64
    if m = 0 then (0, 64)
    else
      let j := l.idxOf t % m
      (j * (64 / m) + min j (64 % m), 64 / m + if j < 64 % m then 1 else 0)

/-- A translation fills a core's L1 TLB, for a team (R279, R281). -/
def fillCore (s : State) (cr : Nat) (team : Option Nat) (t : Trans) : State :=
  let (lo, n) := tlbRange s cr team
  { s with ctlb := mput s.ctlb cr (putEnt (coreTlb s cr) (lo + Config.tlbSet t.pasid (t.va / 4096) % n) (Config.tlbVictim s.free) t), free := s.free + 1 }

/-- A Basin hit fills the L1 TLB above it (R279). -/
def touchTlb (s : State) (cr team pasid va : Nat) : State :=
  match entOf (coreTlb s cr) pasid va with
  | some _ => s
  | none => match basinOf s pasid va with
    | some t => fillCore s cr (some team) t
    | none => s

/-- The 4 KiB page of an address. -/
def pageOf (va : Nat) : Nat := va / 4096 * 4096

/-- A fresh number. -/
def fresh (s : State) : Nat × State := (s.nextId, { s with nextId := s.nextId + 1 })

/-- A unit begins to wait for a page: an ATS request leaves (R279). A wait of the same unit for the same page is not repeated. -/
def askPasid (s : State) (who : Waiter) (ctx pasid va : Nat) (n : Need) (lanes : Word) : State :=
  let pg := pageOf va
  let same (p : PWait) : Bool := p.who == who && p.page == pg && p.ctx == ctx && p.stage != .ok && p.stage != .deny
  if s.waits.any same then
    { s with waits := s.waits.map fun p =>
        if same p then { p with lanes := p.lanes ||| lanes, r := p.r || n.r, w := p.w || n.w, x := p.x || n.x } else p }
  else
    let (id, s1) := fresh s
    emit { s1 with waits := s1.waits ++
      [{ id := id, who := who, ctx := ctx, pasid := pasid, page := pg, lanes := lanes, r := n.r, w := n.w, x := n.x, since := s.now }] }
      (.ats pasid pg n.w n.x)

/-- A unit of a loaded context begins to wait for a page of the context's space. -/
def askPage (s : State) (who : Waiter) (ctx va : Nat) (n : Need) (lanes : Word) : State :=
  match ctx? s ctx with
  | none => s
  | some c => askPasid s who ctx c.pasid va n lanes

/-- The waits of a unit. -/
def waitsOf (s : State) (who : Waiter) : List PWait := s.waits.filter fun p => p.who == who

/-- A unit's waits are over. -/
def dropWaits (s : State) (who : Waiter) : State := { s with waits := s.waits.filter fun p => p.who != who }

/-- A unit's wait for the page of an address ended in a denial (R280). -/
def deniedFor (s : State) (who : Waiter) (va : Nat) : Bool :=
  s.waits.any fun p => p.who == who && p.page == pageOf va && p.stage == .deny

/-- A unit waits for some answer still. -/
def waiting (s : State) (who : Waiter) : Bool :=
  s.waits.any fun p => p.who == who && p.stage != .ok && p.stage != .deny

/-- The region kind of an address: coherent where no entry covers it (R270). -/
def regionKind (c : Ctx) (va : Nat) : Nat :=
  match c.regions.find? fun r => r.base ≤ va && va < r.limit with
  | some r => r.kind
  | none => 3

/-- Loads of the address are not allocated in the L1 (R270, R275). -/
def regionNol1 (c : Ctx) (va : Nat) : Bool := c.regions.any fun r => r.base ≤ va && va < r.limit && r.nol1

/-- Bits 62:57 or bit 63 make an address no local address (R261, R262). -/
def localVA (va : Nat) : Bool := va < 2 ^ 57

/-! ### The L1 of a core (R271, R273, R275) -/

/-- The bits `o` to `o + n - 1`. -/
def bitRun (o n : Nat) : Nat := (2 ^ n - 1) * 2 ^ o

/-- The key of a line of a core's L1: the core, the PASID with which it is tagged, and the line of memory (R275). -/
def l1Key (cr pasid key : Nat) : Nat := (cr * 2 ^ 20 + pasid) * 2 ^ 60 + key / 128
/-- The core of a line's key. -/
def l1Core (k : Nat) : Nat := k / 2 ^ 80
/-- The PASID of a line's key. -/
def l1Pasid (k : Nat) : Nat := k / 2 ^ 60 % 2 ^ 20
/-- The first byte of memory of a line. -/
def l1Base (k : Nat) : Nat := k % 2 ^ 60 * 128

/-- A core's L1 holds the line of a byte of memory. -/
def l1Has (s : State) (cr pasid key : Nat) : Bool := (mget? s.l1 (l1Key cr pasid key)).isSome

/-- The line's bytes, where the L1 holds them apart from memory: private, read-shared and layer-managed lines (R271). -/
def l1Data (s : State) (cr pasid key : Nat) : Option L1Line := (mget? s.l1 (l1Key cr pasid key)).filter fun l => l.bytes != []

/-- A byte as a core sees it: of the line that its L1 holds, else of memory (R271, R273). -/
def coreByte (s : State) (cr pasid key : Nat) : Nat :=
  match l1Data s cr pasid key with
  | some l => l.bytes.getD (key % 128) 0
  | none => (readByte s key).toNat

/-- `n` bytes as a core sees them. -/
def coreBytes (s : State) (cr pasid key n : Nat) : List Nat :=
  if s.l1 = [] then readBytes s key n else (List.range n).map fun i => coreByte s cr pasid (key + i)

/-- A number of `n` bytes as a core sees it. -/
def coreNat (s : State) (cr pasid key n : Nat) : Nat := leNat (coreBytes s cr pasid key n)

/-- A granule that `n` bytes touch is poisoned, as a core sees it (R478). -/
def corePois (s : State) (cr pasid key n : Nat) : Bool :=
  if s.l1 = [] then poisoned s key n
  else (List.range n).any fun i => match l1Data s cr pasid (key + i) with
    | some l => l.pois.testBit ((key + i) % 128 / 16)
    | none => poisoned s (key + i) 1

/-- The dirty bytes of a line go to memory, from byte `i` of it on; a granule with a dirty byte takes the line's poison (R273). -/
def backFrom (base : Nat) (l : L1Line) : Nat → List Nat → List Host.Cell × AMap Bool → List Host.Cell × AMap Bool
  | _, [], m => m
  | i, b :: r, (mem, p) =>
    backFrom base l (i + 1) r (if l.dirty.testBit i then
        (writeByte mem (base + i) (BitVec.ofNat 8 b), msetD p false ((base + i) / 16) (l.pois.testBit (i / 16)))
      else (mem, p))

/-- A line is written back to the L2, and is clean (R273). -/
def writeBack1 (s : State) (k : Nat) : State :=
  match mget? s.l1 k with
  | none => s
  | some l =>
    if l.dirty = 0 then s
    else
      let (mem, p) := backFrom (l1Base k) l 0 l.bytes (s.mem, s.pois)
      { s with mem := mem, pois := p, l1 := mput s.l1 k { l with dirty := 0 } }

/-- A line is evicted. -/
def evictLine (s : State) (k : Nat) : State := let s1 := writeBack1 s k; { s1 with l1 := mdel s1.l1 k }

/-- Write back every dirty line that `f` names. -/
def writeBackAll (s : State) (f : Nat → Bool) : State := (mkeys s.l1).foldl (fun s k => if f k then writeBack1 s k else s) s

/-- Drop every clean line that `f` names (R273). -/
def dropClean (s : State) (f : Nat → Bool) : State :=
  if s.l1 = [] then s else { s with l1 := s.l1.filter fun e => !(f e.1 && e.2.bytes != [] && e.2.dirty == 0) }

/-- The granules of 128 bytes of memory that are poisoned, one bit each. -/
def lineMask (s : State) (base : Nat) : Nat :=
  if s.pois = [] then 0 else (List.range 8).foldl (fun m g => if poisoned s (base + 16 * g) 1 then m + 2 ^ g else m) 0

/-- A line of an address as the L1 takes it from the L2: with its bytes where its region is not coherent (R271). -/
def freshLine (s : State) (c : Ctx) (va key : Nat) : L1Line :=
  if regionKind c va = 3 then {} else { bytes := readBytes s (key / 128 * 128) 128, pois := lineMask s (key / 128 * 128) }

/-- A load, or a store or atomic, of a core brings the line of an address into its L1; loads of NOL1 regions allocate none (R275). -/
def l1Fill (s : State) (cr : Nat) (c : Ctx) (va key : Nat) (load : Bool) : State :=
  if l1Has s cr c.pasid key || (load && regionNol1 c va) then s
  else { s with l1 := mput s.l1 (l1Key cr c.pasid key) (freshLine s c va key) }

/-- The lines of every L1 that hold some of `n` bytes of memory leave it (R87, R276, R337). -/
def recallRange (s : State) (key n : Nat) : State :=
  if s.l1 = [] then s else ((mkeys s.l1).filter fun k => meets (l1Base k) 128 key n).foldl evictLine s

/-- The lines of every L1 that hold a byte of memory leave it. -/
def recallLine (s : State) (key : Nat) : State := recallRange s key 1

/-- The instruction-cache lines of a range go (R117, R337). -/
def dropLinesOf (s : State) (pasid a n : Nat) : State :=
  { s with ilines := s.ilines.filter fun e => !(e.1 / 2 ^ 50 % 2 ^ 20 == pasid && meets (e.1 % 2 ^ 50 * 128) 128 a n) }

/-- Bytes enter a line from byte `o` on: they are dirty, granules that they cover whole take their poison, and where they are
poisoned the others that they touch too (R478). -/
def putLine (l : L1Line) (o : Nat) (bs : List Nat) (poison : Bool) : L1Line :=
  let n := bs.length
  let whole := bitRun ((o + 15) / 16) ((o + n) / 16 - (o + 15) / 16)
  let touch := bitRun (o / 16) ((o + n + 15) / 16 - o / 16)
  { bytes := l.bytes.take o ++ bs ++ l.bytes.drop (o + n), dirty := Nat.lor l.dirty (bitRun o n)
    pois := if poison then Nat.lor l.pois touch else Nat.lor l.pois whole - whole }

/-- Write bytes within one line of a private region: they stay in the core's L1 (R271). -/
def l1Write (s : State) (cr : Nat) (c : Ctx) (va key : Nat) (bs : List Nat) (poison : Bool) : State :=
  let s1 := match l1Data s cr c.pasid key with
    | some _ => s
    | none => { s with l1 := mput s.l1 (l1Key cr c.pasid key) (freshLine s c va key) }
  { s1 with l1 := mmod s1.l1 (l1Key cr c.pasid key) fun l => putLine l (key % 128) bs poison }

/-- Write bytes of memory, with poison or without. -/
def memWrite (s : State) (key : Nat) (bs : List Nat) (poison : Bool) : State := if poison then writePoison s key bs else writeBytes s key bs

/-- The directory takes the coherent lines that hold some of `n` bytes from every L1 (R276). What the L1s hold of other kinds stays as it is:
no protocol keeps it coherent (R273, R274). -/
def takeLines (s : State) (key n : Nat) : State :=
  if s.l1 = [] then s else { s with l1 := s.l1.filter fun e => !(e.2.bytes == [] && meets (l1Base e.1) 128 key n) }

/-- A unit outside the cores, or a peer, writes bytes at their home L2 (R276). -/
def homeWrite (s : State) (key : Nat) (bs : List Nat) (poison : Bool) : State := memWrite (takeLines s key bs.length) key bs poison

/-- Write bytes at an address of the requester ID's space. -/
def ridWrite (s : State) (a : Nat) (bs : List Nat) : State := homeWrite s (ridKey s a) bs false

/-- The L1s of the other cores lose a coherent line that a core takes ownership of (R271). -/
def ownLine (s : State) (cr key : Nat) : State :=
  { s with l1 := s.l1.filter fun e => !(e.2.bytes == [] && l1Base e.1 == key / 128 * 128 && l1Core e.1 != cr) }

/-- A core gives up what its own L1 holds of a line apart from memory: it has reached the line through a region of another kind. -/
def giveUp (s : State) (cr : Nat) (c : Ctx) (key : Nat) : State :=
  match l1Data s cr c.pasid key with
  | some _ => evictLine s (l1Key cr c.pasid key)
  | none => s

/-- A core writes bytes within one line: a private line in its L1, any other in memory, with the line in its L1 where it is coherent
(R271, R275). -/
def coreWrite1 (s : State) (cr : Nat) (c : Ctx) (va key : Nat) (bs : List Nat) (poison : Bool) : State :=
  match regionKind c va with
  | 1 => l1Write s cr c va key bs poison
  | 3 => memWrite (ownLine (l1Fill (giveUp s cr c key) cr c va key false) cr key) key bs poison
  | _ => memWrite (giveUp s cr c key) key bs poison

/-- A core writes bytes, line by line. -/
def coreWriteN (cr : Nat) (c : Ctx) (poison : Bool) : Nat → State → Nat → Nat → List Nat → State
  | 0, s, _, _, _ => s
  | f + 1, s, va, key, bs =>
    let n := 128 - key % 128
    if bs.length ≤ n then coreWrite1 s cr c va key bs poison
    else coreWriteN cr c poison f (coreWrite1 s cr c va key (bs.take n) poison) (va + n) (key + n) (bs.drop n)

/-- A core writes bytes of one page. -/
def coreWrite (s : State) (cr : Nat) (c : Ctx) (va key : Nat) (bs : List Nat) (poison : Bool) : State :=
  coreWriteN cr c poison 34 s va key bs

/-! ### The event arbiter (R436) -/

/-- The place of a group among those of the device: its core, slice and slot. -/
def groupPos (s : State) (g : Group) : Nat := (coreOf s g * 16 + g.slice % 16) * 16 + g.slot % 16

/-- Groups in the order of their places (R436). -/
def byPos (s : State) (l : List Nat) : List Nat := sortBy (fun gid => ((group? s gid).map (groupPos s)).getD 0) l

/-- The event arbiter has seen an event of a group: no event of a lower place follows in the same cycle (R436). -/
def seen (s : State) (g : Group) : State := { s with pos := groupPos s g }

/-! ### The halt line (R424, R425) -/

/-- The bit mask of the ended groups of a team, by group index (R427 EXITED). -/
def exitedMask (s : State) (t : Team) : Nat :=
  t.groups.foldl (fun a id => match group? s id with
    | some g => if g.exited then Nat.lor a (2 ^ g.idx) else a
    | none => a) 0

/-- A slice stops at an issue boundary of each group: running lanes are halted, extended values are dropped (R424, R171). -/
def haltLanes (g : Group) : Group :=
  { laneMod g allLanes (fun _ l => if l.st == .run then haltLane l else l) with ext := [] }

/-- Raise the halt line of a context; a halt that already stands is not replaced (R429). -/
def raiseHalt (s : State) (cx : Nat) (h : Halt) : State :=
  match ctx? s cx with
  | none => s
  | some c =>
    if c.halt.isSome then s
    else
      mapGroups (modCtx s cx fun c => { c with halt := some { h with at_ := s.now } }) fun _ g =>
        if g.ctx == cx && !g.ended then haltLanes g else g

/-- The halt record of a cause that a group raises (R427). -/
def haltOf (s : State) (gid cause : Nat) (pc : DWord) : Halt :=
  match group? s gid with
  | none => { cause := cause, pc := pc }
  | some g =>
    match team? s g.team with
    | none => { cause := cause, pc := pc, gid := some gid, launch := some g.launch }
    | some t =>
      { cause := cause, gid := some gid, launch := some g.launch, core := t.core, slice := g.slice, slot := g.slot, pc := pc,
        team := t.t, exited := exitedMask s t }

/-- A group raises a cause that halts its context. -/
def haltGroup (s : State) (gid cause : Nat) (pc : DWord) : State :=
  match group? s gid with
  | none => s
  | some g =>
    let s1 := if cause = 0x0D then raiseErr s 2 else s
    raiseHalt (seen s1 g) g.ctx (haltOf s gid cause pc)

/-! ### Loops and masks (R134 to R137, R189 to R191) -/

/-- The first address past a loop's body (R188). -/
def loopEndOf (p : Loop) : DWord := p.start + BitVec.ofNat 64 ((p.len + 1) * 4)

/-- Lanes in a handler leave the loops that were active before it as they are (R191). -/
def loopKept (hand : Bool) (p : Loop) : Bool := hand && !p.hand

/-- The innermost active loop of which the lane is a member and whose END is `pc` (R190); `hand` tells that it runs in a handler. -/
def arriveLoop (g : Group) (hand : Bool) (L : Nat) (pc : DWord) : Option Nat :=
  (List.range 3).foldl (fun a n =>
    let p := loopGet g n
    if p.active && p.members.getLsbD L && !loopKept hand p && loopEndOf p == pc then
      match a with
      | some m => if (loopGet g m).start < p.start then some n else a
      | none => some n
    else a) none

/-- A lane leaves loop `n`, where its range does not hold the target (R189). -/
def leaveLoop (L : Nat) (target : Option DWord) (g : Group) (n : Nat) : Group :=
  let p := loopGet g n
  if p.active && p.members.getLsbD L && !(match target with
      | some t => loopKept (laneGet g L).hand p || (p.start ≤ t && t < loopEndOf p)
      | none => false) then
    let m := p.members &&& ~~~(lbit L)
    loopSet g n { p with members := m, active := m != 0 }
  else g

/-- A lane leaves every loop whose range does not hold the target, those that a handler keeps apart; one that exits leaves all of
them (R183, R189, R191). -/
def leaveLoops (g : Group) (L : Nat) (target : Option DWord) : Group := (List.range 3).foldl (leaveLoop L target) g

/-- A lane completes a word without a transfer: it goes to the next PC, or arrives at a loop's end (R95, R190). -/
def advLane (g : Group) (L : Nat) (c : Clause) (npc : DWord) : Group :=
  let l := laneAt (laneGet g L) c npc
  let l := if l.cl.isNone then { l with waited := false } else l
  match arriveLoop g l.hand L npc with
  | some n => laneSet g L { l with st := .loopEnd n }
  | none => laneSet g L (goOn l)

/-- A lane takes a transfer of control (R95, R189). -/
def jumpLane (g : Group) (L : Nat) (t : DWord) : Group :=
  let g1 := leaveLoops g L (some t)
  laneSet g1 L (goOn { laneGet g1 L with pc := t, cl := none, waited := false })

/-- The address of the word after the one at `pc` of a clause. -/
def nextPc (c : Clause) (pc : DWord) : DWord :=
  match c.words[(pc - c.addr).toNat / 4]? with
  | some w => if opLong (opOf w.toNat) then pc + 8 else pc + 4
  | none => pc + 4

/-- A lane's wait at its word ends: it goes to the word after its own (R135, R303). While lanes run in a handler a lane outside it
keeps its state and its PC, and goes on when the handler is over (R131, R136). -/
def passLane (g : Group) (L : Nat) : Group :=
  let l := laneGet g L
  if handLanes g != 0 && !l.hand then laneSet g L { l with wake := true }
  else match l.cl with
    | some c => advLane g L c (nextPc c l.pc)
    | none => laneSet g L (goOn l)

/-- Pass the lanes of a mask. -/
def passLanes (g : Group) (m : Word) : Group := (lanesOf m).foldl passLane g

/-- A lane goes on past a loop's end, or arrives at the end of the loop around it (R190). -/
def leaveBody (e : DWord) (g : Group) (L : Nat) : Group :=
  match arriveLoop g (laneGet g L).hand L e with
  | some m => laneSet g L { laneGet g L with st := .loopEnd m }
  | none => laneSet g L (goOn (laneGet g L))

/-- The end test of loop `n` (R190); while lanes run in a handler, only of a loop that began in it (R191). -/
def loopTest (g : Group) (n : Nat) : Group :=
  let p := loopGet g n
  let arrived := lanesWhere g fun l => l.st == .loopEnd n
  if !p.active || loopKept (handLanes g != 0) p || p.members &&& ~~~arrived != 0 || arrived = 0 then g
  else if (lcget g n).toNat ≤ 1 then
    let g1 := loopSet (lcset g n 0) n { p with active := false, members := 0 }
    (lanesOf arrived).foldl (leaveBody (loopEndOf p)) g1
  else
    let g1 := lcset g n (lcget g n - 1)
    laneMod g1 arrived fun _ l => goOn { l with pc := p.start, cl := none, waited := false }

/-- The release test of mask `k` (R135): lanes that are no members are released, and all of them when every member waits. -/
def maskTest (g : Group) (k : Nat) : Group :=
  let w := lanesWhere g fun l => l.st == .waitK k && !l.wake
  if w = 0 then g
  else passLanes g (if kget g k &&& ~~~w = 0 then w else w &&& ~~~(kget g k))

/-- One round of the tests. -/
def settle1 (g : Group) : Group :=
  (List.range 12).foldl maskTest ((List.range 3).foldl loopTest g)

/-- The tests that follow a write to a mask, an arrival or a leave, until nothing more is released (R135, R190). -/
def settle (g : Group) : Group := settle1 (settle1 (settle1 (settle1 g)))

/-! ### Taking a trap (R418 to R422) -/

/-- The causes that halt the context (R417). -/
def halting (cause : Nat) : Bool := cause == 0x05 || cause == 0x08 || cause == 0x0D || cause == 0x0F

/-- The state code of a lane (R421). -/
def stateCode (l : Lane) : Nat :=
  if l.st != .dead && l.hand then 5
  else match l.st with
    | .dead => 0 | .run => 1 | .park _ => 2 | .waitK _ => 3 | .halted => 4 | .loopEnd _ => 6
    | .bar (.obj _ _) _ => 2 | .bar _ _ => 7

/-- A LANEPC entry (R421). -/
def lanePc (st : Nat) (pc : DWord) : Nat := pc.toNat % 2 ^ 57 + st * 2 ^ 57

/-- The four bytes of a vector register in each lane; zero at or beyond VREGS (R420). The C field of a frame without a valid WORD1 is
taken as zero, so that VC holds v0. -/
def regBytes (g : Group) (vregs r : Nat) : List Nat :=
  (List.range 32).flatMap fun L => leBytes 4 (if r < vregs then (vget g r L).toNat else 0)

/-- The frame of a trap (R420, R421): `lanes0` are the lanes as they stood at the instruction. -/
def frameBytes (g : Group) (vregs : Nat) (lanes0 : AMap Lane) (tr : TrapRec) : List Nat :=
  let w0 := tr.w0.toNat
  let w1 := (tr.w1.getD 0).toNat
  let g0 := { g with lanes := lanes0 }
  leBytes 8 tr.pc.toNat ++ leBytes 8 tr.npc.toNat ++ [tr.cause, tr.reason]
    ++ leBytes 2 ((if tr.w1.isSome then 2 else 0) + (if tr.eng then 4 else 0))
    ++ leBytes 4 tr.tlanes.toNat ++ leBytes 4 tr.exec.toNat ++ leBytes 4 (liveLanes g0).toNat
    ++ leBytes 4 w0 ++ leBytes 4 w1 ++ leBytes 8 tr.detail ++ leBytes 8 tr.faddr.toNat
    ++ (List.range 32).map (fun L => mget tr.fpcls 0 L % 64)
    ++ (List.range 24).flatMap (fun i => leBytes 4 (pget g i).toNat)
    ++ (List.range 12).flatMap (fun i => leBytes 4 (kget g i).toNat)
    ++ (List.range 8).map (fun i => dget g i)
    ++ (List.range 3).flatMap (fun i => leBytes 4 (lcget g i).toNat)
    ++ [g.gsplit, if g.steprnd then 1 else 0, 0, 0]
    ++ (List.range 32).flatMap (fun L => leBytes 8 (
        if tr.tlanes.getLsbD L then lanePc 5 (if tr.eng then tr.npc else tr.pc)
        else lanePc (stateCode (laneGet g0 L)) (laneGet g0 L).pc))
    ++ regBytes g vregs (dOf w0) ++ regBytes g vregs (aOf w0) ++ regBytes g vregs (bOf w0)
    ++ regBytes g vregs (bitsOf w1 24 8)

/-- Record an illegal-instruction trap in the core's ILLOG (R113, R114). -/
def logIllegal (s : State) (g : Group) (tr : TrapRec) : State :=
  match team? s g.team with
  | none => s
  | some t =>
    modCore s t.core fun c =>
      if c.illog.testBit 63 then { c with illog := Nat.lor c.illog (2 ^ 62) }
      else { c with illog := tr.w0.toNat * 2 ^ 224 + (tr.w1.getD 0).toNat * 2 ^ 192 + tr.pc.toNat % 2 ^ 57 * 2 ^ 128
                      + t.t % 2 ^ 32 * 2 ^ 96 + g.ctx % 512 * 2 ^ 64 + 2 ^ 63 + tr.reason * 2 ^ 48 + g.slice % 16 * 2 ^ 44
                      + g.slot % 16 * 2 ^ 40 + g.idx % 64 * 2 ^ 32 + tr.tlanes.toNat }

/-- A trap that is an illegal instruction is recorded. -/
def logTrap (s : State) (g : Group) (tr : TrapRec) : State := if tr.cause = 0x01 then logIllegal s g tr else s

/-- The trapped lanes enter the handler, once the frame has been written (R418). -/
def enterHandler (g : Group) (p : TrapPend) (entry : DWord) : Group :=
  let g1 := laneMod g p.tr.tlanes fun _ l =>
    if l.st == .dead then l
    else { l with pc := entry, cl := none, waited := false, st := .run, hand := true, tret := false, skip := 0, overdue := false }
  { g1 with trap := none, stallAt := none, stallLong := false
            hnd := some { frame := p.frame, tlanes := p.tr.tlanes, cl := p.tr.cl, cause := p.tr.cause, lyr := p.tr.lyr } }

/-- An instruction that issued before the trapping one has registers still to write (R418). -/
def writesPending (g : Group) (tr : TrapRec) : Bool := g.fly.any fun f => f.regs != [] && tr.own != some f.seq

/-- The group stalls for a page, from now where it did not before (R284). -/
def stallFrom (g : Group) (now : Nat) : Group := { g with stallAt := if g.stallAt.isSome then g.stallAt else some now }

/-- Write the frame of a pending trap and enter the handler, or ask for the frame's page and wait (R419). -/
def tryFrame (s : State) (gid : Nat) : State :=
  match group? s gid with
  | none => s
  | some g =>
    match g.trap, ctx? s g.ctx, launch? s g.launch with
    | some p, some c, some ln =>
      let addr := c.trapArea + p.frame * 0x400
      if deniedFor s (.frame gid) addr || !localVA addr then haltGroup s gid 0x0F p.tr.pc
      else match translateFor s (some (coreOf s g)) (.frame gid) c.pasid addr .wr with
        | .ok key _ =>
          let cr := coreOf s g
          let s0 := touchTlb s cr g.team c.pasid addr
          let s1 := dropWaits (coreWrite s0 cr c addr key (frameBytes g ln.kern.vregs p.lanes p.tr) false) (.frame gid)
          setGroup s1 gid (enterHandler g p ln.kern.trapEntry)
        | .deny => haltGroup s gid 0x0F p.tr.pc
        | .miss =>
          setGroup (askPage s (.frame gid) g.ctx addr .wr p.tr.tlanes) gid g
    | _, _, _ => s

/-- The lowest free frame of a context's trap area (R419). -/
def freeFrame (c : Ctx) : Option Nat := (List.range (c.trapSize / 1024)).find? fun f => (mget? c.frames f).isNone

/-- A trap as its live lanes take it: one for a failed layer stands at the word itself, which TRET issues again (R388); an engine's
at the entry's PC (R422). -/
def normTrap (g : Group) (tr : TrapRec) : TrapRec :=
  { tr with tlanes := tr.tlanes &&& liveLanes g, npc := if tr.cause = 0x09 && !tr.eng then tr.pc else tr.npc }

/-- A trap of other lanes while a handler runs is held until it returns (R497). -/
def holdTrap (g : Group) (tr : TrapRec) : Group :=
  { laneMod g tr.tlanes (fun _ l => { l with st := .run, heldT := true, wake := false }) with held := g.held ++ [tr] }

/-- The lanes of a trap are in the handler, and its frame is to be written; extended values are dropped (R171). -/
def beginTrap (g : Group) (p : TrapPend) : Group :=
  { dropExt (laneMod g p.tr.tlanes fun _ l => { l with st := .run, hand := true, tret := false, heldT := false, wake := false }) allLanes with trap := some p }

/-- A trap takes a frame; the handler starts once every earlier instruction has written its registers (R418). -/
def startTrap (s : State) (gid : Nat) (g : Group) (p : TrapPend) : State :=
  let s1 := setGroup (modCtx s g.ctx fun c => { c with frames := mput c.frames p.frame gid }) gid (beginTrap g p)
  if writesPending g p.tr then s1 else tryFrame s1 gid

/-- A group takes a precise trap: the one way into a handler (R418 to R422). `lanes0` are the lanes as they stood at the
instruction, whose PCs LANEPC shows. A halting cause, a kernel without a handler, a trap of lanes in a handler and a trap area
without a free frame raise the halt line instead. A trap of other lanes while a handler runs is held until it returns. -/
def takeTrap (s : State) (gid : Nat) (lanes0 : AMap Lane) (tr0 : TrapRec) : State :=
  match group? s gid with
  | none => s
  | some g =>
    match ctx? s g.ctx, launch? s g.launch with
    | some c, some ln =>
      let tr := normTrap g tr0
      if c.halt.isSome || tr.tlanes = 0 then s
      else
        let s1 := seen (logTrap s g tr) g
        if halting tr.cause || ln.kern.trapEntry = 0 then haltGroup s1 gid tr.cause tr.pc
        else if handLanes g &&& tr.tlanes != 0 then haltGroup s1 gid 0x0F tr.pc
        else if g.hnd.isSome || g.trap.isSome then setGroup s1 gid (holdTrap g tr)
        else match freeFrame c with
          | none => haltGroup s1 gid 0x0F tr.pc
          | some f => startTrap s1 gid g { tr := tr, frame := f, lanes := lanes0 }
    | _, _ => s

/-- The held traps of the next kind are taken, before any word of the group issues (R497). -/
def releaseHeld (s : State) (gid : Nat) : State :=
  match group? s gid with
  | none => s
  | some g =>
    match g.held with
    | [] => s
    | tr :: r =>
      if g.hnd.isSome || g.trap.isSome then s
      else
        let g1 := { laneMod g tr.tlanes (fun _ l => { l with heldT := false }) with held := r }
        takeTrap (setGroup s gid g1) gid g1.lanes tr

/-- Skip counts, wait counts and promotion restart when a group resumes (R132). -/
def resetSched (s : State) (g : Group) : Group :=
  { laneMod g allLanes (fun _ l => { l with skip := 0, overdue := false }) with waitCnt := 0, promoted := none, readySince := s.now }

/-- The lanes whose wait ended while a handler ran go on (R131, R136). -/
def wakeLanes (g : Group) : Group :=
  let m := lanesWhere g fun l => l.wake
  passLanes (laneMod g m fun _ l => { l with wake := false }) m

/-- The group's handler is over: its frame is freed and the other lanes rejoin the frontier (R423). -/
def leaveHandler (s : State) (gid : Nat) : State :=
  match group? s gid with
  | none => s
  | some g =>
    match g.hnd with
    | none => s
    | some h =>
      let g0 := laneMod g allLanes fun _ l => { l with hand := false, tret := false }
      let g1 := { settle (wakeLanes { resetSched s g0 with loops := g0.loops.map fun e => (e.1, { e.2 with hand := false }) }) with
                    hnd := none, stallAt := none, stallLong := false }
      let s1 := dropWaits (setGroup s gid g1) (.frame gid)
      releaseHeld (modCtx s1 g.ctx fun c => { c with frames := mdel c.frames h.frame }) gid

/-- The state of a layer as its waiters find it (R34, R384): the flag word, or what Sluice last wrote where the device holds no
translation of the flag's page; 8 stands for a poisoned flag word (R478). -/
def layerState (s : State) (c : Ctx) (ly : Layer) : Nat :=
  match translate s none c.pasid ly.flag .rd with
  | .ok key _ => if poisoned s key 8 then 8 else readNat s key 8 % 8
  | _ => ly.state

/-- The layer table of a model launch. -/
def layersOf (ln : Launch) : List Layer := (ln.model.map (·.layers)).getD []

/-- A layer of a launch that a trap 0x09 names is still failed (R388). -/
def stillFailed (s : State) (c : Ctx) (lyr : Option (Nat × Nat)) : Bool :=
  match lyr with
  | none => false
  | some (l, i) =>
    match launch? s l with
    | none => false
    | some ln => match (layersOf ln)[i]? with
      | none => false
      | some ly => layerState s c ly == 3

/-- Where a lane stands when it resumes at `n`: inside the clause it trapped in, or at a header to fetch (R100). -/
def resumeAt (l : Lane) (cl : Option Clause) (n : DWord) : Lane :=
  match cl with
  | some c =>
    if c.addr < n && n < clauseEnd c then { l with pc := n, cl := some c, waited := false }
    else { l with pc := n, cl := none, waited := false }
  | none => { l with pc := n, cl := none, waited := false }

/-- Write-back of TRET: the register that WORD0 names takes the frame's VD in the lanes of `m` (R423). -/
def writeBack (g : Group) (m : Word) (r : Nat) (vd : List Nat) : Group :=
  (lanesOf m).foldl (fun g L => vset g r L (BitVec.ofNat 32 (fieldAt vd (4 * L) 4))) g

/-- Return from the handler, once every lane in it has reached a TRET (R423); the frame is read through the context's
translation. -/
def tryReturn (s : State) (gid : Nat) : State :=
  match group? s gid with
  | none => s
  | some g =>
    match g.hnd, ctx? s g.ctx, launch? s g.launch with
    | some h, some c, some ln =>
      if lanesWhere g (fun l => l.st != .dead && l.hand && !l.tret) != 0 || handLanes g = 0 then s
      else
        let addr := c.trapArea + h.frame * 0x400
        let pc := (laneGet g (lowLane (handLanes g))).pc
        if deniedFor s (.frame gid) addr || !localVA addr then haltGroup s gid 0x0F pc
        else match translateFor s (some (coreOf s g)) (.frame gid) c.pasid addr .rw with
          | .deny => haltGroup s gid 0x0F pc
          | .miss => setGroup (askPage s (.frame gid) g.ctx addr .rw (handLanes g)) gid g
          | .ok key _ =>
            let cr := coreOf s g
            let fld (o k : Nat) : Nat := coreNat s cr c.pasid (key + o) k
            let n := fld 8 8
            let wb := (fld 0x12 2).testBit 0
            let r := dOf (fld 0x20 4)
            let m := BitVec.ofNat 32 (fld 0x14 4) &&& liveLanes g
            if corePois s cr c.pasid key 0x400 then haltGroup s gid 0x0D pc
            else if h.cause = 0x09 && stillFailed s c h.lyr then haltGroup s gid 0x09 pc
            else if n % 4 ≠ 0 || (wb && r ≥ ln.kern.vregs) then haltGroup s gid 0x0F pc
            else
              let g1 := if wb then writeBack g m r (coreBytes s cr c.pasid (key + 0x200) 128) else g
              -- a lane that resumes at the end of a loop of which it is a member has arrived there (R190)
              let g2 := laneMod g1 m fun L l =>
                let l' := resumeAt { l with st := .run, wake := false } h.cl (BitVec.ofNat 64 n)
                match arriveLoop g1 false L (BitVec.ofNat 64 n) with
                | some k => { l' with st := .loopEnd k }
                | none => l'
              leaveHandler (setGroup s gid g2) gid
    | _, _, _ => s

end Sys2Proof.Machine
end

