-- ==== Sys2Proof/Machine/Operands.lean ====
section
/-! DEFINITION. Machine/Operands.lean: which registers each instruction reads and writes, the register faults of R105, poison
(R478), and the operand forms of R104. -/

namespace Sys2Proof.Machine

/-- A register group that a word names: vector or scalar, first register, how many, and the alignment of the first. -/
structure Rg where
  vec : Bool
  n : Nat
  cnt : Nat
  al : Nat
  deriving DecidableEq, Repr

/-- The alignment of a group of `c` registers (R16, R103). -/
def alOf (c : Nat) : Nat := if c = 1 then 1 else if c = 2 then 2 else if c ≤ 6 then 4 else 8

/-- A vector group. -/
def vg (n c : Nat) : Rg := { vec := true, n := n, cnt := c, al := alOf c }
/-- A scalar group. -/
def sg (n c : Nat) : Rg := { vec := false, n := n, cnt := c, al := alOf c }

/-- What a word reads and writes: vector and scalar groups, predicates, masks, loop counters. -/
structure Uses where
  r : List Rg := []
  w : List Rg := []
  rp : List Nat := []
  wp : List Nat := []
  rk : List Nat := []
  wk : List Nat := []
  deriving DecidableEq, Repr

/-- B of a vector instruction, a value of `c` registers (R104). -/
def bv (b : Src) (c : Nat) : List Rg :=
  match b with
  | .reg n => [vg n c]
  | .scal n => [sg n c]
  | .imm _ => []
/-- B of a scalar-kind operand (R104, R175). -/
def bs (b : Src) (c : Nat) : List Rg :=
  match b with
  | .reg n | .scal n => [sg n c]
  | .imm _ => []

/-- Scalar short forms. -/
def usS (p : S3) : Uses := { r := sg p.a 1 :: bs p.b 1, w := [sg p.d 1] }
/-- Vector short forms. -/
def usV (p : S3) : Uses := { r := vg p.a 1 :: bv p.b 1, w := [vg p.d 1] }
/-- A source that X makes scalar. -/
def srcX2 (a : Nat) (x : Bool) : Rg := if x then sg a 1 else vg a 1
/-- Vector unary forms. -/
def usU (p : S2) : Uses := { r := [srcX2 p.a p.x], w := [vg p.d 1] }
/-- A long form with A, B and D of one width. -/
def usL3 (p : L) (c : Nat) : Uses := { r := vg p.a c :: bv p.b c, w := [vg p.d c] }
/-- The register that holds u, under RM = 5 (R222, R234). -/
def uReg (p : L) : List Rg := if p.rm == .rst then [vg p.c 1] else []
/-- Lone and packed arithmetic with two operands. -/
def usF (p : L) : Uses := { r := vg p.a (tyRegs p.ty) :: bv p.b (tyRegs p.ty) ++ uReg p, w := [vg p.d (tyRegs p.ty)] }
/-- Unary floating point. -/
def usF1 (p : L) : Uses := { r := [vg p.a (tyRegs p.ty)], w := [vg p.d (tyRegs p.ty)] }
/-- Components of a transform's result: pairs for .f64 (R241). -/
def vgN (d n : Nat) (t : Ty) : Rg := { vec := true, n := d, cnt := n * tyRegs1 t, al := alOf (n * tyRegs1 t) }
/-- The index and base of an access form (R285). -/
def usMem (p : LM) (base : Rg) : List Rg := base :: bv p.b 1
/-- The scratchpad base (R285). -/
def scrBase (a : Nat) (vb : Bool) : Rg := if vb then vg a 1 else sg a 1
/-- An engine's object register (R313). -/
def objRg (c : Nat) : List Rg := if c < 128 then [sg c 1] else []
/-- The operand groups of a matrix operation (R356): spans of A, B and the metadata. -/
def mmaSpans (p : LX) : Nat × Nat × Nat :=
  let ex := if p.aty == .e2m1 then 3 else 0
  let a := if p.sp = 0 then 48 else if p.sp = 1 then 24 else 12
  let g := match p.aty with
    | .f64 => 2 | .f32 => 3 | .bf16 | .f16 => 6 | .e2m1 => 24 | _ => 12
  (a + ex, 48 + ex, if p.sp = 0 then 0 else g / 2)
/-- A span of a matrix operand: at a multiple of 4. -/
def span (n c : Nat) : Rg := { vec := true, n := n, cnt := c, al := 4 }
/-- The registers of a matrix operation. -/
def usMma (p : LX) : Uses :=
  let (a, b, c) := mmaSpans p
  let breg := match p.b with | .reg n => n | .scal n => n | .imm n => n
  { r := [sg p.d 1, span p.a a, span breg b] ++ (if c = 0 then [] else [span p.c c]) }

/-- The registers that each instruction names (R105, R140); those that VRDI and VWRI name through a scalar are added at issue. -/
def uses (i : Instr) : Uses :=
  match i with
  | .brx b | .ret b => { r := bv b 2 }
  | .call d _ => { w := [vg d 2] }
  | .callx d b => { r := bv b 2, w := [vg d 2] }
  | .loop _ _ cnt x => { r := if x then [sg cnt 1] else [] }
  | .join d | .leave d => { rk := [d], wk := [d] }
  | .waitk d => { rk := [d] }
  | .sleep d _ x => { r := if x then [sg d 1] else [] }
  | .pcrel d _ => { w := [sg d 2] }
  | .sadd p | .ssub p | .smul p | .sand p | .sor p | .sxor p | .sshl p | .sshr p | .ssra p => usS p
  | .smovi p => { w := [sg p.d 1] }
  | .smovh p => { r := [sg p.d 1], w := [sg p.d 1] }
  | .smov d a | .snot d a | .spopc d a | .sclz d a => { r := [sg a 1], w := [sg d 1] }
  | .saddr p => { r := sg p.a 2 :: bs p.b (if p.ty == .i64 then 2 else 1), w := [sg p.d 2] }
  | .smulh p | .smin p | .smax p | .scmp p => { r := sg p.a 1 :: bs p.b 1, w := [sg p.d 1] }
  | .smad p | .ssel p => { r := sg p.a 1 :: sg p.c 1 :: bs p.b 1, w := [sg p.d 1] }
  | .iadd p | .isub p | .imul p | .and p | .or p | .xor p | .shl p | .shr p | .sra p => usV p
  | .icmp _ pd a b => { r := vg a 1 :: bv b 1, wp := [pd] }
  | .movi p => { w := [vg p.d 1] }
  | .moviH p => { r := [vg p.d 1], w := [vg p.d 1] }
  | .mov p | .not p | .popc p | .clz p | .brev p | .iabs p | .ineg p => usU p
  | .vrdi d a => { r := [sg a 1], w := [vg d 1] }
  | .vwri d a => { r := [sg d 1, vg a 1] }
  | .iaddc p => { usL3 p 1 with rp := [p.c], wp := [p.c] }
  | .imulh p | .rot p | .bfe p => usL3 p 1
  | .imad p => { r := vg p.a 1 :: vg p.c 1 :: bv p.b 1, w := [vg p.d 1] }
  | .imadw p => { r := vg p.a 1 :: vg p.c 2 :: bv p.b 1, w := [vg p.d 2] }
  | .imin p | .imax p => usL3 p (tyRegs p.ty)
  | .isel p => { usL3 p (tyRegs p.ty) with rp := [p.c] }
  | .bfi p => { r := vg p.a 1 :: vg p.d 1 :: bv p.b 1, w := [vg p.d 1] }
  | .cvti p => { r := [vg p.a (tyRegs ((tyOf p.c).getD .i32))], w := [vg p.d (tyRegs p.ty)] }
  | .icmpLong p => { r := vg p.a (tyRegs p.ty) :: bv p.b (tyRegs p.ty), wp := [p.d] }
  | .srd p => { w := [srcX2 p.d p.x] }
  | .swr p => { r := [srcX2 p.a p.x] }
  | .pset d _ => { wp := [d] }
  | .pnot d a | .pmov d a => { rp := [a], wp := [d] }
  | .ptok d a => { rp := [a], rk := [d], wk := [d] }
  | .ktop d a => { rk := [a], wp := [d] }
  | .kand p | .kor p | .kxor p => { rk := [p.a, match p.b with | .reg n => n | .scal n => n | .imm n => n], wk := [p.d] }
  | .knot p => { rk := [p.a], wk := [p.d] }
  | .kpopc p | .kffs p => { rk := [p.a], w := [sg p.d 1] }
  | .kmov p =>
    if p.c = 0 then { r := [sg p.a 1], wk := [p.d] }
    else if p.c = 1 then { rk := [p.a], w := [sg p.d 1] } else { rk := [p.a], wk := [p.d] }
  | .kact p => { wk := [p.d] }
  | .shfl p _ => { r := vg p.a (tyRegs p.ty) :: bv p.b 1, w := [vg p.d (tyRegs p.ty)] }
  | .vote p => if p.c = 3 then { rp := [p.a], w := [vg p.d 1] } else { rp := [p.a], wp := [p.d] }
  | .matchL p => { r := [vg p.a (tyRegs p.ty)], w := [vg p.d 1] }
  | .reduce p | .scan p | .bcast p => usF1 p
  | .split p => { r := bv p.b 1 }
  | .faddF32 p | .fsubF32 p | .fmulF32 p => usV p
  | .ffmaF32 p => { r := vg p.a 1 :: vg p.d 1 :: bv p.b 1, w := [vg p.d 1] }
  | .fadd p | .fsub p | .fmul p | .fmin p | .fmax p | .fminnum p | .fmaxnum p | .fdiv p => usF p
  | .ffma p =>
    if tyPk p.ty then { usF p with r := vg p.d 1 :: (usF p).r } else { usF p with r := vg p.c (tyRegs p.ty) :: (usF p).r }
  | .fscale p => { r := vg p.a (tyRegs p.ty) :: bv p.b 1, w := [vg p.d (tyRegs p.ty)] }
  | .fabs p | .fneg p | .fsqrt p | .frnd p | .frcp p | .frsq p | .fex2 p | .flg2 p | .fsin p | .fcos p => usF1 p
  | .fclass p => { r := [vg p.a (tyRegs p.ty)], w := [vg p.d 1] }
  | .fcmp p => { r := vg p.a (tyRegs p.ty) :: bv p.b (tyRegs p.ty), wp := [p.d] }
  | .fcvt p src | .fcvti p src | .icvtf p src => { r := vg p.a (tyRegs src) :: uReg p, w := [vg p.d (tyRegs p.ty)] }
  | .fpack p _ => { r := vg p.a 2 :: vg p.d 1 :: bv p.b 1, w := [vg p.d 1] }
  | .funpk p _ => { r := vg p.a 1 :: bv p.b 1, w := [vg p.d 2] }
  | .fstatRd d => { w := [sg d 1] }
  | .fstatWr a x => { r := [srcX2 a x] }
  | .ftwosum p | .ffastsum p | .ftwoprod p => { r := vg p.a (tyRegs p.ty) :: bv p.b (tyRegs p.ty), w := [vgN p.d 2 p.ty] }
  | .ffma3 p =>
    { r := vg p.a (tyRegs p.ty) :: vg p.c (tyRegs p.ty) :: bv p.b (tyRegs p.ty)
      w := [{ vgN p.d 3 p.ty with al := 4 }] }
  | .fsplit p => { r := [vg p.a (if p.c = 0x09 then 2 else 1)], w := [vgN p.d 2 p.ty] }
  | .fsplit3 p => { r := [vg p.a (if p.c = 0x09 then 2 else 1)], w := [{ vgN p.d 3 p.ty with al := 4 }] }
  | .xadd p | .xsub p | .xmul p => usL3 p (tyRegs p.ty)
  | .xren p | .xneg p | .xabs p => usF1 p
  | .xcomp p => { r := [vg p.a (tyRegs p.ty)], w := [vg p.d (p.c * tyRegs1 (tyComp p.ty))] }
  | .xcmp p => { r := vg p.a (tyRegs p.ty) :: bv p.b (tyRegs p.ty), wp := [p.d] }
  | .xcvt p src => { r := vg p.a (tyRegs src) :: uReg p, w := [vg p.d (tyRegs p.ty)] }
  | .rnd p => { r := vg p.a 4 :: bv p.b 2, w := [vg p.d 4] }
  | .rndg p => { r := sg p.a 4 :: bv p.b 2, w := [vg p.d 4] }
  | .ld p => { r := usMem p (sg p.a 2), w := [vg p.d (tyRegs p.ty)] }
  | .st p => { r := vg p.d (tyRegs p.ty) :: usMem p (sg p.a 2) }
  | .lds p vb | .ldsc p vb => { r := usMem p (scrBase p.a vb), w := [vg p.d (tyRegs p.ty)] }
  | .sts p vb | .stsc p vb => { r := vg p.d (tyRegs p.ty) :: usMem p (scrBase p.a vb) }
  | .ldx p => { r := usMem p (sg p.a 4), w := [vg p.d (tyRegs p.ty)] }
  | .stx p => { r := vg p.d (tyRegs p.ty) :: usMem p (sg p.a 4) }
  | .ldc p => { r := bv p.b 1, w := [if p.a < 128 then vg p.d (tyRegs p.ty) else sg p.d (tyRegs p.ty)] }
  | .pld p => { r := usMem p (sg p.a 2), wp := [p.d] }
  | .pst p => { r := usMem p (sg p.a 2), rp := [p.d] }
  | .pref p => { r := usMem p (sg p.a 2) }
  | .atom p fn | .ratom p fn =>
    { r := (if fn == .cas then [vg p.d (tyRegs p.ty)] else []) ++ sg p.a 2 :: vg p.c (tyRegs p.ty) :: bv p.b 1
      w := [vg p.d (tyRegs p.ty)] }
  | .atoms p fn =>
    { r := (if fn == .cas then [vg p.d (tyRegs p.ty)] else []) ++ vg p.a 1 :: vg p.c (tyRegs p.ty) :: bv p.b 1
      w := [vg p.d (tyRegs p.ty)] }
  | .atomc p => { r := sg p.a 2 :: vg p.c (tyRegs p.ty) :: bv p.b 1, w := [vg p.d (2 * tyRegs p.ty)] }
  | .red p _ => { r := sg p.a 2 :: vg p.c (tyRegs p.ty) :: bv p.b 1 }
  | .bar p => { r := bs p.b 1 }
  | .binit p | .bexpect p | .bwait p => { r := sg p.a 1 :: bs p.b 1 }
  | .barrive p | .bdrop p => { r := sg p.a 1 :: bs p.b 1, w := [sg p.d 1] }
  | .btest p => { r := sg p.a 1 :: bs p.b 1, wp := [p.d] }
  | .binv p => { r := [sg p.a 1] }
  | .stscb p => { r := vg p.a 1 :: vg p.d (tyRegs p.ty) :: bs p.b 1 }
  | .acopy p => { r := sg p.a 8 :: objRg p.c }
  | .agath p | .ascat p => { r := sg p.d 1 :: sg p.a 2 :: bv p.b 1 ++ objRg p.c }
  | .acopym p => { r := sg p.a 8 :: bs p.b 1 ++ objRg p.c }
  | .acancel p => { r := objRg p.c }
  | .mma p _ _ | .mmaj p _ _ | .mmas p _ _ | .mmajs p _ _ => usMma p
  | .talloc p => { r := [sg p.a 1], wp := [p.d] }
  | .tfree p | .tzero p => { r := [sg p.a 1] }
  | .tstat p => { w := [sg p.d 1] }
  | .tld p | .tst p => { r := sg p.a 1 :: sg p.c 1 :: bs p.b 1 }
  | .tread p => { r := [sg p.a 1], w := [{ vg p.d 8 with al := 4 }] }
  | .twrite p => { r := [sg p.a 1, { vg p.d 8 with al := 4 }] }
  | .tscale p => { r := sg p.a 1 :: bs p.b 1 }
  | .rld p => { r := usMem p (sg p.a 2), w := [vg p.d (tyRegs p.ty)] }
  | .rst p | .rstCnt p => { r := vg p.d (tyRegs p.ty) :: usMem p (sg p.a 2) }
  | .cwait p => { r := sg p.a 2 :: bs p.b 1 }
  | .cnote p => { r := sg p.a 2 :: sg p.c 1 :: bs p.b 1 }
  | .coll p => { r := sg p.a 8 :: objRg p.c, w := [sg p.d 1] }
  | .bknote p => { r := sg p.a 1 :: sg p.c 1 :: bs p.b 1 }
  | .lreq p => { r := bs p.b 1, w := [sg p.d 1] }
  | .lwait p | .lrel p => { r := bs p.b 1 }
  | .lstat p => { r := bs p.b 1, w := [sg p.d 2] }
  | .hcall p => { r := [sg p.d 2] }
  | .srdp p => { w := [sg p.d 1] }
  | .swrp p => { r := [sg p.a 1] }
  | .illrd p => { w := [sg p.d 8] }
  | .frmrd p => { w := [sg p.d 2] }
  | .weirset p => { r := sg p.a 8 :: bs p.b 1 }
  | .weirclr p => { r := bs p.b 1 }
  | .weirrd p => { r := bs p.b 1, w := [sg p.d (if p.c = 8 then 8 else 2)] }
  | .hrd p => { r := [sg p.a 1], w := [sg p.d 2] }
  | .hwr p => { r := sg p.a 1 :: bs p.b 2 }
  | .hprd p | .hstep p => { r := [sg p.a 1], w := [sg p.d 1] }
  | .hfront p | .hscb p => { r := sg p.a 1 :: bs p.b 1, w := [sg p.d 4] }
  | .hresume p => { r := sg p.a 1 :: bs p.b 1 }
  | .trcmark p => { r := bs p.b 1 }
  | .cntrd p => { r := bs p.b 1, w := [sg p.d 2] }
  | _ => {}

/-- A register group breaks its alignment, or reaches the kernel's VREGS or SREGS (R105). -/
def rgBad (k : Kern) (x : Rg) : Bool := x.n % x.al != 0 || x.n + x.cnt > (if x.vec then k.vregs else k.sregs)

/-- Some register group of the word faults. -/
def usesBad (k : Kern) (u : Uses) : Bool := (u.r ++ u.w).any (rgBad k)

/-- The registers of a group, as the scoreboard names them. -/
def rgRefs (x : Rg) : List RegRef := (List.range x.cnt).map fun i => if x.vec then .v (x.n + i) else .s (x.n + i)

/-- The registers that a word writes. -/
def writesOf (u : Uses) : List RegRef := u.w.flatMap rgRefs ++ u.wp.map .p ++ u.wk.map .k
/-- The registers that a word reads. -/
def readsOf (u : Uses) : List RegRef := u.r.flatMap rgRefs ++ u.rp.map .p ++ u.rk.map .k

/-- The word reads a poisoned register in a lane of EXEC (R478). -/
def readsPoison (g : Group) (u : Uses) (exec : Word) : Bool :=
  exec != 0 && (u.r.any fun x => (List.range x.cnt).any fun i =>
    if x.vec then (lanesOf exec).any fun L => mget g.vpois false ((x.n + i) * 32 + L) else mget g.spois false (x.n + i))

/-! ### Operand values -/

/-- B of a 32-bit vector instruction in lane `L` (R104). -/
def bval (g : Group) (b : Src) (L : Nat) : Word :=
  match b with
  | .reg n => vget g n L
  | .scal n => sget g n
  | .imm n => BitVec.ofNat 32 n

/-- B of a scalar-kind operand (R104, R175). -/
def bsval (g : Group) (b : Src) : Word :=
  match b with
  | .reg n | .scal n => sget g n
  | .imm n => BitVec.ofNat 32 n

/-- A vector operand of type `t` in lane `L`, as its bits: a pair for a 64-bit type (R149, R175). -/
def vbits (g : Group) (t : Ty) (r L : Nat) : Nat :=
  if tyRegs1 t = 2 then (vget64 g r L).toNat else (vget g r L).toNat

/-- B of type `t` in lane `L`, as its bits. -/
def bbits (g : Group) (t : Ty) (b : Src) (L : Nat) : Nat :=
  match b with
  | .reg n => vbits g t n L
  | .scal n => if tyRegs1 t = 2 then (sget64 g n).toNat else (sget g n).toNat
  | .imm n => n

/-- Write a value of type `t` in lane `L`: a pair for a 64-bit type. -/
def vput (g : Group) (t : Ty) (r L x : Nat) : Group :=
  if tyRegs1 t = 2 then vset64 g r L (BitVec.ofNat 64 x) else vset g r L (BitVec.ofNat 32 x)

/-- Apply a change to the group in each lane of a mask, the operands read from the group as it was (R19). -/
def eachLane (g : Group) (m : Word) (f : Group → Nat → Group) : Group := (lanesOf m).foldl f g

/-- A value's integer meaning under an integer type. -/
def tyVal (t : Ty) (x : Nat) : Int := if tySigned t then sextI (tyBits t) x else ((x % 2 ^ tyBits t : Nat) : Int)

/-- A value of an integer type as its register holds it: narrow types are extended to 32 bits (R203). -/
def tyReg (t : Ty) (x : Nat) : Nat :=
  if tyBits t ≥ 32 then x % 2 ^ tyBits t
  else if tySigned t then wrapN 32 (sextI (tyBits t) x) else x % 2 ^ tyBits t

end Sys2Proof.Machine
end

