-- ==== Sys2Proof/Machine/Commit.lean ====
section
/-! DEFINITION. Machine/Commit.lean: what an issue sees, the weirs, and how an instruction commits: flags, PCs, waits, weir actions
and traps (R96, R160 to R163, R444 to R457, R497). -/

namespace Sys2Proof.Machine

/-! ### What an issue sees -/

/-- An issue with the parts of the state that its meaning reads. -/
structure View where
  is : Issue
  g : Group
  tm : Team
  ln : Launch
  cx : Ctx
  hdr : Header
  w0 : Word
  /-- the word that follows within the clause -/
  wn : Option Word
  /-- the address of the next word, or of the header after the clause -/
  npc : DWord
  /-- EXEC: the entry's lanes whose guard passes (R96, R128) -/
  exec : Word

/-- The lanes of the entry whose guard passes (R96). -/
def guardLanes (g : Group) (h : Header) (lanes : Word) : Word :=
  if h.guard = 31 then lanes
  else if h.gneg then lanes &&& ~~~(pget g h.guard) else lanes &&& pget g h.guard

/-- The header of a fetched clause. -/
def hdrOf (c : Clause) : Header := headerOf (c.words.headD 0).toNat

/-- The word of a clause at an address. -/
def wordAt (c : Clause) (pc : DWord) : Option Word := c.words[(pc - c.addr).toNat / 4]?

/-- The view of the chosen issue. -/
def view (s : State) : Option View :=
  match s.sel with
  | none => none
  | some is =>
    match group? s is.gid with
    | none => none
    | some g =>
      match team? s g.team, launch? s g.launch, ctx? s g.ctx with
      | some tm, some ln, some cx =>
        let h := hdrOf is.cl
        -- the header has been passed: the lanes stand at the word (R99, R100)
        let g := laneMod g is.lanes fun _ l => { l with pc := is.pc, cl := some is.cl }
        some { is := is, g := g, tm := tm, ln := ln, cx := cx, hdr := h, w0 := (wordAt is.cl is.pc).getD 0,
               wn := wordAt is.cl (is.pc + 4), npc := nextPc is.cl is.pc, exec := guardLanes g h is.lanes }
      | _, _, _ => none

/-- The second word of a long form; for an illegal word, the word that follows in the clause (R112, R420). -/
def View.w1 (v : View) : Option Word := if opLong (opOf v.w0.toNat) then v.wn else none

/-- The trap record of an issue: PC at the word, NPC at the following word or header (R112, R420). -/
def View.tr (v : View) (cause : Nat) (lanes : Word) : TrapRec :=
  { cause := cause, pc := v.is.pc, npc := v.npc, cl := some v.is.cl, tlanes := lanes, exec := v.exec, w0 := v.w0, w1 := v.w1 }

/-! ### Inspection (R460) -/

/-- The context is an inspector of its partition. -/
def isInspector (s : State) (cx : Nat) : Bool :=
  match ctx? s cx with
  | none => false
  | some c => let p := part s c.part; p.insp && p.ictx == cx

/-- A context's state is on its partition: it holds the turn, or is the partition's inspector (R46, R460). -/
def ctxHere (s : State) (cx : Nat) : Bool :=
  match ctx? s cx with
  | none => false
  | some c => c.onPart || isInspector s cx

/-- A team holds its core's resources: it is resident, and its context's state is on the partition. -/
def teamHere (s : State) (t : Team) : Bool := t.st == .resident && ctxHere s t.ctx

/-- A step by HSTEP ends: the status word goes to the issuer's register (R467). -/
def stepStatus (s : State) (v : View) (status : Nat) : State :=
  match v.is.step with
  | none => s
  | some (gid, d) => modGroup s gid fun g => sset g d (BitVec.ofNat 32 status)

/-- The stepped lane becomes halted at its next issue boundary, and honours its clause's WAIT again (R97, R467). -/
def rehalt (l : Lane) : Lane :=
  match l.st with
  | .run => haltLane l
  | .dead => l
  | .halted => l
  | _ => { l with haltPend := true }

/-! ### Weirs (R444 to R456) -/

/-- What an instruction shows the weirs: accesses (lane, ACC bit, in the team's own grant, address, bytes), values (lane, ACC bit,
value) and FP classes (lane, classes). -/
structure Obs where
  acc : List (Nat × Nat × Bool × Nat × Nat) := []
  val : List (Nat × Nat × Nat) := []
  fp : AMap Nat := []
  /-- an operation of a copy engine, or a collective's write (R455) -/
  eng : Bool := false

/-- The EN bit of CTL. -/
def weirEn (w : Weir) : Bool := w.st != 0 && w.cfg.ctl.testBit 63
/-- The CHAIN bit of CTL. -/
def weirChain (w : Weir) : Bool := w.st != 0 && w.cfg.ctl.testBit 59
/-- The ACTION of CTL. -/
def weirAction (w : Weir) : Nat := bitsOf w.cfg.ctl 60 3
/-- The KIND of CTL. -/
def weirKind (w : Weir) : Nat := bitsOf w.cfg.ctl 56 2
/-- The PRE bit of CTL. -/
def weirPre (w : Weir) : Bool := w.cfg.ctl.testBit 58

/-- The qualifiers admit a group (R448). -/
def weirAdmits (w : Weir) (g : Group) (tm : Team) : Bool :=
  w.owner == g.ctx && w.cfg.qual.testBit (16 + g.slice)
    && (!w.cfg.qual.testBit 8 || bitsOf w.cfg.ctl 0 32 == tm.t) && (!w.cfg.qual.testBit 9 || bitsOf w.cfg.qual 10 6 == g.idx)

/-- The lanes of `m` that one weir matches (R448). -/
def weirMatch (w : Weir) (g : Group) (tm : Team) (m : Word) (pc : DWord) (o : Obs) : Word :=
  if !weirEn w || !weirAdmits w g tm then 0
  else
    let acc := bitsOf w.cfg.ctl 52 4
    let sp := bitsOf w.cfg.ctl 32 2 == 1
    let hit (L : Nat) : Bool :=
      if weirKind w = 0 then
        o.acc.any fun (l, b, sc, a, n) => l == L && acc.testBit b && sc == sp && a < w.cfg.cmp1 && w.cfg.cmp0 < a + n
      else if weirKind w = 1 then
        o.val.any fun (l, b, x) => l == L && acc.testBit b && Nat.land x w.cfg.cmp1 == Nat.land w.cfg.cmp0 w.cfg.cmp1
      else if weirKind w = 2 then Nat.land (mget o.fp 0 L) (bitsOf w.cfg.ctl 46 6) != 0
      else w.cfg.cmp0 ≤ pc.toNat && pc.toNat < w.cfg.cmp1
    maskOf fun L => m.getLsbD L && w.cfg.qual.testBit (32 + L) && hit L

/-- The weirs of the chain that `n` heads: itself and those after it while CHAIN is set (R449). -/
def weirRun (ws : AMap Weir) : Nat → Nat → List Weir
  | 0, _ => []
  | f + 1, n => let w := mget ws {} n; if weirChain w then w :: weirRun ws f (n + 1) else [w]

/-- A weir watches what engines and collectives write. -/
def weirEngine (w : Weir) : Bool := weirKind w == 0 && w.cfg.ctl.testBit 55

/-- The lanes that head `n` and its chain match (R449). A write of an engine is an event of weirs that watch such writes, alone or
chained with others (R448, R455). -/
def headMatch (ws : AMap Weir) (n : Nat) (g : Group) (tm : Team) (m : Word) (pc : DWord) (o : Obs) : Word :=
  if n != 0 && weirChain (mget ws {} (n - 1)) || o.eng && !(weirRun ws 32 n).any weirEngine then 0
  else (weirRun ws 32 n).foldl (fun a w => a &&& weirMatch w g tm m pc o) allLanes

/-- The address that a KIND 0 weir matched in a lane (R456). -/
def matchAddr (w : Weir) (L : Nat) (o : Obs) : Nat :=
  if weirKind w != 0 then 0
  else match o.acc.find? fun (l, b, sc, a, n) => l == L && (bitsOf w.cfg.ctl 52 4).testBit b && sc == (bitsOf w.cfg.ctl 32 2 == 1)
      && a < w.cfg.cmp1 && w.cfg.cmp0 < a + n with
    | some (_, _, _, a, _) => a
    | none => 0

/-- A hit of a weir: its number, its action, the matched lanes and the address. -/
structure Hit where
  weir : Nat
  action : Nat
  lanes : Word
  addr : Nat
  deriving DecidableEq, Repr

/-- The VALUE of a weir's trace record (R470): the matched address, the compared value, or the PC. -/
def traceValue (w : Weir) (h : Hit) (pc : DWord) : Nat :=
  if weirKind w = 0 then h.addr else if weirKind w = 1 then w.cfg.cmp0 else pc.toNat

/-- The window is full, and the recording does not wrap (R469): nothing more is recorded. -/
def windowFull (p : Plume) : Bool := p.recording && p.wrapped && !p.wrap

/-- A weir's mark record replaces the slice's record of the current cycle (R470). -/
def plumePut (s : State) (core slice rec : Nat) : State :=
  let p := mget s.plume {} (core / 96)
  if p.recording && !windowFull p && p.core == core % 96 then
    { s with plume := mput s.plume (core / 96) { p with recs := mput p.recs (p.head * 16 + slice) rec } }
  else s

/-- A slice's own record of the current cycle, unless a weir's mark stands there (R470). -/
def plumeRec (s : State) (core slice rec : Nat) : State :=
  let p := mget s.plume {} (core / 96)
  if (mget? p.recs (p.head * 16 + slice)).isSome then s else plumePut s core slice rec

/-- A slice charges a leaf counter (R473). -/
def chargeLeaf (s : State) (cr n : Nat) : State :=
  modCore s cr fun c => { c with leaf := mput c.leaf n (mget c.leaf 0 n + 1) }

/-- The counter of an issued word's class: 1 vector, 2 scalar, 3 matrix, 4 memory, 5 control and system, 6 asynchronous (R118,
R473). -/
def issueLeaf (w0 wn eclass : Nat) : Nat :=
  match eclass with
  | 0 =>
    match decode w0 wn with
    | .error _ => 1
    | .ok i =>
      let u := uses i
      if (u.r ++ u.w).any Rg.vec || u.rp ≠ [] || u.wp ≠ [] then 1 else 2
  | 1 => 4 | 2 => 3 | 3 => 6 | _ => 5

/-- The record of an issued word: an issue record, or the mark of a TRCMARK (R470, R472). -/
def issueRec (v : View) (leaf : Nat) (jumps : Bool) (mark : Option Nat) : Nat :=
  v.g.slot % 16 * 2 ^ 42 + (match mark with
    | some m => 3 * 2 ^ 46 + m
    | none => bitsOf v.is.pc.toNat 2 26 * 2 ^ 16 + popc v.exec * 2 ^ 10 + (leaf - 1) * 2 ^ 7
        + (if opOf v.w0.toNat = 0x05 then 2 ^ 6 else 0) + (if jumps then 2 ^ 5 else 0) + lowLane v.exec)

/-- A word that HSTEP issues leaves its record where the slice has no issue or mark of its own in this cycle (R454, R470; DEDUCED, log
entry 64). -/
def stepRec (s : State) (core slice rec : Nat) : State :=
  let p := mget s.plume {} (core / 96)
  match mget? p.recs (p.head * 16 + slice) with
  | some x => if x / 2 ^ 46 % 2 = 1 && x / 2 ^ 46 < 3 || x / 2 ^ 46 = 2 then plumePut s core slice rec else s
  | none => plumePut s core slice rec

/-- The slice has issued a word: its class is charged, and its record is an issue record, or the mark of a TRCMARK (R470, R473). A word
that HSTEP issues is recorded, and charged to no leaf: the slice charges one for its own cycle. -/
def chargeIssue (s : State) (v : View) (jumps : Bool) (mark : Option Nat) : State :=
  let leaf := issueLeaf v.w0.toNat (v.wn.getD 0).toNat v.hdr.eclass
  if v.is.step.isSome then (if s.plume = [] then s else stepRec s v.tm.core v.g.slice (issueRec v leaf jumps mark))
  else
    let s1 := chargeLeaf s v.tm.core leaf
    if s1.plume = [] then s1 else plumeRec s1 v.tm.core v.g.slice (issueRec v leaf jumps mark)

/-- A slice that has issued nothing charges a leaf to a group at a PC, with its stall record (R470, R473). -/
def chargeAt (s : State) (core slice slot : Nat) (pc : DWord) (leaf : Nat) : State :=
  let s1 := chargeLeaf s core leaf
  if s1.plume = [] then s1
  else plumeRec s1 core slice (2 ^ 46 + slot % 16 * 2 ^ 42 + bitsOf pc.toNat 2 26 * 2 ^ 16 + (leaf - 7) * 2 ^ 12)

/-- The slice has issued nothing because its word waits (R473). -/
def chargeStall (s : State) (v : View) (leaf : Nat) : State := chargeAt s v.tm.core v.g.slice v.g.slot v.is.pc leaf

/-- The record of a hit (R456). -/
def hitRec (g : Group) (tm : Team) (pc : DWord) (h : Hit) (exited eng : Bool) : Nat :=
  h.addr % 2 ^ 64 * 2 ^ 192 + pc.toNat % 2 ^ 57 * 2 ^ 135 + tm.t % 2 ^ 32 * 2 ^ 96 + g.ctx % 512 * 2 ^ 87
    + h.weir * 2 ^ 82 + lowLane h.lanes * 2 ^ 77 + g.idx % 64 * 2 ^ 71 + g.slice % 16 * 2 ^ 67 + h.action * 2 ^ 64
    + 2 ^ 63 + (if exited then 2 ^ 61 else 0) + (if eng then 2 ^ 60 else 0) + h.lanes.toNat

/-- WEIRLOG takes a hit in cycle `now`: of the hits of one cycle the one of the lowest slice, then of the lowest weir (R456). -/
def logHit (now : Nat) (c : Core) (g : Group) (tm : Team) (pc : DWord) (h : Hit) (exited eng : Bool) : Core :=
  let at_ := (now + 1) * 2 ^ 16 + g.slice % 16 * 32 + h.weir
  if !c.weirLog.testBit 63 then { c with weirLog := hitRec g tm pc h exited eng, hitAt := at_ }
  else if c.hitAt / 2 ^ 16 = now + 1 ∧ at_ < c.hitAt then { c with weirLog := 2 ^ 62 + hitRec g tm pc h exited eng, hitAt := at_ }
  else { c with weirLog := Nat.lor c.weirLog (2 ^ 62) }

/-- Lanes that resume at a store where a PRE weir stopped them: that weir does not check it again (R453). -/
def preSkips (g : Group) (pc : DWord) (n : Nat) : Word :=
  lanesWhere g fun l => match l.preOk with | some (p, ws) => p == pc && ws.contains n | none => false

/-- One weir is evaluated: its count, its log and its hit. `counted` are heads that have counted this instruction already. -/
def weirOne (now : Nat) (g : Group) (tm : Team) (m : Word) (pc : DWord) (o : Obs) (pre : Bool) (counted : List Nat)
    (acc : Core × List Hit) (n : Nat) : Core × List Hit :=
  let (c, hs) := acc
  let w := mget c.weirs {} n
  -- a chain is evaluated at the latest of its weirs' evaluation points (R449)
  let lanes := if (weirRun c.weirs 32 n).all weirPre == pre then
      headMatch c.weirs n g tm (if pre then m &&& ~~~preSkips g pc n else m) pc o else 0
  if lanes = 0 then (c, hs)
  else
    let cnt := if counted.contains n then w.count else min (2 ^ 32 - 1) (w.count + 1)
    let c1 := { c with weirs := mput c.weirs n { w with count := cnt } }
    if cnt < max (bitsOf w.cfg.ctl 34 12) 1 then (c1, hs)
    else
      let h : Hit := { weir := n, action := weirAction w, lanes := lanes, addr := matchAddr w (lowLane lanes) o }
      (if h.action = 0 then c1 else logHit now c1 g tm pc h g.exited o.eng, hs ++ [h])

/-- Every weir of a core is evaluated in turn: the core, and the hits. -/
def weirPass (now : Nat) (c : Core) (g : Group) (tm : Team) (m : Word) (pc : DWord) (o : Obs) (pre : Bool) (counted : List Nat) : Core × List Hit :=
  (List.range 32).foldl (weirOne now g tm m pc o pre counted) (c, [])

/-- A weir's mark enters the trace (R470). -/
def markHits (s : State) (g : Group) (tm : Team) (pc : DWord) (ws : AMap Weir) (hs : List Hit) : State :=
  match hs.find? fun h => h.action == 1 with
  | some h => plumePut s tm.core g.slice
      (3 * 2 ^ 46 + g.slot % 16 * 2 ^ 42 + (0xE0 + h.weir) * 2 ^ 34 + traceValue (mget ws {} h.weir) h pc % 2 ^ 32 * 4)
  | none => s

/-- Every weir of a core is evaluated for an instruction of a group (R448 to R450, R456). -/
def weirEval (s : State) (g : Group) (tm : Team) (m : Word) (pc : DWord) (o : Obs) (pre : Bool) (counted : List Nat) :
    State × List Hit :=
  let c := coreAt s tm.core
  if c.weirs = [] || isInspector s g.ctx then (s, [])
  else
    let r := weirPass s.now c g tm m pc o pre counted
    let s1 := if r.2.any fun h => h.action != 0 then seen s g else s
    (markHits (modCore s1 tm.core fun _ => r.1) g tm pc r.1.weirs r.2, r.2)

/-- A lane is stopped by a halt of its group: a running lane at once, a waiting one when its wait ends (R452). DEDUCED (log entry 65):
a lane that halt-lane stops after the last word of a loop's body has arrived at its END (R190) and halts when that wait ends. -/
def stopLane (l : Lane) : Lane :=
  match l.st with
  | .run => haltLane l
  | .dead => l
  | .halted => l
  | _ => { l with haltPend := true }

/-- Halt-group: every live lane of the group (R452). -/
def stopGroup (g : Group) : Group := { laneMod g allLanes (fun _ l => stopLane l) with ext := [] }

/-- STOPH: a halt-slice or halt-context on the attached core stops Plume after this cycle (R469). -/
def plumeHalt (s : State) (core : Nat) : State :=
  let p := mget s.plume {} (core / 96)
  if p.recording && p.stoph && p.core == core % 96 then { s with plume := mput s.plume (core / 96) { p with stopNow := true } } else s

/-- Halt-slice: every group of the owner context resident on the slice is frozen (R452). -/
def freezeSlice (s : State) (core slice cx : Nat) : State :=
  let s := plumeHalt s core
  mapGroups s fun _ g => if g.ctx == cx && g.slice == slice && !g.ended && coreOf s g == core && (team? s g.team).any (teamHere s) then { stopGroup g with frozen := true } else g

/-- The lanes on which a hit of some action stands. -/
def hitLanes (hs : List Hit) (a : Nat) : Word := hs.foldl (fun m h => if h.action = a then m ||| h.lanes else m) 0

/-- The lowest-numbered trap weir that matched a lane (R454). -/
def trapWeir (hs : List Hit) (m : Word) : Hit :=
  (hs.find? fun h => h.action == 2 && h.lanes &&& m != 0).getD { weir := 0, action := 2, lanes := 0, addr := 0 }

/-- Record a trap that the lanes of its record take when they next resume (R454). -/
def pendTrap (g : Group) (tr : TrapRec) : Group :=
  { g with fpPend := (lanesOf tr.tlanes).foldl (fun p L => if (mget? p L).isNone then mput p L tr else p) g.fpPend }

/-- The lanes that take a trap of their own once the instruction has committed: those that no halt of the same instruction stops. -/
def trapMask (hs pre : List Hit) (fp : Word) : Word :=
  if (hs ++ pre).any fun h => h.action ≥ 4 then 0 else (fp ||| hitLanes hs 2) &&& ~~~(hitLanes (hs ++ pre) 3)

/-- A lane that is about to trap stands at its next PC; it arrives at no loop's end before its handler returns (R190, R418). -/
def standLane (l : Lane) (c : Clause) (npc : DWord) : Lane :=
  let l := laneAt l c npc
  { l with st := .run, waited := if l.cl.isNone then false else l.waited }

/-- A head whose action stops lanes admits the group: the group issues no further word before a watched word has been evaluated
(R451). -/
def weirHolds (s : State) (g : Group) (tm : Team) : Bool :=
  !isInspector s g.ctx && (coreAt s tm.core).weirs.any fun e =>
    weirEn e.2 && 2 ≤ weirAction e.2 && weirAction e.2 ≤ 5 && weirAdmits e.2 g tm

/-- The lanes that halts of the hits stop: all of them where a hit is wider than the lanes. -/
def haltedBy (all : List Hit) : Word := if all.any fun h => h.action == 5 || h.action == 4 then allLanes else hitLanes all 3

/-- The halts of the hits, the widest first. DEDUCED (log entry 66): halt-lane drops the extended values of the lanes that it stops;
the entry's other lanes, which go on, keep theirs (R171). -/
def haltHits (s : State) (gid : Nat) (g : Group) (all : List Hit) : State :=
  if all.any fun h => h.action == 5 then freezeSlice s (coreOf s g) g.slice g.ctx
  else if all.any fun h => h.action == 4 then modGroup s gid stopGroup
  else if hitLanes all 3 = 0 then s
  else modGroup s gid fun g => dropExt (laneMod g (hitLanes all 3) fun _ l => stopLane l) (hitLanes all 3)

/-- A trap is recorded for lanes, where there are any. -/
def pendIf (s : State) (gid : Nat) (tr : TrapRec) (m : Word) : State :=
  if m = 0 then s else modGroup s gid fun g => pendTrap g { tr with tlanes := m }

/-- A trap is taken by lanes, where there are any. -/
def trapIf (s : State) (gid : Nat) (lanes0 : AMap Lane) (tr : TrapRec) (m : Word) : State :=
  if m = 0 then s else takeTrap s gid lanes0 { tr with tlanes := m }

/-- Lanes of `m` whose wait has not ended. -/
def waitingLanes (s : State) (gid : Nat) (m : Word) : Word :=
  match group? s gid with
  | none => 0
  | some g => m &&& lanesWhere g fun l => match l.st with | .waitK _ | .loopEnd _ | .bar _ _ | .park _ => true | _ => false

/-- Traps and halts at commit: `fp` raised an enabled exception, `hs` are the hits of weirs evaluated after commit, `pre` those of
PRE weirs. Stronger actions go first; then the traps in the rank of R497. -/
def actOn (s : State) (gid : Nat) (lanes0 : AMap Lane) (tr : TrapRec) (cls : AMap Nat) (fp : Word) (hs pre : List Hit) : State :=
  match group? s gid with
  | none => s
  | some g =>
    let all := hs ++ pre
    if all.any fun h => h.action == 6 then raiseHalt (plumeHalt s (coreOf s g)) g.ctx (haltOf s gid 0x0B tr.pc)
    else
      let halted := haltedBy all
      let fpTr := { tr with cause := 0x0A, fpcls := cls, detail := 0, faddr := 0 }
      let pm := hitLanes pre 2 &&& ~~~halted &&& ~~~fp
      let cm := hitLanes hs 2 &&& ~~~halted &&& ~~~fp &&& ~~~pm
      let preTr := { tr with cause := 0x0B, npc := tr.pc, detail := (trapWeir pre pm).weir, faddr := BitVec.ofNat 64 (trapWeir pre pm).addr }
      let weirTr := { tr with cause := 0x0B, detail := (trapWeir hs cm).weir, faddr := BitVec.ofNat 64 (trapWeir hs cm).addr }
      let s1 := pendIf (haltHits s gid g all) gid fpTr (fp &&& halted)
      -- the three kinds of R497, highest first
      let s2 := trapIf (trapIf s1 gid lanes0 fpTr (fp &&& ~~~halted)) gid lanes0 preTr pm
      -- a lane whose wait has not ended takes the trap when it resumes
      let w := waitingLanes s2 gid cm
      trapIf (pendIf s2 gid weirTr w) gid lanes0 weirTr (cm &&& ~~~w)

/-! ### Commit -/

/-- What an instruction does, once its meaning has computed it. -/
structure Eff where
  /-- the group with the registers written -/
  g : Group
  /-- FSTAT classes raised, by lane (R160) -/
  flags : AMap Nat := []
  obs : Obs := {}
  /-- lanes that take a transfer of control, and where to -/
  jumps : AMap DWord := []
  /-- lanes that stop at the word, and in what state -/
  stops : AMap LSt := []
  /-- lanes that take a trap of their own while the others go on (R179, R180) -/
  trap : Option TrapRec := none
  /-- lanes that PRE weirs stopped, which stay at the word (R453), and the hits -/
  preHits : List Hit := []
  /-- the weirs are evaluated when the instruction completes, not now (R451) -/
  late : Bool := false
  /-- the CODE and VALUE of a TRCMARK (R472) -/
  mark : Option Nat := none

/-- Classes of all lanes together. -/
def allFlags (f : AMap Nat) : Nat := f.foldl (fun a e => Nat.lor a e.2) 0

/-- The lanes that raised a class whose bit is set in `en` (R163). -/
def enabledLanes (f : AMap Nat) (en : Nat) : Word := maskOf fun L => Nat.land (mget f 0 L) en != 0

/-- The lanes that stay at the word: those that trap there, and those that a PRE weir stopped. -/
def stayLanes (e : Eff) : Word :=
  (match e.trap with | some t => t.tlanes | none => 0) ||| e.preHits.foldl (fun m h => if h.action ≥ 2 then m ||| h.lanes else m) 0

/-- Where a lane of the entry goes: a transfer, a stop, its trap, or the next PC (R95, R96). The lanes of `traps` trap once the
instruction has committed. -/
def moveLane (v : View) (e : Eff) (traps : Word) (g : Group) (L : Nat) : Group :=
  if (stayLanes e).getLsbD L then g
  else match mget? e.jumps L with
    | some t => jumpLane g L t
    | none => match mget? e.stops L with
      | some st => laneSet g L { laneGet g L with st := st, wake := false }
      | none => if traps.getLsbD L then laneSet g L (standLane (laneGet g L) v.is.cl v.npc) else advLane g L v.is.cl v.npc

/-- Every lane of the entry moves. -/
def moveLanes (v : View) (e : Eff) (traps : Word) : Group := (lanesOf v.is.lanes).foldl (moveLane v e traps) e.g

/-- Skip counts after an issue (R129); none are kept in start-up, test and recovery mode (R133). -/
def countSkips (g0 g : Group) (v : View) : Group :=
  if v.is.step.isSome || v.cx.start then g
  else
    let others := runLanes g0 &&& ~~~v.is.lanes
    let g1 := laneMod g v.is.lanes fun _ l => { l with skip := 0, overdue := false, waited := l.cl.isSome }
    laneMod g1 others fun _ l => { l with skip := l.skip + 1 }

/-- WAIT has been honoured for the lanes that are still inside the clause (R97); extended values end with the clause (R169). -/
def markWaited (g : Group) (v : View) : Group :=
  let g1 := laneMod g v.is.lanes fun _ l => { l with waited := l.cl.isSome, preOk := if l.hand then l.preOk else none }
  if g1.ext = [] then g1 else dropExt g1 (lanesWhere g1 fun l => l.cl.isNone)

/-- The lanes that one PRE weir has stopped at a store remember it (R453). -/
def noteHit (v : View) (g : Group) (h : Hit) : Group :=
  if h.action < 2 then g
  else laneMod g h.lanes fun L l =>
    { l with preOk := some (v.is.pc, h.weir :: (match (laneGet v.g L).preOk, l.preOk with
        | _, some (_, ws) => ws
        | some (p, ws), none => if p == v.is.pc then ws else []
        | none, none => [])) }

/-- The lanes that PRE weirs have stopped at a store remember them (R453). -/
def notePre (g : Group) (v : View) (pre : List Hit) : Group := pre.foldl (noteHit v) g

/-- The lane's part of the instruction is outstanding: it completes later, or issues again. -/
def LSt.outstanding : LSt → Bool
  | .park (.access _) | .park (.remote _) | .park (.line _ _ _) => true
  | _ => false

/-- The group with the registers and flags that an instruction leaves (R160). -/
def flagged (e : Eff) : Group := { e.g with fstat := Nat.lor e.g.fstat (allFlags e.flags) }

/-- The lanes that raised an enabled exception (R163). -/
def raised (v : View) (e : Eff) : Word := enabledLanes e.flags e.g.fptrap &&& v.exec

/-- The lanes that stop at the word. -/
def stopMask (e : Eff) : Word := maskOf fun L => (mget? e.stops L).isSome

/-- The weirs are evaluated at commit; those of an instruction with lanes whose accesses are outstanding when it completes (R451). -/
def commitWeirs (s : State) (v : View) (e : Eff) : State × List Hit :=
  if (maskOf fun L => ((mget? e.stops L).map LSt.outstanding).getD false) = 0 && !e.late then
    weirEval s (flagged e) v.tm v.exec v.is.pc { e.obs with fp := e.flags } false []
  else (s, [])

/-- The group as its lanes leave the word: moved, waits and loop ends tested. -/
def committed (v : View) (e : Eff) (traps : Word) (now : Nat) : Group :=
  settle (laneMod (notePre (markWaited (countSkips v.g (moveLanes v { e with g := flagged e } traps) v) v) v e.preHits) (stopMask e)
    fun _ l => { l with since := now })

/-- No issue is chosen. -/
def unchoose (s : State) : State := { s with sel := none }

/-- The traps that follow a group's own issue. -/
def ownTraps (s : State) (v : View) (e : Eff) (hs : List Hit) : State :=
  let s3 := match e.trap with
    | some t => takeTrap s v.is.gid v.g.lanes t
    | none => s
  if raised v e = 0 && hs = [] && e.preHits = [] then s3
  else actOn s3 v.is.gid v.g.lanes (v.tr 0 v.exec) e.flags (raised v e) hs e.preHits

/-- The end of a step by HSTEP: the lane is halted again, and the status tells what the word did (R467). -/
def stepEnd (s : State) (v : View) (e : Eff) (hs : List Hit) (g2 : Group) : State :=
  let cause := match e.trap with
    | some t => t.cause
    | none => if raised v e != 0 then 0x0A else if hs.any (fun h => h.action == 2) then 0x0B else 0
  let L := lowLane v.is.lanes
  let st := (laneGet g2 L).st
  let waits := match st with | .park _ | .waitK _ | .loopEnd _ | .bar _ _ => true | _ => false
  let released := ((stopMask e).getLsbD L && !waits && st != .dead) || ((lanesOf allLanes).any fun M =>
    M != L && (match (laneGet v.g M).st with | .waitK _ | .loopEnd _ => (laneGet g2 M).st != (laneGet v.g M).st | _ => false))
  let s3 := modGroup s v.is.gid fun g => dropExt (laneSet g L (rehalt (laneGet g L))) v.is.lanes
  stepStatus s3 v (cause + (if waits then 2 ^ 8 else 0) + (if st == .dead then 2 ^ 9 else 0) + (if released then 2 ^ 10 else 0))

/-- An instruction commits: flags are ORed into FSTAT, the lanes of the entry move, waits and loop ends are tested, the weirs are
evaluated and the traps that follow completion are taken. -/
def finish (s0 : State) (v : View) (e : Eff) : State :=
  let s := chargeIssue s0 v (e.jumps != []) e.mark
  let r := commitWeirs s v e
  let g2 := committed v e (if v.is.step.isSome then 0 else trapMask r.2 e.preHits (raised v e)) s.now
  let s2 := unchoose (setGroup r.1 v.is.gid g2)
  if v.is.step.isSome then stepEnd s2 v e r.2 g2 else ownTraps s2 v e r.2

/-- The word takes a precise trap instead of its effect: every lane of `tr.tlanes` (R418). Under HSTEP nothing is entered and the
cause is reported (R467). -/
def trapIssue (s : State) (v : View) (tr : TrapRec) : State :=
  let s1 := { setGroup (chargeIssue s v false none) v.is.gid v.g with sel := none }
  match v.is.step with
  | none => takeTrap s1 v.is.gid v.g.lanes tr
  | some _ =>
    let s2 := modGroup s1 v.is.gid fun g => laneMod g v.is.lanes fun _ l => rehalt l
    stepStatus s2 v tr.cause

/-- Every lane of EXEC takes a trap at the word. -/
def trapAll (s : State) (v : View) (cause detail : Nat) : State := trapIssue s v { v.tr cause v.exec with detail := detail }

/-- Every lane of the entry takes a trap at the word, whatever its guard: the traps of R105 and R112. -/
def trapEntryLanes (s : State) (v : View) (cause : Nat) : State := trapIssue s v (v.tr cause v.is.lanes)

/-- An illegal instruction found at issue (R111, R112): the next PC is that of the following word, an extension word too. -/
def trapIllegal (s : State) (v : View) (r : Reason) : State :=
  trapIssue s v { v.tr 0x01 v.is.lanes with reason := reasonCode r, w1 := v.wn, npc := v.is.pc + 4 }

/-- The word is not issued: its unit does not take it, or it waits for a page (R121, R267, R282, R368). A slice chooses no word that its
unit would not take: it tries the word first, and the lanes' mark tells it so. 0x100 is added to the leaf of a wait that R122 calls long. A
step by HSTEP is reported as a wait. -/
def holdAs (leaf : Nat) (s : State) (v : View) : State :=
  let s1 := { s with sel := none }
  match v.is.step with
  | none => chargeStall (modGroup s1 v.is.gid fun g => laneMod g v.is.lanes fun _ l => { l with blocked := some leaf }) v (leaf % 0x100)
  | some _ =>
    let s2 := modGroup s1 v.is.gid fun g => laneMod g v.is.lanes fun _ l => rehalt l
    stepStatus s2 v (2 ^ 8)

/-- A word that waits for a unit or for an earlier word: dependency (R473). -/
def holdIssue (s : State) (v : View) : State := holdAs 9 s v

end Sys2Proof.Machine
end

