-- ==== Sys2Proof/Machine/Exec.lean ====
section
/-! DEFINITION. Machine/Exec.lean: the shell of every instruction of the ISA: the issue it runs on, the register faults of R105,
an empty EXEC (R174), poisoned operands (R478), and the values that ALU results show the weirs (R448). -/

namespace Sys2Proof.Machine

/-- Run an instruction on the chosen issue. -/
def onIssue (s : State) (f : View → State) : Host.Outcome State Fault Refusal :=
  match view s with
  | none => .fault .noIssue
  | some v => .next (f v)

/-- The register faults, then an empty EXEC, then poison, then the effect. -/
def shell (s : State) (v : View) (u : Uses) (f : State) : State :=
  if usesBad v.ln.kern u then trapEntryLanes s v 0x02
  else if v.exec = 0 then finish s v { g := v.g }
  else if readsPoison v.g u v.exec then trapAll s v 0x0D 0
  else f

/-- An instruction with its register uses. -/
def run (s : State) (u : Uses) (f : View → State) : Host.Outcome State Fault Refusal :=
  onIssue s fun v => shell s v u (f v)

/-- The values of `n` components from register `d`, registers or pairs, in the lanes of `m` (R448). -/
def aluVals (g : Group) (m : Word) (d n : Nat) (wide : Bool) : List (Nat × Nat × Nat) :=
  (lanesOf m).flatMap fun L => (List.range n).map fun i =>
    (L, 2, if wide then (vget64 g (d + 2 * i) L).toNat else (vget g (d + i) L).toNat)

/-- An ALU instruction: the group it leaves, its flags by lane, and its results at `d`: `n` components, pairs where `wide`. -/
def alu (s : State) (v : View) (g : Group) (fl : AMap Nat) (d n : Nat) (wide : Bool) : State :=
  finish s v { g := g, flags := fl, obs := { val := aluVals g v.exec d n wide } }

/-- A 32-bit result in each lane of EXEC, the operands read before any lane is written (R19). -/
def mapLanes (v : View) (d : Nat) (f : Nat → Word) : Group := eachLane v.g v.exec fun g L => vset g d L (f L)

/-- A vector instruction with a 32-bit result. -/
def runV (s : State) (u : Uses) (d : Nat) (f : Group → Nat → Word) : Host.Outcome State Fault Refusal :=
  run s u fun v => alu s v (mapLanes v d (f v.g)) [] d 1 false

/-- A vector instruction with a result of a type, given as its bits. -/
def runT (s : State) (u : Uses) (t : Ty) (d : Nat) (f : Group → Nat → Nat) : Host.Outcome State Fault Refusal :=
  run s u fun v => alu s v (eachLane v.g v.exec fun g L => vput g t d L (f v.g L)) [] d 1 (tyRegs1 t == 2)

/-- A scalar instruction: it acts once on the group (R174). -/
def runS (s : State) (u : Uses) (f : Group → Group) : Host.Outcome State Fault Refusal :=
  run s u fun v => finish s v { g := f v.g }

/-- A predicate result in each lane of EXEC. -/
def runP (s : State) (u : Uses) (pd : Nat) (f : Group → Nat → Bool) : Host.Outcome State Fault Refusal :=
  run s u fun v => finish s v { g := pset v.g pd v.exec (maskOf fun L => v.exec.getLsbD L && f v.g L) }

end Sys2Proof.Machine
end

