-- ==== Sys2Proof/Machine/Flags.lean ====
section
/-! DEFINITION. Machine/Flags.lean: the floating-point formats, exact values, rounding and the flags of FSTAT (R150 to R160, R173),
comparison, conversions, and the expansions' XNORM (R164, R165, R248, R249). -/

namespace Sys2Proof.Machine

/-! ### The flags of FSTAT (R160, R161) -/

/-- Invalid. -/
def fIV : Nat := 1
/-- Division by zero. -/
def fDZ : Nat := 2
/-- Overflow. -/
def fOF : Nat := 4
/-- Underflow. -/
def fUF : Nat := 8
/-- Inexact. -/
def fIX : Nat := 16
/-- Residual lost. -/
def fRL : Nat := 32

/-! ### Formats (R150, R151) -/

/-- Fraction bits of a format. -/
def fFrac : Ty → Nat
  | .f64 => 52 | .f32 => 23 | .f16 => 10 | .bf16 => 7 | .e4m3 => 3 | .e5m2 => 2 | .e2m1 => 1 | _ => 0
/-- Exponent bits of a format. -/
def fExpb : Ty → Nat
  | .f64 => 11 | .f32 => 8 | .f16 => 5 | .bf16 => 8 | .e4m3 => 4 | .e5m2 => 5 | .e2m1 => 2 | _ => 8
/-- Bias of a format. -/
def fBias : Ty → Nat
  | .f64 => 1023 | .f32 => 127 | .f16 => 15 | .bf16 => 127 | .e4m3 => 7 | .e5m2 => 15 | .e2m1 => 1 | _ => 127
/-- The formats whose all-ones exponent encodes infinity and NaN. -/
def fIeee : Ty → Bool
  | .f64 | .f32 | .f16 | .bf16 | .e5m2 => true
  | _ => false
/-- Width of a format in bits; .e8m0 has no sign. -/
def fWidth (t : Ty) : Nat := if t == .e8m0 then 8 else 1 + fExpb t + fFrac t
/-- Precision with the leading bit: p of R173. -/
def fPrec (t : Ty) : Nat := fFrac t + 1
/-- The exponent of the smallest normal value: emin of R173. -/
def fEmin (t : Ty) : Int := 1 - (fBias t : Int)
/-- The sign bit in place. -/
def fSign (t : Ty) (neg : Bool) : Nat := if neg then 2 ^ (fWidth t - 1) else 0
/-- The quiet bit. -/
def fQuietBit (t : Ty) : Nat := 2 ^ (fFrac t - 1)
/-- The exponent field of all ones, in place. -/
def fExpOnes (t : Ty) : Nat := (2 ^ fExpb t - 1) * 2 ^ fFrac t
/-- CANON_NAN; .e2m1 has none and gives +0. -/
def canonNan (t : Ty) : Nat :=
  match t with
  | .e4m3 => 0x7F
  | .e8m0 => 0xFF
  | .e2m1 => 0
  | t => fExpOnes t + fQuietBit t
/-- The bits of an infinity, in a format that has one. -/
def infBits (t : Ty) (neg : Bool) : Nat := fSign t neg + fExpOnes t
/-- The largest finite magnitude as its bits. -/
def maxBits (t : Ty) : Nat :=
  match t with
  | .e4m3 => 0x7E
  | .e2m1 => 7
  | .e8m0 => 0xFE
  | t => fExpOnes t - 1

/-- The value that bits of a format stand for. A NaN keeps its bits. -/
def fdec (t : Ty) (x0 : Nat) : FV :=
  let x := x0 % 2 ^ fWidth t
  if t == .e8m0 then if x = 255 then .nan 255 else .fin false 1 ((x : Int) - 127)
  else
    let neg := x.testBit (fWidth t - 1)
    let e := x / 2 ^ fFrac t % 2 ^ fExpb t
    let f := x % 2 ^ fFrac t
    if fIeee t && e == 2 ^ fExpb t - 1 then if f = 0 then .inf neg else .nan x
    else if t == .e4m3 && e == 15 && f == 7 then .nan x
    else if e = 0 then .fin neg f (fEmin t - fFrac t)
    else .fin neg (2 ^ fFrac t + f) ((e : Int) - fBias t - fFrac t)

/-- The value is NaN. -/
def FV.isNan : FV → Bool
  | .nan _ => true
  | _ => false
/-- The sign of a value that is not NaN. -/
def FV.sign : FV → Bool
  | .nan _ => false
  | .inf n => n
  | .fin n _ _ => n
/-- The value is a zero. -/
def FV.isZero : FV → Bool
  | .fin _ 0 _ => true
  | _ => false
/-- Negate. -/
def FV.neg : FV → FV
  | .nan b => .nan b
  | .inf n => .inf (!n)
  | .fin n m e => .fin (!n) m e

/-- A signalling NaN (R151); .e4m3 and .e8m0 have none. -/
def isSig (t : Ty) (v : FV) : Bool :=
  match v with
  | .nan b => fIeee t && !b.testBit (fFrac t - 1)
  | _ => false
/-- QUIET (R173). -/
def quietBits (t : Ty) (b : Nat) : Nat := if fIeee t then Nat.lor b (fQuietBit t) else b

/-! ### Exact arithmetic: dyadic numbers `n × 2^e` -/

/-- A signed dyadic number. -/
abbrev Dy := Int × Int

/-- A finite value as a dyadic number; anything else is 0. -/
def FV.dy : FV → Dy
  | .fin n m e => ((if n then -(m : Int) else m), e)
  | _ => (0, 0)
/-- The mantissas of two numbers at their common exponent. -/
def dyAlign (a b : Dy) : Int × Int × Int :=
  let e := min a.2 b.2
  (a.1 * 2 ^ (a.2 - e).toNat, b.1 * 2 ^ (b.2 - e).toNat, e)
/-- Sum. -/
def dyAdd (a b : Dy) : Dy := let (x, y, e) := dyAlign a b; (x + y, e)
/-- Difference. -/
def dySub (a b : Dy) : Dy := let (x, y, e) := dyAlign a b; (x - y, e)
/-- Product. -/
def dyMul (a b : Dy) : Dy := (a.1 * b.1, a.2 + b.2)
/-- Less than. -/
def dyLt (a b : Dy) : Bool := let (x, y, _) := dyAlign a b; x < y
/-- Equal numbers. -/
def dyEq (a b : Dy) : Bool := let (x, y, _) := dyAlign a b; x == y
/-- Magnitude. -/
def dyAbs (a : Dy) : Dy := ((a.1.natAbs : Int), a.2)
/-- A dyadic number as a value; a zero takes the given sign. -/
def dyFV (a : Dy) (zneg : Bool) : FV := if a.1 = 0 then .fin zneg 0 0 else .fin (a.1 < 0) a.1.natAbs a.2

/-- a + b exactly, with the zero signs of R157; none for ∞ − ∞. -/
def fvAdd (mode : RM) (a b : FV) : Option FV :=
  match a, b with
  | .inf x, .inf y => if x == y then some (.inf x) else none
  | .inf x, _ => some (.inf x)
  | _, .inf y => some (.inf y)
  | a, b => some (dyFV (dyAdd a.dy b.dy) (if a.sign == b.sign then a.sign else mode == .rdn))
/-- a × b exactly; none for 0 × ∞. -/
def fvMul (a b : FV) : Option FV :=
  match a, b with
  | .fin x m e, .fin y n f => some (.fin (x != y) (m * n) (e + f))
  | a, b => if a.isZero || b.isZero then none else some (.inf (a.sign != b.sign))

/-- ⌊log2⌋ of a positive magnitude. -/
def ilog (m : Nat) (e : Int) : Int := (Nat.log2 m : Int) + e

/-- a / b, precise beyond every rounding position and with a sticky lowest bit; none where invalid; the flag is DZ (R224). -/
def fvDiv (a b : FV) : Option FV × Nat :=
  match a, b with
  | .inf _, .inf _ => (none, 0)
  | .inf x, y => (some (.inf (x != y.sign)), 0)
  | x, .inf y => (some (.fin (x.sign != y) 0 0), 0)
  | .fin x m e, .fin y n f =>
    if n = 0 then if m = 0 then (none, 0) else (some (.inf (x != y)), fDZ)
    else
      let k := 200 + Nat.log2 n
      let q := m * 2 ^ k / n
      (some (.fin (x != y) (2 * q + if m * 2 ^ k % n = 0 then 0 else 1) (e - f - k - 1)), 0)
  | _, _ => (none, 0)

/-- One step of the integer square root: the bit of weight 2^k is tried. -/
def isqrtGo (n : Nat) : Nat → Nat → Nat
  | 0, r => r
  | k + 1, r => let c := r + 2 ^ k; isqrtGo n k (if c * c ≤ n then c else r)
/-- Integer square root. -/
def isqrt (n : Nat) : Nat := isqrtGo n (Nat.log2 n / 2 + 1) 0

/-- √a of a positive value, with a sticky lowest bit. -/
def fvSqrt (m : Nat) (e : Int) : FV :=
  let (m1, e1) := if e % 2 = 0 then (m, e) else (2 * m, e - 1)
  let n := m1 * 2 ^ 400
  let r := isqrt n
  .fin false (2 * r + if r * r = n then 0 else 1) (e1 / 2 - 201)

/-! ### Rounding (R153 to R156) -/

/-- Whether a magnitude `a + rem / 2^sh` moves up to the next grid value (R154, R173). -/
def moveUp (mode : RM) (neg odd : Bool) (rem sh u : Nat) : Bool :=
  if rem = 0 then false
  else match mode with
    | .rne => 2 * rem > 2 ^ sh || (2 * rem == 2 ^ sh && odd)
    | .rtz => false
    | .rup => !neg
    | .rdn => neg
    | .rna => 2 * rem ≥ 2 ^ sh
    | .rst => rem * 2 ^ 32 / 2 ^ sh > u % 2 ^ 32

/-- A magnitude on the grid of spacing 2^q: the multiple below it, and the remainder over 2^sh. -/
def gridOf (m : Nat) (e q : Int) : Nat × Nat × Nat :=
  if q ≤ e then (m * 2 ^ (e - q).toNat, 0, 0) else
    let sh := (q - e).toNat
    (m / 2 ^ sh, m % 2 ^ sh, sh)

/-- A magnitude rounded to the grid of spacing 2^q: the multiple, and whether it is inexact. -/
def roundGrid (mode : RM) (neg : Bool) (u m : Nat) (e q : Int) : Nat × Bool :=
  let (a, rem, sh) := gridOf m e q
  (if moveUp mode neg (a % 2 == 1) rem sh u then a + 1 else a, rem != 0)

/-- The bits of `r × 2^q`, a finite value of the format. -/
def fenc (t : Ty) (neg : Bool) (r : Nat) (q : Int) : Nat :=
  if r < 2 ^ fFrac t then fSign t neg + r
  else
    let k := Nat.log2 r - fFrac t
    fSign t neg + (q + k + fFrac t + fBias t).toNat * 2 ^ fFrac t + (r / 2 ^ k - 2 ^ fFrac t)

/-- The result of an overflow (R155). -/
def overBits (t : Ty) (mode : RM) (neg sat : Bool) : Nat :=
  let big := !sat && (match mode with
    | .rtz => false
    | .rup => !neg
    | .rdn => neg
    | _ => true)
  if t == .e8m0 then if sat then 0xFE else 0xFF
  else if !big || t == .e2m1 then fSign t neg + maxBits t
  else if t == .e4m3 then fSign t neg + 0x7F
  else infBits t neg

/-- The magnitude exceeds the largest finite value. -/
def tooBig (t : Ty) (r : Nat) (q : Int) : Bool := dyLt (dyAbs (fdec t (maxBits t)).dy) ((r : Int), q)

/-- RND_MODE of an exact value: its bits and its flags. A NaN's bits are those of the format already. -/
def frnd (t : Ty) (mode : RM) (u : Nat) (sat : Bool) (x : FV) : Nat × Nat :=
  match x with
  | .nan b => (b, 0)
  | .inf neg =>
    if t == .e8m0 && neg then (0xFF, fIV)
    else if fIeee t then (infBits t neg, 0) else (overBits t mode neg sat, fOF + fIX)
  | .fin neg 0 _ => if t == .e8m0 then (0xFF, fIV) else (fSign t neg, 0)
  | .fin neg m e =>
    let lg := ilog m e
    if t == .e8m0 then
      if neg then (0xFF, fIV)
      else
        let (_, rem, sh) := gridOf m e lg
        let k := if moveUp mode false ((lg + 127) % 2 == 1) rem sh u then lg + 1 else lg
        if k > 127 then (overBits t mode false sat, fOF + fIX)
        else if k < -127 then (0, fUF + fIX)
        else ((k + 127).toNat, if rem = 0 then 0 else fIX)
    else
      let q := max lg (fEmin t) - fFrac t
      let (r, ix) := roundGrid mode neg u m e q
      if tooBig t r q then (overBits t mode neg sat, fOF + fIX)
      else
        let (ru, _) := roundGrid mode neg u m e (lg - fFrac t)
        let tiny := dyLt ((ru : Int), lg - fFrac t) (1, fEmin t)
        (fenc t neg r q, (if ix then fIX else 0) + (if ix && tiny then fUF else 0))

/-- ULP (R173) as its power of two. -/
def ulpExp (t : Ty) (m : Nat) (e : Int) : Int := if m = 0 then fEmin t - fFrac t else max (ilog m e) (fEmin t) - fFrac t

/-- RODD_EXT (R170): 96 significant bits, the lowest one sticky. DESIGN CHOICE (log entry 75): the exponent of a chain's value has no bound,
where the spec states no outcome for one that leaves the 18 bits. -/
def roddExt (x : FV) : FV :=
  match x with
  | .fin neg m e =>
    if Nat.log2 m < 96 then .fin neg m e
    else
      let sh := Nat.log2 m - 95
      let a := m / 2 ^ sh
      .fin neg (if m % 2 ^ sh = 0 then a else Nat.lor a 1) (e + sh)
  | x => x

/-- The first NaN of the operands, quieted, and IV where any signals (R158). -/
def pickNan (t : Ty) (ops : List FV) : Option (Nat × Nat) :=
  match ops.find? FV.isNan with
  | some (.nan b) => some (quietBits t b, if ops.any (isSig t) then fIV else 0)
  | _ => none

/-- The result of an instruction: bits, flags, and the value that it delivers to a fused reader (R169, R170). -/
structure FOut where
  bits : Nat
  fl : Nat
  ext : FV

/-- A NaN result. -/
def nanOut (b fl : Nat) : FOut := { bits := b, fl := fl, ext := .nan b }
/-- An invalid operation (R158). -/
def invalidOut (t : Ty) : FOut := nanOut (canonNan t) fIV
/-- Round an exact result; none is an invalid operation. -/
def exactOut (t : Ty) (mode : RM) (u : Nat) (x : Option FV) (fl : Nat) : FOut :=
  match x with
  | none => invalidOut t
  | some x => let (b, f) := frnd t mode u false x; { bits := b, fl := Nat.lor f fl, ext := roddExt x }
/-- Round an exact result of operands, a NaN among which comes first (R158). -/
def arithOut (t : Ty) (mode : RM) (u : Nat) (ops : List FV) (x : Option FV) (fl : Nat) : FOut :=
  match pickNan t ops with
  | some (b, f) => nanOut b f
  | none => exactOut t mode u x fl

/-- FADD (R223, R224). -/
def fAdd (t : Ty) (mode : RM) (u : Nat) (a b : FV) : FOut := arithOut t mode u [a, b] (fvAdd mode a b) 0
/-- FSUB (R223, R224). -/
def fSub (t : Ty) (mode : RM) (u : Nat) (a b : FV) : FOut := arithOut t mode u [a, b] (fvAdd mode a b.neg) 0
/-- FMUL (R223, R224). -/
def fMul (t : Ty) (mode : RM) (u : Nat) (a b : FV) : FOut := arithOut t mode u [a, b] (fvMul a b) 0
/-- FDIV (R223, R224). -/
def fDiv (t : Ty) (mode : RM) (u : Nat) (a b : FV) : FOut :=
  let (x, dz) := fvDiv a b
  arithOut t mode u [a, b] x dz
/-- FFMA: one rounding; 0 × ∞ sets IV even beside a quiet NaN addend (R223, R224). -/
def fFma (t : Ty) (mode : RM) (u : Nat) (a b c : FV) : FOut :=
  if a.isNan || b.isNan then arithOut t mode u [a, b, c] none 0
  else match fvMul a b with
    | none => nanOut (match c with | .nan x => quietBits t x | _ => canonNan t) fIV
    | some p => arithOut t mode u [c] (fvAdd mode p c) 0

/-- a is below b, with −0 below +0 (R225). -/
def fvBelow (a b : FV) : Bool :=
  match a, b with
  | .inf x, .inf y => x && !y
  | .inf x, _ => x
  | _, .inf y => !y
  | a, b => if a.isZero && b.isZero then a.sign && !b.sign else dyLt a.dy b.dy

/-- FMIN, FMAX, FMINNUM and FMAXNUM (R225): `mx` takes the greater, `num` prefers a number to a NaN. -/
def fMinMax (t : Ty) (mx num : Bool) (a b : FV) : FOut :=
  let iv := if isSig t a || isSig t b then fIV else 0
  match a, b with
  | .nan x, .nan _ => nanOut (quietBits t x) iv
  | .nan x, b => if num then exactOut t .rne 0 (some b) iv else nanOut (quietBits t x) iv
  | a, .nan y => if num then exactOut t .rne 0 (some a) iv else nanOut (quietBits t y) iv
  | a, b => exactOut t .rne 0 (some (if mx then if fvBelow a b then b else a else if fvBelow b a then b else a)) iv

/-- FSCALE (R226). Beyond ±10000 every exponent gives the same result. -/
def fScale (t : Ty) (mode : RM) (a : FV) (n : Int) : FOut :=
  let k := max (-10000) (min 10000 n)
  arithOut t mode 0 [a] (some (match a with | .fin s m e => .fin s m (if m = 0 then e else e + k) | x => x)) 0

/-- FABS and FNEG (R228); the sign of a NaN is unchanged. -/
def fAbsNeg (t : Ty) (isNeg : Bool) (a : FV) : FOut :=
  match a with
  | .nan x => nanOut (quietBits t x) (if isSig t a then fIV else 0)
  | a => exactOut t .rne 0 (some (if isNeg then a.neg else if a.sign then a.neg else a)) 0

/-- FSQRT (R229). -/
def fSqrt (t : Ty) (mode : RM) (a : FV) : FOut :=
  match a with
  | .nan x => nanOut (quietBits t x) (if isSig t a then fIV else 0)
  | .inf n => if n then invalidOut t else exactOut t mode 0 (some a) 0
  | .fin n m e =>
    if m = 0 then exactOut t mode 0 (some a) 0 else if n then invalidOut t else exactOut t mode 0 (some (fvSqrt m e)) 0

/-- FRND (R229). -/
def fRndInt (t : Ty) (mode : RM) (a : FV) : FOut :=
  match a with
  | .nan x => nanOut (quietBits t x) (if isSig t a then fIV else 0)
  | .inf _ => exactOut t mode 0 (some a) 0
  | .fin n m e =>
    let (r, ix) := roundGrid mode n 0 m e 0
    if e ≥ 0 then exactOut t mode 0 (some a) 0 else exactOut t .rne 0 (some (.fin n r 0)) (if ix then fIX else 0)

/-- FCLASS (R232). -/
def fClass (t : Ty) (a : FV) : Nat :=
  match a with
  | .nan _ => if isSig t a then 2 ^ 8 else 2 ^ 9
  | .inf n => if n then 1 else 2 ^ 7
  | .fin n m e =>
    if t == .e8m0 then 2 ^ 6
    else if m = 0 then if n then 2 ^ 3 else 2 ^ 4
    else
      let sub := ilog m e < fEmin t
      if n then if sub then 2 ^ 2 else 2 else if sub then 2 ^ 5 else 2 ^ 6

/-! ### Comparison (R233) -/

/-- a = b and a < b of values that are not NaN, with −0 equal to +0. -/
def fvEqLt (a b : FV) : Bool × Bool :=
  match a, b with
  | .inf x, .inf y => (x == y, x && !y)
  | .inf x, _ => (false, x)
  | _, .inf y => (false, !y)
  | a, b => (dyEq a.dy b.dy, dyLt a.dy b.dy)

/-- A condition of R108 on a comparison; `un` says that an operand is NaN. -/
def condHolds (c : Cond) (un eq lt : Bool) : Bool :=
  match c with
  | .eq => !un && eq | .ne => !un && !eq | .lt => !un && lt | .le => !un && (lt || eq)
  | .gt => !un && !lt && !eq | .ge => !un && !lt
  | .ord => !un | .uno => un
  | .equ => un || eq | .neu => un || !eq | .ltu => un || lt | .leu => un || lt || eq
  | .gtu => un || (!lt && !eq) | .geu => un || !lt

/-- The conditions that a quiet NaN makes invalid: 2 to 5 (R233). -/
def condQuietIv : Cond → Bool
  | .lt | .le | .gt | .ge => true
  | _ => false

/-- FCMP of two values: the result and the flags. -/
def fCmp (c : Cond) (a b : FV) (sig : Bool) : Bool × Nat :=
  let un := a.isNan || b.isNan
  let (eq, lt) := if un then (false, false) else fvEqLt a b
  (condHolds c un eq lt, if sig || (un && condQuietIv c) then fIV else 0)

/-! ### Conversions (R159, R234 to R237) -/

/-- A NaN converted to another format (R159): bits and flags. -/
def nanConv (src dst : Ty) (b : Nat) : Nat × Nat :=
  let iv := if isSig src (.nan b) then fIV else 0
  let neg := src != .e8m0 && b.testBit (fWidth src - 1)
  match dst with
  | .e4m3 => (fSign .e4m3 neg + 0x7F, iv)
  | .e8m0 => (0xFF, fIV)
  | .e2m1 => (0, fIV)
  | dst =>
    if fIeee src then
      let f := b % 2 ^ fFrac src
      let g := if fFrac dst ≥ fFrac src then f * 2 ^ (fFrac dst - fFrac src) else f / 2 ^ (fFrac src - fFrac dst)
      (quietBits dst (fSign dst neg + fExpOnes dst + g), iv)
    else (fSign dst neg + canonNan dst, 0)

/-- FCVT (R234, R235). -/
def fCvt (src dst : Ty) (mode : RM) (u : Nat) (sat : Bool) (a : FV) : Nat × Nat :=
  match a with
  | .nan b => nanConv src dst b
  | a => frnd dst mode u sat a

/-- The range of an integer type. -/
def intRange (t : Ty) : Int × Int :=
  if tySigned t then (-(2 ^ (tyBits t - 1)), 2 ^ (tyBits t - 1) - 1) else (0, 2 ^ tyBits t - 1)

/-- An integer as the bits of a type's registers: a pair, or 32 bits extended as R203 lays down. -/
def intBits (t : Ty) (i : Int) : Nat := wrapN (if tyBits t = 64 then 64 else 32) i

/-- FCVTI (R236): the integer and the flags. Out of range, an infinity too, the result differs from the exact one: IV and IX (R160;
DEDUCED, log entry 20). -/
def fCvti (dst : Ty) (mode : RM) (sat : Bool) (a : FV) : Int × Nat :=
  let (lo, hi) := intRange dst
  let bad (v : Int) (ix : Bool) : Int × Nat := (if sat then v else if tySigned dst then lo else hi, fIV + if ix then fIX else 0)
  match a with
  | .nan _ => bad 0 false
  | .inf n => bad (if n then lo else hi) true
  | .fin n m e =>
    -- a magnitude of 2^70 and above is out of every range
    if m ≠ 0 && ilog m e ≥ 70 then bad (if n then lo else hi) true
    else
      let (r, ix) := roundGrid mode n 0 m e 0
      let i : Int := if n then -(r : Int) else r
      if i < lo then bad lo true else if hi < i then bad hi true else (i, if ix then fIX else 0)

/-- ICVTF (R237). -/
def iCvtf (dst : Ty) (mode : RM) (u : Nat) (sat : Bool) (i : Int) : Nat × Nat :=
  frnd dst mode u sat (.fin (i < 0) i.natAbs 0)

/-- FPACK of one element (R238). -/
def fPack1 (src dst : Ty) (mode : RM) (sat : Bool) (s : Nat) (a : FV) : Nat × Nat :=
  if s = 0xFF then (canonNan dst, if dst == .e2m1 then fIV else 0)
  else match a with
    | .nan b => if src == dst then (quietBits dst b, if isSig src a then fIV else 0) else nanConv src dst b
    | .inf n => frnd dst mode 0 sat (.inf n)
    | .fin n m e => frnd dst mode 0 sat (.fin n m (e + 127 - s))

/-- FUNPK of one element (R239). -/
def fUnpk1 (src dst : Ty) (mode : RM) (sat : Bool) (s : Nat) (a : FV) : Nat × Nat :=
  if s = 0xFF then (canonNan dst, 0)
  else match a with
    | .nan b => if src == dst then (quietBits dst b, if isSig src a then fIV else 0) else nanConv src dst b
    | .inf n => frnd dst mode 0 sat (.inf n)
    | .fin n m e => frnd dst mode 0 sat (.fin n m (e + s - 127))

/-! ### Error-free transforms (R241 to R247) -/

/-- RN of a dyadic number: the bits, and the value they stand for. An exact zero is +0. -/
def rnDy (t : Ty) (x : Dy) : Nat × Nat :=  frnd t .rne 0 false (dyFV x false)

/-- A leading result and its error words: bits of each, and the flags. -/
structure TOut where
  words : List Nat
  fl : Nat

/-- A transform whose leading result `r` is not finite: error words +0, and RL on an overflow of finite operands (R246). -/
def tSpecial (n : Nat) (r : FOut) : TOut :=
  { words := r.bits :: List.replicate n 0, fl := if Nat.land r.fl fOF ≠ 0 then Nat.lor r.fl fRL else r.fl }

/-- RL and, where no overflow occurred, UF (R246). -/
def lostFl (fl : Nat) (lost : Bool) : Nat :=
  if lost then Nat.lor fl (fRL + (if Nat.land fl fOF ≠ 0 then 0 else fUF)) else fl

/-- The exact value behind a leading result. -/
def isFinite (t : Ty) (b : Nat) : Bool := match fdec t b with | .fin _ _ _ => true | _ => false

/-- FTWOSUM and FTWOPROD: the leading result `r` of the exact `x`, and one error word (R242, R244). -/
def tTwo (t : Ty) (r : FOut) (x : Dy) : TOut :=
  if !isFinite t r.bits then tSpecial 1 r
  else
    let e := dySub x (fdec t r.bits).dy
    let (eb, _) := rnDy t e
    { words := [r.bits, eb], fl := lostFl r.fl (!dyEq (fdec t eb).dy e) }

/-- FFASTSUM (R243). -/
def tFast (t : Ty) (a b : FV) : TOut :=
  let r := fAdd t .rne 0 a b
  if !isFinite t r.bits then tSpecial 1 r
  else
    let s := (fdec t r.bits).dy
    let z := fdec t (rnDy t (dySub s a.dy)).1
    let eb := (exactOut t .rne 0 (fvAdd .rne b z.neg) 0).bits
    let true_ := dySub (dyAdd a.dy b.dy) s
    let eb := if eb = fSign t true then 0 else eb
    { words := [r.bits, eb], fl := lostFl r.fl (!isFinite t eb || !dyEq (fdec t eb).dy true_) }

/-- FFMA3 (R245). -/
def tFma3 (t : Ty) (a b c : FV) : TOut :=
  let r := fFma t .rne 0 a b c
  if !isFinite t r.bits then tSpecial 2 r
  else
    let x := dyAdd (dyMul a.dy b.dy) c.dy
    let d1 := dySub x (fdec t r.bits).dy
    let e1 := (rnDy t d1).1
    let d2 := dySub d1 (fdec t e1).dy
    let e2 := (rnDy t d2).1
    { words := [r.bits, e1, e2], fl := lostFl r.fl (!dyEq (fdec t e2).dy d2) }

/-- A value rounded to nearest with the format's precision and an unbounded exponent. -/
def rnFree (t : Ty) (x : Dy) : Dy :=
  if x.1 = 0 then x
  else
    let q := ilog x.1.natAbs x.2 - fFrac t
    let (r, _) := roundGrid .rne (x.1 < 0) 0 x.1.natAbs x.2 q
    ((if x.1 < 0 then -(r : Int) else r), q)

/-- FSPLIT (n = 2) and FSPLIT3 (n = 3) (R246, R247). -/
def tSplit (src dst : Ty) (n : Nat) (a : FV) : TOut :=
  match a with
  | .nan b => let (x, f) := nanConv src dst b; { words := x :: List.replicate (n - 1) 0, fl := f }
  | a =>
    let (hb, hf) := frnd dst .rne 0 false a
    if !isFinite dst hb then tSpecial (n - 1) { bits := hb, fl := hf, ext := a }
    else
      let m := dySub a.dy (fdec dst hb).dy
      let lb := (rnDy dst m).1
      let m2 := dySub m (fdec dst lb).dy
      let lb2 := (rnDy dst m2).1
      let hfl := Nat.land hf (fIV + fOF + fUF)
      let (words, before, last) := if n = 2 then ([hb, lb], m, lb) else ([hb, lb, lb2], m2, lb2)
      let rest := dySub before (fdec dst last).dy
      let fl := if rest.1 = 0 then hfl else Nat.lor hfl fIX
      { words := words, fl := lostFl fl (!dyEq (rnFree dst before) (fdec dst last).dy) }

/-! ### Expansions (R164, R165, R248 to R256) -/

/-- The value of an expansion (R165). -/
inductive XVal where
  /-- the first NaN component -/
  | nan (b : Nat)
  /-- both infinities occur -/
  | clash
  | val (v : FV)

/-- A component is a signalling NaN. -/
def xSig (t : Ty) (cs : List FV) : Bool := cs.any (isSig t)

/-- The value of a list of components. Zeros alone have the sign of the first, so that a normal form comes back unchanged from
XREN (R252, DEDUCED: notes/assumptions/2.md). -/
def xval (cs : List FV) : XVal :=
  match cs.find? FV.isNan with
  | some (.nan b) => .nan b
  | _ =>
    if cs.all FV.isZero then .val (cs.headD (.fin false 0 0))
    else match cs with
    | [] => .val (.fin false 0 0)
    | c :: r => match r.foldl (fun a x => a.bind fun y => fvAdd .rne y x) (some c) with
      | some v => .val v
      | none => .clash

/-- The sum of RN's result and whether it overflowed. -/
def rnVal (t : Ty) (x : Dy) : Dy × Bool :=
  let (b, f) := rnDy t x
  if Nat.land f fOF ≠ 0 then (x, true) else ((fdec t b).dy, false)

/-- The repair of XNORM from component `j` down (R248): components most significant first. -/
def xRepair (t : Ty) : Nat → List Dy → Option (List Dy)
  | 0, c => some c
  | j + 1, c =>
    let lo := c.getD (j + 1) (0, 0)
    let hi := c.getD j (0, 0)
    if lo.1 = 0 then some c
    else
      let (s, big) := rnVal t (dyAdd hi lo)
      if dyEq s hi && !big then some c
      else
        let hi' := dyAdd hi (dyMul (2, 0) lo)
        if dyLt (dyAbs (fdec t (maxBits t)).dy) (dyAbs hi') then none
        else xRepair t j ((c.set j hi').set (j + 1) (-lo.1, lo.2))

/-- Components from index `i` on; none where one overflows. -/
def xLoop (t : Ty) : Nat → Nat → List Dy → Dy → Option (List Dy × Dy)
  | 0, _, c, rem => some (c, rem)
  | k + 1, i, c, rem =>
    let (v, big) := rnVal t rem
    if big then none
    else match xRepair t i (c ++ [v]) with
      | none => none
      | some c' => xLoop t k (i + 1) c' (dySub rem v)

/-- The bits of a component; a zero takes the sign of what was rounded to it. -/
def compBits (t : Ty) (x : Dy) (zneg : Bool) : Nat := (frnd t .rne 0 false (dyFV x zneg)).1

/-- XNORM of an exact finite value into `n` components of a format (R248, R249): the components' bits, and the flags. -/
def xnorm (t : Ty) (n : Nat) (v : FV) : List Nat × Nat :=
  let x := v.dy
  if x.1 = 0 then (fSign t v.sign :: List.replicate (n - 1) 0, 0)
  else match xLoop t n 0 [] x with
    | none => (overBits t .rne (x.1 < 0) false :: List.replicate (n - 1) 0, fOF + fIX + fRL)
    | some (c, rem) =>
      -- a component that RN takes to zero keeps the sign of the remainder, which stays what it was
      let zneg := rem.1 < 0
      let big := dyLt (dyMul (dyAbs x) (1, 1 - (n * fPrec t : Int))) (dyAbs rem)
      (c.map fun d => compBits t d zneg,
        if rem.1 = 0 then 0 else fIX + if big then fRL + fUF else 0)

/-- A result that is not finite, followed by +0 (R251). -/
def xSpecial (n b fl : Nat) : List Nat × Nat := (b :: List.replicate (n - 1) 0, fl)

/-- XADD, XSUB, XMUL, XREN and XCOMP: `op` on the values of the operands (R251 to R253). -/
def xOp (t : Ty) (n : Nat) (args : List (List FV)) (op : List FV → Option FV) : List Nat × Nat :=
  let vs := args.map xval
  let clash := vs.any fun v => match v with | .clash => true | _ => false
  let iv := if args.any (xSig t) || clash then fIV else 0
  match (args.flatMap id).find? FV.isNan with
  | some (.nan b) => xSpecial n (quietBits t b) iv
  | _ =>
    if clash then xSpecial n (canonNan t) fIV
    else match op (vs.map fun v => match v with | .val x => x | _ => .fin false 0 0) with
      | none => xSpecial n (canonNan t) fIV
      | some (.inf s) => xSpecial n (infBits t s) 0
      | some v => xnorm t n v

/-- XNEG and XABS (R254). -/
def xNegAbs (t : Ty) (n : Nat) (isNeg : Bool) (cs : List FV) (bits : List Nat) : List Nat × Nat :=
  let flip (b : Nat) : Nat := Nat.xor b (2 ^ (fWidth t - 1))
  match xval cs with
  | .nan b => xSpecial n (quietBits t b) (if isSig t (.nan b) then fIV else 0)
  | .clash => xSpecial n (canonNan t) fIV
  | .val v =>
    if isNeg then (bits.map flip, 0)
    else match v with
      | .fin s m _ =>
        if m = 0 then (bits.map fun b => if b = fSign t true then 0 else b, 0) else if s then (bits.map flip, 0) else (bits, 0)
      | v => if v.sign then (bits.map flip, 0) else (bits, 0)

/-- An expansion as one value for comparison: NaN where it has none. -/
def xvalFV (t : Ty) (cs : List FV) : FV :=
  match xval cs with
  | .nan b => .nan b
  | .clash => .nan (canonNan t)
  | .val v => v

/-- The operand counts as signalling (R255). -/
def xSignals (t : Ty) (cs : List FV) : Bool :=
  xSig t cs || (match xval cs with | .clash => true | _ => false)

end Sys2Proof.Machine
end

