-- ==== Sys2Proof/Machine/Access.lean ====
section
/-! DEFINITION. Machine/Access.lean: one lane's access to memory, from its checks to its effect (R262, R266, R271, R272, R276, R277,
R282, R287, R288, R298), and how an access instruction issues, waits and completes. -/

namespace Sys2Proof.Machine

/-! ### Values of an access (R287) -/

/-- The component values that a store takes from registers. -/
def storeVals (g : Group) (t : Ty) (r L : Nat) : List Nat :=
  (List.range (tyN t)).map fun i => vbits g (tyComp t) (r + i * tyRegs1 (tyComp t)) L % 2 ^ (8 * tyBytes1 (tyComp t))

/-- A loaded component as its register holds it: .i8 and .i16 are sign-extended. -/
def loadReg (t : Ty) (x : Nat) : Nat :=
  match t with
  | .i8 => wrapN 32 (sextI 8 x)
  | .i16 => wrapN 32 (sextI 16 x)
  | _ => x

/-- Write loaded components into vector registers of a lane. -/
def putLoad (g : Group) (t : Ty) (r L : Nat) (vals : List Nat) : Group :=
  (vals.zipIdx).foldl (fun g (x, i) => vput g (tyComp t) (r + i * tyRegs1 (tyComp t)) L (loadReg t x)) g

/-- The components of an access at an address: consecutive, ascending (R288). -/
def compsAt (t : Ty) (a : Nat) : List (Nat × Nat) :=
  (List.range (tyN t)).map fun i => (a + i * tyBytes1 (tyComp t), tyBytes1 (tyComp t))

/-! ### Atomics (R297, R298, R277, R300) -/

/-- The new value of an atomic, and its flags. -/
def atomNew (fn : AtomFn) (t : Ty) (old v cmp : Nat) : Nat × Nat :=
  let w := 8 * tyBytes1 t
  let lt (a b : Nat) : Bool := tyVal t a < tyVal t b
  match fn with
  | .add => if tyInt t then ((old + v) % 2 ^ w, 0) else let r := fAdd t .rne 0 (fdec t old) (fdec t v); (r.bits, r.fl)
  | .min => (if lt v old then v else old, 0)
  | .max => (if lt old v then v else old, 0)
  | .and => (Nat.land old v, 0)
  | .or => (Nat.lor old v, 0)
  | .xor => (Nat.xor old v, 0)
  | .exch => (v, 0)
  | .cas => (if old = cmp then v else old, 0)
  | .inc => (if old ≥ v then 0 else old + 1, 0)
  | .dec => (if old = 0 ∨ old > v then v else old - 1, 0)

/-- A compensated update of a pair (R277, R300): the new pair, and the flags of its roundings. -/
def atomcNew (t : Ty) (hi lo v : Nat) : (Nat × Nat) × Nat :=
  let a := fdec t hi
  let b := fdec t v
  let s := fAdd t .rne 0 a b
  let fin2 := isFinite t hi && isFinite t v
  if !isFinite t s.bits then ((s.bits, 0), if fin2 then Nat.lor s.fl fRL else s.fl)
  else
    let sv := fdec t s.bits
    let e := dyFV (dySub (dyAdd a.dy b.dy) sv.dy) false
    let tr := fAdd t .rne 0 (fdec t lo) e
    let h := fAdd t .rne 0 sv (fdec t tr.bits)
    if !isFinite t tr.bits || !isFinite t h.bits then
      let d := exactOut t .rne 0 (fvAdd .rne (fdec t h.bits) sv.neg) 0
      let l := fSub t .rne 0 (fdec t tr.bits) (fdec t d.bits)
      ((h.bits, l.bits), Nat.lor (Nat.lor s.fl tr.fl) (Nat.lor h.fl (Nat.lor l.fl (if isFinite t tr.bits then fRL else 0))))
    else
      let hv := fdec t h.bits
      let l := exactOut t .rne 0 (some (dyFV (dySub (fdec t tr.bits).dy (dySub hv.dy sv.dy)) false)) 0
      let lost := !isFinite t l.bits || !dyEq (dyAdd hv.dy (fdec t l.bits).dy) (dyAdd sv.dy (fdec t tr.bits).dy)
      ((h.bits, l.bits), Nat.lor (Nat.lor s.fl tr.fl) (Nat.lor h.fl (Nat.lor l.fl (if lost then fRL else 0))))

/-! ### Scratchpads (R264 to R267) -/

/-- A number of `n` bytes of a grant. -/
def scrNat (t : Team) (o n : Nat) : Nat := leNat ((List.range n).map fun i => (mget t.scr 0 (o + i)).toNat)

/-- Bytes of a grant. -/
def scrBytesOf (t : Team) (o n : Nat) : List Nat := (List.range n).map fun i => (mget t.scr 0 (o + i)).toNat

/-- A word of the range is poisoned. -/
def scrPoisoned (t : Team) (o n : Nat) : Bool := (List.range ((o + n + 3) / 4 - o / 4)).any fun i => mget t.scrPois false (o / 4 + i)

/-- Write bytes of a grant; words covered whole become clean, or all touched words poisoned. -/
def scrWrite (t : Team) (o : Nat) (bs : List Nat) (poison : Bool) : Team :=
  let n := bs.length
  let scr := (bs.zipIdx).foldl (fun m (b, i) => msetD m (0 : Byte) (o + i) (BitVec.ofNat 8 b)) t.scr
  let p :=
    if poison then (List.range ((o + n + 3) / 4 - o / 4)).foldl (fun p i => mput p (o / 4 + i) true) t.scrPois
    else (List.range ((o + n) / 4 - (o + 3) / 4)).foldl (fun p i => mdel p ((o + 3) / 4 + i)) t.scrPois
  { t with scr := scr, scrPois := p }

/-- A line of the range is absent (R266). -/
def lineAbsent (t : Team) (o n : Nat) : Option Nat :=
  ((List.range ((o + n + 127) / 128 - o / 128)).map fun i => o / 128 + i).find? fun l => (mget? t.absent l).isSome

/-- The team of a rank in a cluster (R265). -/
def teamOfRank (s : State) (launch cluster rank : Nat) : Option Nat :=
  (s.teams.find? fun e => e.2.launch == launch && e.2.cluster == cluster && e.2.crank == rank).map Prod.fst

/-- A cluster address as a target team and an offset, where it passes check 1 (R265, R286). -/
def clusterAt (s : State) (tm : Team) (a : Nat) (n : Nat) : Option (Nat × Nat) :=
  if a ≥ 2 ^ 24 then none
  else match teamOfRank s tm.launch tm.cluster (a / 2 ^ 20) with
    | none => none
    | some id => match team? s id with
      | none => none
      | some t => if t.st == .retired || a % 2 ^ 20 + n > t.scrBytes then none else some (id, a % 2 ^ 20)

/-! ### Layers and ownership (R272, R84, R85) -/

/-- The window that holds an address: launch and layer index, of the earliest-taken launch in progress. -/
def windowOf (s : State) (ctx va : Nat) : Option (Nat × Nat) :=
  let ls := s.launches.filter fun e => e.2.ctx == ctx && e.2.model.isSome && e.2.status.isNone
  let hit (ln : Launch) : Option Nat :=
    ((layersOf ln).zipIdx.find? fun (ly, _) => ly.wlo ≤ va && va < ly.whi).map Prod.snd
  ls.foldl (fun best e =>
    match hit e.2 with
    | none => best
    | some i => match best with
      | none => some (e.1, i)
      | some (l, _) => if e.2.order < ((launch? s l).map (·.order)).getD 0 then some (e.1, i) else best) none

/-- What a layer-managed address finds. -/
inductive LayerRes where
  | ok
  | wait (launch layer : Nat)
  | failed (launch layer : Nat)
  /-- the flag word is poisoned (R478) -/
  | poison
  deriving DecidableEq, Repr

/-- The layer has failed. -/
def LayerRes.isFailed : LayerRes → Bool
  | .failed _ _ => true
  | _ => false

/-- The state of a layer of a launch as its waiters find it. -/
def layerNow (s : State) (launch : Nat) (ly : Layer) : Nat :=
  match (launch? s launch).bind fun ln => ctx? s ln.ctx with
  | some c => layerState s c ly
  | none => ly.state

/-- The layer check of an address (R271, R272). -/
def layerCheck (s : State) (c : Ctx) (ctx va : Nat) : LayerRes :=
  if regionKind c va ≠ 4 then .ok
  else match windowOf s ctx va with
    | none => .ok
    | some (l, i) =>
      match (launch? s l).bind fun ln => (layersOf ln)[i]? with
      | none => .ok
      | some ly => let st := layerState s c ly
               if st = 2 then .ok else if st = 3 then .failed l i else if st = 8 then .poison else .wait l i

/-- The layer joins the re-requests of its stream, where it is not queued. -/
def joinRereq (layer : Nat) (md : Model) : Model :=
  if (md.cur.map (·.layer)) == some layer || md.rereq.contains layer || md.initial.contains layer then md
  else { md with rereq := md.rereq ++ [layer] }

/-- A stream is asked for a layer (R378, R384): one whose flag word says absent or evicting, or holds a reserved state (R34). -/
def requestLayer (s : State) (launch layer : Nat) : State :=
  match (launch? s launch).bind fun ln => (layersOf ln)[layer]? with
  | none => s
  | some ly =>
    let st := layerNow s launch ly
    if st = 1 || st = 2 || st = 3 || st = 8 then s
    else modLaunch s launch fun ln => { ln with model := ln.model.map (joinRereq layer) }

/-- The layers that addresses find not resident are asked for (R384). -/
def askLayers (s : State) (c : Ctx) (ctx : Nat) (vas : List Nat) : State :=
  vas.foldl (fun s va => match layerCheck s c ctx va with | .wait l i => requestLayer s l i | _ => s) s

/-- The layers of its own launch whose check an access or fetch of a team passes: the team takes their holds (R382). -/
def takeHolds (s : State) (team : Nat) (c : Ctx) (ctx launch : Nat) (vas : List Nat) : State :=
  let ls := vas.filterMap fun va => if regionKind c va ≠ 4 then none else match windowOf s ctx va with
    | some (l, i) => if l = launch then some i else none
    | none => none
  if ls = [] then s
  else modTeam s team fun t => { t with holds := ls.foldl (fun h i => if h.contains i then h else h ++ [i]) t.holds }

/-- The global addresses of an access's components. -/
def Acc.vas (a : Acc) : List Nat := match a.space with | .global => a.comps.map Prod.fst | .scratch _ => []

/-- The lanes that an access acts for. -/
def Acc.lanes (a : Acc) : Word := if a.shared = 0 then lbit a.lane else a.shared

/-- What ordered mode says of an address (R84, R85). -/
inductive OwnRes where
  | plain | mine | other | shared
  /-- the owner map's entry is not translated yet -/
  | page (va : Nat)
  /-- a byte of the table or of a map -/
  | table
  /-- the owner map's entry is poisoned -/
  | poison
  deriving DecidableEq, Repr

/-- Classify an address for a team on a core. The table is private to no one: only stores to it are refused. -/
def ownCheck (s : State) (cr : Nat) (who : Waiter) (c : Ctx) (ln : Launch) (t va : Nat) (store : Bool) : OwnRes :=
  if ln.owns = [] then .plain
  else if store && ((ln.ownTab ≤ va && va < ln.ownTab + ln.ownLen)
      || ln.owns.any fun b => b.map ≤ va && va < b.map + 2 * (b.bytes / 128)) then .table
  else match ln.owns.find? fun b => b.base ≤ va && va < b.base + b.bytes with
    | none => .plain
    | some b =>
      let e := b.map + 2 * ((va - b.base) / 128)
      match translateFor s (some cr) who c.pasid e .rd with
      | .ok key _ =>
        if poisoned s key 2 then .poison
        else let o := readNat s key 2; if o = t then .mine else if o < ln.kern.vgrid then .other else .shared
      | _ => .page e

/-! ### The checks (R262) -/

/-- Whether an access may be performed now. -/
inductive AccRes where
  /-- the keys of the components in memory, and whether each is entered in the deferred-store queue -/
  | go (keys : List (Nat × Bool))
  | wait
  | pages (vas : List Nat)
  | layer (launch layer : Nat)
  | deny
  /-- the flag word of its layer is poisoned (R478) -/
  | poison
  deriving DecidableEq, Repr

/-- An access that writes. -/
def AccOp.writes : AccOp → Bool
  | .load => false
  | _ => true

/-- The permissions that it needs (R262). -/
def AccOp.need : AccOp → Need
  | .load => .rd
  | .store => .wr
  | _ => .rw

/-- Host memory refuses an atomic (R276, R300). -/
def hostRefuses (a : Acc) : Bool :=
  match a.op with
  | .atomc => true
  | .atom fn =>
    a.sysScope && (match fn with
      | .add => !tyInt a.ty
      | .exch | .cas => false
      | _ => true)
  | _ => false

/-- Checks 1 to 4 of R262 for one lane, as the number of the first that fails. -/
def accCheck (s : State) (who : Waiter) (c : Ctx) (ln : Launch) (t : Team) (align : Nat) (ea : Nat) (a : Acc) (inRange : Bool) : Option Nat :=
  if !inRange then some 1
  else if ea % align ≠ 0 then some 2
  else match a.space with
    | .scratch _ => none
    | .global =>
      if a.op.writes && a.comps.any fun (x, _) => regionKind c x == 2 || regionKind c x == 4 then some 3
      else if a.comps.any fun (x, _) => match ownCheck s t.core who c ln t.t x a.op.writes with | .other | .table => true | _ => false
      then some 4 else none

/-- The trap of a check: check 2 misalignment, the others permission. -/
def checkCause (k : Nat) : Nat := if k = 2 then 0x03 else 0x04

/-- Lanes of a word wait for a page, or have been answered and have not gone on: their layers have been found resident (R338). -/
def pageWaits (s : State) (who : Waiter) (m : Word) : Bool := s.waits.any fun p => p.who == who && p.lanes &&& m != 0

/-- Checks 6 to 8, and the keys. -/
def accReady (s : State) (c : Ctx) (ln : Launch) (t : Team) (who : Waiter) (a : Acc) : AccRes :=
  match a.space with
  | .scratch id =>
    match team? s id with
    | none => .deny
    | some tt =>
      if tt.st == .retired then .deny
      else if tt.st != .resident || (match a.obj with | some (_, o) => (lineAbsent tt o 16).isSome | none => false) || a.comps.any fun (o, n) => (lineAbsent tt o n).isSome then .wait
      else .go (a.comps.map fun (o, _) => (o, false))
  | .global =>
    let lys : List LayerRes := if pageWaits s who a.lanes then [] else a.comps.map fun (x, _) => layerCheck s c a.ctx x
    match lys.find? LayerRes.isFailed with
    | some (.failed l i) => .layer l i
    | _ =>
      if lys.contains .poison then .poison
      else if lys.any fun r => r != .ok then .wait
      else
        let trs := a.comps.map fun (x, _) => (x, translateFor s (some t.core) who c.pasid x a.op.need)
        let maps := a.comps.filterMap fun (x, _) => match ownCheck s t.core who c ln t.t x a.op.writes with | .page e => some e | _ => none
        if (trs.any fun (x, r) => r == .deny || (r == .miss && deniedFor s who x))
            || maps.any (fun e => translateFor s (some t.core) who c.pasid e .rd == .deny || deniedFor s who e) then .deny
        else
          let miss := (trs.filter fun (_, r) => r == .miss).map Prod.fst
          if miss ≠ [] || maps ≠ [] then .pages (miss ++ maps)
          else if trs.any fun (_, r) => match r with | .ok _ h => h && hostRefuses a | _ => false then .deny
          else .go (trs.map fun (x, r) => match r with
            | .ok key _ => (key, a.op.writes && ownCheck s t.core who c ln t.t x true == .shared)
            | _ => (0, false))

/-! ### Performing an access -/

/-- What performing an access leaves: the state, its flags, what the weirs see, whether poison was read, and whether a load or atomic
did not find its line in the L1. -/
structure Did where
  s : State
  fl : Nat := 0
  acc : List (Nat × Nat × Bool × Nat × Nat) := []
  val : List (Nat × Nat × Nat) := []
  poison : Bool := false
  miss : Bool := false

/-- The ACC bit of an access (R448): load, store, atomic. -/
def AccOp.accBit : AccOp → Nat
  | .load => 0 | .store => 1 | _ => 2
/-- The ACC bit of its value: returned to the lane, or written. -/
def AccOp.valBit : AccOp → Nat
  | .load => 0 | _ => 1

/-- A component of an access: its address, its key, its bytes, and whether the queue of its team takes it. -/
structure Comp where
  va : Nat
  key : Nat
  n : Nat
  q : Bool

/-- Bytes to be written: their address, the key where they go, and the bytes. -/
structure Run where
  va : Nat
  key : Nat
  bs : List Nat

/-- Runs that follow each other, as addresses and in memory, are one (R288, R478). -/
def joinRuns : List Run → List Run
  | [] => []
  | r :: l => match joinRuns l with
    | [] => [r]
    | x :: t => if r.va + r.bs.length = x.va ∧ r.key + r.bs.length = x.key then { r with bs := r.bs ++ x.bs } :: t else r :: x :: t

/-- What a store writes: the components with their values, but for the bytes that are cut from it. -/
def storeRuns (cut : List (Nat × Nat)) (l : List (Comp × Nat)) : List Run :=
  let rs : List Run := l.map fun (c, v) => { va := c.va, key := c.key, bs := leBytes c.n v }
  joinRuns (if cut = [] then rs
    else (rs.flatMap fun r => r.bs.zipIdx.map fun (b, i) => { va := r.va + i, key := r.key + i, bs := [b] }).filter fun r =>
      !cut.any fun (a, n) => a ≤ r.va && r.va < a + n)

/-- Where an access is performed: the space, its core and its context. -/
structure Place where
  space : Space
  cr : Nat
  c : Ctx
  team : Nat

/-- The place of an access of a team. -/
def placeOf (s : State) (own : Nat) (a : Acc) : Place :=
  { space := a.space, cr := ((team? s own).map (·.core)).getD 0, c := (ctx? s a.ctx).getD { pasid := 0, part := 0 }, team := own }

/-- Read a component, and whether it is poisoned. -/
def compRead (s : State) (w : Place) (c : Comp) : Nat × Bool :=
  match w.space with
  | .global => (coreNat s w.cr w.c.pasid c.key c.n, corePois s w.cr w.c.pasid c.key c.n)
  | .scratch id => match team? s id with
    | some t => (scrNat t c.key c.n, scrPoisoned t c.key c.n)
    | none => (0, false)

/-- Write a run. -/
def runWrite (w : Place) (s : State) (r : Run) : State :=
  match w.space with
  | .global => coreWrite s w.cr w.c r.va r.key r.bs false
  | .scratch id => modTeam s id fun t => scrWrite t r.key r.bs false

/-- Write components. -/
def compWrite (s : State) (w : Place) (cut : List (Nat × Nat)) (l : List (Comp × Nat)) : State := (storeRuns cut l).foldl (runWrite w) s

/-- The core looks components up and takes their lines into its L1 (R275, R279). An operation at the home or at the host takes the lines
out of every L1 instead (R276). -/
def fillFor (s : State) (w : Place) (op : AccOp) (atHome : Bool) (cs : List Comp) : State :=
  match w.space with
  | .scratch _ => s
  | .global => cs.foldl (fun s c =>
      let s1 := touchTlb s w.cr w.team w.c.pasid c.va
      if atHome then recallLine s1 c.key else if op == .store then s1 else l1Fill s1 w.cr w.c c.va c.key (op == .load)) s

/-- A load or atomic of the core does not find a line in its L1. -/
def missesL1 (s : State) (w : Place) (op : AccOp) (cs : List Comp) : Bool :=
  match w.space with
  | .scratch _ => false
  | .global => op != .store && cs.any fun c => !l1Has s w.cr w.c.pasid c.key

/-- An atomic that the home L2 or the host performs (R276): ATOMC, and one at .sys scope on host memory. -/
def atHome (a : Acc) (cs : List Comp) : Bool :=
  match a.op with
  | .atomc => true
  | .atom _ => a.sysScope && cs.any fun c => hostBase ≤ c.key
  | _ => false

/-- The monitors see a load that missed the L1: its latency, and that of HBM where the L2 missed too, are timing (R475; log entry 21). -/
def recordMiss (s : State) (cr cx : Nat) : State :=
  if s.mons = [] then s
  else
    let s1 := monRecord { s with free := s.free + 1 } (some cr) cx 1 (Config.missLatency s.free)
    if Config.l2Miss s.free then monRecord s1 (some cr) cx 2 (Config.hbmLatency s.free) else s1

/-- Enter components in the team's deferred-store queue (R86), under their keys. -/
def deferAcc (s : State) (team gidx : Nat) (a : Acc) (tr : Option TrapRec) (l : List (Comp × Nat)) : State :=
  modTeam s team fun t =>
    { t with defer := t.defer ++ [{ group := gidx, n := t.defer.length, tr := tr
                                    acc := { a with comps := l.map fun e => (e.1.key, e.1.n), data := l.map Prod.snd } }] }

/-- Write what an access returns into its lanes' registers. -/
def putDst (g : Group) (a : Acc) (vals : List Nat) : Group :=
  match a.dst with
  | some (.v r) => if a.op == .atomc then putLoad (putLoad g a.ty r a.lane (vals.take 1)) a.ty (r + tyRegs a.ty) a.lane (vals.drop 1)
    else putLoad g a.ty r a.lane vals
  | some (.s r) => if tyRegs a.ty = 2 then sset64 g r (BitVec.ofNat 64 (vals.headD 0))
    else sset g r (BitVec.ofNat 32 (loadReg a.ty (vals.headD 0)))
  | some (.p r) => pset g r a.shared (BitVec.ofNat 32 (vals.headD 0))
  | _ => g

/-- The components of an access with their keys. -/
def compsOf (a : Acc) (keys : List (Nat × Bool)) : List Comp :=
  (keys.zip a.comps).map fun ((k, q), (x, n)) => { va := x, key := k, n := n, q := q }

/-- What the weirs see of an access: global accesses, and those to the team's own grant. -/
def Acc.seen (a : Acc) (own : Nat) : List (Nat × Nat × Bool × Nat × Nat) :=
  match (match a.space with | .global => some false | .scratch id => if id = own then some true else none) with
  | some sc => (lanesOf a.lanes).flatMap fun L => a.comps.map fun (x, n) => (L, a.op.accBit, sc, x, n)
  | none => []

/-- Perform an access whose keys are known: memory and the lane's registers change, as one event. `tr` is the record of a trap that its
lane could take. -/
def perform (s0 : State) (gid : Nat) (own : Nat) (tr : TrapRec) (a : Acc) (keys : List (Nat × Bool)) : Did :=
  let w := placeOf s0 own a
  let cs := compsOf a keys
  let home := atHome a cs
  let s := fillFor s0 w a.op home cs
  let olds := cs.map (compRead s w)
  let gidx := ((group? s gid).map (·.idx)).getD 0
  let lanes := lanesOf a.lanes
  let old := olds.map Prod.fst
  let d : Did := { s := s, acc := a.seen own, miss := missesL1 s0 w a.op cs }
  match a.op with
  | .load =>
    { d with s := modGroup s gid fun g => putDst g a old, val := lanes.flatMap fun L => old.map fun x => (L, 0, x), poison := olds.any Prod.snd }
  | .store =>
    let now := (cs.zip a.data).filter fun e => !e.1.q
    let later := (cs.zip a.data).filter fun e => e.1.q
    let s1 := compWrite s w a.cut now
    { d with s := if later = [] then s1 else deferAcc s1 own gidx a none later, val := lanes.flatMap fun L => a.data.map fun x => (L, 1, x) }
  | .atom fn =>
    let c := cs.headD { va := 0, key := 0, n := 0, q := false }
    let v := a.data.headD 0
    let (new, fl) := atomNew fn a.ty (old.headD 0) v a.cmp
    let s1 := if c.q then deferAcc s own gidx a (some tr) [(c, v)] else compWrite s w [] [(c, new)]
    let s2 := if a.sysScope && c.key ≥ hostBase then emit s1 (.hostAtomic (c.key - hostBase)) else s1
    { d with s := modGroup s2 gid fun g => putDst g a old, fl := if c.q then 0 else fl, poison := olds.any Prod.snd
             val := lanes.flatMap fun L => (L, 1, new) :: (if a.dst.isSome then [(L, 0, old.headD 0)] else []) }
  | .atomc =>
    let v := a.data.headD 0
    let ((h, l), fl) := atomcNew a.ty (old.headD 0) ((old.drop 1).headD 0) v
    let q := cs.any fun c => c.q
    let s1 := if q then deferAcc s own gidx a (some tr) (cs.zip [v, v])
      else (storeRuns [] (cs.zip [h, l])).foldl (fun s r => writeBytes s r.key r.bs) s
    { d with s := modGroup s1 gid fun g => putDst g a old, fl := if q then 0 else fl, poison := olds.any Prod.snd
             val := lanes.flatMap fun L => [(L, 1, h), (L, 1, l)] ++ old.map fun x => (L, 0, x) }

/-- The bytes that a store writes are cut from what lower lanes of its word have still to write: the highest lane's value stays
(R288). -/
def cutBy (a b : Acc) : Acc :=
  if a.op == .store && b.op == .store && b.seq == a.seq && b.lane < a.lane && b.space == a.space then { b with cut := a.comps ++ b.cut } else b

/-- The group of a team with an index. -/
def groupIdx (s : State) (team idx : Nat) : Option Nat :=
  (team? s team).bind fun t => t.groups.find? fun id => (group? s id).any fun g => g.idx == idx

/-- The flags of an atomic that the serial phase has applied reach its group. DEDUCED (log entry 67): its lane, which waits at the GSYNC,
takes the trap of an enabled class when it goes on (R163, R298). -/
def deferFlags (s : State) (gid : Nat) (d : DStore) (fl : Nat) : State :=
  if fl = 0 then s
  else modGroup s gid fun g =>
    let g1 := { g with fstat := Nat.lor g.fstat fl }
    let m := lbit d.acc.lane &&& liveLanes g
    match d.tr with
    | some tr => if Nat.land fl g.fptrap = 0 || m = 0 then g1
        else pendTrap g1 { tr with cause := 0x0A, tlanes := m, fpcls := [(d.acc.lane, fl)], detail := 0, faddr := 0 }
    | none => g1

/-- An atomic consumes poison in the serial phase (R478). -/
def deferPoison (s : State) (team : Nat) (d : DStore) : State :=
  let pc := (d.tr.map (·.pc)).getD 0
  match groupIdx s team d.group with
  | some gid => haltGroup s gid 0x0D pc
  | none => raiseHalt (raiseErr s 2) d.acc.ctx { cause := 0x0D, launch := some d.acc.launch, pc := pc }

/-- One entry of a team's queue is applied by a serial phase (R87): its keys are those of memory, and no L1 holds their lines any more. -/
def applyDefer (s0 : State) (team : Nat) (d : DStore) : State :=
  let a := d.acc
  let s := a.comps.foldl (fun s c => recallLine s c.1) s0
  let cs : List Comp := a.comps.map fun (k, n) => { va := k, key := k, n := n, q := false }
  let old (i : Nat) : Nat := match cs[i]? with | some c => readNat s c.key c.n | none => 0
  let write (s : State) (vals : List Nat) : State := (storeRuns a.cut (cs.zip vals)).foldl (fun s r => writeBytes s r.key r.bs) s
  let flags (s : State) (fl : Nat) : State := match groupIdx s team d.group with | some gid => deferFlags s gid d fl | none => s
  if a.op != .store && cs.any fun c => poisoned s c.key c.n then deferPoison s team d
  else match a.op with
  | .load => s
  | .store => write s a.data
  | .atom fn => let (new, fl) := atomNew fn a.ty (old 0) (a.data.headD 0) a.cmp; flags (write s [new]) fl
  | .atomc => let ((h, l), fl) := atomcNew a.ty (old 0) (old 1) (a.data.headD 0); flags (write s [h, l]) fl

/-! ### Completion of what was outstanding -/

/-- The trap record of a word in flight. -/
def flyTr (f : Fly) (cause : Nat) (lanes : Word) : TrapRec :=
  { cause := cause, pc := f.pc, npc := f.pc + (if f.w1.isSome then 8 else 4), cl := f.cl, tlanes := lanes, exec := f.lanes,
    w0 := f.w0, w1 := f.w1 }

/-- A word in flight of a group. -/
def flyOf (g : Group) (seq : Nat) : Option Fly := g.fly.find? fun f => f.seq == seq
/-- Change it. -/
def modFly (g : Group) (seq : Nat) (f : Fly → Fly) : Group := { g with fly := g.fly.map fun x => if x.seq == seq then f x else x }

/-! ### Barrier objects, as the bytes that hold them (R305, R307) -/

/-- A barrier object. -/
structure BObj where
  earr : Nat
  parr : Nat
  ecause : Nat
  can : Bool
  err : Bool
  valid : Bool
  phase : Bool
  ebytes : Nat
  pbytes : Int
  /-- the reserved bits, kept as they are -/
  rest : Nat
  deriving DecidableEq, Repr

/-- Read an object. -/
def bobjGet (t : Team) (o : Nat) : BObj :=
  let w := scrNat t o 16
  { earr := bitsOf w 0 16, parr := bitsOf w 16 16, ecause := bitsOf w 48 8, can := w.testBit 60, err := w.testBit 61,
    valid := w.testBit 62, phase := w.testBit 63, ebytes := bitsOf w 64 32, pbytes := sextI 32 (bitsOf w 96 32),
    rest := bitsOf w 32 16 + bitsOf w 56 4 * 2 ^ 16 }
/-- An object as its 16 bytes. -/
def bobjNat (b : BObj) : Nat :=
  b.earr % 2 ^ 16 + b.parr % 2 ^ 16 * 2 ^ 16 + b.rest % 2 ^ 16 * 2 ^ 32 + b.ecause % 2 ^ 8 * 2 ^ 48
    + b.rest / 2 ^ 16 % 16 * 2 ^ 56 + bit b.can * 2 ^ 60 + bit b.err * 2 ^ 61 + bit b.valid * 2 ^ 62 + bit b.phase * 2 ^ 63
    + b.ebytes % 2 ^ 32 * 2 ^ 64 + wrapN 32 b.pbytes * 2 ^ 96
/-- Write an object; a poisoned one stays poisoned, since the update has read it (R478). -/
def bobjPut (t : Team) (o : Nat) (b : BObj) : Team := scrWrite t o (leBytes 16 (bobjNat b)) (scrPoisoned t o 16)

/-- The flip of an update that leaves both counts zero (R307): whether it occurs, and the object after it. -/
def bobjFlip (b : BObj) : Bool × BObj :=
  if b.valid && b.parr == 0 && b.pbytes == 0 then (true, { b with phase := !b.phase, parr := b.earr, ebytes := 0, pbytes := 0 })
  else (false, b)

/-- The lanes of a group that wait in BWAIT on an object of their team. -/
def bwaiters (g : Group) (o : Nat) : Word := lanesWhere g fun l => !l.wake && match l.st with | .bar (.obj x _) _ => x == o | _ => false

/-- The word and clause at which a lane stands, as a trap record there. -/
def laneTr (g : Group) (L : Nat) (cause : Nat) (lanes : Word) : TrapRec :=
  let l := laneGet g L
  match l.cl with
  | none => { cause := cause, pc := l.pc, npc := l.pc, tlanes := lanes }
  | some c =>
    let w0 := (wordAt c l.pc).getD 0
    { cause := cause, pc := l.pc, npc := nextPc c l.pc, cl := some c, tlanes := lanes, exec := lanes, w0 := w0,
      w1 := if opLong (opOf w0.toNat) then wordAt c (l.pc + 4) else none }

/-- The clause inside which a lane stands, past its header: none for one that stands at a header. -/
def inClause (l : Lane) : Option Clause := l.cl.filter fun c => c.addr != l.pc

/-- Two lanes stand at the same word: at one PC, both at a header there, or both inside the same clause (R95, R127). -/
def sameSpot (a b : Lane) : Bool := a.pc == b.pc && inClause a == inClause b

/-- Split a mask by where its lanes stand, ascending lane. -/
def byPc (g : Group) : Nat → Word → List Word
  | 0, _ => []
  | n + 1, m =>
    if m = 0 then []
    else
      let l := laneGet g (lowLane m)
      let same := m &&& lanesWhere g (sameSpot l)
      same :: byPc g n (m &&& ~~~same)

/-- A trap at an object reports the engine error with the same cause: the group takes no second trap for it (R317). -/
def dropEngTrap (g : Group) (cause : Nat) (o : Nat × Nat) : Group :=
  { g with engTrap := g.engTrap.filter fun e => !(e.1.cause == cause && e.2.contains o) }

/-- Every lane in BWAIT on an object is released, or takes a trap at its BWAIT (R309, R311), group by group in the order of R436. An error
that the trap reports is reported by no second trap (R317). -/
def wakeBwait (s : State) (team o : Nat) (cause detail : Nat) : State :=
  match team? s team with
  | none => s
  | some t =>
    (byPos s t.groups).foldl (fun s gid =>
      match group? s gid with
      | none => s
      | some g =>
        let m := bwaiters g o
        if m = 0 then s
        else if cause = 0 then
          monRecord (setGroup s gid (settle (passLanes g m))) (some t.core) t.ctx 6 (s.now - (laneGet g (lowLane m)).since)
        else
          let g0 := if cause = 0x07 then g else dropEngTrap g cause (team, o)
          (byPc g 32 m).foldl (fun s m =>
            match group? s gid with
            | none => s
            | some g => takeTrap s gid g.lanes { laneTr g (lowLane m) cause m with detail := detail }) (setGroup s gid g0)) s

/-- An update of an object, with its flip and the waits that the flip ends (R307, R309). -/
def bobjCommit (s : State) (team o : Nat) (b : BObj) : State :=
  let (flip, b') := bobjFlip b
  let s1 := modTeam s team fun t => bobjPut t o b'
  let poison := (team? s team).any fun t => scrPoisoned t o 16
  if flip then wakeBwait s1 team o (if poison then 0x0D else if b'.err then b'.ecause else 0) 0 else s1

/-- Bytes are counted on an object (R308, R312): a dead object is left alone. -/
def bobjCount (s : State) (team o n : Nat) : State :=
  match team? s team with
  | none => s
  | some t => let b := bobjGet t o; if b.valid then bobjCommit s team o { b with pbytes := b.pbytes - n } else s

/-- The lanes that a held word kept go on from it; those of `traps` stand ready to trap. -/
def releaseHold (g : Group) (f : Fly) (traps : Word) : Group :=
  let m := f.lanes &&& lanesWhere g fun l => l.st == .park (.access f.seq) || l.st == .park (.remote f.seq)
  let npc := f.pc + (if f.w1.isSome then 8 else 4)
  let g1 := passLanes g (m &&& ~~~traps)
  settle (laneMod g1 (m &&& traps) fun _ l => match f.cl with
    | some c => standLane l c npc
    | none => { l with pc := npc, st := .run })

/-- A word with outstanding parts has completed in all of them: its objects are counted, its flags are ORed into FSTAT, the weirs
are evaluated and the traps that follow are taken (R162, R163, R451). -/
def flyDone (s : State) (gid seq : Nat) : State :=
  match group? s gid with
  | none => s
  | some g =>
    match flyOf g seq with
    | none => s
    | some f =>
      if f.left != 0 || f.unit then s
      else
        let s1 := f.cnt.foldl (fun s (t, o, n) => bobjCount s t o n) s
        let s2 := modGroup s1 gid fun g =>
          { modFly g seq fun f => { f with late := false, hold := false, obsAcc := [], obsVal := [], cnt := [], fl := [], regs := [], srcs := [] }
            with fstat := Nat.lor g.fstat (allFlags f.fl) }
        match team? s2 g.team, group? s2 gid with
        | some tm, some g2 =>
          let fp := if f.stepped then 0 else enabledLanes f.fl g2.fptrap &&& f.lanes
          let (s3, hs0) := if f.late then weirEval s2 g2 tm f.lanes f.pc { acc := f.obsAcc, val := f.obsVal, fp := f.fl } false [] else (s2, [])
          let hs := if f.stepped then [] else hs0
          let s4 := if f.hold then modGroup s3 gid fun g => releaseHold g f (trapMask hs [] fp) else s3
          if fp = 0 && hs = [] then s4 else actOn s4 gid g2.lanes (flyTr f 0 f.lanes) f.fl fp hs []
        | _, _ => s2

/-- A lane's access is over: the lane goes on from its word, where the word is not held. -/
def laneDone (s : State) (gid : Nat) (a : Acc) (d : Option Did) : State :=
  modGroup s gid fun g =>
    let g1 := { g with accs := g.accs.filter fun b => !(b.seq == a.seq && b.lane == a.lane) }
    let fl := (d.map (·.fl)).getD 0
    let g2 := modFly g1 a.seq fun f =>
      { f with left := f.left &&& ~~~a.lanes,
               obsAcc := f.obsAcc ++ (d.map (·.acc)).getD [], obsVal := f.obsVal ++ (d.map (·.val)).getD [],
               fl := if fl = 0 then f.fl else (lanesOf a.lanes).foldl (fun m L => mput m L fl) f.fl }
    if ((flyOf g2 a.seq).map (·.hold)).getD false then g2
    else settle (passLanes g2 (a.lanes &&& lanesWhere g2 fun l => l.st == .park (.access a.seq)))

/-- Lanes that wait take a trap of their own instead, all together (R262, R280, R388). -/
def laneTrap (s : State) (gid seq : Nat) (as : List Acc) (cause detail : Nat) (lyr : Option (Nat × Nat)) : State :=
  match group? s gid with
  | none => s
  | some g =>
    let m := as.foldl (fun (m : Word) (a : Acc) => m ||| a.lanes) 0
    let g1 := modFly { g with accs := g.accs.filter fun b => !(b.seq == seq && b.lanes &&& m != 0) } seq fun f =>
      { f with left := f.left &&& ~~~m }
    let ea := (as.head?.bind fun a => a.comps.head?.map Prod.fst).getD 0
    let s1 := takeTrap (setGroup s gid g1) gid g1.lanes
      { laneTr g (lowLane m) cause m with
        detail := if cause = 0x04 then m.toNat else detail, faddr := if cause = 0x04 then BitVec.ofNat 64 ea else 0, lyr := lyr, own := some seq }
    flyDone s1 gid seq

/-- The bytes of a store with a barrier object are counted on it when its word completes (R312). -/
def addCnt (l : List (Nat × Nat × Nat)) (a : Acc) : List (Nat × Nat × Nat) :=
  match a.obj with
  | none => l
  | some (t, o) => if l.any (fun e => e.1 == t) then l.map fun e => if e.1 == t then (e.1, e.2.1, e.2.2 + tyBytes a.ty) else e else l ++ [(t, o, tyBytes a.ty)]

/-- The lanes of a word that wait for some page still (R282). -/
def stillWait (s : State) (gid seq : Nat) : Word :=
  (waitsOf s (.lanes gid seq)).foldl (fun m p => if p.stage == .ok || p.stage == .deny then m else m ||| p.lanes) 0

/-- A waiting access is performed, and its lane is over with it. -/
def doneAcc (s : State) (gid : Nat) (g : Group) (a : Acc) (keys : List (Nat × Bool)) : State :=
  let tr := (flyOf g a.seq).map fun f => flyTr f 0x0A a.lanes
  let d := perform s gid g.team (tr.getD (laneTr g a.lane 0x0A a.lanes)) a keys
  if d.poison then haltGroup s gid 0x0D (laneGet g a.lane).pc
  else
    let s1 := if d.miss && a.op == .load then recordMiss d.s (coreOf s g) g.ctx else d.s
    let s2 := laneDone s1 gid a (some d)
    let s3 := modGroup s2 gid fun g =>
      { modFly g a.seq (fun f => { f with cnt := addCnt f.cnt a }) with accs := g.accs.map (cutBy a) }
    flyDone s3 gid a.seq

/-- Try a waiting access again: it is performed, goes on waiting, or traps. -/
def retryAcc (s : State) (gid : Nat) (a : Acc) : State :=
  match group? s gid with
  | none => s
  | some g =>
    match g.accs.find? fun b => b.seq == a.seq && b.lane == a.lane with
    | none => s
    | some a =>
    match team? s g.team, launch? s a.launch, ctx? s a.ctx with
    | some tm, some ln, some cx =>
      let who : Waiter := .lanes gid a.seq
      -- the lanes of the word that are ready in the same way, and wait for no page
      let alike := fun (r : AccRes) => g.accs.filter fun b => b.seq == a.seq && b.lanes &&& stillWait s gid a.seq = 0 && accReady s cx ln tm who b == r
      match accReady s cx ln tm who a with
      | .wait => askLayers s cx a.ctx a.vas
      | .pages vas => vas.foldl (fun s va => askPage s who a.ctx va a.op.need a.lanes) (takeHolds s g.team cx a.ctx a.launch a.vas)
      | .layer l i => laneTrap s gid a.seq (alike (.layer l i)) 0x09 i (some (l, i))
      | .deny => laneTrap s gid a.seq (alike .deny) 0x04 0 none
      | .poison => haltGroup s gid 0x0D (laneGet g a.lane).pc
      | .go keys => doneAcc (takeHolds s g.team cx a.ctx a.launch a.vas) gid g a keys
    | _, _, _ => s

/-! ### Issue of an access instruction -/

/-- The access can set a flag of FSTAT when it is performed: a floating-point atomic (R297, R300). -/
def setsFlagsLate (i : Instr) : Bool :=
  match i with
  | .atom p .add | .atoms p .add | .red p .add => !tyInt p.ty
  | .atomc _ => true
  | _ => false

/-- What an access instruction brings to its issue. -/
structure AccIns where
  ins : Instr
  dep : Option Nat
  /-- for each lane: its EA, the alignment, whether it is in range, and the access -/
  lanes : List (Nat × Nat × Bool × Acc)
  /-- the registers that it writes -/
  regs : List RegRef := []

/-- The failing lanes of a check. -/
def failLanes (l : List (Nat × Nat × Bool × Acc)) (f : Nat × Nat × Bool × Acc → Bool) : Word :=
  l.foldl (fun m e => if f e then m ||| e.2.2.2.lanes else m) 0

/-- The EA of the lowest lane of a mask. -/
def eaOf (l : List (Nat × Nat × Bool × Acc)) (m : Word) : Nat :=
  match l.find? fun e => e.2.2.2.lanes &&& m != 0 with
  | some e => e.1
  | none => 0

/-- The earliest failing check of R262 and the lanes that fail it. -/
def firstFail (s : State) (v : View) (l : List (Nat × Nat × Bool × Acc)) : Option (Nat × Word) :=
  let cs := l.map fun e => (e, accCheck s (.fetch v.is.gid v.is.pc) v.cx v.ln v.tm e.2.1 e.1 e.2.2.2 e.2.2.1)
  (List.range 5).foldl (fun r k =>
    match r with
    | some x => some x
    | none =>
      let m := cs.foldl (fun m (e, c) => if c = some k then m ||| e.2.2.2.lanes else m) 0
      if m = 0 then none else some (k, m)) none

/-- A trap of every lane of EXEC by a check (R262, R422). -/
def accTrap (s : State) (v : View) (l : List (Nat × Nat × Bool × Acc)) (cause : Nat) (m : Word) : State :=
  trapIssue s v { v.tr cause v.exec with detail := m.toNat, faddr := BitVec.ofNat 64 (eaOf l m) }

/-- What ordered mode says of an address to the word that issues (R84, R85). -/
def ownNow (s : State) (v : View) (va : Nat) (store : Bool) : OwnRes := ownCheck s v.tm.core (.fetch v.is.gid v.is.pc) v.cx v.ln v.tm.t va store

/-- The access enters the team's deferred-store queue (R85). -/
def willDefer (s : State) (v : View) (a : Acc) : Bool :=
  a.op.writes && a.space == .global && a.comps.any fun (x, _) => ownNow s v x true == .shared

/-- The stores and atomics of a team that wait and will enter its queue, with those in it (R86). -/
def deferCount (s : State) (v : View) : Nat :=
  v.tm.defer.length + (v.tm.groups.foldl (fun n gid => match group? s gid with
    | none => n
    | some g => n + (g.accs.filter (willDefer s v)).length) 0)

/-- Add a lane's completed part to the observations. -/
def Obs.add (o : Obs) (d : Did) : Obs := { o with acc := o.acc ++ d.acc, val := o.val ++ d.val }

/-- The accesses of the lanes are performed, or begin to wait, in ascending lane order. -/
structure Pass where
  s : State
  obs : Obs := {}
  fl : AMap Nat := []
  waits : Word := 0
  accs : List Acc := []
  lay : List (Word × Nat × Nat) := []
  cnt : List (Nat × Nat × Nat) := []
  poison : Bool := false
  miss : Bool := false

/-- One lane of the pass. -/
def passOne (v : View) (seq : Nat) (p : Pass) (a0 : Acc) : Pass :=
  let a := { a0 with seq := seq }
  let who : Waiter := .lanes v.is.gid seq
  match accReady p.s v.cx v.ln v.tm who a with
  | .wait => { p with s := askLayers p.s v.cx a.ctx a.vas, waits := p.waits ||| a.lanes, accs := p.accs ++ [a] }
  | .pages vas =>
    { p with s := vas.foldl (fun s va => askPage s who a.ctx va a.op.need a.lanes) (takeHolds p.s v.g.team v.cx a.ctx a.launch a.vas)
             waits := p.waits ||| a.lanes, accs := p.accs ++ [a] }
  | .layer l i => { p with lay := p.lay ++ [(a.lanes, l, i)] }
  | .deny => p
  | .poison => { p with poison := true }
  | .go keys =>
    let d := perform (takeHolds p.s v.g.team v.cx a.ctx a.launch a.vas) v.is.gid v.g.team (v.tr 0x0A a.lanes) a keys
    { p with s := if d.miss && a.op == .load then recordMiss d.s v.tm.core v.g.ctx else d.s
             obs := p.obs.add d, fl := (lanesOf a.lanes).foldl (fun f L => if d.fl = 0 then f else mput f L d.fl) p.fl
             poison := p.poison || d.poison, miss := p.miss || d.miss, cnt := addCnt p.cnt a, accs := p.accs.map (cutBy a) }

/-- The record of a word in flight, where it names a counter or something is outstanding (R142). -/
def flyRec (v : View) (seq : Nat) (i : Instr) (dep : Option Nat) : Fly :=
  { seq := seq, ins := i, pc := v.is.pc, w0 := v.w0, w1 := v.w1, lanes := v.exec, dep := dep, cl := some v.is.cl,
    stepped := v.is.step.isSome }

/-- Add 1 to the counter of a word (R142). -/
def countDep (g : Group) (dep : Option Nat) : Group :=
  match dep with
  | some n => dset g n (dget g n + 1)
  | none => g

/-- The owner maps that classify an access are read first (R84): the word stalls for a page of them, and traps where it is denied. -/
def withOwners (s : State) (v : View) (need : List Nat) (f : State → State) : State :=
  let who : Waiter := .fetch v.is.gid v.is.pc
  match need with
  | [] => f (if s.waits = [] then s else dropWaits s who)
  | a :: _ =>
    if need.any fun e => translateFor s (some v.tm.core) who v.cx.pasid e .rd == .deny || deniedFor s who e then
      trapIssue (dropWaits s who) v { v.tr 0x04 v.exec with detail := v.exec.toNat, faddr := BitVec.ofNat 64 a }
    else holdAs 0x0E (need.foldl (fun s a => askPage s who v.g.ctx a .rd v.exec) s) v

/-- The bytes that a store shows its PRE weirs (R453). -/
def preAcc (v : View) (a : Acc) : List (Nat × Nat × Bool × Nat × Nat) := if a.op == .store then a.seen v.g.team else []

/-- An access without the lanes that a PRE weir has stopped: none is left of one lane's, and PST stores for the others (R453). -/
def withoutLanes (m : Word) (a : Acc) : Option Acc :=
  if a.lanes &&& m = 0 then some a
  else if a.shared &&& ~~~m = 0 then none
  else some { a with shared := a.shared &&& ~~~m, data := a.data.map fun x => Nat.land x (a.shared &&& ~~~m).toNat }

/-- The word with its accesses begun: it is finished, and recorded where something is outstanding (R142). -/
def accFinish (v : View) (x : AccIns) (seq : Nat) (pre : List Hit) (stopped : Word) (p : Pass) : State :=
  match group? p.s v.is.gid with
  | none => p.s
  | some g =>
    let failed := p.lay.foldl (fun m e => m ||| e.1) 0
    let wait := p.waits != 0
    -- the lanes stay at the word where a trap or a halt can follow its completion (R163, R451)
    let hold := wait && v.is.step.isNone && (weirHolds p.s g v.tm || (g.fptrap != 0 && setsFlagsLate x.ins))
    let f := { flyRec v seq x.ins x.dep with
      left := p.waits, late := wait, hold := hold, miss := p.miss || wait
      regs := if wait then x.regs else [], fl := if wait then p.fl else []
      obsAcc := if wait then p.obs.acc else [], obsVal := if wait then p.obs.val else [], cnt := if wait then p.cnt else [] }
    let g1 := { countDep g x.dep with accs := g.accs ++ p.accs, fly := if x.dep.isSome || wait then g.fly ++ [f] else g.fly }
    let s1 := setGroup p.s v.is.gid g1
    let s2 := if wait then s1 else p.cnt.foldl (fun s (t, o, n) => bobjCount s t o n) s1
    let tr := p.lay.head?.map fun (_, l, i) => { v.tr 0x09 failed with detail := i, lyr := some (l, i) }
    let parks := if hold then v.exec &&& ~~~stopped &&& ~~~failed else p.waits
    finish s2 v { g := (group? s2 v.is.gid).getD g1, flags := if wait then [] else p.fl, obs := if wait then {} else p.obs, trap := tr, preHits := pre
                  stops := (lanesOf parks).map fun L => (L, .park (.access seq)) }

/-- An access instruction: the checks, then PRE weirs, then the accesses (R262, R453). -/
def accIssue (s : State) (v : View) (x : AccIns) : State :=
  let owners := x.lanes.flatMap fun e => if e.2.2.1 && e.2.2.2.space == .global then
    e.2.2.2.comps.map fun (a, _) => ownNow s v a e.2.2.2.op.writes else []
  match firstFail s v x.lanes with
  | some (k, m) => accTrap s v x.lanes (checkCause k) m
  | none =>
    if owners.contains .poison then trapAll s v 0x0D 0
    else withOwners s v (owners.filterMap fun r => match r with | .page m => some m | _ => none) fun s =>
      let (s0, pre0) := weirEval s v.g v.tm v.exec v.is.pc { acc := x.lanes.flatMap fun e => preAcc v e.2.2.2 } true []
      let pre := if v.is.step.isSome then [] else pre0
      let stopped := pre.foldl (fun m h => if h.action ≥ 2 then m ||| h.lanes else m) 0
      let todo := x.lanes.filterMap fun e => withoutLanes stopped e.2.2.2
      let denied := todo.foldl (fun m a => if accReady s0 v.cx v.ln v.tm (.lanes v.is.gid 0) a == .deny then m ||| a.lanes else m) 0
      let news := (todo.filter (willDefer s0 v)).length
      if denied ≠ 0 then accTrap s0 v x.lanes 0x04 denied
      else if news ≠ 0 && deferCount s0 v + news > 65536 then trapAll s0 v 0x07 0
      else
        let (seq, s1) := fresh (setGroup s0 v.is.gid v.g)
        let p := todo.foldl (passOne v seq) { s := s1 }
        if p.poison then trapAll s0 v 0x0D 0 else accFinish v x seq pre stopped p

end Sys2Proof.Machine
end

