-- ==== Sys2Proof/Machine/Mem.lean ====
section
/-! DEFINITION. Machine/Mem.lean: loads, stores, split expansions, predicate words, prefetch and atomics (R285 to R300). -/

namespace Sys2Proof.Machine

/-- The index of a lane, sign-extended (R286). -/
def idxOf (g : Group) (b : Src) (L : Nat) : Nat :=
  match b with
  | .reg n => sext64 32 (vget g n L).toNat
  | .scal n => sext64 32 (sget g n).toNat
  | .imm _ => 0

/-- EA of an LM form (R286). -/
def eaLM (g : Group) (p : LM) (base : Nat) (L : Nat) : Nat := (base + idxOf g p.b L + sext64 16 p.off) % 2 ^ 64

/-- EA of an atomic form (R286): an immediate B is the offset. -/
def eaLT (g : Group) (p : LT) (base : Nat) (L : Nat) : Nat :=
  (base + idxOf g p.b L + (match p.b with | .imm n => n | _ => 0)) % 2 ^ 64

/-- A scratchpad base (R285). -/
def scrBaseVal (g : Group) (a : Nat) (vb : Bool) (L : Nat) : Nat := if vb then (vget g a L).toNat else (sget g a).toNat

/-- A lane's access with what it carries: its EA, alignment, range and record. -/
abbrev LaneAcc := Nat × Nat × Bool × Acc

/-- A global access at an EA (R262 check 1). -/
def globalAcc (v : View) (t : Ty) (op : AccOp) (L ea n align : Nat) (comps : List (Nat × Nat)) : LaneAcc :=
  (ea, align, ea + n ≤ 2 ^ 57,
    { seq := 0, lane := L, op := op, ty := t, space := .global, comps := comps, ctx := v.g.ctx, launch := v.g.launch })

/-- A scratchpad access at an EA. -/
def scratchAcc (v : View) (t : Ty) (op : AccOp) (L ea : Nat) : LaneAcc :=
  (ea, tyAlign t, ea + tyBytes t ≤ v.tm.scrBytes,
    { seq := 0, lane := L, op := op, ty := t, space := .scratch v.g.team, comps := compsAt t ea, ctx := v.g.ctx, launch := v.g.launch })

/-- A cluster access at an EA (R265). -/
def clusterAcc (s : State) (v : View) (t : Ty) (op : AccOp) (L ea : Nat) : LaneAcc :=
  let (ok, id, o) := match clusterAt s v.tm ea (tyBytes t) with | some (id, o) => (true, id, o) | none => (false, v.g.team, 0)
  (ea, tyAlign t, ok,
    { seq := 0, lane := L, op := op, ty := t, space := .scratch id, comps := compsAt t o, ctx := v.g.ctx, launch := v.g.launch })

/-- Give an access its destination or its data. -/
def withDst (e : LaneAcc) (r : RegRef) : LaneAcc := (e.1, e.2.1, e.2.2.1, { e.2.2.2 with dst := some r })
/-- Data of a store or an atomic. -/
def withData (e : LaneAcc) (d : List Nat) : LaneAcc := (e.1, e.2.1, e.2.2.1, { e.2.2.2 with data := d })

/-- The shell of an access: register faults, an empty EXEC, poison, then the accesses of the lanes. -/
def runAcc (s : State) (i : Instr) (dep : Option Nat) (f : View → Nat → LaneAcc) : Host.Outcome State Fault Refusal :=
  run s (uses i) fun v =>
    accIssue s v { ins := i, dep := dep, regs := writesOf (uses i), lanes := (lanesOf v.exec).map (f v) }

/-- LD (R291, R292). -/
def execLd (p : LM) (s : State) : Host.Outcome State Fault Refusal :=
  runAcc s (.ld p) p.dep fun v L =>
    let ea := eaLM v.g p (sget64 v.g p.a).toNat L
    withDst (globalAcc v p.ty .load L ea (tyBytes p.ty) (tyAlign p.ty) (compsAt p.ty ea)) (.v p.d)

/-- ST (R291, R292). -/
def execSt (p : LM) (s : State) : Host.Outcome State Fault Refusal :=
  runAcc s (.st p) p.dep fun v L =>
    let ea := eaLM v.g p (sget64 v.g p.a).toNat L
    withData (globalAcc v p.ty .store L ea (tyBytes p.ty) (tyAlign p.ty) (compsAt p.ty ea)) (storeVals v.g p.ty p.d L)

/-- LDS (R291, R292). -/
def execLds (p : LM) (vbase : Bool) (s : State) : Host.Outcome State Fault Refusal :=
  runAcc s (.lds p vbase) p.dep fun v L =>
    withDst (scratchAcc v p.ty .load L (eaLM v.g p (scrBaseVal v.g p.a vbase L) L)) (.v p.d)

/-- STS (R291, R292). -/
def execSts (p : LM) (vbase : Bool) (s : State) : Host.Outcome State Fault Refusal :=
  runAcc s (.sts p vbase) p.dep fun v L =>
    withData (scratchAcc v p.ty .store L (eaLM v.g p (scrBaseVal v.g p.a vbase L) L)) (storeVals v.g p.ty p.d L)

/-- LDSC (R265, R291, R292). -/
def execLdsc (p : LM) (vbase : Bool) (s : State) : Host.Outcome State Fault Refusal :=
  runAcc s (.ldsc p vbase) p.dep fun v L =>
    withDst (clusterAcc s v p.ty .load L (eaLM v.g p (scrBaseVal v.g p.a vbase L) L)) (.v p.d)

/-- STSC (R265, R291, R292). -/
def execStsc (p : LM) (vbase : Bool) (s : State) : Host.Outcome State Fault Refusal :=
  runAcc s (.stsc p vbase) p.dep fun v L =>
    withData (clusterAcc s v p.ty .store L (eaLM v.g p (scrBaseVal v.g p.a vbase L) L)) (storeVals v.g p.ty p.d L)

/-! ### Split expansions (R166, R167, R294) -/

/-- A split descriptor in a scalar quad. -/
structure SplitDesc where
  hi : Nat
  lo : Nat
  stride : Nat
  fmt : Nat
  resv : Nat

/-- Read a descriptor. -/
def splitDesc (g : Group) (a : Nat) : SplitDesc :=
  let l := (sget64 g a).toNat
  let h := (sget64 g (a + 2)).toNat
  { hi := bitsOf l 0 57, fmt := bitsOf l 57 5, resv := bitsOf l 62 2, lo := bitsOf h 0 57, stride := bitsOf h 57 7 }

/-- The descriptor breaks R166 or is not of the type (R294). -/
def SplitDesc.bad (d : SplitDesc) (t : Ty) : Bool := d.fmt != tyCode t || d.stride == 0 || d.resv != 0

/-- A base is not aligned to the component. -/
def SplitDesc.misaligned (d : SplitDesc) (t : Ty) : Bool :=
  let w := tyBytes1 (tyComp t)
  d.hi % w != 0 || d.lo % w != 0

/-- The component addresses of an element (R167). -/
def SplitDesc.comps (d : SplitDesc) (t : Ty) (i : Nat) : List (Nat × Nat) :=
  let w := tyBytes1 (tyComp t)
  let n := tyN t
  (List.range n).map fun j => (if j = 0 then d.hi + i * d.stride * w else d.lo + (i * d.stride * (n - 1) + j - 1) * w, w)

/-- The element index of a lane, unsigned. -/
def elemIdx (g : Group) (b : Src) (L : Nat) : Nat :=
  match b with
  | .reg n => (vget g n L).toNat
  | .scal n => (sget g n).toNat
  | .imm _ => 0

/-- LDX and STX (R294). -/
def splitRun (s : State) (i : Instr) (p : LM) (op : AccOp) : Host.Outcome State Fault Refusal :=
  run s (uses i) fun v =>
    let d := splitDesc v.g p.a
    let lane (L : Nat) : LaneAcc :=
      let cs := d.comps p.ty (elemIdx v.g p.b L)
      let ok := cs.all fun (a, n) => a + n ≤ 2 ^ 57
      let ea := ((cs.find? fun (a, n) => !(a + n ≤ 2 ^ 57)).getD (cs.headD (0, 0))).1
      let e := globalAcc v p.ty op L ea 0 1 cs
      let e : LaneAcc := (e.1, e.2.1, ok, e.2.2.2)
      if op == .load then withDst e (.v p.d) else withData e (storeVals v.g p.ty p.d L)
    let lanes := (lanesOf v.exec).map lane
    if d.bad p.ty then trapAll s v 0x02 0
    else if d.misaligned p.ty then accTrap s v lanes 0x03 v.exec
    else accIssue s v { ins := i, dep := p.dep, regs := writesOf (uses i), lanes := lanes }

/-- LDX (R294). -/
def execLdx (p : LM) (s : State) : Host.Outcome State Fault Refusal := splitRun s (.ldx p) p .load
/-- STX (R294). -/
def execStx (p : LM) (s : State) : Host.Outcome State Fault Refusal := splitRun s (.stx p) p .store

/-! ### Constants (R293) -/

/-- Record an instruction that names a counter and has completed at its issue (R142). -/
def flyAt (s : State) (v : View) (g : Group) (i : Instr) (dep : Option Nat) : State × Group :=
  match dep with
  | none => (s, g)
  | some _ => let (seq, s1) := fresh s; (s1, { countDep g dep with fly := g.fly ++ [flyRec v seq i dep] })

/-- The bytes of a constant bank: the kernel's constants, or the argument block as far as the kernel's ARGSIZE (R31, R57). -/
def bankOf (ln : Launch) (n : Nat) : List Nat := if n % 2 = 0 then ln.kern.const0 else ln.args.take ln.kern.argSize

/-- LDC reads a constant bank (R293). -/
def execLdc (p : LM) (s : State) : Host.Outcome State Fault Refusal :=
  run s (uses (.ldc p)) fun v =>
    let bank := bankOf v.ln p.a
    let scal := p.a ≥ 128
    let lanes := if scal then [lowLane v.exec] else lanesOf v.exec
    let ea (L : Nat) : Nat := eaLM v.g p 0 L
    let n := tyBytes p.ty
    let far := maskOf fun L => lanes.contains L && !(ea L + n ≤ bank.length)
    let odd := maskOf fun L => lanes.contains L && ea L % tyAlign p.ty != 0
    let fail (cause : Nat) (m : Word) : State :=
      trapIssue s v { v.tr cause v.exec with detail := (if scal then v.exec else m).toNat, faddr := BitVec.ofNat 64 (ea (lowLane m)) }
    if far ≠ 0 then fail 0x04 far
    else if odd ≠ 0 then fail 0x03 odd
    else
      let vals (L : Nat) : List Nat := (compsAt p.ty (ea L)).map fun (a, k) => fieldAt bank a k
      let g := if scal then
          let x := (vals (lowLane v.exec)).headD 0
          if tyRegs p.ty = 2 then sset64 v.g p.d (BitVec.ofNat 64 x) else sset v.g p.d (BitVec.ofNat 32 (loadReg p.ty x))
        else eachLane v.g v.exec fun g L => putLoad g p.ty p.d L (vals L)
      let (s1, g1) := flyAt s v g (.ldc p) p.dep
      finish s1 v { g := g1, obs := { val := if scal then [] else (lanesOf v.exec).flatMap fun L => (vals L).map fun x => (L, 0, x) } }

/-! ### Predicate words and prefetch (R295, R296) -/

/-- The one address of PLD and PST. -/
def eaOnce (v : View) (p : LM) : Nat := eaLM v.g p (sget64 v.g p.a).toNat (lowLane v.exec)

/-- PLD (R295). -/
def execPld (p : LM) (s : State) : Host.Outcome State Fault Refusal :=
  run s (uses (.pld p)) fun v =>
    let ea := eaOnce v p
    let e := withDst (globalAcc v .n32 .load (lowLane v.exec) ea 4 4 [(ea, 4)]) (.p p.d)
    accIssue s v { ins := .pld p, dep := p.dep, regs := [.p p.d], lanes := [(e.1, e.2.1, e.2.2.1, { e.2.2.2 with shared := v.exec })] }

/-- PST (R295). -/
def execPst (p : LM) (s : State) : Host.Outcome State Fault Refusal :=
  run s (uses (.pst p)) fun v =>
    let ea := eaOnce v p
    let e := withData (globalAcc v .n32 .store (lowLane v.exec) ea 4 4 [(ea, 4)]) [(pget v.g p.d &&& v.exec).toNat]
    accIssue s v { ins := .pst p, dep := p.dep, lanes := [(e.1, e.2.1, e.2.2.1, { e.2.2.2 with shared := v.exec })] }

/-- PREF brings the line of an address into the core's L1, where every check of R262 passes, the translation is at hand, and the region is
not read-shared (R296). -/
def prefLine (v : View) (s : State) (ea : Nat) : State :=
  if !localVA ea || regionKind v.cx ea = 2 || layerCheck s v.cx v.g.ctx ea != .ok then s
  else match ownNow s v ea false, translate s (some v.tm.core) v.cx.pasid ea .rd with
    | .other, _ => s
    | _, .ok key _ => l1Fill s v.tm.core v.cx ea key true
    | _, _ => s

/-- PREF: it changes no state that a program can read, and never traps after decode (R296). -/
def execPref (p : LM) (s : State) : Host.Outcome State Fault Refusal :=
  onIssue s fun v =>
    if usesBad v.ln.kern (uses (.pref p)) then trapEntryLanes s v 0x02
    else
      let eas := (lanesOf v.exec).map fun L => eaLM v.g p (sget64 v.g p.a).toNat L
      finish (if p.d = 0 then eas.foldl (prefLine v) s else s) v { g := v.g }

/-! ### Atomics (R297 to R300) -/

/-- The access of an atomic of a lane: operand C, and D where it is the compare value. -/
def atomAcc (v : View) (p : LT) (fn : AtomFn) (e : LaneAcc) (ret : Bool) : LaneAcc :=
  let a := e.2.2.2
  let w := 2 ^ (8 * tyBytes1 p.ty)
  (e.1, e.2.1, e.2.2.1, { a with op := .atom fn, data := [vbits v.g p.ty p.c a.lane % w],
                                 cmp := if fn == .cas then vbits v.g p.ty p.d a.lane % w else 0
                                 dst := if ret then some (.v p.d) else none, sysScope := p.scope == .sys })

/-- ATOM (R297 to R299). -/
def execAtom (p : LT) (fn : AtomFn) (s : State) : Host.Outcome State Fault Refusal :=
  runAcc s (.atom p fn) p.dep fun v L =>
    let ea := eaLT v.g p (sget64 v.g p.a).toNat L
    atomAcc v p fn (globalAcc v p.ty (.atom fn) L ea (tyBytes p.ty) (tyAlign p.ty) (compsAt p.ty ea)) true

/-- ATOMS (R297 to R299). -/
def execAtoms (p : LT) (fn : AtomFn) (s : State) : Host.Outcome State Fault Refusal :=
  runAcc s (.atoms p fn) p.dep fun v L =>
    let e := atomAcc v p fn (scratchAcc v p.ty (.atom fn) L (eaLT v.g p (vget v.g p.a L).toNat L)) true
    (e.1, e.2.1, e.2.2.1, { e.2.2.2 with sysScope := false })

/-- RED returns nothing (R299). -/
def execRed (p : LT) (fn : AtomFn) (s : State) : Host.Outcome State Fault Refusal :=
  runAcc s (.red p fn) p.dep fun v L =>
    let ea := eaLT v.g p (sget64 v.g p.a).toNat L
    atomAcc v p fn (globalAcc v p.ty (.atom fn) L ea (tyBytes p.ty) (tyAlign p.ty) (compsAt p.ty ea)) false

/-- ATOMC: a compensated update of the pair at the address (R277, R300). -/
def execAtomc (p : LT) (s : State) : Host.Outcome State Fault Refusal :=
  runAcc s (.atomc p) p.dep fun v L =>
    let ea := eaLT v.g p (sget64 v.g p.a).toNat L
    let w := tyBytes1 p.ty
    withData (withDst (globalAcc v p.ty .atomc L ea (2 * w) (2 * w) [(ea, w), (ea + w, w)]) (.v p.d))
      [vbits v.g p.ty p.c L % 2 ^ (8 * w)]

end Sys2Proof.Machine
end

