-- ==== Sys2Proof/Machine/Sync.lean ====
section
/-! DEFINITION. Machine/Sync.lean: fences, execution barriers with the serial phase of ordered mode, barrier objects and STSCB
(R86, R87, R301 to R312). -/

namespace Sys2Proof.Machine

/-! ### Execution barriers (R303, R304) -/

/-- The lanes of a group that wait at a barrier; a lane in a handler holds back the arrival. -/
def barLanes (g : Group) (f : BWhy → Bool) : Word := lanesWhere g fun l => match l.st with | .bar w _ => f w && !l.hand && !l.wake | _ => false

/-- Every live lane waits at the barrier (R303). -/
def barArrived (g : Group) (f : BWhy → Bool) : Bool := liveLanes g != 0 && barLanes g f == liveLanes g

/-- BAR with an id. -/
def isBar (id : Nat) (w : BWhy) : Bool := match w with | .bar b _ => b == id | _ => false
/-- BARC. -/
def isBarc (w : BWhy) : Bool := match w with | .barc => true | _ => false
/-- GSYNC. -/
def isGsync (w : BWhy) : Bool := match w with | .gsync => true | _ => false

/-- Every waiting lane of a group goes on at the word after its own barrier. -/
def barRelease (s : State) (f : BWhy → Bool) (gid : Nat) : State :=
  match group? s gid with
  | none => s
  | some g =>
    let m := barLanes g f
    if m = 0 then s
    else monRecord (setGroup s gid (settle (passLanes g m))) (some (coreOf s g)) g.ctx 6 (s.now - (laneGet g (lowLane m)).since)

/-- The count that a waiting lane of a BAR named. -/
def barCount (l : Lane) : Nat := match l.st with | .bar (.bar _ n) _ => n | _ => 0

/-- One group's arrival at BAR `id` of its team (R303). -/
def barArrive (s : State) (tid id gid : Nat) : State :=
  match group? s gid, team? s tid with
  | some g, some t =>
    let b := (mget? t.bars id).getD { n := 0, arrived := [] }
    if g.ended || b.arrived.contains gid || !barArrived g (isBar id) then s
    else
      let m := barLanes g (isBar id)
      let n := if b.arrived = [] then barCount (laneGet g (lowLane m)) else b.n
      let bad := m &&& lanesWhere g fun l => barCount l != n
      if bad ≠ 0 then
        -- the lanes with another count trap at their BAR, those of one PC together
        let m := bad &&& lanesWhere g fun l => l.pc == (laneGet g (lowLane bad)).pc
        takeTrap s gid g.lanes { laneTr g (lowLane m) 0x07 m with detail := id }
      else
        let arr := b.arrived ++ [gid]
        if n ≠ 0 ∧ arr.length ≥ n then
          arr.foldl (barRelease · (isBar id)) (modTeam s tid fun t => { t with bars := mdel t.bars id })
        else modTeam s tid fun t => { t with bars := mput t.bars id { n := n, arrived := arr } }
  | _, _ => s

/-- The groups of a team that have not exited. -/
def openGroups (s : State) (t : Team) : List Nat := t.groups.filter fun id => match group? s id with | some g => !g.exited | none => false

/-- The test of BAR `id`: arrivals, and with count 0 the completion by every group that has not exited. -/
def barTest (s : State) (tid id : Nat) : State :=
  match team? s tid with
  | none => s
  | some t =>
    let s0 := modTeam s tid fun t => { t with bars := match mget? t.bars id with
      | some b =>
        let arr := b.arrived.filter fun x => (openGroups s t).contains x
        if arr = [] then mdel t.bars id else mput t.bars id { b with arrived := arr }
      | none => t.bars }
    let s1 := t.groups.foldl (fun s gid => barArrive s tid id gid) s0
    match (team? s1 tid).bind fun t => mget? t.bars id with
    | some b =>
      if b.n = 0 ∧ (openGroups s1 t).all fun gid => b.arrived.contains gid then
        b.arrived.foldl (barRelease · (isBar id)) (modTeam s1 tid fun t => { t with bars := mdel t.bars id })
      else s1
    | none => s1

/-- A team has arrived at BARC or GSYNC: every group that has not exited has (R304). -/
def teamArrived (s : State) (t : Team) (f : BWhy → Bool) : Bool :=
  t.st == .retired || (openGroups s t).all fun id => match group? s id with | some g => barArrived g f | none => true

/-- The test of BARC in a cluster (R304). -/
def barcTest (s : State) (launch cluster : Nat) : State :=
  let ts := s.teams.filter fun e => e.2.launch == launch && e.2.cluster == cluster
  if ts.all fun e => teamArrived s e.2 isBarc then
    (ts.flatMap fun e => e.2.groups).foldl (barRelease · isBarc) s
  else s


/-- The serial phase of an ordered launch (R87). -/
def serialPhase (s : State) (launch : Nat) : State :=
  let ts := sortBy (fun e : Nat × Team => e.2.t) (s.teams.filter fun e => e.2.launch == launch && e.2.defer != [])
  let s1 := ts.foldl (fun s e =>
    (sortBy (fun d : DStore => (d.group * 32 + d.acc.lane) * 65537 + d.n) e.2.defer).foldl (fun s d => applyDefer s e.1 d) s) s
  ts.foldl (fun s e => modTeam s e.1 fun t => { t with defer := [] }) s1

/-- The test of GSYNC over a launch (R304). -/
def gsyncTest (s : State) (launch : Nat) : State :=
  match launch? s launch with
  | none => s
  | some ln =>
    let ts := s.teams.filter fun e => e.2.launch == launch && e.2.st != .retired
    if ts != [] && ts.any (fun e => e.2.groups.any fun id => match group? s id with | some g => barLanes g isGsync != 0 | none => false)
        && ts.length + ln.retired.length == ln.gridX * ln.gridY * ln.gridZ && ts.all fun e => teamArrived s e.2 isGsync then
      let s1 := if ln.kern.ordered then serialPhase s launch else s
      (ts.flatMap fun e => e.2.groups).foldl (barRelease · isGsync) s1
    else s

/-- The barrier tests of a group's team (R303, R304): after a lane arrives, and after a lane exits. -/
def barTests (s : State) (gid : Nat) : State :=
  match group? s gid with
  | none => s
  | some g => match team? s g.team with
    | none => s
    | some t =>
      let ids := (List.range 16).filter fun id => t.groups.any fun x => match group? s x with | some g => barLanes g (isBar id) != 0 | none => false
      let s1 := ids.foldl (fun s id => barTest s g.team id) s
      gsyncTest (barcTest s1 t.launch t.cluster) t.launch

/-- Lanes in EXEC wait at a barrier; the test follows (R303). -/
def barIssue (s : State) (v : View) (w : BWhy) : State :=
  barTests (finish s v { g := v.g, stops := (lanesOf v.exec).map fun L => (L, .bar w s.now) }) v.is.gid

/-- BAR (R302, R303). -/
def execBar (p : LT) (s : State) : Host.Outcome State Fault Refusal :=
  run s (uses (.bar p)) fun v =>
    let n := (bsval v.g p.b).toNat
    if n > 64 then trapAll s v 0x02 0 else barIssue s v (.bar p.a n)

/-- BARC (R302, R304). -/
def execBarc (p : LT) (s : State) : Host.Outcome State Fault Refusal :=
  run s (uses (.barc p)) fun v => barIssue s v .barc

/-- GSYNC (R302, R304). -/
def execGsync (p : LT) (s : State) : Host.Outcome State Fault Refusal :=
  run s (uses (.gsync p)) fun v => barIssue s v .gsync

/-- FENCE accesses no memory (R301). The order that it gives holds of every execution of this model, which performs one access at
a time in issue order (notes/assumptions/4.md). -/
def execFence (p : LT) (s : State) : Host.Outcome State Fault Refusal :=
  run s (uses (.fence p)) fun v => finish s v { g := v.g }

/-! ### Barrier objects (R305 to R311) -/

/-- A barrier-object instruction on its team's object: the offset's checks, the absent line and VALID (R306). -/
def objRun (s : State) (i : Instr) (a : Nat) (needValid : Bool) (f : View → Nat → BObj → State) : Host.Outcome State Fault Refusal :=
  run s (uses i) fun v =>
    let o := (sget v.g a).toNat
    let fail (cause : Nat) : State :=
      trapIssue s v { v.tr cause v.exec with detail := v.exec.toNat, faddr := BitVec.ofNat 64 o }
    if o + 16 > v.tm.scrBytes then fail 0x04
    else if o % 16 ≠ 0 then fail 0x03
    else match lineAbsent v.tm o 16 with
      | some l =>
        let (seq, s1) := fresh s
        finish s1 v { g := v.g, stops := (lanesOf v.exec).map fun L => (L, .park (.line v.g.team l seq)) }
      | none =>
        let b := bobjGet v.tm o
        if needValid && scrPoisoned v.tm o 16 then trapAll s v 0x0D 0
        else if needValid && !b.valid then trapAll s v 0x07 o else f v o b

/-- The instruction finishes, then the object is updated (R306, R307): a flip releases its waiters, those of the group too. -/
def objFinish (s : State) (v : View) (g : Group) (o : Nat) (b : BObj) : State :=
  bobjCommit (finish s v { g := g }) v.g.team o b

/-- BINIT (R307). -/
def execBinit (p : LT) (s : State) : Host.Outcome State Fault Refusal :=
  objRun s (.binit p) p.a false fun v o _ =>
    let c := (bsval v.g p.b).toNat
    if c = 0 ∨ c > 65535 then trapAll s v 0x02 0
    else
      let clean := modTeam s v.g.team fun t => scrWrite t o (leBytes 16 0) false
      objFinish clean v v.g o
        { earr := c, parr := c, ecause := 0, can := false, err := false, valid := true, phase := false, ebytes := 0, pbytes := 0, rest := 0 }

/-- BARRIVE, and BDROP, which also lowers EARR; the flip follows both changes (R307). -/
def arriveRun (s : State) (i : Instr) (p : LT) (drop : Bool) : Host.Outcome State Fault Refusal :=
  objRun s i p.a true fun v o b =>
    let c := (bsval v.g p.b).toNat
    if c = 0 ∨ c > b.parr ∨ (drop ∧ b.earr < c + 1) then trapAll s v 0x07 o
    else objFinish s v (sset v.g p.d (if b.phase then 1 else 0)) o
      { b with parr := b.parr - c, earr := if drop then b.earr - c else b.earr }

/-- BARRIVE (R307). -/
def execBarrive (p : LT) (s : State) : Host.Outcome State Fault Refusal := arriveRun s (.barrive p) p false
/-- BDROP (R307). -/
def execBdrop (p : LT) (s : State) : Host.Outcome State Fault Refusal := arriveRun s (.bdrop p) p true

/-- BEXPECT (R307). -/
def execBexpect (p : LT) (s : State) : Host.Outcome State Fault Refusal :=
  objRun s (.bexpect p) p.a true fun v o b =>
    let n := (bsval v.g p.b).toNat
    if b.pbytes + n > 2 ^ 31 - 1 then trapAll s v 0x07 o
    else objFinish s v v.g o { b with pbytes := b.pbytes + n, ebytes := (b.ebytes + n) % 2 ^ 32 }

/-- A trap of BWAIT or BTEST with the object's error (R309, R310); it reports the engine error too (R317). -/
def objError (s : State) (v : View) (o : Nat) (b : BObj) : State :=
  trapAll (modGroup s v.is.gid fun g => dropEngTrap g b.ecause (v.g.team, o)) { v with g := dropEngTrap v.g b.ecause (v.g.team, o) }
    b.ecause 0

/-- BWAIT (R309). -/
def execBwait (p : LT) (s : State) : Host.Outcome State Fault Refusal :=
  objRun s (.bwait p) p.a true fun v o b =>
    let q := (bsval v.g p.b).getLsbD 0
    if b.phase = q then
      finish s v { g := v.g, stops := (lanesOf v.exec).map fun L => (L, .bar (.obj o (p.order == .acq)) s.now) }
    else if b.err then objError s v o b
    else finish s v { g := v.g }

/-- BTEST (R310). -/
def execBtest (p : LT) (s : State) : Host.Outcome State Fault Refusal :=
  objRun s (.btest p) p.a true fun v o b =>
    if b.err then objError s v o b
    else finish s v { g := pset v.g p.d v.exec (if b.phase = (bsval v.g p.b).getLsbD 0 then 0 else allLanes) }

/-- Operations still counted on an object lose their count (R311). -/
def dropObjCounts (s : State) (team o : Nat) : State :=
  { s with
    ops := mmap s.ops fun _ x => { x with objs := x.objs.filter fun e => e != (team, o) }
    groups := mmap s.groups fun _ g => { g with fly := g.fly.map fun f => { f with cnt := f.cnt.filter fun e => !(e.1 == team && e.2.1 == o) }
                                                accs := g.accs.map fun a => if a.obj == some (team, o) then { a with obj := none } else a } }

/-- BINV (R311). -/
def execBinv (p : LT) (s : State) : Host.Outcome State Fault Refusal :=
  objRun s (.binv p) p.a true fun v o b =>
    let s1 := dropObjCounts (finish s v { g := v.g }) v.g.team o
    wakeBwait (modTeam s1 v.g.team fun t => bobjPut t o { b with valid := false }) v.g.team o 0x07 o

/-! ### STSCB (R312) -/

/-- The object of a target team, checked (R306): the cause of a trap, or none. -/
def targetObj (s : State) (team o : Nat) : Option Nat :=
  match team? s team with
  | none => some 0x04
  | some t => if o + 16 > t.scrBytes then some 0x04 else if o % 16 ≠ 0 then some 0x03 else none

/-- The target is saved out, or its object stands in an absent line: the lanes wait at the word before any byte is written (R265, R306,
R312). -/
def targetAway (s : State) (team o : Nat) : Bool :=
  match team? s team with
  | none => false
  | some t => t.st != .resident || (lineAbsent t o 16).isSome

/-- The target's object is dead. -/
def targetDead (s : State) (team o : Nat) : Bool :=
  match team? s team with
  | none => false
  | some t => !(bobjGet t o).valid

/-- The target's object is poisoned. -/
def targetPoisoned (s : State) (team o : Nat) : Bool := (team? s team).any fun t => scrPoisoned t o 16

/-- STSCB: cluster stores, then one count on each target team's object (R312). -/
def execStscb (p : LT) (s : State) : Host.Outcome State Fault Refusal :=
  run s (uses (.stscb p)) fun v =>
    let o := (bsval v.g p.b).toNat
    let lanes := (lanesOf v.exec).map fun L =>
      let e := withData (clusterAcc s v p.ty .store L (vget v.g p.a L).toNat) (storeVals v.g p.ty p.d L)
      let t := match e.2.2.2.space with | .scratch id => id | .global => 0
      (e.1, e.2.1, e.2.2.1, { e.2.2.2 with obj := some (t, o) })
    let objOf (e : LaneAcc) : Nat × Nat := e.2.2.2.obj.getD (0, 0)
    let bad (c : Nat) : Word := failLanes lanes fun e => e.2.2.1 && targetObj s (objOf e).1 o == some c
    match firstFail s v lanes with
    | some _ => accIssue s v { ins := .stscb p, dep := p.dep, lanes := lanes }
    | none =>
      if bad 0x04 ≠ 0 then trapIssue s v { v.tr 0x04 v.exec with detail := (bad 0x04).toNat, faddr := BitVec.ofNat 64 o }
      else if bad 0x03 ≠ 0 then trapIssue s v { v.tr 0x03 v.exec with detail := (bad 0x03).toNat, faddr := BitVec.ofNat 64 o }
      else match lanes.find? fun e => targetAway s (objOf e).1 o with
      | some e =>
        let (seq, s1) := fresh s
        finish s1 v { g := v.g, stops := (lanesOf v.exec).map fun L => (L, .park (.line (objOf e).1 (o / 128) seq)) }
      | none =>
      if lanes.any fun e => targetPoisoned s (objOf e).1 o then trapAll s v 0x0D 0
      else if lanes.any fun e => targetDead s (objOf e).1 o then trapAll s v 0x07 o
      else accIssue s v { ins := .stscb p, dep := p.dep, lanes := lanes }

end Sys2Proof.Machine
end

