-- ==== Sys2Proof/Machine/Control.lean ====
section
/-! DEFINITION. Machine/Control.lean: control instructions: transfers, hardware loops, masks, EXIT, YIELD, SLEEP and BKPT (R126,
R134 to R137, R177 to R191), and the reading of a clause's words, which LOOP shares with the clause fetch (R91, R115). -/

namespace Sys2Proof.Machine

/-- NOP (R184). -/
def execNop (s : State) : Host.Outcome State Fault Refusal := run s {} fun v => finish s v { g := v.g }

/-! ### Transfers (R178 to R181) -/

/-- A target at a signed word offset from the word. -/
def relTarget (v : View) (n off : Nat) : DWord := v.is.pc + BitVec.ofNat 64 (4 * sext64 n off)

/-- BRA (R178). -/
def execBra (off : Nat) (s : State) : Host.Outcome State Fault Refusal :=
  run s {} fun v => finish s v { g := v.g, jumps := (lanesOf v.exec).map fun L => (L, relTarget v 25 off) }

/-- The target that B names for a lane (R179). -/
def targetOf (g : Group) (b : Src) (L : Nat) : DWord := BitVec.ofNat 64 (bbits g .n64 b L)

/-- BRX, RET and CALLX: lanes with a misaligned target take trap 0x03, the others go; `link` names CALLX's link pair (R179, R180). -/
def indirect (s : State) (v : View) (b : Src) (link : Option Nat) : State :=
  let bad := maskOf fun L => v.exec.getLsbD L && (targetOf v.g b L).toNat % 4 != 0
  let go := lanesOf (v.exec &&& ~~~bad)
  let g := match link with
    | none => v.g
    | some d => go.foldl (fun g L => vset64 g d L (v.is.pc + 4)) v.g
  finish s v { g := g, jumps := go.map fun L => (L, targetOf v.g b L)
               trap := if bad = 0 then none else some { v.tr 0x03 bad with detail := bad.toNat, faddr := targetOf v.g b (lowLane bad) } }

/-- BRX (R179). -/
def execBrx (b : Src) (s : State) : Host.Outcome State Fault Refusal := run s (uses (.brx b)) fun v => indirect s v b none

/-- RET has the effect of BRX (R179). -/
def execRet (b : Src) (s : State) : Host.Outcome State Fault Refusal := run s (uses (.ret b)) fun v => indirect s v b none

/-- A lane of EXEC is a member of an active loop (R180). -/
def inLoop (v : View) : Bool := (List.range 3).any fun n => (loopGet v.g n).active && (loopGet v.g n).members &&& v.exec != 0

/-- CALL (R180). -/
def execCall (d off : Nat) (s : State) : Host.Outcome State Fault Refusal :=
  run s (uses (.call d off)) fun v =>
    if inLoop v then trapAll s v 0x02 0
    else finish s v { g := (lanesOf v.exec).foldl (fun g L => vset64 g d L (v.is.pc + 4)) v.g
                      jumps := (lanesOf v.exec).map fun L => (L, relTarget v 17 off) }

/-- CALLX (R180). -/
def execCallx (d : Nat) (b : Src) (s : State) : Host.Outcome State Fault Refusal :=
  run s (uses (.callx d b)) fun v => if inLoop v then trapAll s v 0x02 0 else indirect s v b (some d)

/-- PCREL (R181). -/
def execPcrel (d off : Nat) (s : State) : Host.Outcome State Fault Refusal :=
  run s (uses (.pcrel d off)) fun v => finish s v { g := sset64 v.g d (relTarget v 17 off) }

/-! ### Reading code (R91, R115) -/

/-- What reading code bytes finds. -/
inductive CodeRes where
  | bytes (bs : List Nat)
  /-- a page is not held -/
  | page (va : Nat)
  | layer (launch layer : Nat)
  | failed (launch layer : Nat)
  | deny
  | poison
  deriving DecidableEq, Repr

/-- The old copy of a line that a fetch sees in place of memory: a free choice for each line and each fetch (R92). -/
def oldLine (s : State) (cr pasid va : Nat) : Option (List Nat) :=
  match mget? s.ilines (lineKey cr pasid va) with
  | some bs => if Config.oldLine s.free (va / 128) then some bs else none
  | none => none

/-- The key of an address that a fetch of a core reads. -/
def codeKey (s : State) (cr pasid : Nat) (who : Waiter) (va : Nat) : TrRes :=
  match translateFor s (some cr) who pasid va .ex with
  | .miss => if deniedFor s who va then .deny else .miss
  | r => r

/-- A byte of an instruction-cache line: 256 is added to one of a poisoned granule. -/
def codeByte (s : State) (k : Nat) : Nat := (readByte s k).toNat + (if poisoned s k 1 then 256 else 0)

/-- The lines of a fetch, but for those that it saw an old copy of, are filled from memory, for a team (R90, R279). -/
def fillLines (s : State) (cr team pasid : Nat) (who : Waiter) (va n : Nat) : State :=
  let fill (m : AMap (List Nat)) (a : Nat) : AMap (List Nat) :=
    match oldLine s cr pasid a, codeKey s cr pasid who a with
    | none, .ok k _ => mput m (lineKey cr pasid a) ((List.range 128).map fun i => codeByte s (k + i))
    | _, _ => m
  let lines := (List.range ((va + n + 127) / 128 - va / 128)).map fun i => (va / 128 + i) * 128
  let s1 := touchTlb (touchTlb s cr team pasid va) cr team pasid (va + n - 1)
  { s1 with free := s1.free + 1, ilines := lines.foldl fill s.ilines }

/-- The fetch has found the layer of an address resident, and waits for its page or has been granted it (R338). -/
def fetchWaits (s : State) (who : Waiter) (va : Nat) : Bool := s.waits.any fun p => p.who == who && p.page == pageOf va

/-- The layer check of an address of a fetch (R91, R272). -/
def codeLayer (s : State) (c : Ctx) (cx : Nat) (who : Waiter) (va : Nat) : LayerRes := if fetchWaits s who va then .ok else layerCheck s c cx va

/-- Read `n` bytes of code at an address of a context, within one page or across two, on a core (R91, R92). -/
def readCode (s : State) (c : Ctx) (cx cr : Nat) (who : Waiter) (va n : Nat) : CodeRes :=
  if va + n > 2 ^ 57 then .deny
  else
    let last := va + n - 1
    match codeLayer s c cx who va, codeLayer s c cx who last with
    | .failed l i, _ => .failed l i
    | _, .failed l i => .failed l i
    | .poison, _ => .poison
    | _, .poison => .poison
    | .wait l i, _ => .layer l i
    | _, .wait l i => .layer l i
    | .ok, .ok =>
      match codeKey s cr c.pasid who va, codeKey s cr c.pasid who last with
      | .deny, _ => .deny
      | .miss, _ => .page va
      | .ok _ _, .deny => .deny
      | .ok _ _, .miss => .page last
      | .ok _ _, .ok _ _ =>
        let bs := (List.range n).map fun i =>
          match oldLine s cr c.pasid (va + i) with
          | some bs => bs.getD ((va + i) % 128) 0
          | none => match codeKey s cr c.pasid who (va + i) with | .ok k _ => codeByte s k | _ => 0
        if bs.any fun b => b ≥ 256 then .poison else .bytes bs

/-! ### Hardware loops (R115, R187, R188) -/

/-- The walk over the headers of a body: it ends at the body's end or past it, or a read stops it at an address. -/
inductive BodyRes where
  | ends (ok : Bool)
  | stop (at_ : Nat) (r : CodeRes)
  deriving DecidableEq, Repr

/-- Walk the headers from `a`: the body must end with a clause (R115). A word that is no header, or has COUNT 0, begins none. -/
def walkBody (s : State) (c : Ctx) (cx cr : Nat) (who : Waiter) (e : Nat) : Nat → Nat → BodyRes
  | 0, _ => .ends false
  | n + 1, a =>
    if a ≥ e then .ends (a == e)
    else match readCode s c cx cr who a 4 with
      | .bytes bs =>
        let w := leNat bs
        if bitsOf w 28 4 ≠ 11 ∨ bitsOf w 0 4 = 0 then .ends false
        else walkBody s c cx cr who e n (a + 4 + 4 * bitsOf w 0 4)
      | r => .stop a r

/-- The word does not issue, and the lanes of the entry park at it for a layer (R115): layer absent (R473). -/
def parkIssue (s : State) (v : View) (w : Park) : State :=
  let s1 := { modGroup s v.is.gid (fun g => laneMod g v.is.lanes fun _ l => { l with pc := v.is.pc, st := .park w, since := s.now }) with sel := none }
  match v.is.step with
  | none => chargeStall s1 v 0x0D
  | some _ => stepStatus (modGroup s1 v.is.gid fun g => laneMod g v.is.lanes fun _ l => rehalt l) v (2 ^ 8)

/-- The group stalls at the word for a page (R115, R282). -/
def pageIssue (s : State) (v : View) (who : Waiter) (va : Nat) (n : Need) : State := holdAs 0x0E (askPage s who v.g.ctx va n v.is.lanes) v

/-- LOOP (R187, R188). DEDUCED (log entry 68): the headers of the body are read, and their traps taken, for the lanes of EXEC; with an
empty EXEC the word has no effect and reads none (R174). -/
def execLoop (lc len cnt : Nat) (x : Bool) (s : State) : Host.Outcome State Fault Refusal :=
  run s (uses (.loop lc len cnt x)) fun v =>
    let start := v.npc
    let e := start + BitVec.ofNat 64 ((len + 1) * 4)
    let who : Waiter := .fetch v.is.gid v.is.pc
    let holds (s : State) (vas : List Nat) : State := takeHolds s v.g.team v.cx v.g.ctx v.g.launch vas
    let done (s : State) : State :=
      dropWaits (fillLines s v.tm.core v.g.team v.cx.pasid who start.toNat (e.toNat - start.toNat)) who
    match walkBody s v.cx v.g.ctx v.tm.core who e.toNat 257 start.toNat with
    | .stop a r =>
      (match r with
       | .page va => pageIssue (holds s [va]) v who va .ex
       | .layer l i => parkIssue (requestLayer s l i) v (.fetch l i)
       | .failed l i => trapIssue (done s) v { v.tr 0x09 v.exec with detail := i, lyr := some (l, i) }
       | .poison => trapAll (done s) v 0x0D 0
       | _ => trapIssue (done s) v { v.tr 0x04 v.exec with detail := v.exec.toNat, faddr := BitVec.ofNat 64 a })
    | .ends ok =>
      let s := holds (done s) [start.toNat, e.toNat - 1]
      let n := if x then (sget v.g cnt).toNat else cnt
      let past := (List.range 3).any fun k =>
        let p := loopGet v.g k
        p.active && p.start ≤ v.is.pc && v.is.pc < loopEndOf p && loopEndOf p < e
      if !ok || past || (loopGet v.g lc).active then trapAll s v 0x02 0
      else if n = 0 then finish s v { g := v.g, jumps := (lanesOf v.exec).map fun L => (L, e) }
      else
        let g := loopSet (lcset v.g lc (BitVec.ofNat 32 n)) lc
          { active := true, start := start, len := len, members := v.exec, hand := handLanes v.g != 0 }
        finish s v { g := g, jumps := (lanesOf v.exec).map fun L => (L, start) }

/-! ### Masks (R134, R135, R182) -/

/-- JOIN (R134). -/
def execJoin (d : Nat) (s : State) : Host.Outcome State Fault Refusal :=
  run s (uses (.join d)) fun v => finish s v { g := kset v.g d (kget v.g d ||| v.exec) }

/-- LEAVE (R134). -/
def execLeave (d : Nat) (s : State) : Host.Outcome State Fault Refusal :=
  run s (uses (.leave d)) fun v => finish s v { g := kset v.g d (kget v.g d &&& ~~~v.exec) }

/-- WAITK: a lane whose own bit is clear goes on (R135). -/
def execWaitk (d : Nat) (s : State) : Host.Outcome State Fault Refusal :=
  run s (uses (.waitk d)) fun v =>
    finish s v { g := v.g, stops := (lanesOf (v.exec &&& kget v.g d)).map fun L => (L, .waitK d) }

/-! ### EXIT (R183) -/

/-- A lane stops being live: its bits in the masks and its loop memberships end. -/
def exitLane (g : Group) (L : Nat) : Group :=
  leaveLoops ((List.range 12).foldl (fun g k => kset g k (kget g k &&& ~~~(lbit L))) g) L none

/-- The last live lane has exited: the group ends. Writes to its registers that are still in flight are discarded; what it has
issued to other units runs on. -/
def endGroup (s : State) (gid : Nat) : State :=
  match group? s gid with
  | none => s
  | some g =>
    let s1 := match g.hnd with
      | some h => modCtx s g.ctx fun c => { c with frames := mdel c.frames h.frame }
      | none => s
    setGroup (dropWaits s1 (.frame gid)) gid
      { g with exited := true, ended := true, active := false, ready := false, hnd := none, stallAt := none, stallLong := false
               fly := g.fly.map fun f => { f with regs := [] } }

/-- What follows when lanes have exited: the group's end, the return of the other lanes from a handler, and the barrier tests. -/
def afterExit (s : State) (gid : Nat) : State :=
  match group? s gid with
  | none => s
  | some g =>
    let s1 :=
      if liveLanes g = 0 then endGroup s gid
      else if g.hnd.isSome && handLanes g = 0 then leaveHandler s gid
      else if g.hnd.isSome then tryReturn s gid
      else s
    barTests s1 gid

/-- EXIT (R183). -/
def execExit (s : State) : Host.Outcome State Fault Refusal :=
  run s {} fun v =>
    afterExit (finish s v { g := (lanesOf v.exec).foldl exitLane v.g, stops := (lanesOf v.exec).map fun L => (L, .dead) }) v.is.gid

/-! ### YIELD, SLEEP and BKPT (R126, R184 to R186) -/

/-- The resident groups of a slice, with their numbers. -/
def sliceGroups (s : State) (core slice : Nat) : List (Nat × Group) :=
  s.groups.filter fun e => e.2.slice == slice && !e.2.ended
    && (match team? s e.2.team with | some t => t.core == core && teamHere s t | none => false)

/-- The entry of a list with the least key, the first among equals. -/
def minBy {α : Type} (key : α → Nat) : List α → Option α
  | [] => none
  | x :: r => match minBy key r with
    | some y => if key y < key x then some y else some x
    | none => some x

/-- Two groups trade sets (R122): neither issues for 2 cycles after this one. `n` counts to the ends of cycles. -/
def tradeSets (s : State) (n out inn : Nat) : State :=
  modGroup (modGroup s out fun g => { g with active := false, tradeCd := n }) inn fun g => { g with active := true, tradeCd := n }

/-- The pending group that moves: the earliest ready-since cycle, then the lowest slot (R122). -/
def pendingReady (s : State) (core slice : Nat) : Option (Nat × Group) :=
  minBy (fun e => e.2.readySince * 16 + e.2.slot) ((sliceGroups s core slice).filter fun e => !e.2.active && e.2.ready)

/-- YIELD's effect on a group (R126). -/
def yieldGroup (s : State) (gid : Nat) : State :=
  match group? s gid with
  | none => s
  | some g =>
    let s1 := modGroup s gid fun g => { g with readySince := s.now }
    match pendingReady s1 (coreOf s g) g.slice with
    | some e => if g.active then tradeSets s1 3 gid e.1 else s1
    | none => s1

/-- YIELD (R126, R184). -/
def execYield (s : State) : Host.Outcome State Fault Refusal :=
  run s {} fun v => yieldGroup (finish s v { g := v.g }) v.is.gid

/-- SLEEP (R185). -/
def execSleep (d imm : Nat) (x : Bool) (s : State) : Host.Outcome State Fault Refusal :=
  run s (uses (.sleep d imm x)) fun v =>
    let n := if x then min (sget v.g d).toNat 65535 else imm
    if n = 0 then yieldGroup (finish s v { g := v.g }) v.is.gid
    else finish s v { g := v.g, stops := (lanesOf v.exec).map fun L => (L, .park (.sleep (64 * n))) }

/-- BKPT (R186). -/
def execBkpt (imm : Nat) (s : State) : Host.Outcome State Fault Refusal :=
  run s {} fun v => trapAll s v 0x0E (imm + 2 ^ 16)

end Sys2Proof.Machine
end

