-- ==== Sys2Proof/Machine/Remote.lean ====
section
/-! DEFINITION. Machine/Remote.lean: remote accesses, completion counters and routes: the requester's checks, the target's checks and
effect, the answers, and RLD, RST, RATOM, RFENCE, CWAIT and CNOTE (R392 to R408). -/

namespace Sys2Proof.Machine

/-! ### Tables of a context slot (R394, R395) -/

/-- A table entry: what the device holds of it, else memory; a poisoned entry is no valid one (R478). -/
def tabEntry (s : State) (slot tab idx key n : Nat) : Nat :=
  (mget? s.tabs ((slot * 4 + tab) * 4096 + idx)).getD (if poisoned s key n then 0 else readNat s key n)

/-- The device holds an entry from its first use on. -/
def tabFill (s : State) (slot tab idx key n : Nat) : State :=
  { s with tabs := mput s.tabs ((slot * 4 + tab) * 4096 + idx) (tabEntry s slot tab idx key n) }

/-- Drop the entries of a table of a slot (R394). -/
def tabDrop (s : State) (slot tab : Nat) : State := { s with tabs := s.tabs.filter fun e => e.1 / 4096 != slot * 4 + tab }

/-- A bit of PERM: R 3, W 2, A 1, N 0. -/
def permBits (r w a n : Bool) : Nat := 8 * bit r + 4 * bit w + 2 * bit a + bit n

/-- The permission that an operation needs (R397). -/
def remPerm : RemOp → Nat
  | .ld => permBits true false false false
  | .st => permBits false true false false
  | .stCnt _ => permBits false true false true
  | .atom _ _ => permBits false false true false
  | .note _ => permBits false false false true

/-- A peer entry (R395). -/
structure Peer where
  dev : Nat
  rclass : Nat
  ectx : Nat
  key : Nat
  perm : Nat
  deriving DecidableEq, Repr

/-- The 16 bytes of a peer entry of a slot, with their key. -/
def peerKey (s : State) (slot peer : Nat) : Nat := bitsOf (slotRegs s slot).peerCfg 14 26 * 2 ^ 14 + 16 * peer

/-- The valid peer entry that a context may use (R395, R397). -/
def peerOf (s : State) (slot peer : Nat) : Option Peer :=
  if !(slotRegs s slot).peerCfg.testBit 0 then none
  else
    let w := tabEntry s slot 1 peer (peerKey s slot peer) 16
    if !w.testBit 63 || bitsOf w 64 64 != 0 || bitsOf w 55 2 != 0 || bitsOf w 16 15 != 0 then none
    else some { dev := bitsOf w 40 15, rclass := bitsOf w 57 2, ectx := bitsOf w 31 9, key := bitsOf w 0 16, perm := bitsOf w 59 4 }

/-- A window entry (R395). -/
structure Window where
  base : Nat
  size : Nat
  perm : Nat
  fc : Bool
  key : Nat
  deriving DecidableEq, Repr

/-- The key of a window entry of a slot. -/
def windowKey (s : State) (slot win : Nat) : Nat := bitsOf (slotRegs s slot).expCfg 10 30 * 2 ^ 10 + 16 * win

/-- The valid window of an exporting slot (R395). -/
def windowEntry (s : State) (slot win : Nat) : Option Window :=
  let w := tabEntry s slot 2 win (windowKey s slot win) 16
  let base := bitsOf w 64 57
  let size := bitsOf w 16 32 * 2 ^ 16
  if !w.testBit 63 || bitsOf w 121 7 != 0 || bitsOf w 48 10 != 0 || size = 0 || size > 2 ^ 47 || base + size > 2 ^ 57 || base % 2 ^ 16 != 0
  then none
  else some { base := base, size := size, perm := bitsOf w 59 4, fc := w.testBit 58, key := bitsOf w 0 16 }

/-! ### Remote addresses and routes (R396, R407) -/

/-- PEER of a remote address. -/
def remPeer (a : Nat) : Nat := bitsOf a 53 10
/-- WIN. -/
def remWin (a : Nat) : Nat := bitsOf a 47 6
/-- OFF. -/
def remOff (a : Nat) : Nat := bitsOf a 0 47
/-- Bit 63. -/
def isRemote (a : Nat) : Bool := a.testBit 63

/-- The link of a flow, as the table in force gives it. -/
def routeLink (s : State) (dev rclass : Nat) : Option Nat :=
  match mget? s.dev.route (dev * 4 + rclass) with
  | some l => if l ≤ 17 then some l else none
  | none => none

/-- A link is down. -/
def linkIsDown (s : State) (l : Nat) : Bool := s.dev.linkDown.testBit l

/-- Check 4 of R397. -/
def routeOk (s : State) (dev rclass : Nat) : Bool :=
  s.dev.routeEn && (dev == s.dev.devNow || match routeLink s dev rclass with | some l => !linkIsDown s l | none => false)

/-- Checks 3 of R397: the peer entry that grants an operation. -/
def peerGrants (s : State) (slot a : Nat) (perm : Nat) : Option Peer :=
  match peerOf s slot (remPeer a) with
  | some p => if Nat.land p.perm perm = perm then some p else none
  | none => none

/-- The request of an operation at a remote address. -/
def remMsg (p : Peer) (a : Nat) (op : RemOp) (width : Nat) (data : List Nat) (cmp : Nat) : RemMsg :=
  { op := op, ectx := p.ectx, win := remWin a, key := p.key, off := remOff a, width := width, data := data, cmp := cmp }

/-- Send a request (R397): where check 4 fails, poison is its answer; to the device's own number it loops back. -/
def sendReq (s : State) (r : Rem) : State :=
  let (id, s1) := fresh s
  let ok := routeOk s r.dev r.rclass
  let r1 := { r with id := id, since := s.now, ready := if ok then none else some .poison }
  let s2 := { s1 with rems := mput s1.rems id r1 }
  if ok && r.dev != s.dev.devNow then emit s2 (.remote id r.dev r.msg) else s2

/-! ### Completion counters (R403, R404) -/

/-- The address of a context's counter, where CEN is set. -/
def counterAt (s : State) (ctx c : Nat) : Option Nat :=
  let x := (slotRegs s ctx).expCnt
  if x.testBit 0 then some (bitsOf x 11 46 * 2 ^ 11 + 8 * c) else none

/-- Where a counter of a group's context stands in memory, as the group's core finds it. -/
def counterKey (s : State) (gid : Nat) (g : Group) (c : Nat) : TrRes :=
  match counterAt s g.ctx c, ctx? s g.ctx with
  | some a, some cx => match translateFor s (some (coreOf s g)) (.counter gid c) cx.pasid a .rd with
    | .miss => if deniedFor s (.counter gid c) a then .deny else .miss
    | r => r
  | _, _ => .deny

/-- The lanes of a group that wait in CWAIT. -/
def cwaiters (g : Group) (c : Nat) (f : Nat → Bool) : Word :=
  lanesWhere g fun l => !l.wake && match l.st with | .park (.cwait d x) => d == c && f x | _ => false

/-- The counters that lanes of a group wait for. -/
def cwaitsFor (g : Group) : List Nat :=
  ((List.range 32).filterMap fun L => match (laneGet g L).st with | .park (.cwait c _) => some c | _ => none).eraseDups

/-- Lanes that wait for one counter: those whose value it has reached are released; the page of the counter is asked for again where no
translation is held any more; where it is denied, or the counter is poisoned, they trap (R280, R404, R478). -/
def cwaitOne (gid : Nat) (s : State) (c : Nat) : State :=
  match group? s gid with
  | none => s
  | some g =>
    let trap (cause : Nat) (detail : Word → Nat) : State :=
      (byPc g 32 (cwaiters g c fun _ => true)).foldl (fun s m => match group? s gid with
        | some g => takeTrap s gid g.lanes { laneTr g (lowLane m) cause m with
            detail := detail m, faddr := if cause = 0x04 then BitVec.ofNat 64 ((counterAt s g.ctx c).getD 0) else 0 }
        | none => s) (dropWaits s (.counter gid c))
    match counterKey s gid g c with
    | .ok k _ =>
      if poisoned s k 8 then trap 0x0D fun _ => 0
      else
        let m := cwaiters g c fun x => x ≤ readNat s k 8
        let s1 := if waitsOf s (.counter gid c) = [] then s else dropWaits s (.counter gid c)
        if m = 0 then s1 else setGroup s1 gid (settle (passLanes g m))
    | .miss => askPage s (.counter gid c) g.ctx ((counterAt s g.ctx c).getD 0) .rd (cwaiters g c fun _ => true)
    | .deny => trap 0x04 fun m => m.toNat

/-- Lanes of a group that wait on a counter are released where it has reached their value. -/
def cwaitTest (s : State) (gid : Nat) : State :=
  match group? s gid with
  | none => s
  | some g => if (ctx? s g.ctx).any (·.halt.isSome) then s else (cwaitsFor g).foldl (cwaitOne gid) s

/-- The waits of a context on its counters are tested at every addition, group by group in the order of R436 (R430). -/
def cwaitTests (s : State) (ctx : Nat) : State := (byPos s ((ctxGroups s ctx).map Prod.fst)).foldl cwaitTest s

/-- Add to a counter whose page a unit has looked up (R399, R403). -/
def counterAdd (s : State) (who : Waiter) (ctx c n : Nat) : State :=
  match counterAt s ctx c, ctx? s ctx with
  | some a, some cx => match translateFor s none who cx.pasid a .rw with
    | .ok k _ => cwaitTests (homeWrite s k (leBytes 8 ((readNat s k 8 + n) % 2 ^ 64)) false) ctx
    | _ => s
  | _, _ => s

/-! ### The target (R397 checks 5 to 10) -/

/-- The operation writes. -/
def remWrites : RemOp → Bool
  | .ld => false
  | _ => true
/-- The counter that an operation adds to. -/
def remCounter : RemOp → Option Nat
  | .stCnt c | .note c => some c
  | _ => none
/-- The operation touches the window's bytes. -/
def remTouches : RemOp → Bool
  | .note _ => false
  | _ => true

/-- Checks 5 to 7: the address of the access in the exporting context. -/
def targetAddr (s : State) (m : RemMsg) : Option Nat :=
  match ctx? s m.ectx with
  | none => none
  | some cx =>
    if !(slotRegs s m.ectx).expCfg.testBit 0 then none
    else match windowEntry s m.ectx m.win with
      | none => none
      | some w =>
        let a := w.base + m.off
        let k := regionKind cx a
        if w.key ≠ m.key ∨ Nat.land w.perm (remPerm m.op) ≠ (remPerm m.op) ∨ m.off + m.width > w.size then none
        else if (w.fc && k != 3) || ((remTouches m.op) && (remWrites m.op) && (k == 2 || k == 4)) then none
        else if (remCounter m.op).isSome && !(slotRegs s m.ectx).expCnt.testBit 0 then none
        else some a

/-- The permissions that an operation needs at its bytes. -/
def remNeed : RemOp → Need
  | .ld => .rd
  | .atom _ _ => .rw
  | _ => .wr

/-- What the target finds: poison, a wait, or the pieces of memory that the access touches, as keys and bytes. -/
inductive TgtRes where
  | poison
  | page (va : Nat) (n : Need)
  | layer (launch layer : Nat)
  | go (segs : List (Nat × Nat))
  deriving DecidableEq, Repr

/-- The pieces of an access of at most 4 KiB, each within one page. -/
def pagePieces (a n : Nat) : List (Nat × Nat) :=
  let k := 4096 - a % 4096
  if n ≤ k then [(a, n)] else [(a, k), (a + k, n - k)]

/-- Checks 8 to 10 of a request whose address is known; its bytes may lie in two pages. -/
def targetReady (s : State) (cx : Ctx) (who : Waiter) (m : RemMsg) (a : Nat) : TgtRes :=
  let look (va : Nat) (n : Need) : TrRes := match translateFor s none who cx.pasid va n with
    | .miss => if deniedFor s who va then .deny else .miss
    | r => r
  let parts := if remTouches m.op then pagePieces a m.width else []
  let spots : List (Nat × Need) := parts.map (fun e => (e.1, remNeed m.op))
    ++ (match remCounter m.op with | some c => (match counterAt s m.ectx c with | some x => [(x, .rw)] | none => []) | none => [])
  let trs := spots.map fun (x, n) => (x, n, look x n)
  if trs.any fun e => e.2.2 == .deny then .poison
  else match trs.find? fun e => e.2.2 == .miss with
    | some (x, n, _) => .page x n
    | none =>
      let lys := parts.flatMap fun e => [layerCheck s cx m.ectx e.1, layerCheck s cx m.ectx (e.1 + e.2 - 1)]
      if lys.any fun r => r.isFailed || r == .poison then .poison
      else match lys.find? fun r => r != .ok with
        | some (.wait l i) => .layer l i
        | _ =>
          let segs := parts.filterMap fun (x, n) => match look x (remNeed m.op) with | .ok k _ => some (k, n) | _ => none
          if (m.op == .ld || remPerm m.op == 2) && segs.any fun e => poisoned s e.1 e.2 then .poison else .go segs

/-- The bytes of pieces of memory. -/
def segRead (s : State) (segs : List (Nat × Nat)) : List Nat := segs.flatMap fun e => readBytes s e.1 e.2

/-- Bytes go to pieces of memory. -/
def segWrite (poison : Bool) : State → List (Nat × Nat) → List Nat → State
  | s, [], _ => s
  | s, (k, n) :: r, bs => segWrite poison (homeWrite s k (bs.take n) poison) r (bs.drop n)

/-- Perform a request at its target: the answer and the memory after it. -/
def targetDo (s : State) (who : Waiter) (m : RemMsg) (segs : List (Nat × Nat)) : RemAns × State :=
  match m.op with
  | .ld => (.data (segRead s segs), s)
  | .st => (.ack, segWrite m.poison s segs m.data)
  | .stCnt c => (.ack, counterAdd (segWrite m.poison s segs m.data) who m.ectx c m.width)
  | .atom fn t =>
    let old := leNat (segRead s segs)
    (.data (leBytes m.width old), segWrite false s segs (leBytes m.width (atomNew fn t old (leNat m.data) m.cmp).1))
  | .note c => (.ack, counterAdd s who m.ectx c (leNat m.data))

/-- The answer of a request leaves: to a request of this device that looped back, or on the fabric. -/
def answerReq (s : State) (loop : Nat) (ans : RemAns) : State :=
  if loop = 0 then emit s (.remoteAnswer ans) else { s with rems := mmod s.rems loop fun r => { r with ready := some ans } }

/-- Try a request at this device as its target: it is performed and answered, poisoned, or waits (R397). One that waits has passed checks
5 to 7 and completes as checked (R394). -/
def targetTry (s : State) (t : TReq) : State :=
  let who : Waiter := .target t.id
  let close (s : State) (ans : RemAns) : State :=
    answerReq { dropWaits s who with treqs := mdel s.treqs t.id } t.loop ans
  let s := if t.addr.isSome then s else tabFill s t.msg.ectx 2 t.msg.win (windowKey s t.msg.ectx t.msg.win) 16
  match (match t.addr with | some a => some a | none => targetAddr s t.msg), ctx? s t.msg.ectx with
  | some a, some cx =>
    let keep : State := { s with treqs := mput s.treqs t.id { t with addr := some a } }
    match targetReady s cx who t.msg a with
    | .poison => close s .poison
    | .page va n => askPage keep who t.msg.ectx va n 0
    | .layer l i => requestLayer keep l i
    | .go segs => let (ans, s1) := targetDo s who t.msg segs; close s1 ans
  | _, _ => close s .poison

/-! ### Answers to lanes (R399) -/

/-- A group may act now: its team is resident, and its context holds the partition and is not halted. -/
def groupLive (s : State) (g : Group) : Bool :=
  (match team? s g.team with | some t => t.st == .resident | none => false)
    && ctxHere s g.ctx && (match ctx? s g.ctx with | some c => c.halt.isNone && !c.suspended | none => false) && !g.frozen

/-- Requests before a number that an RFENCE waits for (R402): those of its group, and engine operations with a remote destination. -/
def fenceBusy (s : State) (gid seq : Nat) : Bool :=
  (s.rems.any fun e => match e.2.who with
    | .lanes g q _ => g == gid && q < seq && e.2.msg.op != .ld
    | _ => false)
  || s.ops.any fun e => e.2.gid == gid && e.2.seq < seq && isRemote e.2.dstAddr && e.2.dsts == [.glob]

/-- RFENCE's wait ends once nothing is outstanding before it (R402). -/
def rfenceTest (s : State) (gid : Nat) : State :=
  match group? s gid with
  | none => s
  | some g =>
    let m := lanesWhere g fun l => match l.st with | .park (.rfence q) => !fenceBusy s gid q | _ => false
    if m = 0 then s
    else
      let g1 := { g with fly := g.fly.map fun f => if f.left &&& m != 0 then { f with left := f.left &&& ~~~m } else f }
      setGroup s gid (settle (passLanes g1 m))

/-- Every answer to a remote instruction has come: the weirs are evaluated for the lanes that completed, and the poisoned lanes trap
together (R399). -/
def remDone (s : State) (gid seq : Nat) : State :=
  match group? s gid with
  | none => s
  | some g =>
    match flyOf g seq with
    | none => s
    | some f =>
      if f.left != 0 || !groupLive s g then s
      else if f.poison = 0 then flyDone s gid seq
      else
        let bad := f.poison
        let ok (L : Nat) : Bool := !bad.getLsbD L
        let g1 := modFly g seq fun f => { f with poison := 0, lanes := f.lanes &&& ~~~bad, obsAcc := f.obsAcc.filter fun e => ok e.1, obsVal := f.obsVal.filter fun e => ok e.1 }
        let s1 := flyDone (setGroup s gid g1) gid seq
        if f.stepped then modGroup s1 gid fun g => laneMod g bad fun _ l => { l with st := .halted, haltPend := false }
        else takeTrap s1 gid g.lanes { flyTr f 0x06 bad with detail := bad.toNat, faddr := BitVec.ofNat 64 f.poisAddr }

/-- Lanes of a remote instruction are answered: their registers are written and they go on, or they wait to trap together (R399). -/
def answerLanes (s : State) (gid seq : Nat) (m : Word) (ea : Nat) (poison : Bool) (vals : List (Nat × Nat × Nat)) (f : Group → Group) : State :=
  let s1 := modGroup s gid fun g =>
    let g1 := if poison then g else f g
    let g2 := modFly g1 seq fun y =>
      { y with left := y.left &&& ~~~m, poison := if poison then y.poison ||| m else y.poison,
               poisAddr := if poison && (y.poison = 0 || lowLane m < lowLane y.poison) then ea else y.poisAddr,
               obsVal := if poison then y.obsVal else y.obsVal ++ vals }
    if poison || ((flyOf g2 seq).map (·.hold)).getD false then g2 else settle (passLanes g2 (m &&& lanesWhere g2 fun l => l.st == .park (.remote seq)))
  rfenceTest (remDone s1 gid seq) gid

/-- The values of a combined atomic by lane: old ⊙ C(L1) ⊙ … (R400). -/
def combine (fn : AtomFn) (t : Ty) : Nat → List (Nat × Nat × Nat) → List (Nat × Nat)
  | _, [] => []
  | old, (L, c, _) :: r => (L, old) :: combine fn t (atomNew fn t old c 0).1 r

/-- The operations that lanes of one address combine (R400). -/
def combines : AtomFn → Bool
  | .add | .min | .max | .and | .or | .xor => true
  | _ => false

/-- The combined operand of lanes of one address. -/
def combined (fn : AtomFn) (t : Ty) (args : List (Nat × Nat × Nat)) : Nat :=
  match args with
  | [] => 0
  | (_, c, _) :: r => r.foldl (fun a e => (atomNew fn t a e.2.1 0).1) c

/-- An answer to a request of lanes: data or an acknowledgement (R398 to R400). -/
def lanesAnswered (s : State) (r : Rem) (gid seq : Nat) (m : Word) (ans : RemAns) : State :=
  let s := { s with rems := mdel s.rems r.id }
  let bytes := match ans with | .data b => b | _ => []
  match group? s gid with
  | none => s
  | some g =>
    let ins : Option Instr := (flyOf g seq).map (·.ins)
    if ans == .poison then answerLanes s gid seq m r.addr true [] id
    else match r.msg.op, ins with
      | .ld, some (.rld p) =>
        let vals := (compsAt p.ty 0).map fun (o, n) => fieldAt bytes o n
        answerLanes s gid seq m r.addr false (vals.map fun x => (lowLane m, 0, x)) fun g => putLoad g p.ty p.d (lowLane m) vals
      | .atom fn t, some (.ratom p _) =>
        let old := leNat bytes
        if combines fn then
          let rs := combine fn t old r.args
          answerLanes s gid seq m r.addr false
            (rs.flatMap fun e => [(e.1, 0, e.2), (e.1, 1, (atomNew fn t e.2 (((r.args.find? fun a => a.1 == e.1).map (·.2.1)).getD 0) 0).1)])
            fun g => rs.foldl (fun g e => putLoad g p.ty p.d e.1 [e.2]) g
        else match r.args with
          | (L, c, k) :: rest =>
            -- the next lane's request leaves first: no RFENCE sees the word with nothing outstanding (R402)
            let s1 := match rest with
              | [] => s
              | (_, c', k') :: _ => sendReq s { r with
                  who := .lanes gid seq (m &&& ~~~(lbit L)), args := rest, msg := { r.msg with data := leBytes r.msg.width c', cmp := k' } }
            answerLanes s1 gid seq (lbit L) r.addr false [(L, 0, old), (L, 1, (atomNew fn t old c k).1)] fun g => putLoad g p.ty p.d L [old]
          | [] => s
      | _, _ => answerLanes s gid seq m r.addr false [] id

/-! ### Issue of a remote instruction -/

/-- A lane's remote access. -/
structure RemLane where
  lanes : Word
  ea : Nat
  align : Nat
  op : RemOp
  width : Nat
  data : List Nat
  cmp : Nat := 0
  /-- bytes touched for the weirs, as (ACC bit, address, bytes), and the values written -/
  acc : List (Nat × Nat × Nat) := []
  vals : List Nat := []
  args : List (Nat × Nat × Nat) := []

/-- The first check of R397 at the requester that a lane fails: 1, 2 or 3. -/
def remCheck (s : State) (ctx : Nat) (x : RemLane) : Option Nat :=
  if !isRemote x.ea then some 1
  else if x.ea % x.align ≠ 0 then some 2
  else if (peerGrants s ctx x.ea (remPerm x.op)).isNone then some 3 else none

/-- A remote instruction: the requester's checks, PRE weirs, and a request for each entry of `reqs` (R397, R399). `lanes` holds one
entry for each lane, which the checks and the weirs see. -/
def remIssue (s : State) (v : View) (ins : Instr) (dep : Option Nat) (lanes reqs : List RemLane) : State :=
  let s := lanes.foldl (fun s x => if isRemote x.ea then tabFill s v.g.ctx 1 (remPeer x.ea) (peerKey s v.g.ctx (remPeer x.ea)) 16 else s) s
  let bad (k : Nat) : Word := lanes.foldl (fun m x => if remCheck s v.g.ctx x == some k then m ||| x.lanes else m) 0
  let fail (k cause : Nat) : State :=
    let ea := ((lanes.find? fun x => x.lanes &&& bad k != 0).map (·.ea)).getD 0
    trapIssue s v { v.tr cause v.exec with detail := (bad k).toNat, faddr := BitVec.ofNat 64 ea }
  if bad 1 ≠ 0 then fail 1 0x04
  else if bad 2 ≠ 0 then fail 2 0x03
  else if bad 3 ≠ 0 then fail 3 0x04
  else
    let seen := lanes.flatMap fun x => (lanesOf x.lanes).flatMap fun L => x.acc.map fun (b, a, n) => (L, b, false, a, n)
    let (s0, pre0) := weirEval s v.g v.tm v.exec v.is.pc
      { acc := seen.filter fun e => e.2.1 == 1 } true []
    let pre := if v.is.step.isSome then [] else pre0
    let stopped := pre.foldl (fun m h => if h.action ≥ 2 then m ||| h.lanes else m) 0
    let (seq, s1) := fresh (setGroup s0 v.is.gid v.g)
    let go := reqs.filter fun x => x.lanes &&& ~~~stopped != 0
    let s2 := go.foldl (fun s x =>
      match peerGrants s v.g.ctx x.ea (remPerm x.op) with
      | none => s
      | some p => sendReq s
          { id := 0, who := .lanes v.is.gid seq (x.lanes &&& ~~~stopped), ctx := v.g.ctx, core := v.tm.core, dev := p.dev, rclass := p.rclass,
            addr := x.ea, msg := remMsg p x.ea x.op x.width x.data x.cmp, since := s.now, team := v.g.team, group := v.g.idx, pc := v.is.pc,
            w0 := v.w0, w1 := v.w1.getD 0, args := x.args }) s1
    let m := go.foldl (fun m x => m ||| (x.lanes &&& ~~~stopped)) 0
    let f := { flyRec v seq ins dep with
      left := m, regs := writesOf (uses ins), late := true, hold := v.is.step.isNone && weirHolds s2 v.g v.tm
      obsAcc := seen.filter fun e => m.getLsbD e.1
      obsVal := lanes.flatMap fun x => (lanesOf (x.lanes &&& m)).flatMap fun L => x.vals.map fun y => (L, 1, y) }
    let g1 := countDep { v.g with fly := v.g.fly ++ [f] } dep
    finish s2 v { g := g1, preHits := pre, stops := (lanesOf m).map fun L => (L, .park (.remote seq)), late := m != 0 }

/-- RLD (R398). -/
def execRld (p : LM) (s : State) : Host.Outcome State Fault Refusal :=
  run s (uses (.rld p)) fun v =>
    let ls := (lanesOf v.exec).map fun L =>
      let ea := eaLM v.g p (sget64 v.g p.a).toNat L
      { lanes := lbit L, ea := ea, align := tyAlign p.ty, op := .ld, width := tyBytes p.ty, data := [],
        acc := (compsAt p.ty ea).map fun (a, n) => (0, a, n) : RemLane }
    remIssue s v (.rld p) p.dep ls ls

/-- The bytes that a store's component values spell. -/
def storeBytes (t : Ty) (vals : List Nat) : List Nat := vals.flatMap fun x => leBytes (tyBytes1 (tyComp t)) x

/-- A remote store at an EA (R398). -/
def remStore (v : View) (t : Ty) (d L ea : Nat) (op : RemOp) : RemLane :=
  let vals := storeVals v.g t d L
  { lanes := lbit L, ea := ea, align := tyAlign t, op := op, width := tyBytes t, data := storeBytes t vals,
    acc := (compsAt t ea).map fun (a, n) => (1, a, n), vals := vals }

/-- RST (R398). -/
def execRst (p : LM) (s : State) : Host.Outcome State Fault Refusal :=
  run s (uses (.rst p)) fun v =>
    let ls := (lanesOf v.exec).map fun L => remStore v p.ty p.d L (eaLM v.g p (sget64 v.g p.a).toNat L) .st
    remIssue s v (.rst p) p.dep ls ls

/-- RST.CNT: OFF16 names the target's counter (R398). -/
def execRstCnt (p : LM) (s : State) : Host.Outcome State Fault Refusal :=
  run s (uses (.rstCnt p)) fun v =>
    let ls := (lanesOf v.exec).map fun L =>
      remStore v p.ty p.d L (((sget64 v.g p.a).toNat + idxOf v.g p.b L) % 2 ^ 64) (.stCnt (p.off % 256))
    remIssue s v (.rstCnt p) p.dep ls ls

/-- Lanes that name one address are put together, in lane order (R400). -/
def groupByEa : List RemLane → List RemLane
  | [] => []
  | x :: r =>
    let rest := groupByEa r
    match rest.find? fun y => y.ea == x.ea with
    | some y => { y with lanes := x.lanes ||| y.lanes, args := x.args ++ y.args, data := x.data, cmp := x.cmp } :: rest.filter fun z => z.ea != x.ea
    | none => x :: rest

/-- RATOM (R400). -/
def execRatom (p : LT) (fn : AtomFn) (s : State) : Host.Outcome State Fault Refusal :=
  run s (uses (.ratom p fn)) fun v =>
    let w := tyBytes p.ty
    let ls := (lanesOf v.exec).map fun L =>
      let ea := eaLT v.g p (sget64 v.g p.a).toNat L
      let c := vbits v.g p.ty p.c L
      let k := if fn == .cas then vbits v.g p.ty p.d L else 0
      { lanes := lbit L, ea := ea, align := tyAlign p.ty, op := .atom fn p.ty, width := w, data := leBytes w c, cmp := k,
        acc := [(2, ea, w)], args := [(L, c, k)] : RemLane }
    let reqs := (groupByEa ls).map fun x => if combines fn then { x with data := leBytes w (combined fn p.ty x.args) } else x
    remIssue s v (.ratom p fn) p.dep ls (sortBy (fun x => lowLane x.lanes) reqs)

/-- RFENCE (R402). -/
def execRfence (p : LS) (s : State) : Host.Outcome State Fault Refusal :=
  run s (uses (.rfence p)) fun v =>
    let (seq, s1) := fresh s
    if fenceBusy s v.is.gid seq then
      let f := { flyRec v seq (.rfence p) p.dep with left := v.exec }
      finish s1 v { g := countDep { v.g with fly := v.g.fly ++ [f] } p.dep
                    stops := (lanesOf v.exec).map fun L => (L, .park (.rfence seq)) }
    else let (s2, g) := flyAt s v v.g (.rfence p) p.dep; finish s2 v { g := g }

/-- A word waits for the page of a counter: it stalls and issues again, or takes the denial's trap (R280, R282). -/
def counterPage (s : State) (v : View) (a : Nat) (n : Need) (f : State → Nat → State) : State :=
  let who : Waiter := .fetch v.is.gid v.is.pc
  let denied (s : State) : State := trapIssue (dropWaits s who) v { v.tr 0x04 v.exec with detail := v.exec.toNat, faddr := BitVec.ofNat 64 a }
  if deniedFor s who a then denied s
  else match translateFor s (some v.tm.core) who v.cx.pasid a n with
    | .ok k _ => f (dropWaits (touchTlb s v.tm.core v.g.team v.cx.pasid a) who) k
    | .deny => denied s
    | .miss => pageIssue s v who a n

/-- CWAIT (R404). -/
def execCwait (p : LS) (s : State) : Host.Outcome State Fault Refusal :=
  run s (uses (.cwait p)) fun v =>
    let c := (bsval v.g p.b).toNat
    if c > 255 then trapAll s v 0x02 0
    else match counterAt s v.g.ctx c with
      | none => trapAll s v 0x02 0
      | some a => counterPage s v a .rd fun s k =>
        let x := (sget64 v.g p.a).toNat
        if poisoned s k 8 then trapAll s v 0x0D 0
        else if x ≤ readNat s k 8 then finish s v { g := v.g }
        else finish s v { g := v.g, stops := (lanesOf v.exec).map fun L => (L, .park (.cwait c x)) }

/-- CNOTE: the context's own counter, or a peer's (R403). -/
def execCnote (p : LS) (s : State) : Host.Outcome State Fault Refusal :=
  run s (uses (.cnote p)) fun v =>
    let c := (bsval v.g p.b).toNat
    let a := (sget64 v.g p.a).toNat
    let n := (sget v.g p.c).toNat
    if c > 255 then trapAll s v 0x02 0
    else if a = 0 then
      match counterAt s v.g.ctx c with
      | none => trapAll s v 0x02 0
      | some va => counterPage s v va .rw fun s k =>
        cwaitTests (finish (homeWrite s k (leBytes 8 ((readNat s k 8 + n) % 2 ^ 64)) false) v { g := v.g }) v.g.ctx
    else if !isRemote a || remOff a ≠ 0 then
      trapIssue s v { v.tr 0x04 v.exec with detail := v.exec.toNat, faddr := BitVec.ofNat 64 a }
    else
      let x : RemLane := { lanes := v.exec, ea := a, align := 1, op := .note c, width := 0, data := leBytes 8 n }
      remIssue s v (.cnote p) none [x] [x]

end Sys2Proof.Machine
end

