-- ==== Sys2Proof/Machine/Engine.lean ====
section
/-! DEFINITION. Machine/Engine.lean: the copy engine: issue of the asynchronous copies, their beats, ends and errors (R266, R267,
R313 to R319, R455). -/

namespace Sys2Proof.Machine

/-! ### The pieces of an operation -/

/-- Bytes that an operation writes at each destination. -/
def engTotal (o : EngOp) : Nat := if o.kind == .rows then o.bytes * o.rows else o.elems.length * o.bytes

/-- One beat: source, destination, bytes, and the lanes that count as writing it (R448). -/
structure Piece where
  src : Nat
  dst : Nat
  n : Nat
  lanes : Word
  deriving DecidableEq, Repr

/-- Bytes left in the 4 KiB page of an address. -/
def pageLeft (a : Nat) : Nat := 4096 - a % 4096

/-- The beat that begins `k` bytes into an operation: at most 64 bytes of one row or element, within a page at both ends. -/
def engPiece (o : EngOp) (k : Nat) : Piece :=
  match o.kind with
  | .rows =>
    let r := k / o.bytes
    let i := k % o.bytes
    let src := o.srcAddr + r * o.sstride + i
    let dst := o.dstAddr + r * o.dstride + i
    { src := src, dst := dst, n := min (min 64 (o.bytes - i)) (min (pageLeft src) (pageLeft dst)), lanes := o.exec }
  | .gather =>
    let (L, ea) := o.elems[k / o.bytes]?.getD (0, 0)
    { src := ea, dst := o.dstAddr + L * o.bytes, n := o.bytes, lanes := lbit L }
  | .scatter =>
    let (L, ea) := o.elems[k / o.bytes]?.getD (0, 0)
    { src := o.srcAddr + L * o.bytes, dst := ea, n := o.bytes, lanes := lbit L }

/-- An engine operation. -/
def op? (s : State) (id : Nat) : Option EngOp := mget? s.ops id
/-- Change an engine operation. -/
def modOp (s : State) (id : Nat) (f : EngOp → EngOp) : State := { s with ops := mmod s.ops id f }

/-! ### Ends and errors (R308, R317, R318) -/

/-- An object takes the count of an operation that stopped, as though every byte had been written, with a mark (R317, R318). -/
def bobjMark (s : State) (team o n : Nat) (ecause : Option Nat) : State :=
  match team? s team with
  | none => s
  | some t =>
    let b := bobjGet t o
    if !b.valid then s
    else match ecause with
      | some c => bobjCommit s team o { b with pbytes := b.pbytes - n, err := true, ecause := if b.err then b.ecause else c }
      | none => bobjCommit s team o { b with pbytes := b.pbytes - n, can := true }

/-- The lines that an operation still held absent become present. -/
def engPresent (s : State) (id : Nat) : State :=
  { s with teams := mmap s.teams fun _ t => if t.absent.any (fun e => e.2 == id) then { t with absent := t.absent.filter fun e => e.2 != id } else t }

/-- The operation is over: its lines are present, its word completes, and waits on it are tested. -/
def engOver (s : State) (o : EngOp) : State :=
  let s1 := engPresent { dropWaits s (.op o.id) with ops := mdel s.ops o.id, rems := s.rems.filter fun e => e.2.who != .op o.id } o.id
  rfenceTest (modGroup s1 o.gid fun g => modFly g o.seq fun f => { f with unit := false }) o.gid

/-- What a reader finds at an end of a copy now. -/
inductive EndRes where
  /-- the bytes may be read or written; where they lie: in a grant, or at a key of memory, with their address -/
  | grant (team o : Nat)
  | key (k va : Nat)
  | remote (a : Nat)
  /-- a scratchpad line, or a layer, is not there yet -/
  | wait
  | layer (launch layer : Nat)
  | failed (launch layer : Nat)
  | page (a : Nat)
  | deny
  deriving DecidableEq, Repr

/-- The layer check of an address that an operation reads; it has been passed where the operation waits for the page (R316, R338). -/
def opLayer (s : State) (o : EngOp) (c : Ctx) (a : Nat) : LayerRes :=
  if s.waits.any fun p => p.who == .op o.id && p.page == pageOf a then .ok else layerCheck s c o.ctx a

/-- Find an end of a beat. -/
def endAt (s : State) (o : EngOp) (e : End) (a n : Nat) (w : Bool) : EndRes :=
  match e with
  | .team id =>
    match team? s id with
    | none => .deny
    | some t => if t.st == .retired then .deny else if !w && (lineAbsent t a n).isSome then .wait else .grant id a
  | .glob =>
    if isRemote a then .remote a
    else match ctx? s o.ctx with
      | none => .deny
      | some c =>
        match if w then LayerRes.ok else opLayer s o c a with
        | .failed l i => .failed l i
        | .wait l i => .layer l i
        | .poison => .wait
        | .ok => match translateFor s (some o.core) (.op o.id) c.pasid a (if w then .wr else .rd) with
          | .ok k _ => .key k a
          | .deny => .deny
          | .miss => if deniedFor s (.op o.id) a then .deny else .page a

/-- The bytes at a found end, through the L1 of the operation's core, and whether each word of them is poisoned (R275, R478). -/
def endRead (s : State) (o : EngOp) (e : EndRes) (n : Nat) : Option (List Nat × List Bool) :=
  let words := List.range ((n + 3) / 4)
  match e, ctx? s o.ctx with
  | .grant id a, _ => (team? s id).map fun t => (scrBytesOf t a n, words.map fun i => scrPoisoned t (a + 4 * i) 4)
  | .key k _, some c => some (coreBytes s o.core c.pasid k n, words.map fun i => corePois s o.core c.pasid (k + 4 * i) 1)
  | _, _ => none

/-- An engine's bytes go to memory: a private line's into the L1 that the engine shares with its core, any other's to the home L2, which
takes the line back from every L1 (R271, R275, R276). -/
def engPut (o : EngOp) (c : Ctx) (s : State) (va k : Nat) (bs : List Nat) (poison : Bool) : State :=
  if regionKind c va = 1 then coreWrite s o.core c va k bs poison else homeWrite s k bs poison

/-- Write bytes at a found end, with the poison of each of their words: a granule that takes a poisoned word is poisoned, the others are
clean where they are covered whole (R267, R478). -/
def endWrite (s : State) (o : EngOp) (e : EndRes) (bs : List Nat) (poison : List Bool) : State :=
  let bad (i n : Nat) : Bool := (slice poison (i / 4) ((n + 3) / 4)).any id
  match e, ctx? s o.ctx with
  | .grant tid a, _ =>
    modTeam s tid fun t => if poison.any id then
        (List.range ((bs.length + 3) / 4)).foldl (fun t i => scrWrite t (a + 4 * i) (slice bs (4 * i) 4) (bad (4 * i) 4)) t
      else scrWrite t a bs false
  | .key k va, some c =>
    if poison.any id then
      (List.range ((bs.length + 15) / 16)).foldl (fun s i => engPut o c s (va + 16 * i) (k + 16 * i) (slice bs (16 * i) 16) (bad (16 * i) 16)) s
    else engPut o c s va k bs false
  | _, _ => s

/-- Each byte of a stopped operation that it had still to write holds its old or its new value (R266, R318): a free choice a
byte, where both ends can be reached in this device's memory. -/
def engLeave (o : EngOp) : Nat → Nat → State → State
  | 0, _, s => s
  | f + 1, k, s =>
    if k ≥ engTotal o then s
    else
      let p := engPiece o k
      let s1 := o.dsts.foldl (fun s d =>
        let e := endAt s o d p.dst p.n true
        match endRead s o (endAt s o o.src p.src p.n false) p.n, endRead s o e p.n with
        | some (new, pn), some (old, _) =>
          let bs := (new.zip old).zipIdx.map fun ((x, y), i) => if Config.keepsNew (s.free + i) then x else y
          endWrite { s with free := s.free + p.n } o e bs pn
        | _, _ => s) s
      engLeave o f (k + max p.n 1) s1

/-- The operation ends in error: lines become present, its trap waits for the group's next issue, and its objects are marked. -/
def engErr (s : State) (o : EngOp) (tr : TrapRec) : State :=
  let s1 := engOver (engLeave o (engTotal o + 1) o.done s) o
  let s2 := match group? s1 o.gid with
    | some g => if g.exited then haltGroup s1 o.gid tr.cause o.pc
        else modGroup s1 o.gid fun g => { g with engTrap := g.engTrap ++ [(tr, o.objs)] }
    | none => s1
  o.objs.foldl (fun s (t, b) => bobjMark s t b (engTotal o) (some tr.cause)) s2

/-- The operation is cancelled (R318). -/
def engCancel (s : State) (o : EngOp) : State :=
  o.objs.foldl (fun s (t, b) => bobjMark s t b (engTotal o) none) (engOver (engLeave o (engTotal o + 1) o.done s) o)

/-- The operation has written every byte: each object is lowered by its bytes (R308). -/
def engDone (s : State) (o : EngOp) : State := o.objs.foldl (fun s (t, b) => bobjCount s t b (engTotal o)) (engOver s o)

/-- The trap of an engine operation: the engine instruction's words and PC (R422). -/
def engTr (o : EngOp) (cause detail addr : Nat) (lyr : Option (Nat × Nat)) : TrapRec :=
  { cause := cause, pc := o.pc, npc := o.pc + 8, tlanes := 0, exec := o.exec, w0 := o.w0, w1 := some o.w1, eng := true,
    detail := detail, faddr := BitVec.ofNat 64 addr, lyr := lyr }

/-! ### Write hits (R450, R455) -/

/-- The actions of the hits of an engine write: they wait for the group's next issue boundary, or halt for a group that has exited. -/
def engAct (s : State) (gid : Nat) (hs : List Hit) (mk : Hit → TrapRec) (pc : DWord) (objs : List (Nat × Nat)) : State :=
  match group? s gid with
  | none => s
  | some g =>
    let has (a : Nat) : Bool := hs.any fun h => h.action == a
    if has 6 then raiseHalt (plumeHalt s (coreOf s g)) g.ctx (haltOf s gid 0x0B pc)
    else
      let s1 := if has 5 then freezeSlice s (coreOf s g) g.slice g.ctx else s
      if g.exited then (if has 2 || has 3 || has 4 then haltGroup s1 gid 0x0B pc else s1)
      else if has 5 then s1
      else if has 4 then modGroup s1 gid fun g => { g with engHalt := allLanes }
      else
        let m := hitLanes hs 3
        modGroup s1 gid fun g => { g with
          engHalt := g.engHalt ||| m
          engTrap := g.engTrap ++ (match hs.find? fun h => h.action == 2 && h.lanes &&& ~~~m != 0 with
            | some h => [(mk h, objs)]
            | none => []) }

/-- The weirs see bytes that a unit wrote for lanes of a group: their heads that have counted once count no more. -/
def engWeirs (s : State) (gid : Nat) (lanes : Word) (pc : DWord) (spots : List (Bool × Nat × Nat)) (counted : List Nat) :
    State × List Hit × List Nat :=
  match group? s gid with
  | none => (s, [], counted)
  | some g => match team? s g.team with
    | none => (s, [], counted)
    | some tm =>
      let acc := (lanesOf lanes).flatMap fun L => spots.map fun (sc, a, n) => (L, 3, sc, a, n)
      let (s1, hs) := weirEval s g tm lanes pc { acc := acc, eng := true } false counted
      let cnt (s : State) (n : Nat) : Nat := (mget (coreAt s tm.core).weirs {} n).count
      (s1, hs, counted ++ (List.range 32).filter fun n => !counted.contains n && cnt s1 n != cnt s n)

/-- A beat has been written: progress, the lines now complete, and the weirs (R266, R455). -/
def engWrote (s : State) (id : Nat) (p : Piece) : State :=
  match op? s id with
  | none => s
  | some o =>
    let k := o.done + p.n
    let next := if k ≥ engTotal o then 2 ^ 64 else (engPiece o k).dst / 128
    let lines (s : State) (d : End) : State := match d with
      | .team t => modTeam s t fun t => { t with absent := t.absent.filter fun e => !(e.2 == id && e.1 < next) }
      | .glob => s
    let s0 := if s.waits = [] then s else dropWaits s (.op id)
    let s1 := o.dsts.foldl lines (modOp s0 id fun o => { o with done := k, req := none })
    let spots := o.dsts.filterMap fun d => match d with
      | .glob => some (false, p.dst, p.n)
      | .team t => if t = o.team then some (true, p.dst, p.n) else none
    let (s2, hs, cn) := engWeirs s1 o.gid p.lanes o.pc spots o.weirs
    let s3 := modOp s2 id fun o => { o with weirs := cn }
    if hs = [] then s3
    else engAct s3 o.gid hs (fun h => engTr o 0x0B h.weir h.addr none) o.pc []

/-! ### Beats (R316) -/

/-- The operation will end in error. -/
def engFail (s : State) (o : EngOp) (cause : Nat) (p : Piece) (addr : Nat) (lyr : Option (Nat × Nat)) : State :=
  let detail := if cause = 0x09 then (lyr.map Prod.snd).getD 0 else p.lanes.toNat
  modOp s o.id fun o => { o with err := some (engTr o cause detail addr lyr) }

/-- A remote request of an operation: poison answers it where its peer entry is gone. -/
def engReq (s : State) (o : EngOp) (p : Piece) (a : Nat) (op : RemOp) (data : List Nat) (poison : Bool) : State :=
  match peerGrants s o.ctx a (remPerm op) with
  | none => engFail s o 0x06 p a none
  | some e =>
    let id := s.nextId
    modOp (sendReq s { id := 0, who := .op o.id, ctx := o.ctx, core := o.core, dev := e.dev, rclass := e.rclass, addr := a,
                       msg := { remMsg e a op p.n data 0 with poison := poison }, since := s.now, team := o.team, pc := o.pc, w0 := o.w0, w1 := o.w1 })
      o.id fun o => { o with req := some id }

/-- The first words of a beat that are alike in poison, a granule at least: what one request to a peer carries. -/
def alikeRun (n : Nat) (poison : List Bool) : Nat × Bool :=
  if !(poison.any id) then (n, false) else (min n 16, (poison.take 4).any id)

/-- Bytes of a beat are at hand: they are written, or sent to the peer. -/
def engStore (s : State) (o : EngOp) (p : Piece) (bs : List Nat) (poison : List Bool) : State :=
  let ds := o.dsts.map fun d => endAt s o d p.dst p.n true
  match ds.find? fun e => match e with | .grant _ _ | .key _ _ | .remote _ => false | _ => true with
  | some (.page a) => askPage s (.op o.id) o.ctx a .wr 0
  | some _ => engFail s o 0x04 p p.dst none
  | none =>
    match ds with
    | [.remote a] => let (n, bad) := alikeRun p.n poison; engReq s o { p with n := n } a .st (bs.take n) bad
    | _ => engWrote (ds.foldl (fun s e => endWrite s o e bs poison) s) o.id p

/-- The engine looks the addresses of a beat up: what Basin answers fills its core's L1 TLB, and a page that was granted it is no longer
kept for it (R279). -/
def engTouch (s : State) (o : EngOp) (p : Piece) : State :=
  match ctx? s o.ctx with
  | none => s
  | some c =>
    let touch (s : State) (e : End) (a : Nat) : State := if e == .glob && !isRemote a then touchTlb s o.core o.team c.pasid a else s
    o.dsts.foldl (fun s d => touch s d p.dst) (touch s o.src p.src)

/-- The operation may move a beat. -/
def engReady (s : State) (o : EngOp) : Bool :=
  o.err.isNone && o.req.isNone && o.done < engTotal o && (match ctx? s o.ctx with | some c => c.halt.isNone | none => false)
    && !waiting s (.op o.id)

/-- One beat of an operation (R316). -/
def engBeat (s : State) (id : Nat) : State :=
  match op? s id with
  | none => s
  | some o =>
    if !engReady s o then s
    else
      let p := engPiece o o.done
      -- the destination's page first, so that bytes that come from a peer find it
      match (o.dsts.map fun d => endAt s o d p.dst p.n true).find? fun e => match e with | .page _ | .deny => true | _ => false with
      | some (.page a) => askPage s (.op id) o.ctx a .wr 0
      | some _ => engFail s o 0x04 p p.dst none
      | none =>
        match endAt s o o.src p.src p.n false with
        | .wait => s
        | .layer l i => requestLayer s l i
        | .failed l i => engFail s o 0x09 p p.src (some (l, i))
        | .page a => askPage s (.op id) o.ctx a .rd 0
        | .deny => engFail s o 0x04 p p.src none
        | .remote a => engReq s o p a .ld [] false
        | e => match endRead s o e p.n with
          | some (bs, poison) => engStore (engTouch s o p) o p bs poison
          | none => s

/-- An answer to a request of an operation (R399). -/
def engAnswered (s : State) (r : Rem) (id : Nat) (ans : RemAns) : State :=
  let s := { s with rems := mdel s.rems r.id }
  match op? s id with
  | none => s
  | some o =>
    let p := engPiece o o.done
    match ans with
    | .poison => engFail (modOp s id fun o => { o with req := none }) o 0x06 p r.addr none
    | .data bs => engStore (modOp s id fun o => { o with req := none }) { o with req := none } p (slice bs 0 p.n) []
    | .ack => engWrote s id { p with n := r.msg.width }

/-- A beat of a copy engine (R316). -/
def execEngineBeat (s : State) : Host.Outcome State Fault Refusal := .next (engBeat s s.ev.a)

/-- A finished operation leaves and its objects are lowered (R308). -/
def execEngineOpDone (s : State) : Host.Outcome State Fault Refusal :=
  .next (match op? s s.ev.a with
    | some o => if o.done ≥ engTotal o && o.err.isNone then engDone s o else s
    | none => s)

/-- An operation that meets an error ends with it (R317). -/
def execEngineOpError (s : State) : Host.Outcome State Fault Refusal :=
  .next (match op? s s.ev.a with
    | some o => (match o.err with | some tr => engErr s o tr | none => s)
    | none => s)

/-! ### Tile stores in flight (R371, R373) -/

/-- A rectangle word: first row, last row, first column, columns. -/
structure Rect where
  row : Nat
  last : Nat
  col : Nat
  ncol : Nat
  deriving DecidableEq, Repr

/-- Read a rectangle word. -/
def rectOf (w : Nat) : Rect :=
  { row := bitsOf w 0 8, last := bitsOf w 0 8 + bitsOf w 16 8, col := bitsOf w 8 7, ncol := bitsOf w 24 7 + 1 }
/-- The key of a quad's array. -/
def quadKey (core q : Nat) : Nat := core * 4 + q

/-- Rows of a rectangle in the scratchpad: offset and bytes. -/
def rectRows (r : Rect) (off stride : Nat) : List (Nat × Nat) :=
  (List.range (r.last + 1 - r.row)).map fun i => (off + i * stride, r.ncol * 4)

/-- A tile store that has not been performed writes one of the lines of a team (R373). -/
def tstBusy (s : State) (team : Nat) (lines : List Nat) : Bool :=
  match team? s team with
  | none => false
  | some t => (List.range 4).any fun q => (quad s (quadKey t.core q)).queue.any fun o =>
      o.team == team && (match o.ins with | .tst _ => true | _ => false)
        && (rectRows (rectOf o.word) o.arg1 o.arg2).any fun (a, n) => lines.any fun l => a < (l + 1) * 128 && l * 128 < a + n

/-! ### Issue (R313 to R315) -/

/-- The address range that a row or an element covers, for the checks: base and bytes. -/
abbrev Range := Nat × Nat

/-- What ordered mode says of each line of a range, by a byte of it that the range covers (R84, R85). -/
def lineOwns (s : State) (v : View) (r : Range) : List OwnRes :=
  if v.ln.owns = [] then []
  else (List.range ((r.1 + r.2 + 127) / 128 - r.1 / 128)).map fun i => ownNow s v (max r.1 ((r.1 / 128 + i) * 128)) false

/-- A range meets the ownership table or an owner map (R84). -/
def meetsTable (ln : Launch) (r : Range) : Bool :=
  ln.owns != [] && (meets r.1 r.2 ln.ownTab ln.ownLen || ln.owns.any fun b => meets r.1 r.2 b.map (2 * (b.bytes / 128)))

/-- A range of global memory fails check 1, 3 or 4 of R262. -/
def globBad (s : State) (v : View) (w : Bool) (r : Range) : Bool :=
  let (a, n) := r
  a + n > 2 ^ 57
    || (w && v.cx.regions.any fun x => (x.kind == 2 || x.kind == 4) && x.base < a + n && a < x.limit)
    || (w && meetsTable v.ln r)
    || (lineOwns s v r).any fun o => o == .other || (w && o == .shared)

/-- The owner-map pages that the ranges need. -/
def ownPages (s : State) (v : View) (rs : List Range) : List Nat :=
  rs.flatMap fun r => (lineOwns s v r).filterMap fun o => match o with | .page e => some e | _ => none

/-- An owner map's entry for the ranges is poisoned. -/
def ownPoison (s : State) (v : View) (rs : List Range) : Bool := rs.any fun r => (lineOwns s v r).contains .poison

/-- An end as its instruction names it, resolved: the end, its first address there, and whether it is outside the grant. -/
def resolveEnd (s : State) (v : View) (kind a span : Nat) : Option (End × Nat) :=
  if kind = 0 then some (.glob, a)
  else if kind = 1 then (if a + span ≤ v.tm.scrBytes then some (.team v.g.team, a) else none)
  else (clusterAt s v.tm a span).map fun (t, o) => (.team t, o)

/-- The rows of a copy overlap: some source row meets some destination row. -/
def rowsOverlap (src sstride dst dstride bytes rows : Nat) : Bool :=
  (List.range rows).any fun r =>
    let a := src + r * sstride
    let ds := max dstride 1
    -- the destination rows that begin below the source row's end, and end above its start
    if a + bytes ≤ dst then false
    else
      let hi := min (rows - 1) ((a + bytes - 1 - dst) / ds)
      dst + hi * dstride + bytes > a

/-- Lines of a grant that a copy writes. -/
def rowLines (dst dstride bytes rows : Nat) : List Nat :=
  ((List.range rows).flatMap fun r =>
    let a := dst + r * dstride
    (List.range ((a + bytes + 127) / 128 - a / 128)).map fun i => a / 128 + i).eraseDups

/-- The operation is accepted: its destination lines become absent and its word is in flight (R266, R313). -/
def engAccept (s : State) (v : View) (ins : Instr) (dep : Option Nat) (o : EngOp) (lines : List Nat) : State :=
  let (seq, s1) := fresh s
  let (id, s2) := fresh s1
  let op := { o with id := id, gid := v.is.gid, team := v.g.team, ctx := v.g.ctx, launch := v.g.launch, core := v.tm.core, seq := seq,
                     pc := v.is.pc, w0 := v.w0, w1 := v.w1.getD 0, exec := v.exec, ins := ins }
  let s3 := o.dsts.foldl (fun s d => match d with
    | .team t => modTeam s t fun t => { t with absent := lines.foldl (fun m l => mput m l id) t.absent }
    | .glob => s) { s2 with ops := mput s2.ops id op }
  let f := { flyRec v seq ins dep with unit := true }
  finish s3 v { g := countDep { v.g with fly := v.g.fly ++ [f] } dep }

/-- The object's checks in the teams that hold it, the absent lines, and then the issue (R306, R267, R313). -/
def engObject (s : State) (v : View) (ins : Instr) (dep : Option Nat) (o : EngOp) (teams : List Nat) (lines : List Nat) : State :=
  let fail (cause x : Nat) : State :=
    trapIssue s v { v.tr cause v.exec with detail := v.exec.toNat, faddr := BitVec.ofNat 64 x }
  let away := o.dsts.any fun d => match d with
    | .team t => (match team? s t with | some t => lines.any fun l => (mget? t.absent l).isSome | none => false)
    | .glob => false
  let busy := o.dsts.any fun d => match d with | .team t => tstBusy s t lines | .glob => false
  let go (o : EngOp) : State := if away then holdAs 0x109 s v else if busy then holdIssue s v else engAccept s v ins dep o lines
  match o.objOff with
  | none => go o
  | some x =>
    if teams.any fun t => targetObj s t x == some 0x04 then fail 0x04 x
    else if x % 16 ≠ 0 then fail 0x03 x
    else match teams.find? fun t => (match team? s t with | some t => (lineAbsent t x 16).isSome | none => false) with
      | some t =>
        let (seq, s1) := fresh s
        finish s1 v { g := v.g, stops := (lanesOf v.exec).map fun L => (L, .park (.line t (x / 128) seq)) }
      | none => go { o with objs := teams.map fun t => (t, x) }

/-- The offset that C names. -/
def objOffset (g : Group) (c : Nat) : Option Nat := if c = 0x80 then none else some (sget g c).toNat

/-- The SK and DK pair is allowed (R315). -/
def endsAllowed (i : Instr) (sk dk : Nat) : Bool :=
  match i with
  | .acopy _ => true
  | .agath _ => sk == 0 && dk != 0
  | .ascat _ => sk == 1 && dk == 0
  | .acopym _ => sk == 0 && dk == 1
  | _ => false

/-- ACOPY and ACOPYM: the descriptor's limits, the alignment, the ranges, the object (R314). `ranks` is ACOPYM's mask. -/
def copyRows (s : State) (v : View) (ins : Instr) (p : LE) (ranks : Option Nat) : State :=
  let rd (i : Nat) : Nat := (sget v.g (p.a + i)).toNat
  let src := (sget64 v.g p.a).toNat
  let dst := (sget64 v.g (p.a + 2)).toNat
  let bytes := rd 4
  let rows := rd 5
  let ss := rd 6
  let ds := rd 7
  let size := v.ln.kern.cluW * v.ln.kern.cluH
  let limits := (p.sk ≠ 0 ∧ src ≥ 2 ^ 32) ∨ (p.dk ≠ 0 ∧ dst ≥ 2 ^ 32) ∨ bytes % 16 ≠ 0 ∨ bytes = 0 ∨ bytes > 1048576 ∨ rows = 0 ∨ rows > 65536
    ∨ ss % 16 ≠ 0 ∨ ds % 16 ≠ 0 ∨ (rows > 1 ∧ ds < bytes) ∨ rows * bytes > 16777216
  let badMask := match ranks with | some m => m = 0 || m ≥ 2 ^ size | none => false
  let sspan := (rows - 1) * ss + bytes
  let dspan := (rows - 1) * ds + bytes
  -- the grant that an end names, for the overlap: rank 16 stands for a rank outside the cluster
  let place (k a : Nat) : Nat × Nat := if k = 0 then (0, a) else if k = 1 then (1 + v.tm.crank, a) else (1 + a / 2 ^ 20, a % 2 ^ 20)
  let (sp, so) := place p.sk src
  let (dp, d0) := place p.dk dst
  let fail (a : Nat) : State := trapIssue s v { v.tr 0x04 v.exec with detail := v.exec.toNat, faddr := BitVec.ofNat 64 a }
  let remBad (a span : Nat) (op : RemOp) : Bool :=
    (peerGrants s v.g.ctx a (remPerm op)).isNone || a + span > 2 ^ 64 || (peerGrants s v.g.ctx (a + span - 1) (remPerm op)).isNone
  let rowRanges (a st : Nat) : List Range := (List.range rows).map fun r => (a + r * st, bytes)
  let globFail (k a st span : Nat) (w : Bool) : Bool :=
    k = 0 && (if isRemote a then ranks.isSome || remBad a span (if w then .st else .ld) else (rowRanges a st).any (globBad s v w))
  let targets : Option (List Nat) := match ranks with
    | none => (resolveEnd s v p.dk dst dspan).map fun e => match e.1 with | .team t => [t] | .glob => []
    | some m => ((List.range size).filter fun r => m.testBit r).mapM fun r => match teamOfRank s v.tm.launch v.tm.cluster r with
      | some t => match team? s t with
        | some x => if x.st == .retired || dst + dspan > x.scrBytes then none else some t
        | none => none
      | none => none
  if limits || badMask || (sp == dp && rowsOverlap so ss d0 ds bytes rows) then trapAll s v 0x02 0
  else if src % 16 ≠ 0 then trapIssue s v { v.tr 0x03 v.exec with detail := v.exec.toNat, faddr := BitVec.ofNat 64 src }
  else if dst % 16 ≠ 0 then trapIssue s v { v.tr 0x03 v.exec with detail := v.exec.toNat, faddr := BitVec.ofNat 64 dst }
  else match resolveEnd s v p.sk src sspan, targets with
    | none, _ => fail src
    | _, none => fail dst
    | some (se, sa), some ts =>
      if globFail p.sk src ss sspan false then fail src
      else if globFail p.dk dst ds dspan true then fail dst
      else
        let owned := (if p.sk = 0 && !isRemote src then rowRanges src ss else []) ++ (if p.dk = 0 && !isRemote dst then rowRanges dst ds else [])
        if ownPoison s v owned then trapAll s v 0x0D 0
        else
        let need := ownPages s v owned
        let da := if p.dk = 2 then dst % 2 ^ 20 else dst
        withOwners s v need fun s => (engObject s v ins p.dep
          { id := 0, gid := 0, team := 0, ctx := 0, launch := 0, core := 0, seq := 0, ins := ins, pc := 0, w0 := 0, w1 := 0, exec := 0,
            kind := .rows, src := se, dsts := if p.dk = 0 then [.glob] else ts.map .team, srcAddr := sa, dstAddr := da,
            bytes := bytes, rows := rows, sstride := ss, dstride := ds, objOff := objOffset v.g p.c }
          (if p.dk = 0 then [v.g.team] else ts) (if p.dk = 0 then [] else rowLines da ds bytes rows))

/-- The tables of the peers that a descriptor names are held from their use on (R394). -/
def fillPeers (s : State) (v : View) (as : List Nat) : State :=
  as.foldl (fun s a => if isRemote a then tabFill s v.g.ctx 1 (remPeer a) (peerKey s v.g.ctx (remPeer a)) 16 else s) s

/-- ACOPY (R314, R315). -/
def execAcopy (p : LE) (s : State) : Host.Outcome State Fault Refusal :=
  run s (uses (.acopy p)) fun v =>
    let s := fillPeers s v [(if p.sk = 0 then (sget64 v.g p.a).toNat else 0), (if p.dk = 0 then (sget64 v.g (p.a + 2)).toNat else 0)]
    if endsAllowed (.acopy p) p.sk p.dk then copyRows s v (.acopy p) p none else trapAll s v 0x02 0

/-- ACOPYM: the same copy into the grant of each named team (R315). -/
def execAcopym (p : LE) (s : State) : Host.Outcome State Fault Refusal :=
  run s (uses (.acopym p)) fun v =>
    if endsAllowed (.acopym p) p.sk p.dk then copyRows s v (.acopym p) p (some (bsval v.g p.b).toNat) else trapAll s v 0x02 0

/-- AGATH and ASCAT: an element for each lane of EXEC (R315). -/
def copyElems (s : State) (v : View) (ins : Instr) (p : LE) (scatter : Bool) : State :=
  let w := 4 * 2 ^ p.w
  let off := (sget v.g p.d).toNat
  let elems := (lanesOf v.exec).map fun L => (L, ((sget64 v.g p.a).toNat + idxOf v.g p.b L + (match p.b with | .imm n => n | _ => 0)) % 2 ^ 64)
  let bad (f : Nat → Bool) : Word := elems.foldl (fun m (L, a) => if f a then m ||| lbit L else m) 0
  let fail (cause : Nat) (m : Word) (a : Nat) : State :=
    trapIssue s v { v.tr cause v.exec with detail := m.toNat, faddr := BitVec.ofNat 64 a }
  let eaOf (m : Word) : Nat := ((elems.find? fun e => m.getLsbD e.1).map Prod.snd).getD 0
  let far := bad fun a => !(a + w ≤ 2 ^ 57)
  let odd := bad fun a => a % w != 0
  let denied := bad fun a => globBad s v scatter (a, w)
  let owned : List Range := elems.map fun e => (e.2, w)
  let need := ownPages s v owned
  let top := (lanesOf v.exec).foldl max 0
  if far ≠ 0 then fail 0x04 far (eaOf far)
  else if odd ≠ 0 then fail 0x03 odd (eaOf odd)
  else match resolveEnd s v (if scatter then p.sk else p.dk) off ((top + 1) * w) with
    | none => fail 0x04 v.exec off
    | some (e, a) =>
      if denied ≠ 0 then fail 0x04 denied (eaOf denied)
      else if ownPoison s v owned then trapAll s v 0x0D 0
      else
        let t := match e with | .team t => t | .glob => v.g.team
        let lines := ((elems.flatMap fun (L, _) => [(a + L * w) / 128, (a + L * w + w - 1) / 128])).eraseDups
        withOwners s v need fun s => (engObject s v ins p.dep
          { id := 0, gid := 0, team := 0, ctx := 0, launch := 0, core := 0, seq := 0, ins := ins, pc := 0, w0 := 0, w1 := 0, exec := 0,
            kind := if scatter then .scatter else .gather, src := if scatter then e else .glob, dsts := if scatter then [.glob] else [e],
            srcAddr := if scatter then a else 0, dstAddr := if scatter then 0 else a, bytes := w, elems := elems, objOff := objOffset v.g p.c }
          (if scatter then [v.g.team] else [t]) (if scatter then [] else lines))

/-- AGATH (R315). -/
def execAgath (p : LE) (s : State) : Host.Outcome State Fault Refusal :=
  run s (uses (.agath p)) fun v =>
    if endsAllowed (.agath p) p.sk p.dk then copyElems s v (.agath p) p false else trapAll s v 0x02 0

/-- ASCAT (R315). -/
def execAscat (p : LE) (s : State) : Host.Outcome State Fault Refusal :=
  run s (uses (.ascat p)) fun v =>
    if endsAllowed (.ascat p) p.sk p.dk then copyElems s v (.ascat p) p true else trapAll s v 0x02 0

/-- ACANCEL (R318): each operation that it names stops at once, and it completes. -/
def execAcancel (p : LE) (s : State) : Host.Outcome State Fault Refusal :=
  run s (uses (.acancel p)) fun v =>
    let x := objOffset v.g p.c
    let ops := (s.ops.map Prod.snd).filter fun o => o.gid == v.is.gid && (x.isNone || o.objOff == x)
    let (s1, g) := flyAt s v v.g (.acancel p) p.dep
    ops.foldl engCancel (finish s1 v { g := g })

end Sys2Proof.Machine
end

