-- ==== Sys2Proof/Machine/Approx.lean ====
section
/-! DEFINITION. Machine/Approx.lean: the approximations FRCP, FRSQ, FEX2, FLG2, FSIN and FCOS (R230, R231). The results that the
spec only bounds are free values: a candidate of Config.special where it meets the bound, else the computed value. -/

namespace Sys2Proof.Machine

/-- The six functions. -/
inductive Appr where
  | rcp | rsq | ex2 | lg2 | sin | cos
  deriving DecidableEq, Repr

/-- A function's number for Config.special: its FN. -/
def Appr.fn : Appr → Nat
  | .rcp => 3 | .rsq => 4 | .ex2 => 5 | .lg2 => 6 | .sin => 7 | .cos => 8

/-- |a − b| ≤ 2^k. -/
def within (a b : Dy) (k : Int) : Bool := !dyLt (1, k) (dyAbs (dySub a b))

/-! ### Values computed far beyond the formats' precision; a result that is not exact has a sticky lowest bit -/

/-- 1 / √a for a positive value. -/
def rsqrtVal (m : Nat) (e : Int) : FV :=
  let (m1, e1) := if e % 2 = 0 then (m, e) else (2 * m, e - 1)
  let k := 200 + Nat.log2 m1
  let r := isqrt (2 ^ (2 * k) / m1)
  .fin false (2 * r + if r * r * m1 = 2 ^ (2 * k) then 0 else 1) (-(e1 / 2) - k - 1)

/-- The product of the roots 2^(2^−i) for the bits of a fraction, at 128 fractional bits: `root` is 2^(2^−i). -/
def exp2Go : Nat → Nat → Nat → Nat → Nat
  | 0, _, _, acc => acc
  | n + 1, f, root, acc =>
    let root' := isqrt (root * 2 ^ 128)
    exp2Go n (2 * f % 2 ^ 64) root' (if 2 * f < 2 ^ 64 then acc else acc * root' / 2 ^ 128)

/-- 2^a for a value that is not an integer, |a| ≤ 400. -/
def exp2Val (s : Bool) (m : Nat) (e : Int) : FV :=
  -- the exponent scaled by 2^64, rounded down; tiny exponents keep their side of 1
  let x : Int := (dyAlign ((if s then -(m : Int) else m), e + 64) (1, 0)).1
  let fl : Int := if e + 64 ≥ 0 then x else x / 2 ^ (-(e + 64)).toNat
  let k := fl / 2 ^ 64
  let f := (fl % 2 ^ 64).toNat
  .fin false (2 * exp2Go 64 f (2 ^ 129) (2 ^ 128) + 1) (k - 129)

/-- Bits of log2 of x in [1, 2), at 160 fractional bits: repeated squaring. -/
def log2Go : Nat → Nat → Nat → Nat
  | 0, _, acc => acc
  | n + 1, x, acc =>
    let y := x * x / 2 ^ 160
    if y < 2 ^ 161 then log2Go n y (2 * acc) else log2Go n (y / 2) (2 * acc + 1)

/-- log2 of a positive value that is no power of two. -/
def log2Val (m : Nat) (e : Int) : FV :=
  let k := Nat.log2 m
  let x := m * 2 ^ 160 / 2 ^ k
  let t : Int := ((k : Int) + e) * 2 ^ 80 + log2Go 80 x 0
  if t < 0 then .fin true (2 * ((-t).toNat - 1) + 1) (-81) else .fin false (2 * t.toNat + 1) (-81)

/-- π/2 at 256 fractional bits. -/
def halfPi : Nat := 0x1921fb54442d18469898cc51701b839a252049c1114cf98e804177d4c76273644

/-- The terms of a Taylor series at 128 fractional bits: `r2` is the square of the argument, `d` the next divisor. -/
def taylorGo : Nat → Nat → Nat → Int → Int
  | 0, _, _, _ => 0
  | n + 1, r2, d, term => term + taylorGo n r2 (d + 2) (-(term * r2 / 2 ^ 128) / (d * (d + 1)))

/-- sin and cos of an argument in [0, π/2), at 128 fractional bits. -/
def sinFix (r : Nat) : Int := taylorGo 24 (r * r / 2 ^ 128) 2 r
/-- cos. -/
def cosFix (r : Nat) : Int := taylorGo 24 (r * r / 2 ^ 128) 1 (2 ^ 128)

/-- sin or cos of a value that is not zero. -/
def sinCosVal (isCos : Bool) (s : Bool) (m : Nat) (e : Int) : FV :=
  if ilog m e < -40 then
    -- sin a is just below a in magnitude, cos a just below 1
    if isCos then .fin false (2 ^ 100 - 1) (-100) else .fin s (m * 2 ^ 100 - 1) (e - 100)
  else
    let a := if e + 256 ≥ 0 then m * 2 ^ (e + 256).toNat else m / 2 ^ (-(e + 256)).toNat
    let q := a / halfPi + if isCos then 1 else 0
    let r := a % halfPi / 2 ^ 128
    let v : Int := if q % 2 = 0 then sinFix r else cosFix r
    let neg := (q % 4 ≥ 2) != (s && !isCos)
    .fin neg (2 * v.natAbs + 1) (-129)

/-! ### Results (R230, R231) -/

/-- The bound of R230 around a computed value: the exponent of the greatest distance. None where the result is correctly rounded. -/
def apprBound (f : Appr) (t : Ty) (a : FV) (x : FV) (c : Dy) : Bool :=
  match x with
  | .fin _ m e =>
    let u := ulpExp t m e
    match f with
    | .rcp => within c x.dy u
    | .rsq | .ex2 => within c x.dy (u + 1)
    | .lg2 =>
      if !dyLt a.dy (1, -1) && !dyLt (2, 0) a.dy then within c x.dy (-22) else within c x.dy (u + 1)
    | .sin | .cos =>
      if t == .f32 then within c x.dy (-21)
      else within c x.dy u || (ilog m e < -8 && within c x.dy (-9))
  | _ => false

/-- The functions and formats whose results are correctly rounded (R230). -/
def apprExact (f : Appr) (t : Ty) : Bool :=
  t != .f32 && (match f with | .sin | .cos => false | _ => true)

/-- A result that the special operands do not give: the free candidate where it meets the bound, with the flags of the computed
value and IX. An overflow is R155's. -/
def apprOut (f : Appr) (t : Ty) (bits : Nat) (a x : FV) : FOut :=
  let (b, fl) := frnd t .rne 0 false x
  let fl := Nat.lor fl fIX
  if apprExact f t || Nat.land fl fOF ≠ 0 then { bits := b, fl := fl, ext := x }
  else
    let c := Config.special f.fn (tyCode t) (bits % 2 ^ fWidth t) % 2 ^ fWidth t
    match fdec t c with
    | .fin _ _ _ => { bits := if apprBound f t a x (fdec t c).dy then c else b, fl := fl, ext := x }
    | _ => { bits := b, fl := fl, ext := x }

/-- The magnitude is a power of two. -/
def isPow2 (m : Nat) : Bool := m != 0 && 2 ^ Nat.log2 m == m

/-- An integer value 2^k × … as an Int, where the exponent says that it is one. -/
def intVal (m : Nat) (e : Int) : Option Nat :=
  if e ≥ 0 then some (m * 2 ^ e.toNat) else if m % 2 ^ (-e).toNat = 0 then some (m / 2 ^ (-e).toNat) else none

/-- One of the six functions (R230, R231). -/
def fAppr (f : Appr) (t : Ty) (bits : Nat) : FOut :=
  let a := fdec t bits
  let inf (n : Bool) (fl : Nat) : FOut := { bits := infBits t n, fl := fl, ext := .inf n }
  let exact (x : FV) : FOut := exactOut t .rne 0 (some x) 0
  match a with
  | .nan b => nanOut (quietBits t b) (if isSig t a then fIV else 0)
  | .inf n =>
    match f with
    | .rcp => exact (.fin n 0 0)
    | .rsq => if n then invalidOut t else exact (.fin false 0 0)
    | .ex2 => if n then exact (.fin false 0 0) else inf false 0
    | .lg2 => if n then invalidOut t else inf false 0
    | .sin | .cos => invalidOut t
  | .fin n m e =>
    match f with
    | .rcp =>
      if m = 0 then inf n fDZ
      else if isPow2 m then exact (.fin n 1 (-(e + Nat.log2 m)))
      else apprOut f t bits a ((fvDiv (.fin n 1 0) (.fin false m e)).1.getD (.fin n 0 0))
    | .rsq =>
      if m = 0 then inf n fDZ else if n then invalidOut t else apprOut f t bits a (rsqrtVal m e)
    | .ex2 =>
      if m = 0 then exact (.fin false 1 0)
      else if ilog m e ≥ 9 then exact (.fin false 1 (if n then -400 else 400))
      else match intVal m e with
        | some k => exact (.fin false 1 (if n then -(k : Int) else k))
        | none => apprOut f t bits a (exp2Val n m e)
    | .lg2 =>
      if m = 0 then inf true fDZ else if n then invalidOut t
      else if isPow2 m then
        let k : Int := Nat.log2 m + e
        exact (.fin (k < 0) k.natAbs 0)
      else apprOut f t bits a (log2Val m e)
    | .sin => if m = 0 then exact a else apprOut f t bits a (sinCosVal false n m e)
    | .cos => if m = 0 then exact (.fin false 1 0) else apprOut f t bits a (sinCosVal true n m e)

end Sys2Proof.Machine
end

