-- ==== Sys2Proof/Machine/IntOps.lean ====
section
/-! DEFINITION. Machine/IntOps.lean: integer operations on values, shared by the scalar and the vector instructions (R176, R192 to
R203). -/

namespace Sys2Proof.Machine

/-- Shift left by the full unsigned amount (R176). -/
def shlW (a n : Word) : Word := if n.toNat < 32 then a <<< n.toNat else 0
/-- Shift right, zero-filled (R176). -/
def shrW (a n : Word) : Word := if n.toNat < 32 then a >>> n.toNat else 0
/-- Arithmetic shift right (R176). -/
def sraW (a n : Word) : Word := a.sshiftRight (min n.toNat 31)
/-- Leading zero bits. -/
def clzW (a : Word) : Word := if a = 0 then 32 else BitVec.ofNat 32 (31 - Nat.log2 a.toNat)
/-- Set bits. -/
def popW (a : Word) : Word := BitVec.ofNat 32 (popc a)
/-- The index of the lowest set bit, or 32. -/
def ffsW (a : Word) : Word := if a = 0 then 32 else BitVec.ofNat 32 (lowLane a)
/-- The bits in reverse order. -/
def brevW (a : Word) : Word := maskOf fun i => a.getLsbD (31 - i)
/-- Sign-extend a 16-bit immediate (R193, R198). -/
def imm16 (n : Nat) : Word := BitVec.ofNat 32 (wrapN 32 (sextI 16 n))
/-- Replace the high half (R193, R198). -/
def setHigh (x : Word) (n : Nat) : Word := BitVec.ofNat 32 (n % 2 ^ 16 * 2 ^ 16 + x.toNat % 2 ^ 16)
/-- The high word of a product, by the signedness of the type (R195, R202). -/
def mulhW (t : Ty) (a b : Word) : Word := BitVec.ofNat 32 (wrapN 64 (tyVal t a.toNat * tyVal t b.toNat) / 2 ^ 32)
/-- The lesser, or the greater, of two values of a type. -/
def pickInt (t : Ty) (mx : Bool) (a b : Nat) : Nat := if (decide (tyVal t a < tyVal t b)) == mx then b else a
/-- A condition on two integers of a type: AUX 0 to 5 (R108). -/
def condInt (t : Ty) (aux a b : Nat) : Bool :=
  condHolds ((condOf aux).getD .eq) false (tyVal t a == tyVal t b) (decide (tyVal t a < tyVal t b))
/-- COND of the S3P format (R108). -/
def scondInt (c : SCond) (a b : Word) : Bool :=
  match c with
  | .eq => a == b
  | .ne => a != b
  | .ltI => a.slt b
  | .geI => !a.slt b
  | .ltN => a.ult b
  | .geN => !a.ult b
  | .gtI => b.slt a
  | .gtN => b.ult a
/-- The register number that B names: of a mask, or of an expansion's first vector register (R208, R217). -/
def bNum (b : Src) : Nat := match b with | .reg n => n | .scal n => n | .imm n => n
/-- B as a scalar pair, or an immediate (R175). -/
def bsPair (g : Group) (b : Src) : Nat :=
  match b with
  | .reg n | .scal n => (sget64 g n).toNat
  | .imm n => n
/-- BFE (R202): the field, extended by the type. -/
def bfeW (t : Ty) (a pos : Word) (c : Nat) : Word :=
  let f := if tySigned t then (sraW a pos).toNat else (shrW a pos).toNat
  BitVec.ofNat 32 (if tySigned t then wrapN 32 (sextI c f) else f % 2 ^ c)
/-- BFI (R202). -/
def bfiW (d a pos : Word) (c : Nat) : Word :=
  let m := shlW (BitVec.ofNat 32 (2 ^ c - 1)) pos
  (d &&& ~~~m) ||| (shlW a pos &&& m)
/-- CVTI (R203). -/
def cvtiVal (src dst : Ty) (sat : Bool) (x : Nat) : Nat :=
  let i := tyVal src x
  let (lo, hi) := intRange dst
  let i := if sat then (if i < lo then lo else if hi < i then hi else i) else i
  tyReg dst (wrapN 64 i)

end Sys2Proof.Machine
end

