-- ==== Sys2Proof/Machine/Special.lean ====
section
/-! DEFINITION. Machine/Special.lean: special registers, predicates and masks (R139, R172, R191, R204 to R208). -/

namespace Sys2Proof.Machine

/-- The value of a special register for lane `L` (R65, R204). -/
def specVal (v : View) (n L : Nat) : Nat :=
  match n with
  | 0x00 => L
  | 0x01 => v.g.idx
  | 0x02 => v.tm.t
  | 0x03 => v.ln.gridX
  | 0x04 => v.ln.gridY
  | 0x05 => v.ln.gridZ
  | 0x06 => v.tm.cluster
  | 0x07 => v.tm.crank
  | 0x08 => if v.ln.kern.vgrid ≠ 0 then v.tm.t else 0xFFFFFFFF
  | 0x09 => v.tm.core
  | 0x0A => v.g.slice
  | 0x0B => v.tm.scrBytes
  | 0x0C => v.tm.t % v.ln.gridX
  | 0x0D => v.tm.t / v.ln.gridX % v.ln.gridY
  | 0x0E => v.tm.t / v.ln.gridX / v.ln.gridY
  | 0x0F => v.ln.kern.groups
  | 0x10 => v.exec.toNat
  | 0x11 => (liveLanes v.g).toNat
  | 0x12 => v.g.gsplit
  | 0x13 => bit v.g.steprnd
  | 0x14 => (lcget v.g 0).toNat
  | 0x15 => (lcget v.g 1).toNat
  | 0x16 => (lcget v.g 2).toNat
  | _ => 0

/-- SRD (R205). -/
def execSrd (p : S2) (s : State) : Host.Outcome State Fault Refusal :=
  run s (uses (.srd p)) fun v =>
    if p.x then finish s v { g := sset v.g p.d (BitVec.ofNat 32 (specVal v p.a 0)) }
    else alu s v (mapLanes v p.d fun L => BitVec.ofNat 32 (specVal v p.a L)) [] p.d 1 false

/-- GSPLIT takes a value (R139). -/
def gsplitOk (n : Nat) : Bool := n == 2 || n == 4 || n == 8 || n == 16 || n == 32

/-- SWR (R206): the value of a scalar, or of the lowest lane in EXEC. -/
def execSwr (p : S2) (s : State) : Host.Outcome State Fault Refusal :=
  run s (uses (.swr p)) fun v =>
    let x := if p.x then sget v.g p.a else vget v.g p.a (lowLane v.exec)
    if p.d = 0x12 then (if gsplitOk x.toNat then finish s v { g := { v.g with gsplit := x.toNat } } else trapAll s v 0x02 0)
    else if p.d = 0x13 then finish s v { g := { v.g with steprnd := x.getLsbD 0 } }
    else finish s v { g := lcset v.g (p.d - 0x14) x }

/-- PSET (R207). -/
def execPset (d a : Nat) (s : State) : Host.Outcome State Fault Refusal := runP s (uses (.pset d a)) d fun _ _ => a == 1
/-- PNOT (R207). -/
def execPnot (d a : Nat) (s : State) : Host.Outcome State Fault Refusal := runP s (uses (.pnot d a)) d fun g L => !(pget g a).getLsbD L
/-- PMOV (R207). -/
def execPmov (d a : Nat) (s : State) : Host.Outcome State Fault Refusal := runP s (uses (.pmov d a)) d fun g L => (pget g a).getLsbD L
/-- PTOK (R207). -/
def execPtok (d a : Nat) (s : State) : Host.Outcome State Fault Refusal :=
  run s (uses (.ptok d a)) fun v => finish s v { g := kset v.g d ((kget v.g d &&& ~~~v.exec) ||| (pget v.g a &&& v.exec)) }
/-- KTOP (R207). -/
def execKtop (d a : Nat) (s : State) : Host.Outcome State Fault Refusal := runP s (uses (.ktop d a)) d fun g L => (kget g a).getLsbD L

/-- KAND (R208). -/
def execKand (p : L) (s : State) : Host.Outcome State Fault Refusal :=
  runS s (uses (.kand p)) fun g => kset g p.d (kget g p.a &&& kget g (bNum p.b))
/-- KOR (R208). -/
def execKor (p : L) (s : State) : Host.Outcome State Fault Refusal :=
  runS s (uses (.kor p)) fun g => kset g p.d (kget g p.a ||| kget g (bNum p.b))
/-- KXOR (R208). -/
def execKxor (p : L) (s : State) : Host.Outcome State Fault Refusal :=
  runS s (uses (.kxor p)) fun g => kset g p.d (kget g p.a ^^^ kget g (bNum p.b))
/-- KNOT (R208). -/
def execKnot (p : L) (s : State) : Host.Outcome State Fault Refusal := runS s (uses (.knot p)) fun g => kset g p.d (~~~(kget g p.a))
/-- KPOPC (R208). -/
def execKpopc (p : L) (s : State) : Host.Outcome State Fault Refusal := runS s (uses (.kpopc p)) fun g => sset g p.d (popW (kget g p.a))
/-- KFFS (R208). -/
def execKffs (p : L) (s : State) : Host.Outcome State Fault Refusal := runS s (uses (.kffs p)) fun g => sset g p.d (ffsW (kget g p.a))
/-- KMOV (R208). -/
def execKmov (p : L) (s : State) : Host.Outcome State Fault Refusal :=
  runS s (uses (.kmov p)) fun g =>
    if p.c = 0 then kset g p.d (sget g p.a) else if p.c = 1 then sset g p.d (kget g p.a) else kset g p.d (kget g p.a)
/-- KACT (R208). -/
def execKact (p : L) (s : State) : Host.Outcome State Fault Refusal :=
  run s (uses (.kact p)) fun v => finish s v { g := kset v.g p.d v.exec }

end Sys2Proof.Machine
end

