-- ==== Sys2Proof/Machine/LaneOps.lean ====
section
/-! DEFINITION. Machine/LaneOps.lean: instructions that move values across the lanes of a tile (R138, R209 to R216). -/

namespace Sys2Proof.Machine

/-- The first lane of a lane's tile (R209). -/
def tileBase (g : Group) (L : Nat) : Nat := L - L % g.gsplit

/-- The lanes of a mask in the tile of a lane. -/
def tileOf (g : Group) (m : Word) (L : Nat) : Word := m &&& maskOf fun i => i / g.gsplit == L / g.gsplit

/-- The source lane of SHFL (R210). -/
def shflSrc (g : Group) (mode : ShflMode) (b L : Nat) : Option Nat :=
  let w := g.gsplit
  let i := L % w
  match mode with
  | .idx => some (tileBase g L + b % w)
  | .up => if i ≥ b then some (L - b) else none
  | .down => if i + b < w then some (L + b) else none
  | .xor => some (tileBase g L + Nat.xor i (b % w))

/-- SHFL reads the source lane's register as it stands, whether or not that lane is in EXEC (R209, R210). -/
def execShfl (p : L) (mode : ShflMode) (s : State) : Host.Outcome State Fault Refusal :=
  run s (uses (.shfl p mode)) fun v =>
    let src (L : Nat) : Option Nat := shflSrc v.g mode (bval v.g p.b L).toNat L
    let srcs := (lanesOf v.exec).filterMap src
    if readsPoison v.g { r := [vg p.a (tyRegs p.ty)] } (maskOf srcs.contains) then trapAll s v 0x0D 0
    else
      let g := eachLane v.g v.exec fun g L => vput g p.ty p.d L (match src L with
        | some M => vbits v.g p.ty p.a M
        | none => if p.aux = 0 then vbits v.g p.ty p.a L else 0)
      alu s v g [] p.d 1 (tyRegs1 p.ty == 2)

/-- VOTE (R211). -/
def execVote (p : L) (s : State) : Host.Outcome State Fault Refusal :=
  run s (uses (.vote p)) fun v =>
    let t (L : Nat) : Word := tileOf v.g v.exec L
    let x := pget v.g p.a
    if p.c = 3 then alu s v (mapLanes v p.d fun L => t L &&& x) [] p.d 1 false
    else
      let res (L : Nat) : Bool :=
        if p.c = 0 then t L &&& ~~~x == 0
        else if p.c = 1 then t L &&& x != 0
        else t L &&& x == 0 || t L &&& ~~~x == 0
      finish s v { g := pset v.g p.d v.exec (maskOf fun L => v.exec.getLsbD L && res L) }

/-- MATCH (R212). -/
def execMatchL (p : L) (s : State) : Host.Outcome State Fault Refusal :=
  run s (uses (.matchL p)) fun v =>
    alu s v (mapLanes v p.d fun L => tileOf v.g v.exec L &&& maskOf fun M => vbits v.g p.ty p.a M == vbits v.g p.ty p.a L) [] p.d 1 false

/-- An integer reduction's operation (R213). -/
def redInt (t : Ty) (op a b : Nat) : Nat :=
  match op with
  | 0 => (a + b) % 2 ^ tyBits t
  | 1 => pickInt t false a b
  | 2 => pickInt t true a b
  | 3 => Nat.land a b
  | 4 => Nat.lor a b
  | _ => Nat.xor a b

/-- The identity of an operation (R214). -/
def redIdent (t : Ty) (op : Nat) : Nat :=
  match op with
  | 1 => wrapN (tyBits t) (intRange t).2
  | 2 => wrapN (tyBits t) (intRange t).1
  | 3 => 2 ^ tyBits t - 1
  | _ => 0

/-- Halve a list of values by rounded sums of neighbours; flags gather (R213). -/
def treeLevel (t : Ty) : List Nat → List Nat × Nat
  | a :: b :: r =>
    let o := fAdd t .rne 0 (fdec t a) (fdec t b)
    let (xs, fl) := treeLevel t r
    (o.bits :: xs, Nat.lor o.fl fl)
  | l => (l, 0)

/-- The tree over 2^n values. -/
def treeSum (t : Ty) : Nat → List Nat → Nat × Nat
  | 0, l => (l.headD 0, 0)
  | n + 1, l =>
    let (l1, f1) := treeLevel t l
    let (x, f2) := treeSum t n l1
    (x, Nat.lor f1 f2)

/-- FADD of REDUCE over a lane's tile: the result and its flags (R213). -/
def reduceF (v : View) (t : Ty) (a L : Nat) : Nat × Nat :=
  let b := tileBase v.g L
  treeSum t (Nat.log2 v.g.gsplit) ((List.range (2 ^ Nat.log2 v.g.gsplit)).map fun j =>
    if v.exec.getLsbD (b + j) then vbits v.g t a (b + j) else fSign t true)

/-- Combine the values of lanes in ascending order, from the first; none of no lanes (R213, R214). -/
def foldLanes (v : View) (t : Ty) (op a : Nat) (m : Word) : Option (Nat × Nat) :=
  (lanesOf m).foldl (fun acc M =>
    let x := vbits v.g t a M
    match acc with
    | none => some (x, 0)
    | some (y, fl) =>
      if op = 6 then let o := fAdd t .rne 0 (fdec t y) (fdec t x); some (o.bits, Nat.lor fl o.fl)
      else some (redInt t op y x, fl)) none

/-- Results with flags, one for each lane of EXEC. -/
def laneResults (s : State) (v : View) (t : Ty) (d : Nat) (res : Nat → Nat × Nat) : State :=
  let rs := (lanesOf v.exec).map fun L => (L, res L)
  let g := rs.foldl (fun g e => vput g t d e.1 e.2.1) v.g
  alu s v g ((rs.filter fun e => e.2.2 != 0).map fun e => (e.1, e.2.2)) d 1 (tyRegs1 t == 2)

/-- REDUCE (R213). -/
def execReduce (p : L) (s : State) : Host.Outcome State Fault Refusal :=
  run s (uses (.reduce p)) fun v =>
    laneResults s v p.ty p.d fun L =>
      if p.aux = 6 then reduceF v p.ty p.a L else (foldLanes v p.ty p.aux p.a (tileOf v.g v.exec L)).getD (0, 0)

/-- SCAN: inclusive with C = 0, exclusive with C = 1 (R214). -/
def execScan (p : L) (s : State) : Host.Outcome State Fault Refusal :=
  run s (uses (.scan p)) fun v =>
    laneResults s v p.ty p.d fun L =>
      let below := maskOf fun M => M < L || (p.c == 0 && M == L)
      (foldLanes v p.ty p.aux p.a (tileOf v.g v.exec L &&& below)).getD (redIdent p.ty p.aux, 0)

/-- BCAST (R215). -/
def execBcast (p : L) (s : State) : Host.Outcome State Fault Refusal :=
  run s (uses (.bcast p)) fun v =>
    laneResults s v p.ty p.d fun L => (vbits v.g p.ty p.a (lowLane (tileOf v.g v.exec L)), 0)

/-- SPLIT (R139, R216). -/
def execSplit (p : L) (s : State) : Host.Outcome State Fault Refusal :=
  run s (uses (.split p)) fun v =>
    let x := (bval v.g p.b 0).toNat
    if gsplitOk x then finish s v { g := { v.g with gsplit := x } } else trapAll s v 0x02 0

end Sys2Proof.Machine
end

