-- ==== Sys2Proof/Machine/Float.lean ====
section
/-! DEFINITION. Machine/Float.lean: floating-point instructions, conversions, packing and FSTAT (R168 to R172, R217 to R240). -/

namespace Sys2Proof.Machine

/-! ### Operands and results -/

/-- A lone operand in a vector register: what a writer of the same fused clause delivers, else the register (R169, R172). -/
def fop (v : View) (t : Ty) (r L : Nat) : FV :=
  let plain := fdec t (vbits v.g t r L)
  if v.hdr.fuse && !v.g.steprnd then
    match mget? v.g.ext (r * 32 + L) with
    | some e => if e.ty == t then e.x else plain
    | none => plain
  else plain

/-- A lone operand B. -/
def fopB (v : View) (t : Ty) (b : Src) (L : Nat) : FV :=
  match b with
  | .reg n => fop v t n L
  | b => fdec t (bbits v.g t b L)

/-- Element `j` of a packed register. -/
def felem (t : Ty) (x : Word) (j : Nat) : FV := fdec t (bitsOf x.toNat (j * fWidth t) (fWidth t))

/-- The random operand (R222, R234). -/
def uOf (v : View) (p : L) (L : Nat) : Nat := if p.rm == .rst then (vget v.g p.c L).toNat else 0

/-- The packed form is selected (R222, R227). -/
def isPacked (p : L) : Bool := tyPk p.ty && p.c == 1 && p.rm != .rst

/-- Lone results; a writer of a fused clause also leaves its extended value (R169). -/
def fLone (s : State) (v : View) (t : Ty) (d : Nat) (writer : Bool) (f : Nat → FOut) : State :=
  let rs := (lanesOf v.exec).map fun L => (L, f L)
  let g := rs.foldl (fun g e => vput g t d e.1 e.2.bits) v.g
  let g1 := if writer && v.hdr.fuse then rs.foldl (fun g e => { g with ext := mput g.ext (d * 32 + e.1) { ty := t, x := e.2.ext } }) g else g
  alu s v g1 ((rs.filter fun e => e.2.fl != 0).map fun e => (e.1, e.2.fl)) d 1 (tyRegs1 t == 2)

/-- Packed results: two independent elements (R222). -/
def fPair (s : State) (v : View) (t : Ty) (d : Nat) (f : Nat → Nat → FOut) : State :=
  laneResults s v .n32 d fun L =>
    let x := f L 0
    let y := f L 1
    (x.bits + y.bits * 2 ^ fWidth t, Nat.lor x.fl y.fl)

/-- An instruction of two operands, lone or packed (R221 to R225). -/
def arith2 (s : State) (i : Instr) (p : L) (writer : Bool) (f : Ty → RM → Nat → FV → FV → FOut) : Host.Outcome State Fault Refusal :=
  run s (uses i) fun v =>
    if isPacked p then fPair s v p.ty p.d fun L j => f p.ty p.rm 0 (felem p.ty (vget v.g p.a L) j) (felem p.ty (bval v.g p.b L) j)
    else fLone s v p.ty p.d writer fun L => f p.ty p.rm (uOf v p L) (fop v p.ty p.a L) (fopB v p.ty p.b L)

/-- A short form: .f32, to nearest even (R221). -/
def short2 (s : State) (i : Instr) (p : S3) (f : Ty → RM → Nat → FV → FV → FOut) : Host.Outcome State Fault Refusal :=
  run s (uses i) fun v => fLone s v .f32 p.d true fun L => f .f32 .rne 0 (fop v .f32 p.a L) (fopB v .f32 p.b L)

/-! ### Arithmetic (R221 to R226) -/

/-- FADD, short form. -/
def execFaddF32 (p : S3) (s : State) : Host.Outcome State Fault Refusal := short2 s (.faddF32 p) p fAdd
/-- FSUB, short form. -/
def execFsubF32 (p : S3) (s : State) : Host.Outcome State Fault Refusal := short2 s (.fsubF32 p) p fSub
/-- FMUL, short form. -/
def execFmulF32 (p : S3) (s : State) : Host.Outcome State Fault Refusal := short2 s (.fmulF32 p) p fMul
/-- FFMA, short form: the addend is D. -/
def execFfmaF32 (p : S3) (s : State) : Host.Outcome State Fault Refusal :=
  run s (uses (.ffmaF32 p)) fun v =>
    fLone s v .f32 p.d true fun L => fFma .f32 .rne 0 (fop v .f32 p.a L) (fopB v .f32 p.b L) (fop v .f32 p.d L)
/-- FADD (R223). -/
def execFadd (p : L) (s : State) : Host.Outcome State Fault Refusal := arith2 s (.fadd p) p true fAdd
/-- FSUB (R223). -/
def execFsub (p : L) (s : State) : Host.Outcome State Fault Refusal := arith2 s (.fsub p) p true fSub
/-- FMUL (R223). -/
def execFmul (p : L) (s : State) : Host.Outcome State Fault Refusal := arith2 s (.fmul p) p true fMul
/-- FFMA: the addend is C for .f64 and .f32, and D for the 16-bit types (R222, R223). -/
def execFfma (p : L) (s : State) : Host.Outcome State Fault Refusal :=
  run s (uses (.ffma p)) fun v =>
    if isPacked p then fPair s v p.ty p.d fun L j =>
      fFma p.ty p.rm 0 (felem p.ty (vget v.g p.a L) j) (felem p.ty (bval v.g p.b L) j) (felem p.ty (vget v.g p.d L) j)
    else fLone s v p.ty p.d true fun L =>
      fFma p.ty p.rm (uOf v p L) (fop v p.ty p.a L) (fopB v p.ty p.b L) (fop v p.ty (if tyPk p.ty then p.d else p.c) L)
/-- FMIN (R225). -/
def execFmin (p : L) (s : State) : Host.Outcome State Fault Refusal := arith2 s (.fmin p) p false fun t _ _ => fMinMax t false false
/-- FMAX (R225). -/
def execFmax (p : L) (s : State) : Host.Outcome State Fault Refusal := arith2 s (.fmax p) p false fun t _ _ => fMinMax t true false
/-- FMINNUM (R225). -/
def execFminnum (p : L) (s : State) : Host.Outcome State Fault Refusal := arith2 s (.fminnum p) p false fun t _ _ => fMinMax t false true
/-- FMAXNUM (R225). -/
def execFmaxnum (p : L) (s : State) : Host.Outcome State Fault Refusal := arith2 s (.fmaxnum p) p false fun t _ _ => fMinMax t true true
/-- FDIV reads registers in a fused clause too (R223, R224, R257). -/
def execFdiv (p : L) (s : State) : Host.Outcome State Fault Refusal :=
  run s (uses (.fdiv p)) fun v =>
    fLone s v p.ty p.d false fun L =>
      fDiv p.ty p.rm (uOf v p L) (fdec p.ty (vbits v.g p.ty p.a L)) (fdec p.ty (bbits v.g p.ty p.b L))
/-- FSCALE (R226). -/
def execFscale (p : L) (s : State) : Host.Outcome State Fault Refusal :=
  run s (uses (.fscale p)) fun v =>
    fLone s v p.ty p.d false fun L => fScale p.ty p.rm (fdec p.ty (vbits v.g p.ty p.a L)) (sextI 32 (bval v.g p.b L).toNat)

/-! ### Unary operations (R227 to R232) -/

/-- FABS and FNEG, lone or packed (R228). -/
def absNeg (s : State) (i : Instr) (p : L) (isNeg : Bool) : Host.Outcome State Fault Refusal :=
  run s (uses i) fun v =>
    if isPacked p then fPair s v p.ty p.d fun L j => fAbsNeg p.ty isNeg (felem p.ty (vget v.g p.a L) j)
    else fLone s v p.ty p.d false fun L => fAbsNeg p.ty isNeg (fop v p.ty p.a L)

/-- FABS (R228). -/
def execFabs (p : L) (s : State) : Host.Outcome State Fault Refusal := absNeg s (.fabs p) p false
/-- FNEG (R228). -/
def execFneg (p : L) (s : State) : Host.Outcome State Fault Refusal := absNeg s (.fneg p) p true

/-- A unary instruction on a lone value, given as its bits. -/
def unary (s : State) (i : Instr) (p : L) (f : Nat → FOut) : Host.Outcome State Fault Refusal :=
  run s (uses i) fun v => fLone s v p.ty p.d false fun L => f (vbits v.g p.ty p.a L % 2 ^ fWidth p.ty)

/-- FSQRT (R229). -/
def execFsqrt (p : L) (s : State) : Host.Outcome State Fault Refusal := unary s (.fsqrt p) p fun x => fSqrt p.ty p.rm (fdec p.ty x)
/-- FRND (R229). -/
def execFrnd (p : L) (s : State) : Host.Outcome State Fault Refusal := unary s (.frnd p) p fun x => fRndInt p.ty p.rm (fdec p.ty x)
/-- FRCP (R230, R231). -/
def execFrcp (p : L) (s : State) : Host.Outcome State Fault Refusal := unary s (.frcp p) p (fAppr .rcp p.ty)
/-- FRSQ (R230, R231). -/
def execFrsq (p : L) (s : State) : Host.Outcome State Fault Refusal := unary s (.frsq p) p (fAppr .rsq p.ty)
/-- FEX2 (R230, R231). -/
def execFex2 (p : L) (s : State) : Host.Outcome State Fault Refusal := unary s (.fex2 p) p (fAppr .ex2 p.ty)
/-- FLG2 (R230, R231). -/
def execFlg2 (p : L) (s : State) : Host.Outcome State Fault Refusal := unary s (.flg2 p) p (fAppr .lg2 p.ty)
/-- FSIN (R230, R231). -/
def execFsin (p : L) (s : State) : Host.Outcome State Fault Refusal := unary s (.fsin p) p (fAppr .sin p.ty)
/-- FCOS (R230, R231). -/
def execFcos (p : L) (s : State) : Host.Outcome State Fault Refusal := unary s (.fcos p) p (fAppr .cos p.ty)
/-- FCLASS (R232). -/
def execFclass (p : L) (s : State) : Host.Outcome State Fault Refusal :=
  runT s (uses (.fclass p)) .n32 p.d fun g L => fClass p.ty (fdec p.ty (vbits g p.ty p.a L))

/-! ### Comparison and conversion (R233 to R237) -/

/-- FCMP (R233). -/
def execFcmp (p : L) (s : State) : Host.Outcome State Fault Refusal :=
  run s (uses (.fcmp p)) fun v =>
    let res (L : Nat) : Bool × Nat :=
      let a := fop v p.ty p.a L
      let b := fopB v p.ty p.b L
      fCmp ((condOf p.aux).getD .eq) a b (isSig p.ty a || isSig p.ty b)
    let rs := (lanesOf v.exec).map fun L => (L, res L)
    finish s v { g := pset v.g p.d v.exec (maskOf fun L => rs.any fun e => e.1 == L && e.2.1)
                 flags := (rs.filter fun e => e.2.2 != 0).map fun e => (e.1, e.2.2) }

/-- A conversion's SAT (R234). -/
def satOf (p : L) : Bool := p.aux % 2 == 1

/-- FCVT (R234, R235). -/
def execFcvt (p : L) (src : Ty) (s : State) : Host.Outcome State Fault Refusal :=
  run s (uses (.fcvt p src)) fun v =>
    laneResults s v p.ty p.d fun L =>
      let a := if tyLone src then fop v src p.a L else fdec src (vbits v.g src p.a L)
      fCvt src p.ty p.rm (uOf v p L) (satOf p) a

/-- FCVTI (R236). -/
def execFcvti (p : L) (src : Ty) (s : State) : Host.Outcome State Fault Refusal :=
  run s (uses (.fcvti p src)) fun v =>
    laneResults s v p.ty p.d fun L =>
      let (x, fl) := fCvti p.ty p.rm (satOf p) (fdec src (vbits v.g src p.a L))
      (intBits p.ty x, fl)

/-- ICVTF (R237). -/
def execIcvtf (p : L) (src : Ty) (s : State) : Host.Outcome State Fault Refusal :=
  run s (uses (.icvtf p src)) fun v =>
    laneResults s v p.ty p.d fun L => iCvtf p.ty p.rm (uOf v p L) (satOf p) (tyVal src (vbits v.g src p.a L))

/-! ### Packing with block scales (R238, R239) -/

/-- The scale code of a lane. -/
def scaleOf (v : View) (p : L) (L : Nat) : Nat := (bval v.g p.b L).toNat % 256

/-- FPACK: elements 2C and 2C + 1 of D (R238). -/
def execFpack (p : L) (src : Ty) (s : State) : Host.Outcome State Fault Refusal :=
  run s (uses (.fpack p src)) fun v =>
    laneResults s v .n32 p.d fun L =>
      let w := fWidth p.ty
      let e (j : Nat) : Nat × Nat := fPack1 src p.ty p.rm (satOf p) (scaleOf v p L) (fdec src (vget v.g (p.a + j) L).toNat)
      let put (x j : Nat) : Nat :=
        let sh := 2 ^ (w * (2 * p.c + j))
        x - x / sh % 2 ^ w * sh + (e j).1 % 2 ^ w * sh
      (put (put (vget v.g p.d L).toNat 0) 1, Nat.lor (e 0).2 (e 1).2)

/-- FUNPK: elements 2C and 2C + 1 of A (R239). -/
def execFunpk (p : L) (src : Ty) (s : State) : Host.Outcome State Fault Refusal :=
  run s (uses (.funpk p src)) fun v =>
    let e (L j : Nat) : Nat × Nat := fUnpk1 src p.ty p.rm (satOf p) (scaleOf v p L) (felem src (vget v.g p.a L) (2 * p.c + j))
    let rs := (lanesOf v.exec).map fun L => (L, e L 0, e L 1)
    let g := rs.foldl (fun g r => vset (vset g p.d r.1 (BitVec.ofNat 32 r.2.1.1)) (p.d + 1) r.1 (BitVec.ofNat 32 r.2.2.1)) v.g
    alu s v g ((rs.map fun r => (r.1, Nat.lor r.2.1.2 r.2.2.2)).filter fun e => e.2 != 0) p.d 2 false

/-! ### The status register (R240) -/

/-- FSTAT.RD. -/
def execFstatRd (d : Nat) (s : State) : Host.Outcome State Fault Refusal :=
  runS s (uses (.fstatRd d)) fun g => sset g d (BitVec.ofNat 32 g.fstat)
/-- FSTAT.WR: a vector value is that of the lowest lane in EXEC. -/
def execFstatWr (a : Nat) (x : Bool) (s : State) : Host.Outcome State Fault Refusal :=
  run s (uses (.fstatWr a x)) fun v =>
    let val := if x then sget v.g a else vget v.g a (lowLane v.exec)
    finish s v { g := { v.g with fstat := val.toNat % 64 } }
/-- FSTAT.CLR. -/
def execFstatClr (a : Nat) (s : State) : Host.Outcome State Fault Refusal :=
  runS s {} fun g => { g with fstat := Nat.land g.fstat (63 - a % 64) }

end Sys2Proof.Machine
end

