-- ==== Sys2Proof/Machine/Matrix.lean ====
section
/-! DEFINITION. Machine/Matrix.lean: the tile store, the quads' arrays, matrix operations solo and joint, their summation order, and
the allocation and movement of tiles (R268, R269, R345 to R376). -/

namespace Sys2Proof.Machine

/-! ### The tile store (R268, R269, R361) -/

/-- The quad of a group's slice. -/
def quadOf (g : Group) : Nat := g.slice % 4

/-- The key of a tile-store word of a team: quad, team row, column. -/
def tileKey (q row col : Nat) : Nat := (q * 256 + row) * 128 + col

/-- A tile-store word of a team. -/
def tileGet (t : Team) (q row col : Nat) : Word := mget t.tile 0 (tileKey q row col)
/-- A tile-store word is poisoned (R478). -/
def tilePoisoned (t : Team) (q row col : Nat) : Bool := mget t.tilePois false (tileKey q row col)
/-- Write a tile-store word, clean or with poison. -/
def tileSet (t : Team) (q row col : Nat) (x : Word) (p : Bool) : Team :=
  { t with tile := msetD t.tile 0 (tileKey q row col) x, tilePois := msetD t.tilePois false (tileKey q row col) p }

/-- The team holds a team block in a quad. -/
def blockHeld (t : Team) (q b : Nat) : Bool := (mget? t.blocks (q * 16 + b)).isSome
/-- The team holds the blocks of rows `row` to `last`. -/
def rowsHeld (t : Team) (q row last : Nat) : Bool := (List.range (last / 16 + 1 - row / 16)).all fun i => blockHeld t q (row / 16 + i)

/-- Physical blocks of a quad of a core that no resident team holds (R69, R367). -/
def freeBlocks (s : State) (core q : Nat) : Nat :=
  16 - (s.teams.foldl (fun n e =>
    if e.2.core == core && teamHere s e.2 then n + ((List.range 16).filter fun b => blockHeld e.2 q b).length else n) 0)

/-- A block reads as zero: its words are clean zeros. -/
def clearBlock (t : Team) (q b : Nat) : Team :=
  let out (k : Nat) : Bool := k / 2048 != q * 16 + b
  { t with tile := t.tile.filter fun e => out e.1, tilePois := t.tilePois.filter fun e => out e.1 }

/-! ### The words that instructions read (R362, R366, R371) -/

/-- A reserved bit of a rectangle word is set. -/
def rectResv (w : Nat) : Bool := w.testBit 31 || w.testBit 15
/-- The rectangle passes the quad's range or a block that is not held. -/
def rectBad (t : Team) (q : Nat) (r : Rect) : Bool := r.last > 255 || r.col + r.ncol > 128 || !rowsHeld t q r.row r.last

/-- Columns that an output tile spans (R351). -/
def colSpan (cty : Ty) (joint : Bool) : Nat := (if joint then 64 else 16) * tyRegs1 cty

/-- A placement word names a tile outside the rules (R362). -/
def placeBad (t : Team) (q w : Nat) (cty : Ty) (joint r : Bool) : Bool :=
  let row := bitsOf w 0 8
  let col := bitsOf w 8 7
  let rrow := bitsOf w 16 8
  let span := colSpan cty joint
  row % 16 != 0 || col % span != 0 || col + span > 128 || !blockHeld t q (row / 16)
    || (r && (rrow % 16 != 0 || !blockHeld t q (rrow / 16) || rrow / 16 == row / 16))

/-- Team blocks that an operation of an array targets, in its quad (R368). -/
def matBlocks (o : MatOp) : List Nat :=
  let w := o.word
  let span (a b : Nat) : List Nat := (List.range (b / 16 + 1 - a / 16)).map fun i => a / 16 + i
  match o.ins with
  | .mma _ _ r | .mmaj _ _ r | .mmas _ _ r | .mmajs _ _ r =>
    bitsOf w 0 8 / 16 :: (if r then [bitsOf w 16 8 / 16] else [])
  | .tzero _ => (List.range (bitsOf w 8 5)).map fun i => bitsOf w 0 8 / 16 + i
  | .tread _ | .twrite _ => span (bitsOf w 0 8) (bitsOf w 0 8 + 15)
  | _ => let r := rectOf w; span r.row r.last

/-! ### Fragments (R351 to R355) -/

/-- Elements along K (R349). -/
def matK : Ty → Nat
  | .f64 => 48 | .f32 => 96 | .bf16 | .f16 => 192 | .e2m1 => 768 | _ => 384

/-- Element `k` of a line packed into words (R149, R352). -/
def lineElem (t : Ty) (word : Nat → Nat) (k : Nat) : Nat :=
  match t with
  | .f64 => word (2 * k) + word (2 * k + 1) * 2 ^ 32
  | .f32 => word k
  | .bf16 | .f16 => word (k / 2) / 2 ^ (16 * (k % 2)) % 2 ^ 16
  | .e2m1 => word (k / 8) / 2 ^ (4 * (k % 8)) % 16
  | _ => word (k / 4) / 2 ^ (8 * (k % 4)) % 256

/-- A captured register of a fragment. -/
def fragReg (m : AMap Word) (base i L : Nat) : Nat := (mget m 0 ((base + i) * 32 + L)).toNat

/-- Word `w` of the line of row or column `r`: each half of a line stands in `per` registers of its own lanes. -/
def fragWord (m : AMap Word) (base per r w : Nat) : Nat := fragReg m base (w % per) (16 * (w / per) + r)

/-- The scale of a group of a line (R355). -/
def fragScale (m : AMap Word) (base r G : Nat) : Nat :=
  fragReg m base (G % 12 / 4) (16 * (G / 12) + r) / 2 ^ (8 * (G % 4)) % 256

/-- An element under its scale: none of its value where the scale is NaN. -/
def scaled (v : FV) (s : Nat) : FV :=
  if s = 255 then .nan 0 else match v with
  | .fin n m e => .fin n m (e + s - 127)
  | v => v

/-- A line of B, or a dense line of A: every position takes part. -/
def denseLine (t : Ty) (m : AMap Word) (base r : Nat) : List (Option Nat) :=
  (List.range (matK t)).map fun k => some (lineElem t (fragWord m base 48 r) k)

/-- A sparse line of A (R354): the stored values at the positions that the bitmaps name. -/
def sparseLine (t : Ty) (sp : Nat) (m : AMap Word) (r : Nat) : List (Option Nat) :=
  let n := if sp = 1 then 16 else 8
  let g := matK t / 32
  let per := if sp = 1 then 24 else 12
  (List.range g).flatMap fun G =>
    let bm := fragReg m 128 (G % (g / 2)) (16 * (G / (g / 2)) + r)
    (List.range 32).map fun p =>
      let rank := ((List.range p).filter fun i => bm.testBit i).length
      if bm.testBit p && rank < n then some (lineElem t (fragWord m 0 per r) (G * n + rank)) else none

/-- The values of a line, scaled where the type carries scales (R355); none at a position that takes no part. -/
def lineVals (t : Ty) (m : AMap Word) (sbase r : Nat) (xs : List (Option Nat)) : List (Option FV) :=
  xs.zipIdx.map fun (x, k) => x.map fun b => let v := fdec t b; if t == .e2m1 then scaled v (fragScale m sbase r (k / 32)) else v

/-- Rows of A of an operation. -/
def aLines (t : Ty) (sp : Nat) (m : AMap Word) : List (List (Option Nat)) :=
  (List.range 16).map fun r => if sp = 0 then denseLine t m 0 r else sparseLine t sp m r

/-- Where the scales of A follow its data. -/
def aScaleBase (sp : Nat) : Nat := if sp = 0 then 48 else if sp = 1 then 24 else 12

/-! ### The summation order (R357 to R360) -/

/-- ALIGN_TRUNC followed by the exact sum of its terms (R173). -/
def alignSum (ps : List Dy) (w : Nat) : Dy :=
  let nz := ps.filter fun p => p.1 != 0
  match nz with
  | [] => (0, 0)
  | p :: r =>
    let E := r.foldl (fun e x => max e (ilog x.1.natAbs x.2)) (ilog p.1.natAbs p.2)
    let q := E - w
    let tr (x : Dy) : Int :=
      let m : Nat := if q ≤ x.2 then x.1.natAbs * 2 ^ (x.2 - q).toNat else x.1.natAbs / 2 ^ (q - x.2).toNat
      if x.1 < 0 then -(m : Int) else m
    (nz.foldl (fun a x => a + tr x) 0, q)

/-- The exact sum of numbers. -/
def dySum (ps : List Dy) : Dy := ps.foldl dyAdd (0, 0)

/-- An output element: main, residual, flags. -/
structure MOut where
  main : Nat
  res : Nat := 0
  fl : Nat := 0

/-- The special cases of an element (R358), or none. -/
def mSpecial (aty cty : Ty) (neg : Bool) (ps : List (FV × FV)) (acc : List FV) : Option MOut :=
  let vals := ps.flatMap fun (a, b) => [a, b]
  let isInf (v : FV) : Bool := match v with | .inf _ => true | _ => false
  if vals.any FV.isNan || acc.any FV.isNan then
    some { main := canonNan cty, fl := if vals.any (isSig aty) || acc.any (isSig cty) then fIV else 0 }
  else if ps.any fun (a, b) => (a.isZero && isInf b) || (isInf a && b.isZero) then some { main := canonNan cty, fl := fIV }
  else
    let signs := (ps.filterMap fun (a, b) => if isInf a || isInf b then some ((a.sign != b.sign) != neg) else none)
      ++ acc.filterMap fun v => if isInf v then some v.sign else none
    if signs = [] then none
    else if signs.contains true && signs.contains false then some { main := canonNan cty, fl := fIV }
    else some { main := infBits cty (signs.contains true) }

/-- An element of a floating-point operation (R357, R359): the lines of A and B, the accumulator values. -/
def mElem (aty cty : Ty) (neg r : Bool) (a b : List (Option FV)) (acc : List FV) : MOut :=
  let pairs := ((a.zip b).zipIdx.filterMap fun ((x, y), k) => match x, y with | some x, some y => some (k, x, y) | _, _ => none)
  match mSpecial aty cty neg (pairs.map Prod.snd) acc with
  | some o => o
  | none =>
    let sgn (d : Dy) : Dy := if neg then (-d.1, d.2) else d
    let prods := pairs.map fun (k, x, y) => (k, sgn (dyMul x.dy y.dy))
    let groups := (List.range ((a.length + 31) / 32)).map fun G => alignSum ((prods.filter fun p => p.1 / 32 == G).map Prod.snd) 48
    let accs := acc.map FV.dy
    let S := alignSum (groups ++ accs) (if r then 120 else 56)
    -- a position that a sparse A does not name holds +0 (R354)
    let minus := (a.zip b).all (fun (x, y) =>
        let x := x.getD (.fin false 0 0)
        let y := y.getD (.fin false 0 0)
        (x.isZero || y.isZero) && ((x.sign != y.sign) != neg)) && acc.all fun v => v.isZero && v.sign
    let (mb, fl) := frnd cty .rne 0 false (dyFV S minus)
    -- S minus an infinite main is the opposite infinity (DEDUCED, log entry 59)
    if Nat.land fl fOF ≠ 0 then { main := mb, res := if r then infBits cty (0 ≤ S.1) else 0, fl := if r then Nat.lor fl fRL else fl }
    else
      let mv := (fdec cty mb).dy
      let exact := dyAdd (dySum (prods.map Prod.snd)) (dySum accs)
      if r then
        let d := dySub S mv
        let (rb0, rf) := rnDy cty d
        let rv := (fdec cty rb0).dy
        let rb := if rv.1 = 0 then 0 else rb0
        { main := mb, res := rb,
          fl := Nat.lor (Nat.lor fl (if Nat.land rf fUF ≠ 0 then fRL + fUF else 0)) (if dyEq (dyAdd mv rv) exact then 0 else fIX) }
      else { main := mb, fl := Nat.lor fl (if dyEq mv exact then 0 else fIX) }

/-- An element of an .i8 operation (R360). -/
def iElem (neg : Bool) (a b : List (Option Nat)) (acc : Nat) : Nat :=
  let s := (a.zip b).foldl (fun (n : Int) (x, y) => n + sextI 8 (x.getD 0) * sextI 8 (y.getD 0)) 0
  wrapN 32 (if neg then (acc : Int) - s else acc + s)

/-- The parameters of a matrix operation. -/
structure MPar where
  p : LX
  shape : Nat
  r : Bool
  joint : Bool
  sparse : Bool

/-- The matrix operation that an instruction is. -/
def mPar (i : Instr) : Option MPar :=
  match i with
  | .mma p sh r => some { p := p, shape := sh, r := r, joint := false, sparse := false }
  | .mmaj p sh r => some { p := p, shape := sh, r := r, joint := true, sparse := false }
  | .mmas p sh r => some { p := p, shape := sh, r := r, joint := false, sparse := true }
  | .mmajs p sh r => some { p := p, shape := sh, r := r, joint := true, sparse := true }
  | _ => none

/-- An element of a tile as its bits (R351). -/
def tileElem (t : Team) (q row col : Nat) (cty : Ty) : Nat :=
  match cty with
  | .f64 => (tileGet t q row col).toNat + (tileGet t q row (col + 1)).toNat * 2 ^ 32
  | .f16 | .bf16 => (tileGet t q row col).toNat % 2 ^ 16
  | _ => (tileGet t q row col).toNat
/-- An element reads a poisoned word. -/
def elemPoisoned (t : Team) (q row col : Nat) (cty : Ty) : Bool :=
  tilePoisoned t q row col || (cty == .f64 && tilePoisoned t q row (col + 1))
/-- Write an element of a tile (R351). -/
def tilePut (t : Team) (q row col : Nat) (cty : Ty) (x : Nat) : Team :=
  if cty == .f64 then tileSet (tileSet t q row col (BitVec.ofNat 32 x) false) q row (col + 1) (BitVec.ofNat 32 (x / 2 ^ 32)) false
  else tileSet t q row col (BitVec.ofNat 32 x) false

/-- The tile of a matrix operation: the team after it, its flags, and whether it read poison. -/
def mTile (t : Team) (o : MatOp) (x : MPar) : Team × Nat × Bool :=
  let q := o.quad % 4
  let aty := x.p.aty
  let cty := x.p.cty
  let neg := x.shape / 2 % 2 == 1
  let zc := x.shape % 2 == 1
  let row := bitsOf o.word 0 8
  let col := bitsOf o.word 8 7
  let rrow := bitsOf o.word 16 8
  let n := if x.joint then 64 else 16
  let sp := if x.sparse then x.p.sp else 0
  let as := aLines aty sp o.regs
  let bs := (List.range n).map fun c => denseLine aty o.bq (c / 16 * 64) (c % 16)
  let avs := as.zipIdx.map fun (l, r) => lineVals aty o.regs (aScaleBase sp) r l
  let bvs := bs.zipIdx.map fun (l, c) => lineVals aty o.bq (c / 16 * 64 + 48) (c % 16) l
  let spot (c : Nat) : Nat := col + c * tyRegs1 cty
  (List.range (16 * n)).foldl (fun (t, fl, po) e =>
    let m := e / n
    let c := e % n
    let bad := !zc && (elemPoisoned t q (row + m) (spot c) cty || (x.r && elemPoisoned t q (rrow + m) (spot c) cty))
    if aty == .i8 then
      let acc := if zc then 0 else tileElem t q (row + m) (spot c) cty
      (tilePut t q (row + m) (spot c) cty (iElem neg (as[m]?.getD []) (bs[c]?.getD []) acc), fl, po || bad)
    else
      let acc := if zc then [] else fdec cty (tileElem t q (row + m) (spot c) cty)
        :: (if x.r then [fdec cty (tileElem t q (rrow + m) (spot c) cty)] else [])
      let r := mElem aty cty neg x.r (avs[m]?.getD []) (bvs[c]?.getD []) acc
      let t1 := tilePut t q (row + m) (spot c) cty r.main
      (if x.r then tilePut t1 q (rrow + m) (spot c) cty r.res else t1, Nat.lor fl r.fl, po || bad)) (t, 0, false)

/-! ### Performing an operation of an array (R345, R369 to R375) -/

/-- What performing an operation leaves: the state, its flags, and whether it consumed poison. -/
structure MDid where
  s : State
  fl : Nat := 0
  poison : Bool := false

/-- The words of a rectangle, row by row: row and column of word `i`. -/
def rectWord (r : Rect) (i : Nat) : Nat × Nat := (r.row + i / r.ncol, r.col + i % r.ncol)
/-- How many words a rectangle has. -/
def rectSize (r : Rect) : Nat := (r.last + 1 - r.row) * r.ncol

/-- TSCALE on one element. -/
def scaleElem (cty : Ty) (n : Int) (x : Nat) : Nat × Nat := let o := fScale cty .rne (fdec cty x) n; (o.bits, o.fl)

/-- Perform the head operation of an array on the tile store, the scratchpad and the registers that it names. -/
def matPerform (s : State) (o : MatOp) : MDid :=
  let q := o.quad % 4
  match team? s o.team with
  | none => { s := s }
  | some t =>
    let put (t : Team) : State := modTeam s o.team fun _ => t
    match mPar o.ins with
    | some x => let (t1, fl, po) := mTile t o x; { s := put t1, fl := fl, poison := po }
    | none =>
      match o.ins with
      | .tzero _ =>
        { s := put ((List.range (bitsOf o.word 8 5)).foldl (fun t i => clearBlock t q (bitsOf o.word 0 8 / 16 + i)) t) }
      | .tld _ =>
        let r := rectOf o.word
        { s := put ((List.range (rectSize r)).foldl (fun t i =>
            let (y, x) := rectWord r i
            tileSet t q y x (mget o.regs 0 i) ((mget? o.bq i).isSome)) t) }
      | .tst _ =>
        let r := rectOf o.word
        { s := put ((List.range (rectSize r)).foldl (fun t i =>
            let (y, x) := rectWord r i
            scrWrite t (o.arg1 + (y - r.row) * o.arg2 + (x - r.col) * 4) (leBytes 4 (tileGet t q y x).toNat) (tilePoisoned t q y x)) t) }
      | .tread p =>
        let row := bitsOf o.word 0 8
        let col := bitsOf o.word 8 7
        { s := modGroup s o.gid fun g => (lanesOf o.exec).foldl (fun g L => (List.range 8).foldl (fun g i =>
            let c := col + 8 * (L / 16) + i
            let g1 := vset g (p.d + i) L (tileGet t q (row + L % 16) c)
            if tilePoisoned t q (row + L % 16) c then vpoison g1 (p.d + i) L else g1) g) g }
      | .twrite _ =>
        let row := bitsOf o.word 0 8
        let col := bitsOf o.word 8 7
        { s := put ((lanesOf o.exec).foldl (fun t L => (List.range 8).foldl (fun t i =>
            tileSet t q (row + L % 16) (col + 8 * (L / 16) + i) (mget o.regs 0 (i * 32 + L)) false) t) t) }
      | .tscale p =>
        let r := rectOf o.word
        let w := tyRegs1 p.cty
        let n := rectSize r / w
        let (t1, fl, po) := (List.range n).foldl (fun (t, fl, po) i =>
          let (y, x) := rectWord r (i * w)
          let (b, f) := scaleElem p.cty (sextI 32 o.arg1) (tileElem t q y x p.cty)
          (tilePut t q y x p.cty b, Nat.lor fl f, po || elemPoisoned t q y x p.cty)) (t, 0, false)
        { s := put t1, fl := fl, poison := po }
      | _ => { s := s }

/-! ### The arrays (R345, R346, R365) -/

/-- A word of an array is complete in its group: its flags are recorded for its lanes and it completes (R359, R365). -/
def matDone (s : State) (gid seq : Nat) : State :=
  flyDone (modGroup s gid fun g => modFly g seq fun f => { f with unit := false, left := 0 }) gid seq

/-- The flags of a word's own tile. -/
def matFlags (s : State) (gid seq fl : Nat) : State :=
  if fl = 0 then s
  else modGroup s gid fun g => modFly g seq fun f => { f with fl := (lanesOf f.lanes).map fun L => (L, fl) }

/-- The arrays of a core hold an operation of a joint operation still. -/
def jointBusy (s : State) (core jid : Nat) : Bool :=
  (List.range 4).any fun q => (quad s (quadKey core q)).queue.any fun o => o.jid == jid

/-- MATRIX_OP_BEGIN: an idle array begins the oldest operation that it has accepted; the registers have been read (R345, R365). -/
def execMatrixOpBegin (s : State) : Host.Outcome State Fault Refusal :=
  .next (match (quad s (quadKey s.ev.a s.ev.b)).queue with
    | [] => s
    | o :: r =>
      if o.begun then s
      else modGroup (modQuad s (quadKey s.ev.a s.ev.b) fun x => { x with queue := { o with begun := true } :: r }) o.gid fun g =>
        modFly g o.seq fun f => { f with srcs := [] })

/-- The words that a tile store has written, for the weirs that watch values (R448). -/
def tstVals (s : State) (o : MatOp) : List (Nat × Nat × Nat) :=
  match o.ins, team? s o.team with
  | .tst _, some t =>
    if (coreAt s t.core).weirs = [] then []
    else
      let r := rectOf o.word
      let xs := (List.range (rectSize r)).map fun i => let (y, x) := rectWord r i; (tileGet t (o.quad % 4) y x).toNat
      (lanesOf o.exec).flatMap fun L => xs.map fun x => (L, 1, x)
  | _, _ => []

/-- MATRIX_OP_DONE: the operation has written its tiles; a joint one is complete once all four have (R346). Consumed poison halts
the context (R478). -/
def execMatrixOpDone (s : State) : Host.Outcome State Fault Refusal :=
  .next (match (quad s (quadKey s.ev.a s.ev.b)).queue with
    | [] => s
    | o :: r =>
      if !o.begun then s
      else
        let d := matPerform s o
        let s1 := modQuad d.s (quadKey s.ev.a s.ev.b) fun x => { x with queue := r }
        let vals := tstVals s1 o
        let s2 := matFlags (if vals = [] then s1 else modGroup s1 o.gid fun g => modFly g o.seq fun f => { f with obsVal := vals }) o.gid o.seq d.fl
        let s3 := if o.jid = 0 then matDone s2 o.gid o.seq
          else if jointBusy s2 o.core o.jid then s2
          else match team? s2 o.team with
            | none => s2
            | some t => t.groups.foldl (fun s gid => match (group? s gid).bind fun g => g.fly.find? fun f => f.jid == o.jid with
                | some f => matDone s gid f.seq
                | none => s) s2
        if d.poison then haltGroup s3 o.gid 0x0D o.pc else s3)

/-! ### Issue -/

/-- The registers of a group that an operation captures: each span with its slot. -/
def capture (g : Group) (m : AMap Word) (slot first n : Nat) : AMap Word :=
  (List.range (n * 32)).foldl (fun m i => msetD m 0 ((slot + i / 32) * 32 + i % 32) (vget g (first + i / 32) (i % 32))) m

/-- An operation of the issue. -/
def matOp (v : View) (ins : Instr) (word a1 a2 : Nat) : MatOp :=
  { gid := v.is.gid, seq := 0, ins := ins, team := v.g.team, core := v.tm.core, quad := quadKey v.tm.core (quadOf v.g), exec := v.exec,
    pc := v.is.pc, npc := v.npc, w0 := v.w0, w1 := v.w1, word := word, arg1 := a1, arg2 := a2 }

/-- A word can set a flag (R359). -/
def matSetsFlags (i : Instr) : Bool :=
  match mPar i with
  | some x => x.p.aty != .i8
  | none => match i with | .tscale _ => true | _ => false

/-- The word is in flight: its counter, its registers, and whether its group waits for it (R142, R359, R365, R451). -/
def matFly (s : State) (v : View) (ins : Instr) (dep : Option Nat) (seq : Nat) (acc : List (Nat × Nat × Bool × Nat × Nat)) : Fly :=
  let hold := v.is.step.isNone && (weirHolds s v.g v.tm || (v.g.fptrap != 0 && matSetsFlags ins))
  { flyRec v seq ins dep with
    unit := true, regs := writesOf (uses ins), srcs := readsOf (uses ins), late := true, hold := hold
    left := if hold then v.exec else 0, obsAcc := acc }

/-- The word issues with its record; the lanes of a held one stay at it. -/
def matFinish (s : State) (v : View) (f : Fly) (pre : List Hit) : State :=
  finish s v { g := countDep { v.g with fly := v.g.fly ++ [f] } f.dep, late := true, preHits := pre,
               stops := (lanesOf f.left).map fun L => (L, .park (.access f.seq)) }

/-- A word that the array of the issuing quad accepts (R345). -/
def matAccept (s : State) (v : View) (dep : Option Nat) (o : MatOp) (acc : List (Nat × Nat × Bool × Nat × Nat)) (pre : List Hit) : State :=
  let (seq, s1) := fresh s
  matFinish (modQuad s1 o.quad fun x => { x with queue := x.queue ++ [{ o with seq := seq }] }) v (matFly s v o.ins dep seq acc) pre

/-- A trap of every lane of the entry, with a word of R422. -/
def trapWord (s : State) (v : View) (cause w : Nat) : State := trapIssue s v { v.tr cause v.is.lanes with detail := if cause = 0x0C then w else 0 }

/-- The joint operation of a quartet: team and quartet. -/
def jointKey (team q : Nat) : Nat := team * 16 + q

/-- The joint parameters of an instruction: opcode, FN, ATYPE, CTYPE and SP (R347). -/
def jointPar (v : View) (x : MPar) : List Nat := [opOf v.w0.toNat, x.shape + (if x.r then 16 else 0), tyCode x.p.aty, tyCode x.p.cty, x.p.sp]

/-- The A fragment, and C with the metadata, as captured. -/
def mCaptureA (g : Group) (x : MPar) : AMap Word :=
  let (na, _, nc) := mmaSpans x.p
  capture g (capture g [] 0 x.p.a na) 128 x.p.c nc
/-- The B fragment as captured. -/
def mCaptureB (g : Group) (x : MPar) : AMap Word :=
  let (_, nb, _) := mmaSpans x.p
  capture g [] 0 (match x.p.b with | .reg n | .scal n | .imm n => n) nb

/-- The fourth member has issued: all four arrays accept the operation, each with its own member's A and the whole of B (R346). -/
def jointBegin (s : State) (j : Joint) : State :=
  let (jid, s1) := fresh s
  let all : AMap Word := j.members.foldl (fun m e => e.2.bq.foldl (fun m w => mput m (e.1 * 2048 + w.1) w.2) m) []
  let s2 := j.members.foldl (fun s e =>
    let o := { e.2 with jid := jid, bq := all }
    modGroup (modQuad s o.quad fun x => { x with queue := x.queue ++ [o] }) o.gid fun g =>
      modFly g o.seq fun f => { f with jid := jid, srcs := [] }) s1
  { s2 with joints := mdel s2.joints (jointKey j.team j.quartet) }

/-- A member of a quartet issues its joint instruction (R346 to R348). -/
def jointIssue (s : State) (v : View) (ins : Instr) (x : MPar) (o : MatOp) (old : Option Joint) : State :=
  let q := v.g.idx / 4
  let (seq, s1) := fresh s
  let j := old.getD { team := v.g.team, quartet := q, params := jointPar v x, since := s.now }
  let j1 := { j with members := mput j.members (v.g.idx % 4) { o with seq := seq, at_ := s.now } }
  let s2 := matFinish { s1 with joints := mput s1.joints (jointKey v.g.team q) j1 } v (matFly s v ins x.p.dep seq []) []
  if j1.members.length = 4 then jointBegin s2 j1 else s2

/-- MMA, MMAJ, MMAS and MMAJS: the checks in the order of R364, then the operation. -/
def mmaRun (s : State) (ins : Instr) (x : MPar) : Host.Outcome State Fault Refusal :=
  onIssue s fun v =>
    let w := (sget v.g x.p.d).toNat
    let q := v.g.idx / 4
    let old := if x.joint then mget? s.joints (jointKey v.g.team q) else none
    let o := { matOp v ins w 0 0 with regs := mCaptureA v.g x, bq := mCaptureB v.g x }
    if usesBad v.ln.kern (uses ins) || v.exec ≠ allLanes then trapEntryLanes s v 0x02
    else if x.joint && v.g.idx ≥ 4 * v.ln.kern.quartets then trapEntryLanes s v 0x02
    else if readsPoison v.g (uses ins) v.exec then trapAll s v 0x0D 0
    else if (old.map fun j => (mget? j.members (v.g.idx % 4)).isSome).getD false then holdAs 0x10B s v
    else if bitsOf w 24 8 ≠ 0 || w.testBit 15 then trapEntryLanes s v 0x02
    else if placeBad v.tm (quadOf v.g) w x.p.cty x.joint x.r then trapWord s v 0x0C w
    else if (old.map fun j => j.params != jointPar v x).getD false then trapEntryLanes s v 0x02
    else if x.joint then jointIssue s v ins x o old
    else matAccept s v x.p.dep o [] []

/-- MMA (R363). -/
def execMma (p : LX) (shape : Nat) (r : Bool) (s : State) : Host.Outcome State Fault Refusal :=
  mmaRun s (.mma p shape r) { p := p, shape := shape, r := r, joint := false, sparse := false }
/-- MMAJ (R346, R363). -/
def execMmaj (p : LX) (shape : Nat) (r : Bool) (s : State) : Host.Outcome State Fault Refusal :=
  mmaRun s (.mmaj p shape r) { p := p, shape := shape, r := r, joint := true, sparse := false }
/-- MMAS (R354, R363). -/
def execMmas (p : LX) (shape : Nat) (r : Bool) (s : State) : Host.Outcome State Fault Refusal :=
  mmaRun s (.mmas p shape r) { p := p, shape := shape, r := r, joint := false, sparse := true }
/-- MMAJS (R346, R354, R363). -/
def execMmajs (p : LX) (shape : Nat) (r : Bool) (s : State) : Host.Outcome State Fault Refusal :=
  mmaRun s (.mmajs p shape r) { p := p, shape := shape, r := r, joint := true, sparse := true }

/-! ### Allocation (R366 to R370) -/

/-- The quads, first block and blocks of a request word. -/
def reqOf (g : Group) (w : Nat) : List Nat × Nat × Nat :=
  let m := bitsOf w 12 4
  (if m = 0 then [quadOf g] else (List.range 4).filter fun q => m.testBit q, bitsOf w 0 4, bitsOf w 4 5)
/-- A reserved bit of a request word is set. -/
def reqResv (w : Nat) : Bool := bitsOf w 16 16 != 0 || bitsOf w 9 3 != 0

/-- TALLOC (R367): it grants every block or none, and never waits. -/
def execTalloc (p : LX) (s : State) : Host.Outcome State Fault Refusal :=
  run s (uses (.talloc p)) fun v =>
    let w := (sget v.g p.a).toNat
    let (qs, t0, n) := reqOf v.g w
    if reqResv w then trapAll s v 0x02 0
    else if n = 0 ∨ t0 + n > 16 ∨ qs.any fun q => (List.range n).any fun i => blockHeld v.tm q (t0 + i) then trapAll s v 0x0C w
    else if qs.all fun q => n ≤ freeBlocks s v.tm.core q then
      let s1 := modTeam s v.g.team fun t => qs.foldl (fun t q => (List.range n).foldl (fun t i =>
        { clearBlock t q (t0 + i) with blocks := mput t.blocks (q * 16 + t0 + i) true }) t) t
      finish s1 v { g := pset v.g p.d v.exec allLanes }
    else finish s v { g := pset v.g p.d v.exec 0 }

/-- An operation that was accepted or is pending targets one of the blocks (R368). -/
def blocksBusy (s : State) (team : Nat) (core : Nat) (qs : List Nat) (t0 n : Nat) : Bool :=
  let hit (o : MatOp) : Bool := o.team == team && qs.contains (o.quad % 4) && (matBlocks o).any fun b => t0 ≤ b && b < t0 + n
  ((List.range 4).any fun q => (quad s (quadKey core q)).queue.any hit)
    || s.joints.any fun e => e.2.team == team && e.2.members.any fun m => hit m.2

/-- TFREE (R368). A word that is held marks its group: the slice that tries it notes the hold (R435). -/
def execTfree (p : LX) (s : State) : Host.Outcome State Fault Refusal :=
  run s (uses (.tfree p)) fun v =>
    let w := (sget v.g p.a).toNat
    let (qs, t0, n) := reqOf v.g w
    if reqResv w then trapAll s v 0x02 0
    else if n = 0 ∨ t0 + n > 16 ∨ qs.any fun q => (List.range n).any fun i => mget v.tm.blocks false (q * 16 + t0 + i) == false then
      trapAll s v 0x0C w
    else if blocksBusy s v.g.team v.tm.core qs t0 n then
      let id := w % 2 ^ 12 + 2 ^ 12 * qs.foldl (fun m q => m + 2 ^ q) 0
      holdAs 0x10B (modGroup s v.is.gid fun g =>
        { g with tfree := some ((g.tfree.filter fun x => x.id == id).getD { kind := 7, id := id, since := s.now }) }) v
    else
      let s1 := modTeam s v.g.team fun t => qs.foldl (fun t q => (List.range n).foldl (fun t i =>
        { clearBlock t q (t0 + i) with blocks := mdel t.blocks (q * 16 + t0 + i) }) t) t
      finish s1 v { g := v.g }

/-- TZERO (R369). -/
def execTzero (p : LX) (s : State) : Host.Outcome State Fault Refusal :=
  run s (uses (.tzero p)) fun v =>
    let w := (sget v.g p.a).toNat
    let row := bitsOf w 0 8
    let nb := bitsOf w 8 5
    if bitsOf w 13 19 ≠ 0 then trapAll s v 0x02 0
    else if row % 16 ≠ 0 || nb = 0 || nb > 16 || row + 16 * nb > 256 || !rowsHeld v.tm (quadOf v.g) row (row + 16 * nb - 1) then
      trapAll s v 0x0C w
    else matAccept s v p.dep (matOp v (.tzero p) w 0 0) [] []

/-- TSTAT (R370). -/
def execTstat (p : LX) (s : State) : Host.Outcome State Fault Refusal :=
  run s (uses (.tstat p)) fun v =>
    let q := quadOf v.g
    let mask := (List.range 16).foldl (fun m b => if blockHeld v.tm q b then m + 2 ^ b else m) 0
    let x := if p.b == .imm 0 then mask + v.ln.kern.tbMin * 2 ^ 16 else freeBlocks s v.tm.core q
    finish s v { g := sset v.g p.d (BitVec.ofNat 32 x) }

/-! ### Moving tiles (R371 to R375) -/

/-- TLD and TST: the checks in the order of R373, the absent lines, and the operation. A PRE weir is evaluated before the lines. -/
def tileMove (s : State) (ins : Instr) (p : LX) (store : Bool) : Host.Outcome State Fault Refusal :=
  run s (uses ins) fun v =>
    let w := (sget v.g p.a).toNat
    let off := (bsval v.g p.b).toNat
    let stride := (sget v.g p.c).toNat
    let r := rectOf w
    let rows := rectRows r off stride
    let fail (cause : Nat) : State := trapIssue s v { v.tr cause v.exec with detail := v.exec.toNat, faddr := BitVec.ofNat 64 off }
    if rectResv w then trapAll s v 0x02 0
    else if store && r.last > r.row && stride < r.ncol * 4 then trapAll s v 0x02 0
    else if off + (r.last - r.row) * stride + r.ncol * 4 > v.tm.scrBytes then fail 0x04
    else if off % 4 ≠ 0 || stride % 4 ≠ 0 then fail 0x03
    else if rectBad v.tm (quadOf v.g) r then trapAll s v 0x0C w
    else
      let obs (m : Word) : List (Nat × Nat × Bool × Nat × Nat) :=
        (lanesOf m).flatMap fun L => rows.map fun (a, n) => (L, if store then 1 else 0, true, a, n)
      let (s0, pre0) := if store then weirEval s v.g v.tm v.exec v.is.pc { acc := obs v.exec } true []
        else (s, [])
      let pre := if v.is.step.isSome then [] else pre0
      let stopped := pre.foldl (fun m h => if h.action ≥ 2 then m ||| h.lanes else m) 0
      if v.exec &&& ~~~stopped = 0 then finish s0 v { g := v.g, preHits := pre }
      else match rows.findSome? fun (a, n) => lineAbsent v.tm a n with
        | some l =>
          -- nothing is counted for a word that issues again; lanes that a PRE weir has stopped are not among those that wait
          let (seq, s1) := fresh (if pre = [] then s else s0)
          finish s1 v { g := v.g, preHits := pre, stops := (lanesOf (v.exec &&& ~~~stopped)).map fun L => (L, .park (.line v.g.team l seq)) }
        | none =>
          let o := matOp v ins w off stride
          let words := (List.range (rectSize r)).map fun i => off + i / r.ncol * stride + i % r.ncol * 4
          let o1 := if store then o else { o with
            regs := words.zipIdx.foldl (fun m (a, i) => msetD m 0 i (BitVec.ofNat 32 (scrNat v.tm a 4))) []
            bq := words.zipIdx.foldl (fun m (a, i) => if scrPoisoned v.tm a 4 then mput m i 1 else m) [] }
          matAccept s0 { v with exec := v.exec &&& ~~~stopped } p.dep o1 (obs (v.exec &&& ~~~stopped)) pre

/-- TLD reads the scratchpad when it issues, in the program order of its lanes, and writes the tile in the array's order (R373). -/
def execTld (p : LX) (s : State) : Host.Outcome State Fault Refusal := tileMove s (.tld p) p false
/-- TST (R373). -/
def execTst (p : LX) (s : State) : Host.Outcome State Fault Refusal := tileMove s (.tst p) p true

/-- TREAD and TWRITE: the position's checks (R374). -/
def tilePos (s : State) (ins : Instr) (p : LX) (f : View → Nat → State) : Host.Outcome State Fault Refusal :=
  run s (uses ins) fun v =>
    let w := (sget v.g p.a).toNat
    if bitsOf w 15 17 ≠ 0 then trapAll s v 0x02 0
    else if bitsOf w 0 8 + 16 > 256 || bitsOf w 8 7 + 16 > 128 || !rowsHeld v.tm (quadOf v.g) (bitsOf w 0 8) (bitsOf w 0 8 + 15) then
      trapAll s v 0x0C w
    else f v w

/-- TREAD (R374). -/
def execTread (p : LX) (s : State) : Host.Outcome State Fault Refusal :=
  tilePos s (.tread p) p fun v w => matAccept s v p.dep (matOp v (.tread p) w 0 0) [] []
/-- TWRITE (R374). -/
def execTwrite (p : LX) (s : State) : Host.Outcome State Fault Refusal :=
  tilePos s (.twrite p) p fun v w => matAccept s v p.dep { matOp v (.twrite p) w 0 0 with regs := capture v.g [] 0 p.d 8 } [] []

/-- TSCALE (R375). -/
def execTscale (p : LX) (s : State) : Host.Outcome State Fault Refusal :=
  run s (uses (.tscale p)) fun v =>
    let w := (sget v.g p.a).toNat
    let r := rectOf w
    if rectResv w then trapAll s v 0x02 0
    else if rectBad v.tm (quadOf v.g) r || (p.cty == .f64 && (r.col % 2 ≠ 0 || r.ncol % 2 ≠ 0)) then trapAll s v 0x0C w
    else matAccept s v p.dep (matOp v (.tscale p) w (bsval v.g p.b).toNat 0) [] []

end Sys2Proof.Machine
end

