-- ==== Sys2Proof/Machine/Layers.lean ====
section
/-! DEFINITION. Machine/Layers.lean: the flags of layers and the layer instructions (R34, R378, R384, R389, R390). -/

namespace Sys2Proof.Machine

/-- A layer of a launch. -/
def layer? (s : State) (launch i : Nat) : Option Layer := (launch? s launch).bind fun ln => (layersOf ln)[i]?

/-- Change the model of a launch. -/
def modModel (s : State) (launch : Nat) (f : Model → Model) : State :=
  modLaunch s launch fun ln => { ln with model := ln.model.map f }

/-- Change a layer of a launch. -/
def modLayer (s : State) (launch i : Nat) (f : Layer → Layer) : State :=
  modModel s launch fun m => { m with layers := m.layers.modify i f }

/-- The layer's flag waits for its page, or no longer. -/
def pendFlag (s : State) (launch i : Nat) (on : Bool) : State :=
  modModel s launch fun m => { m with flagPend := m.flagPend.filter (· != i) ++ if on then [i] else [] }

/-- Put what Sluice holds of a layer into its flag word, once the flag's page is translated (R34). -/
def flushFlag (s : State) (launch i : Nat) : State :=
  match launch? s launch, layer? s launch i with
  | some ln, some ly => match ctx? s ln.ctx with
    | none => s
    | some c =>
      if deniedFor s (.stream launch) ly.flag then pendFlag s launch i false
      else match translateFor s none (.stream launch) c.pasid ly.flag .wr with
      | .ok k _ => pendFlag (homeWrite s k (leBytes 8 (ly.state + ly.gen % 2 ^ 32 * 2 ^ 32)) false) launch i false
      | .miss => askPage (pendFlag s launch i true) (.stream launch) ln.ctx ly.flag .wr 0
      | .deny => pendFlag s launch i false
  | _, _ => s

/-- Sluice writes the state of a layer; entering arriving advances GEN (R34). -/
def writeFlag (s : State) (launch i st : Nat) : State :=
  flushFlag (modLayer s launch i fun ly => { ly with state := st, gen := if st = 1 then (ly.gen + 1) % 2 ^ 32 else ly.gen }) launch i

/-- A layer is in its stream's queue (R378). -/
def layerQueued (s : State) (launch i : Nat) : Bool :=
  match (launch? s launch).bind (·.model) with
  | some m => m.rereq.contains i || m.initial.contains i
  | none => false

/-- A layer instruction with its index, checked (R389). -/
def layerRun (s : State) (ins : Instr) (b : Src) (f : View → Nat → Layer → State) : Host.Outcome State Fault Refusal :=
  run s (uses ins) fun v =>
    let i := (bsval v.g b).toNat
    match layer? s v.g.launch i with
    | some ly => f v i ly
    | none => trapAll s v 0x02 0

/-- LREQ acts by the flag as Sluice last wrote it: a failed layer becomes absent, and an absent or evicting one is queued (R390). -/
def reqLayer (s : State) (launch i st : Nat) : State :=
  let ask (s : State) : State := modModel s launch (joinRereq i)
  if st = 3 then ask (writeFlag s launch i 0) else if st = 0 || st = 4 then ask s else s

/-- LREQ (R390). -/
def execLreq (p : LS) (s : State) : Host.Outcome State Fault Refusal :=
  layerRun s (.lreq p) p.b fun v i ly =>
    finish (reqLayer s v.g.launch i ly.state) v { g := sset v.g p.d (BitVec.ofNat 32 ly.state) }

/-- LWAIT (R384, R390). -/
def execLwait (p : LS) (s : State) : Host.Outcome State Fault Refusal :=
  layerRun s (.lwait p) p.b fun v i ly =>
    let st := layerState s v.cx ly
    if st = 2 then
      finish (modTeam s v.g.team fun t => { t with holds := if t.holds.contains i then t.holds else t.holds ++ [i] }) v { g := v.g }
    else if st = 3 then trapIssue s v { v.tr 0x09 v.exec with detail := i, lyr := some (v.g.launch, i) }
    else if st = 8 then trapAll s v 0x0D 0
    else finish (requestLayer s v.g.launch i) v { g := v.g, stops := (lanesOf v.exec).map fun L => (L, .park (.layer i)) }

/-- The time at which a layer's last hold was cleared (R383): recorded where no team of the launch holds it. -/
def holdDropped (s : State) (launch i : Nat) : State :=
  if s.teams.any fun e => e.2.launch == launch && e.2.holds.contains i then s
  else modLayer s launch i fun ly => { ly with release := some s.now, heldOnce := true }

/-- LREL (R382, R383, R390). -/
def execLrel (p : LS) (s : State) : Host.Outcome State Fault Refusal :=
  layerRun s (.lrel p) p.b fun v i _ =>
    if v.tm.holds.contains i then
      finish (holdDropped (modTeam s v.g.team fun t => { t with holds := t.holds.filter (· != i) }) v.g.launch i) v { g := v.g }
    else finish s v { g := v.g }

/-- LSTAT (R390). -/
def execLstat (p : LS) (s : State) : Host.Outcome State Fault Refusal :=
  layerRun s (.lstat p) p.b fun v i ly =>
    let w := ly.state + 8 * bit (v.tm.holds.contains i) + 16 * bit (layerQueued s v.g.launch i)
      + (if ly.state = 3 then ly.fcause * 2 ^ 8 else 0)
    finish s v { g := sset (sset v.g p.d (BitVec.ofNat 32 w)) (p.d + 1) (BitVec.ofNat 32 ly.gen) }

end Sys2Proof.Machine
end

