-- ==== Sys2Proof/Machine/System.lean ====
section
/-! DEFINITION. Machine/System.lean: TRAP, TRET, host calls, and the privileged registers (R113, R114, R423, R437 to R443). -/

namespace Sys2Proof.Machine

/-- The word may issue where it is privileged: lanes in a handler, or, unless it is for handlers only, an inspector group (R437). -/
def privileged (s : State) (v : View) (handlerOnly : Bool) : Bool :=
  (!handlerOnly && isInspector s v.g.ctx) || (v.is.lanes != 0 && v.is.lanes &&& ~~~handLanes v.g = 0)

/-- A privileged instruction: any other group takes trap 0x01 with REASON 0x0E, before anything else. -/
def runPriv (s : State) (i : Instr) (handlerOnly : Bool) (f : View → State) : Host.Outcome State Fault Refusal :=
  onIssue s fun v => if privileged s v handlerOnly then shell s v (uses i) (f v) else trapIllegal s v .priv

/-- TRAP (R438). -/
def execTrap (imm : Nat) (s : State) : Host.Outcome State Fault Refusal := run s {} fun v => trapAll s v 0x0E imm

/-- TRET: the lanes of EXEC wait in the handler, and the last of them ends it (R423). -/
def execTret (s : State) : Host.Outcome State Fault Refusal :=
  runPriv s .tret true fun v =>
    tryReturn (finish s v { g := laneMod v.g v.exec fun _ l => { l with tret := true }
                            stops := (lanesOf v.exec).map fun L => (L, .run) }) v.is.gid

/-! ### Host calls (R439) -/

/-- The host-call ring is full. -/
def hcFull (d : Dev) : Bool := (d.hcProd + 2 ^ 64 - d.hcCons) % 2 ^ 64 == 64 * 2 ^ d.hcLogn

/-- The oldest record is sent, with its SEQ; records that find the ring full are dropped. -/
def hcSend : Nat → State → State
  | 0, s => s
  | n + 1, s =>
    match s.dev.hcPend with
    | [] => s
    | r :: rest =>
      if hcFull s.dev then hcSend n (modDev s fun d => { d with hcPend := rest, hcDrop := d.hcDrop + 1 })
      else emit s (.hcall (leBytes 8 (s.dev.hcProd + 1) ++ r))

/-- HCALL (R439). -/
def execHcall (p : SI) (s : State) : Host.Outcome State Fault Refusal :=
  run s (uses (.hcall p)) fun v =>
    let r := leBytes 2 p.imm ++ leBytes 2 v.g.ctx ++ leBytes 4 v.tm.t ++ leBytes 8 v.is.pc.toNat ++ leBytes 8 (sget64 v.g p.d).toNat
    let s1 := finish s v { g := v.g }
    if !s1.dev.hcEn then modDev s1 fun d => { d with hcDrop := d.hcDrop + 1 }
    else
      let s2 := modDev s1 fun d => { d with hcPend := d.hcPend ++ [r] }
      if s1.dev.hcPend = [] then hcSend 1 s2 else s2

/-- HCALL_WRITE_DONE: the host has completed the oldest record's write, or refused it (R439). -/
def execHcallWriteDone (s : State) : Host.Outcome State Fault Refusal :=
  .next (match s.dev.hcPend with
    | [] => s
    | r :: rest =>
      let n := s.dev.hcProd
      let s1 := if s.ev.flag then
          modDev (ridWrite s (s.dev.hcBase + n % (64 * 2 ^ s.dev.hcLogn) * 32) (leBytes 8 (n + 1) ++ r)) fun d =>
            { d with hcProd := n + 1, hcPend := rest }
        else modDev s fun d => { d with hcDrop := d.hcDrop + 1, hcPend := rest }
      hcSend (rest.length + 1) s1)

/-! ### Privileged registers (R440 to R443) -/

/-- The value of a privileged register (R440). -/
def privReg (s : State) (v : View) (n : Nat) : Nat :=
  match n with
  | 0 => v.g.fptrap
  | 1 => v.g.ctx
  | 2 => v.cx.pasid
  | 3 => bit v.cx.start
  | 4 => v.cx.wdlog
  | 5 => (coreAt s v.tm.core).budget
  | 6 => (v.g.hnd.map (·.tlanes.toNat)).getD 0
  | _ => 0

/-- SRDP (R440). -/
def execSrdp (p : LS) (s : State) : Host.Outcome State Fault Refusal :=
  runPriv s (.srdp p) false fun v => finish s v { g := sset v.g p.d (BitVec.ofNat 32 (privReg s v p.a)) }

/-- SWRP writes %fptrap, the one register that may be written (R440). -/
def execSwrp (p : LS) (s : State) : Host.Outcome State Fault Refusal :=
  runPriv s (.swrp p) false fun v => finish s v { g := { v.g with fptrap := (sget v.g p.a).toNat % 64 } }

/-- Write a 256-bit value to a scalar octet. -/
def sset256 (g : Group) (d x : Nat) : Group := (List.range 8).foldl (fun g i => sset g (d + i) (BitVec.ofNat 32 (x / 2 ^ (32 * i)))) g

/-- ILLRD reads ILLOG and clears VALID and OVF (R114, R442). -/
def execIllrd (p : LS) (s : State) : Host.Outcome State Fault Refusal :=
  runPriv s (.illrd p) false fun v =>
    let x := (coreAt s v.tm.core).illog
    let y := x - (if x.testBit 63 then 2 ^ 63 else 0) - (if x.testBit 62 then 2 ^ 62 else 0)
    finish (modCore s v.tm.core fun c => { c with illog := y }) v { g := sset256 v.g p.d x }

/-- FRMRD (R443). -/
def execFrmrd (p : LS) (s : State) : Host.Outcome State Fault Refusal :=
  runPriv s (.frmrd p) true fun v =>
    finish s v { g := sset64 v.g p.d (BitVec.ofNat 64 (v.cx.trapArea + ((v.g.hnd.map (·.frame)).getD 0) * 0x400)) }

end Sys2Proof.Machine
end

