-- ==== Sys2Proof/Machine/Watch.lean ====
section
/-! DEFINITION. Machine/Watch.lean: the weir instructions, trace marks and counters, and the events that act on Plume and the
monitors' units (R444 to R447, R458, R459, R469 to R475). -/

namespace Sys2Proof.Machine

/-! ### Weirs (R444 to R447, R458, R459) -/

/-- A PRE setting breaks R453. -/
def preBad (ctl : Nat) : Bool :=
  ctl.testBit 58 && (bitsOf ctl 56 2 != 0 || bitsOf ctl 52 4 != 2 || bitsOf ctl 60 3 < 2)

/-- The words of weir `n` break R459: WEIRSET traps, and a settings block is refused (R30). DESIGN CHOICE (log entry 72): a HI of SPACE 1
with bits 63:32 set and a LO of KIND 3 that is not 4-byte aligned break it too, of which R459's list says nothing. -/
def weirBad (n : Nat) (w : WeirCfg) : Bool :=
  let kind := bitsOf w.ctl 56 2
  let acc := bitsOf w.ctl 52 4
  let sp := bitsOf w.ctl 32 2
  let fpc := bitsOf w.ctl 46 6
  -- reserved fields and values
  bitsOf w.qual 0 8 != 0 || bitsOf w.ctl 60 3 == 7 || sp ≥ 2
    || (kind == 0 && sp == 1 && (w.cmp0 ≥ 2 ^ 32 || w.cmp1 ≥ 2 ^ 32)) || (kind == 2 && (w.cmp0 != 0 || w.cmp1 != 0))
    || (kind == 3 && w.cmp0 % 4 != 0)
    -- ranges
    || ((kind == 0 || kind == 3) && w.cmp1 ≤ w.cmp0)
    || (kind != 0 && sp != 0)
    || (kind != 2 && fpc != 0) || (kind == 2 && fpc == 0)
    || (kind < 2 && acc == 0) || (2 ≤ kind && acc != 0) || (kind == 1 && acc.testBit 3)
    || preBad w.ctl || (n == 31 && w.ctl.testBit 59)

/-- Weir `n` of a core is loaded, or another context owns it: WEIRSET and WEIRCLR trap (R459). -/
def weirTaken (s : State) (v : View) (n : Nat) : Bool :=
  let w := mget (coreAt s v.tm.core).weirs {} n
  w.st == 1 || (w.st == 2 && w.owner != v.g.ctx)

/-- The words that WEIRSET reads. -/
def weirArg (g : Group) (a : Nat) : WeirCfg :=
  { cmp0 := (sget64 g a).toNat, cmp1 := (sget64 g (a + 2)).toNat, qual := (sget64 g (a + 4)).toNat, ctl := (sget64 g (a + 6)).toNat }

/-- Put a weir of a core; a free one is not listed. -/
def putWeir (s : State) (cr n : Nat) (w : Weir) : State :=
  modCore s cr fun c => { c with weirs := msetD c.weirs {} n w }

/-- WEIRSET (R459). A change holds for the evaluations made after it completes, so its own comes first. -/
def execWeirset (p : LS) (s : State) : Host.Outcome State Fault Refusal :=
  run s (uses (.weirset p)) fun v =>
    let n := (bsval v.g p.b).toNat
    let w := weirArg v.g p.a
    if n ≥ 32 || weirTaken s v n || weirBad n w then trapAll s v 0x02 0
    else putWeir (finish s v { g := v.g }) v.tm.core n { st := 2, owner := v.g.ctx, launches := [v.g.launch], cfg := w, count := 0 }

/-- WEIRCLR (R459). -/
def execWeirclr (p : LS) (s : State) : Host.Outcome State Fault Refusal :=
  run s (uses (.weirclr p)) fun v =>
    let n := (bsval v.g p.b).toNat
    if n ≥ 32 || weirTaken s v n then trapAll s v 0x02 0 else putWeir (finish s v { g := v.g }) v.tm.core n {}

/-- What a selector of WEIRRD reads (R458). -/
def weirSel (w : Weir) (cx sel : Nat) : Nat :=
  if sel = 5 then (if w.st = 0 then 0 else if w.owner ≠ cx then 3 else w.st)
  else if w.st = 0 || w.owner ≠ cx then 0
  else match sel with
    | 0 => w.cfg.cmp0 | 1 => w.cfg.cmp1 | 2 => w.cfg.qual | 3 => w.cfg.ctl | _ => w.count

/-- WEIRRD (R458); selector 8 reads WEIRLOG, and clears VALID and OVF where the record is of the issuing context. -/
def execWeirrd (p : LS) (s : State) : Host.Outcome State Fault Refusal :=
  run s (uses (.weirrd p)) fun v =>
    let n := (bsval v.g p.b).toNat
    let c := coreAt s v.tm.core
    if p.c = 8 then
      if bitsOf c.weirLog 87 9 ≠ v.g.ctx then finish s v { g := sset256 v.g p.d 0 }
      else
        let x := c.weirLog
        let y := x - (if x.testBit 63 then 2 ^ 63 else 0) - (if x.testBit 62 then 2 ^ 62 else 0)
        finish (modCore s v.tm.core fun c => { c with weirLog := y }) v { g := sset256 v.g p.d x }
    else if n ≥ 32 then trapAll s v 0x02 0
    else finish s v { g := sset64 v.g p.d (BitVec.ofNat 64 (weirSel (mget c.weirs {} n) v.g.ctx p.c)) }

/-- Weirs of a core for which `f` holds are freed. -/
def freeWeirs (s : State) (cr : Nat) (f : Weir → Bool) : State :=
  if (coreAt s cr).weirs.any fun e => f e.2 then modCore s cr fun c => { c with weirs := c.weirs.filter fun e => !f e.2 } else s

/-! ### Trace marks and counters (R472 to R474) -/

/-- TRCMARK: a mark record in place of the issue record, where Plume records the core (R472). -/
def execTrcmark (p : LS) (s : State) : Host.Outcome State Fault Refusal :=
  run s (uses (.trcmark p)) fun v => finish s v { g := v.g, mark := some (p.c * 2 ^ 34 + (bsval v.g p.b).toNat * 4) }

/-- A core counter (R473): CYCLES, a leaf, or the idle slices, which are those that no other leaf counts. -/
def coreCounter (s : State) (cr n : Nat) : Nat :=
  let c := coreAt s cr
  if n = 0 then s.now
  else if n = 0x10 then 16 * s.now + popc c.did - (c.leaf.foldl (fun a e => a + e.2) 0)
  else mget c.leaf 0 n

/-- A value of a monitor unit (R474). -/
def monValue (m : Mon) (f : Nat) : Nat :=
  match f with
  | 0 => m.min | 1 => m.max | 2 => m.count | 3 => m.sum
  | 20 => m.cfg
  | _ => mget m.buckets 0 (f - 4)

/-- A counter number of CNTRD (R474). -/
def cntVal (s : State) (cr n : Nat) : Option Nat :=
  if n ≤ 0x12 then some (coreCounter s cr n)
  else if 0x400 ≤ n && n < 0x400 + 64 * 0x20 && n % 0x20 ≤ 20 then
    some (monValue (mget s.mons {} (cr / 96 * 64 + (n - 0x400) / 0x20)) (n % 0x20))
  else none

/-- CNTRD (R474). -/
def execCntrd (p : LS) (s : State) : Host.Outcome State Fault Refusal :=
  run s (uses (.cntrd p)) fun v =>
    match cntVal s v.tm.core (bsval v.g p.b).toNat with
    | none => trapAll s v 0x02 0
    | some x => finish s v { g := sset64 v.g p.d (BitVec.ofNat 64 x) }

end Sys2Proof.Machine
end

