-- ==== Sys2Proof/Machine/Frontier.lean ====
section
/-! DEFINITION. Machine/Frontier.lean: clause fetch, the frontier and its interlocks, and the events by which waiting lanes and words in
flight go on (R91, R97, R120 to R129, R140 to R142, R162, R184, R282 to R284). -/

namespace Sys2Proof.Machine

/-! ### Whether a group may act -/

/-- A wait of a group that keeps every word of it from issuing (R282, R91). -/
def stallsGroup (gid : Nat) (p : PWait) : Bool :=
  match p.who with
  | .lanes g _ => g == gid
  | .frame g => g == gid
  | .fetch g _ => g == gid && p.stage != .ok && p.stage != .deny
  | _ => false

/-- A group is stalled for a page. -/
def pageStalled (s : State) (gid : Nat) : Bool := s.waits.any (stallsGroup gid)

/-- A group's context holds its partition, or is its inspector, and is neither halted nor suspended (R46, R460); the cores are not held in
reset, as they are in STATE 3 (R484). -/
def ctxRuns (s : State) (cx : Nat) : Bool :=
  match ctx? s cx with
  | none => false
  | some c => ctxHere s cx && c.halt.isNone && !c.suspended && !c.unloading && s.dev.state != 3

/-- A TLD or TST: its first word. -/
def isTileMove (w0 : Word) : Bool := opOf w0.toNat == 0x6D

/-- A tile move parks its whole group on an absent line (R373). -/
def tileParked (g : Group) : Bool :=
  lanesWhere g (fun l => match l.st with
    | .park (.line _ _ _) => ((l.cl.bind fun c => wordAt c l.pc).map isTileMove).getD false
    | _ => false) != 0

/-- A group may issue a word or fetch a clause. -/
def groupActs (s : State) (gid : Nat) (g : Group) : Bool :=
  !g.ended && !g.frozen && g.trap.isNone && !(g.fly.any Fly.hold) && ctxRuns s g.ctx && !pageStalled s gid && !tileParked g
    && (match team? s g.team with | some t => t.st == .resident | none => false)

/-! ### The frontier (R127) -/

/-- An entry of the frontier. -/
structure Entry where
  pc : DWord
  lanes : Word
  /-- the clause, where it has been fetched -/
  cl : Option Clause
  deriving DecidableEq, Repr

/-- The entries over the lanes of a mask, by their PCs. -/
def entriesOf (g : Group) (m : Word) : List Entry :=
  (byPc g 32 m).map fun x =>
    { pc := (laneGet g (lowLane x)).pc, lanes := x, cl := (lanesOf x).findSome? fun L => (laneGet g L).cl }

/-- The frontier of a group. -/
def frontier (g : Group) : List Entry := entriesOf g (runLanes g)

/-- The word that an entry issues next: that after the header, where the lanes stand at it. -/
def entryWord (e : Entry) : DWord :=
  match e.cl with
  | some c => if e.pc = c.addr then e.pc + 4 else e.pc
  | none => e.pc

/-- The header of an entry's clause. -/
def entryHdr (e : Entry) : Header := match e.cl with | some c => hdrOf c | none => hdrOf { addr := 0, words := [] }

/-- The clause's WAIT is satisfied, or has been honoured (R97). -/
def waitMet (g : Group) (e : Entry) : Bool :=
  ((lanesOf e.lanes).all fun L => (laneGet g L).waited)
    || (List.range 8).all fun n => !(entryHdr e).wait.testBit n || dget g n = 0

/-- An entry's skip count: the largest of its lanes' (R129). -/
def entrySkip (g : Group) (e : Entry) : Nat := (lanesOf e.lanes).foldl (fun a L => max a (laneGet g L).skip) 0
/-- An entry is overdue. -/
def entryOver (g : Group) (e : Entry) : Bool := (lanesOf e.lanes).any fun L => (laneGet g L).overdue

/-! ### Interlocks (R140 to R142, R162) -/

/-- The counter that an instruction names. -/
def depOf (i : Instr) : Option Nat :=
  match i with
  | .ld p | .st p | .lds p _ | .sts p _ | .ldsc p _ | .stsc p _ | .ldx p | .stx p | .ldc p | .pld p | .pst p | .pref p
  | .rld p | .rst p | .rstCnt p => p.dep
  | .atom p _ | .atoms p _ | .atomc p | .red p _ | .stscb p | .ratom p _ => p.dep
  | .acopy p | .agath p | .ascat p | .acopym p => p.dep
  | .mma p _ _ | .mmaj p _ _ | .mmas p _ _ | .mmajs p _ _ | .tzero p | .tld p | .tst p | .tread p | .twrite p | .tscale p => p.dep
  | .rfence p | .cnote p | .coll p => p.dep
  | _ => none

/-- An access of the MEM class reads or writes the scratchpad, or waits at a barrier, and an engine operation or a tile move touches it:
they come after the tile stores of the group that were accepted before them (R373). -/
def afterTiles (w0 : Word) : Bool := classOf (opOf w0.toNat) == 1 || classOf (opOf w0.toNat) == 3 || isTileMove w0

/-- A word in flight can still set a flag (R162). -/
def flagsDue (f : Fly) : Bool := (f.left != 0 && setsFlagsLate f.ins) || (f.unit && classOf (opOf f.w0.toNat) == 2)

/-- The registers that VRDI and VWRI name through a scalar (R201). -/
def dynRegs (g : Group) (i : Instr) : List RegRef × List RegRef :=
  match i with
  | .vrdi _ a => ([.v (sget g a).toNat], [])
  | .vwri d _ => ([], [.v (sget g d).toNat])
  | _ => ([], [])

/-- An FSTAT read, write or clear. -/
def readsFlags : Instr → Bool
  | .fstatRd _ | .fstatWr _ _ | .fstatClr _ => true
  | _ => false

/-- The counter that an instruction names would reach 64 (R142). -/
def counterFull (g : Group) (i : Instr) : Bool := match depOf i with | some n => dget g n ≥ 63 | none => false

/-- A TST that its array has not performed. -/
def tileStoring (f : Fly) : Bool := f.unit && match f.ins with | .tst _ => true | _ => false

/-- An access to the team's scratchpad waits: a tile move of the group comes after it (R341, R373). -/
def scratchWaits (g : Group) : Bool := g.accs.any fun a => match a.space with | .scratch _ => true | .global => false

/-- Why a word waits: the leaf that R473 charges, and the words in flight whose registers stop it; none where it may issue. -/
def wordStop (g : Group) (h : Header) (w0 wn : Word) : Option (Nat × List Fly) :=
  if g.fly = [] then none
  else match decode w0.toNat wn.toNat with
    | .error _ => none
    | .ok i =>
      let u := uses i
      let (dr, dw) := dynRegs g i
      let rd := readsOf u ++ dr ++ (if h.guard = 31 then [] else [.p h.guard])
      let wr := writesOf u ++ dw
      let hit (f : Fly) : Bool := (rd.any f.regs.contains) || wr.any fun r => f.regs.contains r || f.srcs.contains r
      match g.fly.filter hit with
      | f :: r => some (match f.ins with
          | .rld _ | .ratom _ _ => 0x0F
          | _ => if classOf (opOf f.w0.toNat) = 1 then 0x0A else 9, f :: r)
      | [] =>
        if readsFlags i && g.fly.any flagsDue || counterFull g i || afterTiles w0 && g.fly.any tileStoring
          || isTileMove w0 && scratchWaits g then some (9, [])
        else none

/-- Why a word waits, as the leaf that R473 charges. -/
def wordHeld (g : Group) (h : Header) (w0 wn : Word) : Option Nat := (wordStop g h w0 wn).map Prod.fst

/-- Why an entry does not issue now, as the leaf that R473 charges; none where it is issuable, but for its unit. -/
def entryHeld (g : Group) (e : Entry) : Option Nat :=
  match e.cl with
  | none => some 7
  | some c =>
    if !waitMet g e then some 8
    else
      let pc := entryWord e
      wordHeld g (hdrOf c) ((wordAt c pc).getD 0) ((wordAt c (pc + 4)).getD 0)

/-- Entries of a group that may act that are issuable, but for their units (R121). -/
def issuable (s : State) (gid : Nat) (g : Group) : List Entry :=
  if groupActs s gid g then (frontier g).filter fun e => (entryHeld g e).isNone else []

/-- The better of two entries: higher PRI, then lower PC (R128). -/
def bestEntry (l : List Entry) : Option Entry :=
  l.foldl (fun b e => match b with
    | none => some e
    | some x => if (entryHdr x).pri < (entryHdr e).pri || ((entryHdr x).pri == (entryHdr e).pri && e.pc < x.pc) then some e else b) none

/-- The overdue entry that goes first: the largest skip count, then the lowest PC (R129). -/
def mostOver (g : Group) (l : List Entry) : Option Entry :=
  l.foldl (fun b e => match b with
    | none => some e
    | some x => if entrySkip g x < entrySkip g e || (entrySkip g x == entrySkip g e && e.pc < x.pc) then some e else b) none

/-- The entry that a chosen group issues (R128, R129, R133). -/
def chooseEntry (g : Group) (start : Bool) (l : List Entry) : Option Entry :=
  match mostOver g (if start then [] else l.filter (entryOver g)) with
  | some e => some e
  | none => bestEntry l

/-! ### Clause fetch (R91, R94) -/

/-- A trap at a clause header: the frame's PC is its address. -/
def fetchTr (e : Entry) (cause : Nat) : TrapRec := { cause := cause, pc := e.pc, npc := e.pc, tlanes := e.lanes, exec := e.lanes }

/-- The entry whose clause a fetch at an address would bring. -/
def fetchEntry (g : Group) (pc : DWord) : Option Entry := (frontier g).find? fun e => e.pc == pc && e.cl.isNone

/-- What reading code found, where it is no bytes: a wait or a trap (R91). -/
def fetchStop (s : State) (gid : Nat) (g : Group) (e : Entry) (r : CodeRes) : State :=
  let who : Waiter := .fetch gid e.pc
  match r with
  | .bytes _ => s
  | .page va =>
    let s1 := match ctx? s g.ctx with
      | some c => takeHolds s g.team c g.ctx g.launch [e.pc.toNat, va]
      | none => s
    askPage s1 who g.ctx va .ex e.lanes
  | .layer l i =>
    requestLayer (modGroup s gid fun g => laneMod g e.lanes fun _ x => { x with st := .park (.fetch l i), since := s.now }) l i
  | .failed l i => takeTrap (dropWaits s who) gid g.lanes { fetchTr e 0x09 with detail := i, lyr := some (l, i) }
  | .deny => takeTrap (dropWaits s who) gid g.lanes { fetchTr e 0x04 with detail := e.lanes.toNat, faddr := e.pc }
  | .poison => takeTrap (dropWaits s who) gid g.lanes (fetchTr e 0x0D)

/-- What a fetch brings: a clause, a failing header with the words of its clause, or a stop. -/
inductive FetchRes where
  | clause (c : Clause)
  | bad (r : Reason) (words : List Word)
  | stop (r : CodeRes)
  deriving DecidableEq, Repr

/-- Read the clause at an address: its header, then the words that COUNT gives (R91, R94). -/
def readClause (s : State) (c : Ctx) (cx cr : Nat) (who : Waiter) (pc : DWord) : FetchRes :=
  match readCode s c cx cr who pc.toNat 4 with
  | .bytes hb =>
    let n := bitsOf (leNat hb) 0 4
    (match readCode s c cx cr who pc.toNat (4 + 4 * n) with
     | .bytes bs =>
       let ws := (List.range (n + 1)).map fun i => BitVec.ofNat 32 (fieldAt bs (4 * i) 4)
       (match headerReason (leNat hb) with
        | some r => .bad r ws
        | none => .clause { addr := pc, words := ws })
     | r => .stop r)
  | r => .stop r

/-- Fetch the clause of an entry (R91); a failing header traps (R94, R112). -/
def fetchClause (s : State) (gid : Nat) (g : Group) (e : Entry) : State :=
  let who : Waiter := .fetch gid e.pc
  match ctx? s g.ctx with
  | none => s
  | some c =>
    let cr := coreOf s g
    match readClause s c g.ctx cr who e.pc with
    | .stop r => fetchStop s gid g e r
    | .bad r ws =>
      takeTrap (dropWaits (fillLines s cr g.team c.pasid who e.pc.toNat (4 * ws.length)) who) gid g.lanes { fetchTr e 0x01 with reason := reasonCode r, npc := e.pc + 4, w0 := ws.headD 0, w1 := ws[1]? }
    | .clause cl =>
      let s1 := takeHolds (dropWaits (fillLines s cr g.team c.pasid who e.pc.toNat (4 * cl.words.length)) who) g.team c g.ctx g.launch
        [e.pc.toNat, (clauseEnd cl).toNat - 1]
      modGroup s1 gid fun g => laneMod g e.lanes fun _ l => { l with cl := some cl, waited := false }

/-- A fetch can begin: the group may act and an entry stands at an unfetched header. -/
def canFetch (s : State) (gid : Nat) (pc : DWord) : Bool :=
  match group? s gid with
  | none => false
  | some g => groupActs s gid g && (fetchEntry g pc).isSome

/-- CLAUSE_FETCH (R91). -/
def execClauseFetch (s : State) : Host.Outcome State Fault Refusal :=
  .next (
    let pc := BitVec.ofNat 64 s.ev.c
    match group? s s.ev.a with
    | none => s
    | some g => match fetchEntry g pc with
      | some e => if groupActs s s.ev.a g then fetchClause s s.ev.a g e else s
      | none => s)

/-! ### Overdue entries and promotion (R124, R129) -/

/-- ENTRY_OVERDUE: an entry's skip count has reached 64 (R129). -/
def execEntryOverdue (s : State) : Host.Outcome State Fault Refusal :=
  .next (modGroup s s.ev.a fun g =>
    let m := lanesWhere g fun l => l.pc == BitVec.ofNat 64 s.ev.c && l.st == .run
    if (lanesOf m).any fun L => (laneGet g L).skip ≥ 64 then laneMod g m fun _ l => { l with overdue := true } else g)

/-- GROUP_PROMOTION: a wait count has reached 256 (R124). -/
def execGroupPromotion (s : State) : Host.Outcome State Fault Refusal :=
  .next (modGroup s s.ev.a fun g => if g.waitCnt ≥ 256 && g.promoted.isNone then { g with promoted := some s.now } else g)

/-! ### Words in flight (R142) -/

/-- A word in flight has completed in all its parts. -/
def flyOver (f : Fly) : Bool := f.left = 0 && !f.unit && !f.late && !f.hold && f.poison = 0

/-- A word whose parts were all performed while its group could not act goes on once the group acts again (R142, R406). -/
def flyWaits (f : Fly) : Bool := f.left = 0 && !f.unit && (f.late || f.hold || f.poison != 0)

/-- The record of a completed word goes, and its counter falls by 1 (R142). -/
def dropFly (g : Group) (f : Fly) : Group :=
  let g1 := { g with fly := g.fly.filter fun x => x.seq != f.seq }
  match f.dep with
  | some n => dset g1 n (dget g1 n - 1)
  | none => g1

/-- OP_COMPLETE (R142). -/
def execOpComplete (s : State) : Host.Outcome State Fault Refusal :=
  .next (match group? s s.ev.a with
    | none => s
    | some g => match flyOf g s.ev.b with
      | none => s
      | some f =>
        if flyOver f then setGroup s s.ev.a (dropFly g f)
        else if flyWaits f && groupLive s g then remDone s s.ev.a s.ev.b
        else s)

/-! ### Lanes that wait (R127, R184, R272, R384) -/

/-- Lanes outside a handler keep their state while one runs (R131). -/
def laneMay (g : Group) (l : Lane) : Bool := g.hnd.isNone || l.hand

/-- How a parked lane's wait stands. -/
inductive Unpark where
  | stays
  /-- the lane's access can be tried again -/
  | retry
  /-- the lane goes on at its own word -/
  | again
  /-- LWAIT: the layer is resident, or has failed -/
  | layerOk (layer : Nat)
  | layerBad (layer : Nat)
  /-- LWAIT: the flag word is poisoned (R478) -/
  | poison
  deriving DecidableEq, Repr

/-- How a lane's wait stands (R266, R272, R306, R384). -/
def unparkOf (s : State) (gid : Nat) (g : Group) (L : Nat) : Unpark :=
  match (laneGet g L).st with
  | .park (.access seq) =>
    (match g.accs.find? fun a => a.seq == seq && a.lanes.getLsbD L with
     | none => .stays
     | some a =>
       if (waitsOf s (.lanes gid seq)).any fun p => p.lanes &&& a.lanes != 0 then .stays
       else match team? s g.team, launch? s a.launch, ctx? s a.ctx with
         | some tm, some ln, some cx => if accReady s cx ln tm (.lanes gid seq) a == .wait then .stays else .retry
         | _, _, _ => .stays)
  | .park (.line t line _) => (match team? s t with
      | some tm => if (mget? tm.absent line).isSome || tm.st == .evicted || tm.st == .held then .stays else .again
      | none => .again)
  | .park (.fetch l i) => (match ctx? s g.ctx, (launch? s l).bind fun ln => (layersOf ln)[i]? with
      | some c, some ly => let st := layerState s c ly; if st = 2 || st = 3 || st = 8 then .again else .stays
      | _, _ => .again)
  | .park (.layer i) => (match ctx? s g.ctx, (launch? s g.launch).bind fun ln => (layersOf ln)[i]? with
      | some c, some ly => let st := layerState s c ly; if st = 2 then .layerOk i else if st = 3 then .layerBad i else if st = 8 then .poison else .stays
      | _, _ => .stays)
  | _ => .stays

/-- The source under which a park is recorded: presence 7, or layer 8 (R475). -/
def parkSource (s : State) (g : Group) (L : Nat) : Nat :=
  match (laneGet g L).st with
  | .park (.fetch _ _) | .park (.layer _) => 8
  | .park (.access seq) => (match g.accs.find? fun a => a.seq == seq && a.lanes.getLsbD L with
      | some a => (match a.space, ctx? s g.ctx with
          | .global, some c => if a.vas.any fun x => regionKind c x == 4 then 8 else 7
          | _, _ => 7)
      | none => 7)
  | _ => 7

/-- A lane can go on. -/
def canUnpark (s : State) (gid : Nat) (g : Group) (L : Nat) : Bool :=
  !g.ended && groupLive s g && g.trap.isNone && laneMay g (laneGet g L) && !(laneGet g L).wake && unparkOf s gid g L != .stays

/-- LANE_UNPARK: a parked lane whose wait has ended performs its access, or goes on (R266, R272, R384). -/
def unparkLane (s : State) (gid L : Nat) : State :=
  match group? s gid with
  | none => s
  | some g =>
    if !canUnpark s gid g L then s
    else
      let l := laneGet g L
      let s0 := monRecord s (some (coreOf s g)) g.ctx (parkSource s g L) (s.now - l.since)
      match unparkOf s gid g L, l.st with
      | .retry, .park (.access seq) => (match g.accs.find? fun a => a.seq == seq && a.lanes.getLsbD L with
          | some a => retryAcc s0 gid a
          | none => s)
      | .again, _ => modGroup s0 gid fun g => laneSet g L (goOn (laneGet g L))
      | .layerOk i, _ =>
        let s1 := modTeam s0 g.team fun t => { t with holds := if t.holds.contains i then t.holds else t.holds ++ [i] }
        modGroup s1 gid fun g => settle (passLane g L)
      | .layerBad i, _ =>
        let m := lanesWhere g fun x => x.st == l.st && x.pc == l.pc
        takeTrap s0 gid g.lanes { laneTr g L 0x09 m with detail := i, lyr := some (g.launch, i) }
      | .poison, _ => takeTrap s0 gid g.lanes (laneTr g L 0x0D (lanesWhere g fun x => x.st == l.st && x.pc == l.pc))
      | _, _ => s

/-- The lanes that wait as lane `L` does: for the same thing, at the same word. -/
def parkedAs (g : Group) (L : Nat) : Word := lanesWhere g fun l => l.st == (laneGet g L).st && l.pc == (laneGet g L).pc

/-- Lanes that wait for the same thing at the same word go on in the same step, each as it then may. -/
def unparkAll (s : State) (gid L : Nat) : State :=
  match group? s gid with
  | none => s
  | some g => (lanesOf (parkedAs g L)).foldl (fun s M => unparkLane s gid M) s

/-- LANE_UNPARK. -/
def execLaneUnpark (s : State) : Host.Outcome State Fault Refusal := .next (unparkAll s s.ev.a s.ev.b)

/-- The lanes whose sleep is over (R185). -/
def sleepers (g : Group) : Word := lanesWhere g fun l => l.st == .park (.sleep 0) && laneMay g l

/-- SLEEP_WAKE: lanes whose sleep is over go on (R185). -/
def execSleepWake (s : State) : Host.Outcome State Fault Refusal :=
  .next (modGroup s s.ev.a fun g => if sleepers g = 0 || !groupLive s g then g else settle (passLanes g (sleepers g)))

/-- CWAIT_POLL: the counter of a CWAIT is tested (R404, R430). -/
def execCwaitPoll (s : State) : Host.Outcome State Fault Refusal :=
  .next (match group? s s.ev.a with | some g => cwaitTests s g.ctx | none => s)

/-! ### Trap entry (R418, R419) -/

/-- A pending trap's frame can be written now. -/
def canEnter (s : State) (gid : Nat) (g : Group) : Bool :=
  (match g.trap with | some p => !writesPending g p.tr | none => false) && ctxRuns s g.ctx && !(waiting s (.frame gid))

/-- TRAP_ENTRY: once the earlier words of the group have written their registers and the frame can be written, the lanes enter the
handler (R418, R419). -/
def execTrapEntry (s : State) : Host.Outcome State Fault Refusal :=
  .next (match group? s s.ev.a with | some g => if canEnter s s.ev.a g then tryFrame s s.ev.a else s | none => s)

/-! ### Page-fault stalls (R282 to R284) -/

/-- FAULT_STALL_BLOCKING: a stall of 50 µs becomes a blocking point (R284). -/
def execFaultStallBlocking (s : State) : Host.Outcome State Fault Refusal :=
  .next (modGroup s s.ev.a fun g => match g.stallAt with
    | some t => if t + 120000 ≤ s.now then { g with stallLong := true } else g
    | none => g)

/-- The waits of a group's lanes that have been answered, and hold a lane that waits for no other page (R282). -/
def answeredWaits (s : State) (gid : Nat) : List PWait :=
  s.waits.filter fun p => (p.stage == .ok || p.stage == .deny) && match p.who with
    | .lanes g seq => g == gid && (p.lanes = 0 || p.lanes &&& ~~~(stillWait s gid seq) != 0)
    | _ => false

/-- A group's page-fault stall is over where it waits for nothing more. -/
def endStall (s : State) (gid : Nat) : State :=
  if pageStalled s gid then s else modGroup s gid fun g => { g with stallAt := none, stallLong := false }

/-- Waits of a word that have been answered go with the lanes that have replayed: those that have no access of it left. -/
def dropReplayed (s : State) (gid seq : Nat) : State :=
  let left : Word := ((group? s gid).map fun g => (g.accs.filter fun a => a.seq == seq).foldl (fun m a => m ||| a.lanes) (0 : Word)).getD 0
  { s with waits := s.waits.filterMap fun p =>
      if p.who == .lanes gid seq && (p.stage == .ok || p.stage == .deny) then
        if p.lanes &&& left = 0 then none else some { p with lanes := p.lanes &&& left }
      else some p }

/-- Lanes whose every page has been answered reissue their accesses: they are performed in ascending lane order, and then those that are
denied trap together (R262, R280, R282). -/
def reissue (s : State) (gid seq : Nat) (l : List Acc) : State :=
  match group? s gid with
  | none => s
  | some g =>
    let denied (a : Acc) : Bool := match team? s g.team, launch? s a.launch, ctx? s a.ctx with
      | some tm, some ln, some cx => accReady s cx ln tm (.lanes gid seq) a == .deny
      | _, _, _ => false
    dropReplayed ((l.filter (fun a => !denied a) ++ l.filter denied).foldl (fun s a => retryAcc s gid a) s) gid seq

/-- FAULT_REPLAY: the lanes of one word whose every page has been answered reissue their accesses, in ascending lane (R282). -/
def replayGroup (s : State) (gid : Nat) : State :=
  match group? s gid with
  | none => s
  | some g =>
    if !groupLive s g || g.trap.isSome then s
    else if g.hnd.isSome && s.waits.any fun p => p.who == .frame gid && (p.stage == .ok || p.stage == .deny) then
      -- the frame's page that a TRET waits for has been answered (R423)
      let s1 := tryReturn s gid
      endStall (if (group? s1 gid).any fun g => g.hnd.isNone then s1 else { s1 with waits := s1.waits.filter fun p => !(p.who == .frame gid && p.stage == .ok && p.tr.isNone) }) gid
    else match answeredWaits s gid with
      | [] => endStall s gid
      | p :: _ =>
        match p.who with
        | .lanes _ seq =>
          let busy := stillWait s gid seq
          let answered := (waitsOf s (.lanes gid seq)).foldl (fun m p => m ||| p.lanes) 0
          endStall (reissue s gid seq (g.accs.filter fun a => a.seq == seq && a.lanes &&& answered = a.lanes && a.lanes &&& busy = 0)) gid
        | _ => s

/-- FAULT_REPLAY. -/
def execFaultReplay (s : State) : Host.Outcome State Fault Refusal := .next (replayGroup s s.ev.a)

end Sys2Proof.Machine
end

