-- ==== Sys2Proof/Machine/Inspect.lean ====
section
/-! DEFINITION. Machine/Inspect.lean: inspector groups and the inspection instructions (R460 to R468). -/

namespace Sys2Proof.Machine

/-! ### Targets (R461, R462) -/

/-- The fields of a target word (R461). -/
structure Target where
  gid : Nat
  g : Group
  rkind : Nat
  reg : Nat
  lane : Nat
  vregs : Nat
  sregs : Nat
  /-- its context is halted by the halt line -/
  dead : Bool

/-- The context whose groups a group may name: TCTX for an inspector, its own for a handler lane (R462). -/
def targetCtx (s : State) (v : View) : Nat := if isInspector s v.g.ctx then (part s v.cx.part).tctx else v.g.ctx

/-- The group that a target word names, on the issuer's core: resident with its context there, or saved by the halt line (R461, R462). -/
def target? (s : State) (v : View) (w : Nat) : Option Target :=
  let cx := targetCtx s v
  let dead := ((ctx? s cx).map (·.halt.isSome)).getD false
  if bitsOf w 4 8 ≠ 0 then none
  else
    let here := s.groups.filter fun e => e.2.ctx == cx && !e.2.ended && e.1 != v.is.gid && e.2.slice == bitsOf w 0 4 && e.2.slot == bitsOf w 12 4
      && coreOf s e.2 == v.tm.core && (dead || (team? s e.2.team).any (teamHere s))
    match here with
    | [] => none
    | (gid, g) :: _ =>
      let k := ((launch? s g.launch).map (·.kern)).getD {}
      some { gid := gid, g := g, rkind := bitsOf w 21 3, reg := bitsOf w 24 8, lane := bitsOf w 16 5, vregs := k.vregs, sregs := k.sregs,
             dead := dead }

/-- The register number is one of its RKIND (R461). -/
def Target.regOk (t : Target) : Bool :=
  match t.rkind with
  | 0 => t.reg < t.vregs
  | 1 => (t.reg < 0x80 && t.reg < t.sregs) || (0x80 ≤ t.reg && t.reg ≤ 0x82)
  | 2 => t.reg < 24
  | 3 => t.reg < 12
  | 4 => t.reg < 8
  | 5 => t.reg < 3
  | _ => t.reg = 0

/-- The RKINDs that name a lane. -/
def Target.perLane (t : Target) : Bool := t.rkind == 0 || t.rkind == 2 || t.rkind == 7

/-- The condition of HRD, HWR and HPRD (R462): the named lane is halted, or the group is frozen or halted by the halt line. -/
def Target.still (t : Target) (perLane : Bool) : Bool :=
  t.dead || t.g.frozen
    || (if perLane then (laneGet t.g t.lane).st == .halted else lanesWhere t.g (fun l => l.st == .halted) != 0)

/-- The register of a target, as the scoreboard names it. -/
def Target.ref (t : Target) : Option RegRef :=
  match t.rkind with
  | 0 => some (.v t.reg)
  | 1 => if t.reg < 0x80 then some (.s t.reg) else none
  | 2 => some (.p t.reg) | 3 => some (.k t.reg) | 5 => some (.lc t.reg)
  | _ => none

/-- A write to the named register is pending, or for FSTAT a flag (R463). -/
def Target.busy (t : Target) : Bool :=
  t.g.fly.any fun f => (match t.ref with | some r => f.regs.contains r | none => t.rkind == 6 && flagsDue f)

/-- An inspection instruction on the target that scalar `a` names. -/
def inspRun (s : State) (i : Instr) (a : Nat) (f : View → Target → State) : Host.Outcome State Fault Refusal :=
  runPriv s i false fun v =>
    match target? s v (sget v.g a).toNat with
    | none => trapAll s v 0x02 0
    | some t => f v t

/-! ### Reading and writing (R463, R464) -/

/-- The value of a named register. -/
def Target.value (t : Target) : Nat :=
  match t.rkind with
  | 0 => (vget t.g t.reg t.lane).toNat
  | 1 => if t.reg = 0x80 then t.g.gsplit else if t.reg = 0x81 then bit t.g.steprnd else if t.reg = 0x82 then t.g.fptrap
         else (sget t.g t.reg).toNat
  | 2 => bit ((pget t.g t.reg).getLsbD t.lane)
  | 3 => (kget t.g t.reg).toNat
  | 4 => dget t.g t.reg
  | 5 => (lcget t.g t.reg).toNat
  | 6 => t.g.fstat
  | _ => (laneGet t.g t.lane).pc.toNat

/-- HRD (R463). -/
def execHrd (p : LS) (s : State) : Host.Outcome State Fault Refusal :=
  inspRun s (.hrd p) p.a fun v t =>
    if !t.regOk || !t.still t.perLane then trapAll s v 0x02 0
    else if t.busy then holdIssue s v
    else finish s v { g := sset64 v.g p.d (BitVec.ofNat 64 t.value) }

/-- The target group after a write of `x` (R463): the extended value goes with a vector write, masks are tested, and a PC write leaves
the loops that do not hold it. -/
def Target.write (t : Target) (x : Nat) : Group :=
  let g := t.g
  match t.rkind with
  | 0 => vset g t.reg t.lane (BitVec.ofNat 32 x)
  | 1 => if t.reg = 0x80 then { g with gsplit := x % 2 ^ 32 } else if t.reg = 0x81 then { g with steprnd := x % 2 == 1 }
         else if t.reg = 0x82 then { g with fptrap := x % 64 } else sset g t.reg (BitVec.ofNat 32 x)
  | 2 => pset g t.reg (lbit t.lane) (if x % 2 = 1 then allLanes else 0)
  | 3 => settle (kset g t.reg (BitVec.ofNat 32 x))
  | 5 => lcset g t.reg (BitVec.ofNat 32 x)
  | 6 => { g with fstat := x % 64 }
  | 7 =>
    let g1 := leaveLoops g t.lane (some (BitVec.ofNat 64 x))
    settle (laneSet g1 t.lane { laneGet g1 t.lane with pc := BitVec.ofNat 64 x, cl := none, waited := false })
  | _ => g

/-- HWR (R463). -/
def execHwr (p : LS) (s : State) : Host.Outcome State Fault Refusal :=
  inspRun s (.hwr p) p.a fun v t =>
    let r := match p.b with | .reg n | .scal n => n | .imm n => n
    let x := (sget64 v.g r).toNat
    if !t.regOk || !t.still t.perLane || t.rkind = 4 || (t.rkind = 1 && t.reg = 0x80 && !gsplitOk (x % 2 ^ 32)) || (t.rkind = 7 && x % 4 ≠ 0) then
      trapAll s v 0x02 0
    else if t.busy then holdIssue s v
    else finish (setGroup s t.gid (t.write x)) v { g := v.g }

/-- HPRD (R464): the lane's predicates and its state code. -/
def execHprd (p : LS) (s : State) : Host.Outcome State Fault Refusal :=
  inspRun s (.hprd p) p.a fun v t =>
    if !t.still true then trapAll s v 0x02 0
    else if t.g.fly.any fun f => f.regs.any fun r => match r with | .p _ => true | _ => false then holdIssue s v
    else
      let ps := (List.range 24).foldl (fun a i => a + (if (pget t.g i).getLsbD t.lane then 2 ^ i else 0)) 0
      finish s v { g := sset v.g p.d (BitVec.ofNat 32 (ps + stateCode (laneGet t.g t.lane) * 2 ^ 24)) }

/-! ### The held frontier and the scoreboard (R465, R466) -/

/-- Write a scalar quad. -/
def sset128 (g : Group) (d : Nat) (pc w2 w3 : Nat) : Group :=
  sset (sset (sset64 g d (BitVec.ofNat 64 pc)) (d + 2) (BitVec.ofNat 32 w2)) (d + 3) (BitVec.ofNat 32 w3)

/-- The held frontier: entries of running lanes and of halted lanes, PRI descending, then PC ascending, running first (R465). A clause
that has not been fetched has PRI 0. -/
def heldFrontier (g : Group) : List (Entry × Bool) :=
  let run := (entriesOf g (lanesWhere g fun l => stateCode l == 1)).map fun e => (e, false)
  let halt := (entriesOf g (lanesWhere g fun l => stateCode l == 4)).map fun e => (e, true)
  let pri (e : Entry) : Nat := if e.cl.isSome then (entryHdr e).pri else 0
  sortBy (fun e => ((15 - pri e.1) * 2 ^ 64 + e.1.pc.toNat) * 2 + bit e.2) (run ++ halt)

/-- HFRONT (R465). -/
def execHfront (p : LS) (s : State) : Host.Outcome State Fault Refusal :=
  inspRun s (.hfront p) p.a fun v t =>
    let l := heldFrontier t.g
    finish s v { g := match l[(bsval v.g p.b).toNat]? with
      | some (e, h) => sset128 v.g p.d e.pc.toNat e.lanes.toNat
          ((if e.cl.isSome then (entryHdr e).pri else 0) + min (entrySkip t.g e) 127 * 2 ^ 8 + l.length * 2 ^ 16 + bit h * 2 ^ 31)
      | none => sset128 v.g p.d 0 0 (l.length * 2 ^ 16) }

/-- The RKIND code and number of a register (R461). -/
def refCode : RegRef → Nat × Nat
  | .v n => (0, n) | .s n => (1, n) | .p n => (2, n) | .k n => (3, n) | .lc n => (5, n)

/-- HSCB (R466). -/
def execHscb (p : LS) (s : State) : Host.Outcome State Fault Refusal :=
  inspRun s (.hscb p) p.a fun v t =>
    let l := t.g.fly.flatMap fun f => f.regs.map fun r => (f, r)
    let n := min l.length 255 * 2 ^ 16
    finish s v { g := match l[(bsval v.g p.b).toNat]? with
      | some (f, r) =>
        let (k, x) := refCode r
        sset128 v.g p.d f.pc.toNat (x + k * 2 ^ 8 + f.dep.getD 0 * 2 ^ 12 + bit f.dep.isSome * 2 ^ 15 + n)
          (if f.left = 0 then f.lanes else f.left).toNat
      | none => sset128 v.g p.d 0 n 0 }

/-! ### Stepping and resuming (R467, R468) -/

/-- The step's status without an issue: the inspector's word completes with it. -/
def stepOver (s : State) (v : View) (d status : Nat) : State := finish s v { g := sset v.g d (BitVec.ofNat 32 status) }

/-- The step can issue the lane's word: the inspector's word completes, and the next step of the machine runs the target's. -/
def stepGo (s : State) (v : View) (t : Target) (d : Nat) (e : Entry) (c : Clause) : State :=
  let s1 := finish (modGroup s t.gid fun g => laneMod g e.lanes fun _ l => { l with cl := some c }) v { g := v.g }
  { s1 with sel := some { gid := t.gid, pc := entryWord e, cl := c, lanes := e.lanes, step := some (v.is.gid, d) } }

/-- HSTEP (R467). -/
def execHstep (p : LS) (s : State) : Host.Outcome State Fault Refusal :=
  inspRun s (.hstep p) p.a fun v t =>
    let l := laneGet t.g t.lane
    if t.dead || l.st != .halted then trapAll s v 0x02 0
    else match mget? t.g.fpPend t.lane with
      | some tr => stepOver (modGroup s t.gid fun g => { g with fpPend := mdel g.fpPend t.lane }) v p.d tr.cause
      | none =>
        let m := lbit t.lane
        let go (s : State) (c : Clause) : State :=
          let e : Entry := { pc := l.pc, lanes := m, cl := some c }
          let pc := entryWord e
          if !waitMet t.g e || (wordHeld t.g (hdrOf c) ((wordAt c pc).getD 0) ((wordAt c (pc + 4)).getD 0)).isSome then holdIssue s v
          else stepGo s v t p.d e c
        match l.cl, ctx? s t.g.ctx with
        | some c, _ => go s c
        | none, none => trapAll s v 0x02 0
        | none, some c =>
          let who : Waiter := .fetch t.gid l.pc
          (match readClause s c t.g.ctx v.tm.core who l.pc with
           | .clause cl => go (takeHolds (dropWaits (fillLines s v.tm.core t.g.team c.pasid who l.pc.toNat (4 * cl.words.length)) who) t.g.team c t.g.ctx
               t.g.launch [l.pc.toNat, (clauseEnd cl).toNat - 1]) cl
           | .bad _ _ => stepOver (dropWaits s who) v p.d 0x01
           | .stop (.page va) => holdAs 0x0E (askPage s who t.g.ctx va .ex m) v
           | .stop (.layer ln i) =>
             stepOver (requestLayer (modGroup s t.gid fun g => laneMod g m fun _ x =>
               { x with st := .park (.fetch ln i), haltPend := true, since := s.now }) ln i) v p.d (2 ^ 8)
           | .stop (.failed _ _) => stepOver (dropWaits s who) v p.d 0x09
           | .stop .poison => stepOver (dropWaits s who) v p.d 0x0D
           | .stop _ => stepOver (dropWaits s who) v p.d 0x04)

/-- A lane resumes: halted lanes run, and a pending halt is cancelled (R468). -/
def resumeLane (l : Lane) : Lane :=
  if l.st == .halted then { l with st := .run, skip := 0, overdue := false, waited := false } else { l with haltPend := false }

/-- HRESUME (R468). -/
def execHresume (p : LS) (s : State) : Host.Outcome State Fault Refusal :=
  inspRun s (.hresume p) p.a fun v t =>
    let mode := (bsval v.g p.b).toNat
    let l := laneGet t.g t.lane
    if t.dead || mode ≥ 3 || (mode = 0 && l.st != .halted && !l.haltPend) then trapAll s v 0x02 0
    else
      let s1 := finish s v { g := v.g }
      if mode = 0 then modGroup s1 t.gid fun g => laneMod g (lbit t.lane) fun _ l => resumeLane l
      else if mode = 1 then modGroup s1 t.gid fun g => laneMod g allLanes fun _ l => resumeLane l
      else { s1 with groups := mmap s1.groups fun _ g =>
        if g.ctx == t.g.ctx && g.slice == t.g.slice && g.frozen && !g.ended && coreOf s1 g == v.tm.core then
          { laneMod g allLanes (fun _ l => resumeLane l) with frozen := false } else g }

end Sys2Proof.Machine
end

