-- ==== Sys2Proof/Machine/Collect.lean ====
section
/-! DEFINITION. Machine/Collect.lean: Cascade: communicators, COLL and BKNOTE, the fixed order of reduction, and how collectives start,
complete and end (R408 to R416). -/

namespace Sys2Proof.Machine

/-! ### Ranges of a context's space -/

/-- A range cut at 4 KiB pages. -/
def vaPieces : Nat → Nat → Nat → List (Nat × Nat)
  | 0, _, _ => []
  | f + 1, va, n => if n = 0 then [] else let k := min n (4096 - va % 4096); (va, k) :: vaPieces f (va + k) (n - k)

/-- The pieces of a range. -/
def vaCut (va n : Nat) : List (Nat × Nat) := vaPieces (n / 4096 + 2) va n

/-- Whether a unit may read or write a range of its context now. -/
inductive VaRes where
  | ok
  /-- pages are asked for, or layers -/
  | wait (s : State)
  | denied
  | failed (launch layer : Nat)

/-- The need of a unit that reads or writes. -/
def ioNeed (w : Bool) : Need := if w then .wr else .rd

/-- Look a range up for a unit: layers for a read, then translations; what is missing is asked for (R271, R279). -/
def vaReady (s : State) (who : Waiter) (cx : Nat) (va n : Nat) (w : Bool) : VaRes :=
  match ctx? s cx with
  | none => .denied
  | some c =>
    let ps := vaCut va n
    let look (a : Nat) : TrRes := translate s none c.pasid a (ioNeed w)
    let lys : List LayerRes := if w then [] else ps.flatMap fun (a, k) => [layerCheck s c cx a, layerCheck s c cx (a + k - 1)]
    match lys.find? LayerRes.isFailed with
    | some (.failed l i) => .failed l i
    | _ =>
      if lys.any fun r => r != .ok then .wait (askLayers s c cx (ps.flatMap fun (a, k) => [a, a + k - 1]))
      else if ps.any fun (a, _) => match look a with
          | .deny => true | .miss => deniedFor s who a | .ok _ _ => false then .denied
      else
        let miss := ps.filter fun (a, _) => look a == .miss
        if miss = [] then .ok else .wait (miss.foldl (fun s e => askPage s who cx e.1 (ioNeed w) 0) s)

/-- The key of an address whose page is translated. -/
def vaKey (s : State) (pasid a : Nat) (w : Bool) : Option Nat :=
  match translate s none pasid a (ioNeed w) with | .ok k _ => some k | _ => none

/-- Read a range whose pages are translated, and whether a byte of it is poisoned: memory, or what a core sees of it (R333). -/
def vaRead (s : State) (u : Option Nat) (pasid va n : Nat) : List Nat × Bool :=
  (vaCut va n).foldl (fun r (a, k) => match vaKey s pasid a false with
    | some x => (r.1 ++ (match u with | some cr => coreBytes s cr pasid x k | none => readBytes s x k),
                 r.2 || match u with | some cr => corePois s cr pasid x k | none => poisoned s x k)
    | none => (r.1 ++ List.replicate k 0, r.2)) ([], false)

/-- Write a range whose pages are translated: at its home, or a private range of a core's context in its L1 (R271). -/
def vaWrite (s : State) (u : Option (Nat × Ctx)) (pasid va : Nat) (bs : List Nat) (poison : Bool) : State :=
  ((vaCut va bs.length).foldl (fun (r : State × List Nat) (a, k) =>
    (match vaKey r.1 pasid a true with
     | some x => (match u with
         | some (cr, c) => if regionKind c a = 1 then coreWrite r.1 cr c a x (r.2.take k) poison else homeWrite r.1 x (r.2.take k) poison
         | none => homeWrite r.1 x (r.2.take k) poison)
     | none => r.1, r.2.drop k)) (s, bs)).1

/-! ### Communicators (R409, R414) -/

/-- A valid entry of the communicator table. -/
structure CommEnt where
  m : Nat
  rank : Nat
  cid : Nat
  /-- the address of its device numbers, and the route class -/
  members : Nat
  rclass : Nat
  deriving DecidableEq, Repr

/-- The key of an entry. -/
def commKey (s : State) (slot i : Nat) : Nat := bitsOf (slotRegs s slot).commCfg 17 23 * 2 ^ 17 + 32 * i

/-- The valid entry that a context may use, where CMEN is set. -/
def commEnt (s : State) (slot i : Nat) : Option CommEnt :=
  if !(slotRegs s slot).commCfg.testBit 0 then none
  else
    let w := tabEntry s slot 3 i (commKey s slot i) 32
    let m := bitsOf w 32 32
    let r := bitsOf w 64 32
    if bitsOf w 0 16 ≠ 1 || bitsOf w 16 16 ≠ 0 || m < 2 || m > 32768 || (m > 8 && m % 8 ≠ 0) || r ≥ m || bitsOf w 194 62 ≠ 0
        || bitsOf w 128 1 ≠ 0 then none
    else some { m := m, rank := r, cid := bitsOf w 96 32, members := bitsOf w 128 64, rclass := bitsOf w 192 2 }

/-- The key of a communicator of a slot. -/
def commId (slot i : Nat) : Nat := slot * 4096 + i

/-- A communicator of a slot. -/
def commAt (s : State) (slot i : Nat) : Comm := mget s.comms {} (commId slot i)

/-- The next expected SEQ (R414). -/
def commNext (s : State) (slot i : Nat) : Nat := (commAt s slot i).next

/-- Change a communicator of a slot. -/
def modComm (s : State) (slot i : Nat) (f : Comm → Comm) : State := { s with comms := msetD s.comms {} (commId slot i) (f (commAt s slot i)) }

/-- A SEQ has started: it lies below the lowest that has not, or is listed above it. -/
def Comm.has (c : Comm) (q : Nat) : Bool := q < c.next || c.started.contains q

/-- The lowest SEQ from `q` on that is not listed. -/
def firstGap (l : List Nat) : Nat → Nat → Nat
  | 0, q => q
  | f + 1, q => if l.contains q then firstGap l f (q + 1) else q

/-- A SEQ starts (R414). -/
def Comm.start (c : Comm) (q : Nat) : Comm :=
  let n := firstGap (q :: c.started) (c.started.length + 1) c.next
  { next := n, started := (q :: c.started).filter fun x => n < x }

/-- A SEQ has ended: it has not started any more, and the next expected SEQ returns to it where it was above (R415). -/
def Comm.unstart (c : Comm) (q : Nat) : Comm :=
  if q < c.next then { next := q, started := (List.range (c.next - q - 1)).map (fun i => q + 1 + i) ++ c.started }
  else { c with started := c.started.filter (· != q) }

/-- The entry that receives the messages of a CID: the lowest loaded slot, then the lowest index (R409). -/
def cidHome (s : State) (cid : Nat) : Option (Nat × Nat) :=
  s.ctxs.findSome? fun e => ((List.range 4096).find? fun i => (commEnt s e.1 i).map (·.cid) == some cid).map fun i => (e.1, i)

/-! ### Sizes (R410) -/

/-- Bytes of an element, or of a block. -/
def collUnit (t : Ty) (block : Bool) : Nat := if block then 36 else tyBytes t
/-- Elements, or blocks. -/
def collUnits (count : Nat) (block : Bool) : Nat := if block then count / 32 else count
/-- Payload bytes. -/
def collPay (t : Ty) (block : Bool) (count : Nat) : Nat := collUnits count block * collUnit t block
/-- Bytes of SRC. -/
def collSrcLen (op m pay : Nat) : Nat := if op = 3 then m * pay else pay
/-- The units of a rank's share of a reduce-scatter: first, and one past the last. -/
def collShare (rank m units : Nat) : Nat × Nat := (rank * units / m, (rank + 1) * units / m)
/-- Bytes of DST. -/
def collDstLen (op m rank units pay w : Nat) : Nat :=
  if op = 1 then let (a, b) := collShare rank m units; (b - a) * w else if op = 2 ∨ op = 3 then m * pay else pay

/-- Types that a reduction allows. -/
def redType : Ty → Bool
  | .f64 | .f32 | .f16 | .bf16 | .i32 | .n32 | .i64 | .n64 | .x2f32 | .x2f16 | .x2bf16 | .x2f64 | .e4m3 | .e5m2 => true
  | _ => false
/-- Types that a move allows. -/
def moveType : Ty → Bool
  | .n8 | .n16 | .n32 | .n64 => true
  | _ => false

/-! ### The operators and the order of reduction (R411, R413) -/

/-- An element of a block with its scale. -/
def blkVal (t : Ty) (s x : Nat) : FV := scaled (fdec t x) s

/-- The value exceeds the format's largest finite once rounded. -/
def blkOver (t : Ty) (s : Nat) (x : FV) : Bool :=
  match x with
  | .nan _ => false
  | .inf _ => true
  | .fin n m e => (frnd t .rne 0 false (.fin n m (e + 127 - s))).2.testBit 2

/-- The sum of two elements, exact; the first NaN stays, quieted (R158). -/
def blkSum (t : Ty) (a b : FV) : FV :=
  match a, b with
  | .nan x, _ => .nan (quietBits t x)
  | _, .nan y => .nan (quietBits t y)
  | _, _ => (fvAdd .rne a b).getD (.nan (canonNan t))

/-- The scale that holds every element: raised until none exceeds the format, or to 254. -/
def blkRaise (t : Ty) (xs : List FV) : Nat → Nat → Nat
  | 0, s => s
  | f + 1, s => if s < 254 && xs.any (blkOver t s) then blkRaise t xs f (s + 1) else s

/-- Two blocks combine (R413). -/
def blockAdd (t : Ty) (a b : List Nat) : List Nat :=
  let s1 := a.headD 0
  let s2 := b.headD 0
  let esc := (a.drop 1).headD 0 + (b.drop 1).headD 0
  let sat := Nat.lor ((a.drop 2).headD 0 % 2) ((b.drop 2).headD 0 % 2)
  if s1 = 255 ∨ s2 = 255 then [255, min 255 esc, sat, 0] ++ List.replicate 32 (canonNan t)
  else
    let xs := (List.range 32).map fun i => blkSum t (blkVal t s1 (a[4 + i]?.getD 0)) (blkVal t s2 (b[4 + i]?.getD 0))
    let s0 := max s1 s2
    let s := blkRaise t xs 255 s0
    let ys := xs.map fun x => match x with
      | .fin n m e => frnd t .rne 0 true (.fin n m (e + 127 - s))
      | x => frnd t .rne 0 true x
    [s, min 255 (esc + (s - s0)), Nat.lor sat (if ys.any fun y => y.2.testBit 2 then 1 else 0), 0] ++ ys.map Prod.fst

/-- Bytes as components of a type. -/
def unitComps (t : Ty) (bs : List Nat) : List Nat :=
  (List.range (tyN t)).map fun i => fieldAt bs (i * tyBytes1 (tyComp t)) (tyBytes1 (tyComp t))

/-- The operator of a type on two units, as bytes (R411). -/
def collOp (t : Ty) (block : Bool) (a b : List Nat) : List Nat :=
  let n := tyBytes1 (tyComp t)
  if block then blockAdd t a b
  else if tyExp t then
    ((xOp (tyComp t) (tyN t) [(unitComps t a).map (fdec (tyComp t)), (unitComps t b).map (fdec (tyComp t))] fun l => match l with
      | [x, y] => fvAdd .rne x y
      | _ => none).1).flatMap (leBytes n)
  else if tyInt t then leBytes n ((leNat a + leNat b) % 2 ^ (8 * n))
  else leBytes n (fAdd t .rne 0 (fdec t (leNat a)) (fdec t (leNat b))).bits

/-- Neighbours combine; an odd one is left over (R411). -/
def pairUp {α : Type} (f : α → α → α) : List α → List α
  | a :: b :: r => f a b :: pairUp f r
  | l => l

/-- The tree over a node's ranks. -/
def treeUp {α : Type} (f : α → α → α) : Nat → List α → List α
  | 0, l => l
  | n + 1, l => if l.length ≤ 1 then l else treeUp f n (pairUp f l)

/-- The result of one unit of shard `s`: NODE of each node, folded from node s mod N on (R411). `x` gives a rank's contribution. -/
def reduceUnit (f : List Nat → List Nat → List Nat) (m s : Nat) (x : Nat → List Nat) : List Nat :=
  let nn := (m + 7) / 8
  let node (n : Nat) : List Nat := (treeUp f 4 ((List.range (min m 8)).map fun j => x (8 * n + j))).headD []
  (List.range (nn - 1)).foldl (fun acc i => f acc (node ((s + i + 1) % nn))) (node (s % nn))

/-! ### Ends (R415) -/

/-- A collective of this device. -/
def coll? (s : State) (id : Nat) : Option Coll := mget? s.colls id
/-- Change a collective. -/
def modColl (s : State) (id : Nat) (f : Coll → Coll) : State := { s with colls := mmod s.colls id f }

/-- The devices of the other members of a collective's communicator, in rank order (R409). -/
def collPeers (s : State) (c : Coll) : List Nat :=
  ((List.range c.m).filter (· != c.rank)).map fun r => readNat s (c.members + 2 * r) 2

/-- The devices of the other members that some route reaches still (R415). -/
def collReached (s : State) (c : Coll) : List Nat := (collPeers s c).filter fun d => (List.range 4).any fun k => routeOk s d k

/-- Collectives end with a status: their messages go, the next expected SEQ returns to the lowest that ended, and the other members are
told (R415). -/
def endColls (s : State) (status : Nat) (tell : Bool) (f : Coll → Bool) : State :=
  (s.colls.filter fun e => e.2.ended.isNone && f e.2).foldl (fun s (id, c) =>
    let s1 := modColl s id fun c => { c with ended := some status }
    let s2 := { s1 with cmsgs := s1.cmsgs.filter fun m => !(m.slot == c.slot && m.comm == c.comm && m.seq == c.seq) }
    let s3 := modComm s2 c.slot c.comm fun x => if x.has c.seq then x.unstart c.seq else x
    if tell then emit s3 (.endNotice c.cid c.seq status (collReached s3 c)) else s3) s

/-- A SEQ of a communicator ends, and with it every started collective above it (R415). -/
def endSeq (s : State) (slot i q status : Nat) (tell : Bool) : State :=
  endColls s status tell fun x => x.slot == slot && x.comm == i && (x.seq == q || (q < x.seq && x.started))

/-- One collective ends. -/
def endColl (s : State) (c : Coll) (status : Nat) (tell : Bool) : State := endSeq s c.slot c.comm c.seq status tell

/-- COLL_END_NOTICE_RECEIVE (R415): the SEQ that it names may have completed here. -/
def execCollEndNoticeReceive (s : State) : Host.Outcome State Fault Refusal :=
  .next (match cidHome s s.ev.a with
    | none => s
    | some (slot, i) => endSeq s slot i s.ev.b s.ev.c false)

/-! ### COLL (R410, R414) -/

/-- Arrays overlap, and are not the same array of an in-place all-reduce; an empty one overlaps none. -/
def arraysMeet (op src n dst k : Nat) : Bool := n != 0 && k != 0 && meets src n dst k && !(op == 0 && src == dst)

/-- COLL (R410). -/
def execColl (p : LS) (s : State) : Host.Outcome State Fault Refusal :=
  run s (uses (.coll p)) fun v =>
    let r (i : Nat) : Nat := (sget v.g (p.a + i)).toNat
    let src := (sget64 v.g p.a).toNat
    let dst := (sget64 v.g (p.a + 2)).toNat
    let count := r 4
    let i := bitsOf (r 5) 0 12
    let op := bitsOf (r 5) 12 4
    let bucket := (r 5).testBit 21
    let seq := r 6
    let cnt := objOffset v.g p.c
    let s := if (slotRegs s v.g.ctx).commCfg.testBit 0 then tabFill s v.g.ctx 3 i (commKey s v.g.ctx i) 32 else s
    match commEnt s v.g.ctx i, tyOf (bitsOf (r 5) 16 5) with
    | none, _ => trapAll s v 0x02 0
    | _, none => trapAll s v 0x02 0
    | some e, some t =>
      let block := t == .e4m3 || t == .e5m2
      let w := collUnit t block
      let pay := collPay t block count
      let ns := collSrcLen op e.m pay
      let nd := collDstLen op e.m e.rank (collUnits count block) pay w
      let here := s.colls.filter fun x => x.2.slot == v.g.ctx && x.2.comm == i && x.2.ended.isNone
      let al := if block then 4 else w
      let fail (cause a : Nat) : State := trapIssue s v { v.tr cause v.exec with detail := v.exec.toNat, faddr := BitVec.ofNat 64 a }
      if op ≥ 5 || !(if op ≤ 1 then redType t else moveType t) || count = 0 || (block && count % 32 ≠ 0) || bitsOf (r 5) 22 10 ≠ 0
          || (if op = 4 then r 7 ≥ e.m else r 7 ≠ 0) then trapAll s v 0x02 0
      else if ns > 2 ^ 32 || nd > 2 ^ 32 || arraysMeet op src ns dst nd
          || (bucket && (op ≥ 2 || pay < 2 ^ 22 || pay > 2 ^ 28)) then trapAll s v 0x02 0
      else if seq < commNext s v.g.ctx i || here.any fun x => x.2.seq == seq then trapAll s v 0x02 0
      else if cnt.any (fun c => c > 255) || (cnt.isSome && !(slotRegs s v.g.ctx).expCnt.testBit 0) then trapAll s v 0x02 0
      else if src % al ≠ 0 then fail 0x03 src
      else if dst % al ≠ 0 then fail 0x03 dst
      else if globBad s v false (src, ns) then fail 0x04 src
      else if nd ≠ 0 && globBad s v true (dst, nd) then fail 0x04 dst
      else if ownPoison s v [(src, ns), (dst, nd)] then trapAll s v 0x0D 0
      else withOwners s v (ownPages s v [(src, ns), (dst, nd)]) fun s =>
        if here.length ≥ 16 then holdIssue s v
        else
          let (fid, s1) := fresh s
          let (id, s2) := fresh s1
          let c : Coll :=
            { id := id, slot := v.g.ctx, comm := i, cid := e.cid, seq := seq, m := e.m, rank := e.rank, gid := v.is.gid, fly := fid,
              team := v.g.team, launch := v.g.launch, core := v.tm.core, pc := v.is.pc, w0 := v.w0, w1 := v.w1.getD 0, exec := v.exec,
              dreg := p.d, src := src, dst := dst, count := count, op := op, ty := t, block := block, bucket := bucket, root := r 7,
              counter := cnt, members := e.members, rclass := e.rclass, posted := s.now }
          let f := { flyRec v fid (.coll p) p.dep with unit := true, regs := [.s p.d] }
          let s3 := { s2 with colls := mput s2.colls id c }
          -- with a link down it ends at once (R408)
          finish (if s.dev.linkDown ≠ 0 then endColl s3 c 1 true else s3) v { g := countDep { v.g with fly := v.g.fly ++ [f] } p.dep }

/-- BKNOTE (R416). -/
def execBknote (p : LS) (s : State) : Host.Outcome State Fault Refusal :=
  run s (uses (.bknote p)) fun v =>
    let i := (sget v.g p.a).toNat
    let q := (bsval v.g p.b).toNat
    let n := (sget v.g p.c).toNat
    match s.colls.find? fun e => e.2.slot == v.g.ctx && e.2.comm == i && e.2.seq == q && e.2.bucket && !e.2.started && e.2.ended.isNone with
    | none => trapAll s v 0x02 0
    | some (id, c) =>
      if c.fill + n > collPay c.ty c.block c.count then trapAll s v 0x07 0
      else modColl (finish s v { g := v.g }) id fun c => { c with fill := c.fill + n }

/-! ### Starting, messages and completion (R410, R411, R414) -/

/-- A posted collective may start: the SEQ before its own has started or its own is the next expected one, its bucket is full, and its context runs (R414). -/
def canStart (s : State) (c : Coll) : Bool :=
  !c.started && c.ended.isNone && (c.seq == commNext s c.slot c.comm || (commAt s c.slot c.comm).has (c.seq - 1)) && (!c.bucket || c.fill == collPay c.ty c.block c.count)
    && !waiting s (.coll c.id) && (match ctx? s c.slot with | some x => x.halt.isNone | none => false)

/-- COLL_START: the contribution is read, as an engine reads its source, and leaves for the other members (R410, R414). -/
def startColl (s : State) (c : Coll) : State :=
  let n := if c.op = 4 ∧ c.rank ≠ c.root then 0 else collSrcLen c.op c.m (collPay c.ty c.block c.count)
  match vaReady s (.coll c.id) c.slot c.src n false with
  | .wait s1 => s1
  | .denied => endColl (dropWaits s (.coll c.id)) { c with started := true } 3 true
  | .failed _ _ => endColl (dropWaits s (.coll c.id)) { c with started := true } 3 true
  | .ok =>
    let (bs, po) := vaRead s (some c.core) (((ctx? s c.slot).map (·.pasid)).getD 0) c.src n
    let s1 := modComm (modColl (dropWaits s (.coll c.id)) c.id fun c => { c with started := true, mine := bs, minePois := po }) c.slot c.comm
      (·.start c.seq)
    if n = 0 then s1 else emit s1 (.coll c.cid c.seq c.rank (collPeers s1 c) c.rclass bs po)

/-- The collective of a communicator and a SEQ that a device step names. -/
def collOf (s : State) (slot i q : Nat) : Option Coll :=
  (s.colls.find? fun e => e.2.slot == slot && e.2.comm == i && e.2.seq == q).map Prod.snd

/-- COLL_START. -/
def execCollStart (s : State) : Host.Outcome State Fault Refusal :=
  .next (match collOf s s.ev.a s.ev.b s.ev.c with
    | some c => if canStart s c then startColl s c else s
    | none => s)

/-- COLL_MESSAGE: a contribution arrives for the entry that receives the CID (R409). For an all-to-all it is the chunk of this rank. -/
def execCollMessage (s : State) : Host.Outcome State Fault Refusal :=
  .next (match cidHome s s.ev.a with
    | none => s
    | some (slot, i) =>
      let m : CMsg := { slot := slot, comm := i, seq := s.ev.b, rank := s.ev.c, bytes := s.ev.data, poison := s.ev.flag }
      if s.cmsgs.any fun x => x.slot == slot && x.comm == i && x.seq == m.seq && x.rank == m.rank then s
      else { s with cmsgs := s.cmsgs ++ [m] })

/-- The contribution of a rank to a collective, where it is here. -/
def contrib (s : State) (c : Coll) (rank : Nat) : Option (List Nat × Bool) :=
  if rank = c.rank then some (c.mine, c.minePois)
  else (s.cmsgs.find? fun m => m.slot == c.slot && m.comm == c.comm && m.seq == c.seq && m.rank == rank).map fun m => (m.bytes, m.poison)

/-- The ranks whose contributions a collective needs. -/
def collNeeds (c : Coll) : List Nat := if c.op = 4 then [c.root] else List.range c.m

/-- Every contribution is here. -/
def collHas (s : State) (c : Coll) : Bool := c.started && (collNeeds c).all fun r => (contrib s c r).isSome

/-- What a collective leaves in DST: chunks with their poison (R410, R411). -/
def collResult (s : State) (c : Coll) : List (List Nat × Bool) :=
  let w := collUnit c.ty c.block
  let units := collUnits c.count c.block
  let pay := units * w
  let part (r : Nat) : List Nat × Bool := (contrib s c r).getD ([], false)
  if c.op ≤ 1 then
    let (a, b) := if c.op = 1 then collShare c.rank c.m units else (0, units)
    [((List.range (b - a)).flatMap fun k =>
        let e := a + k
        reduceUnit (collOp c.ty c.block) c.m (if c.block then e else e / 32) fun r => slice (part r).1 (e * w) w, false)]
  else if c.op = 3 then
    (List.range c.m).map fun r => let (bs, po) := part r; (if r = c.rank then slice bs (r * pay) pay else slice bs 0 pay, po)
  else (collNeeds c).map fun r => let (bs, po) := part r; (slice bs 0 pay, po)

/-- DST after a collective that did not succeed: each byte is the old one, or any (R410); its poison stays (R478). -/
def collFree (s : State) (c : Coll) (n : Nat) : State :=
  match ctx? s c.slot with
  | none => s
  | some x =>
    let old := (vaRead s none x.pasid c.dst n).1
    let s1 := vaWrite { s with free := s.free + n } none x.pasid c.dst
      (old.zipIdx.map fun (b, i) => match Config.collByte (s.free + i) with | some y => y % 256 | none => b) false
    { s1 with pois := s.pois }

/-- The weirs see the bytes that a collective wrote (R448, R455). -/
def collWeirs (s : State) (c : Coll) (n : Nat) : State :=
  if n = 0 then s else
  let (s1, hs, _) := engWeirs s c.gid c.exec c.pc [(false, c.dst, n)] []
  if hs = [] then s1
  else engAct s1 c.gid hs (fun h =>
    { cause := 0x0B, pc := c.pc, npc := c.pc + 8, tlanes := 0, exec := c.exec, w0 := c.w0, w1 := some c.w1, eng := true, detail := h.weir,
      faddr := BitVec.ofNat 64 h.addr }) c.pc []

/-- The status goes to D, the counter is added to, and the word completes (R410). -/
def collDone (s : State) (c : Coll) (status : Nat) : State :=
  let s0 := { s with colls := mdel s.colls c.id, cmsgs := s.cmsgs.filter fun m => !(m.slot == c.slot && m.comm == c.comm && m.seq == c.seq) }
  let s1 := modGroup s0 c.gid fun g =>
    let g1 := modFly g c.fly fun f => { f with unit := false, regs := [] }
    if g.exited then g1 else sset g1 c.dreg (BitVec.ofNat 32 status)
  let s2 := match c.counter with | some k => counterAdd s1 (.coll c.id) c.slot k 1 | none => s1
  monRecord (dropWaits s2 (.coll c.id)) (some c.core) c.slot 11 (s.now - c.posted)

/-- The pages that the completion needs: the counter's. -/
def counterReady (s : State) (c : Coll) : VaRes :=
  match c.counter.bind (counterAt s c.slot) with
  | some a => vaReady s (.coll c.id) c.slot a 8 true
  | none => .ok

/-- A collective can complete: it has ended, or every contribution is here. -/
def canFinish (s : State) (c : Coll) : Bool := (c.ended.isSome || collHas s c) && !waiting s (.coll c.id)

/-- COLL_COMPLETE (R410): DST, then D, then the counter. -/
def completeColl (s : State) (c : Coll) : State :=
  let n := collDstLen c.op c.m c.rank (collUnits c.count c.block) (collPay c.ty c.block c.count) (collUnit c.ty c.block)
  match counterReady s c with
  | .wait s1 => s1
  | _ =>
    match c.ended with
    | some st => collDone (collFree s c n) c st
    | none =>
      if c.op ≤ 1 && (collNeeds c).any fun r => ((contrib s c r).map Prod.snd).getD false then endColl s c 2 true
      else match vaReady s (.coll c.id) c.slot c.dst n true with
        | .wait s1 => s1
        | .denied => endColl s c 3 true
        | .failed _ _ => endColl s c 3 true
        | .ok =>
          let pasid := ((ctx? s c.slot).map (·.pasid)).getD 0
          let u := (ctx? s c.slot).map fun x => (c.core, x)
          let s1 := ((collResult s c).foldl (fun (r : State × Nat) (bs, po) => (vaWrite r.1 u pasid r.2 bs po, r.2 + bs.length)) (s, c.dst)).1
          collDone (collWeirs s1 c n) c 0

/-- COLL_COMPLETE. -/
def execCollComplete (s : State) : Host.Outcome State Fault Refusal :=
  .next (match collOf s s.ev.a s.ev.b s.ev.c with
    | some c => if canFinish s c then completeColl s c else s
    | none => s)

end Sys2Proof.Machine
end

