-- ==== Sys2Proof/Machine/Place.lean ====
section
/-! DEFINITION. Machine/Place.lean: placement: rectangles of cores, what a core admits, admission, retirement, eviction and readmission of
teams, and the virtual grid (R30, R64 to R82, R87, R88, R171, R430, R431, R481). -/

namespace Sys2Proof.Machine

/-! ### Cores and rectangles (R3, R46, R71, R72) -/

/-- The granule of a core: die × 2 + h, where h is 0 for rows 0 to 3 (R46). -/
def granOf (cr : Nat) : Nat := cr / 96 * 2 + cr % 96 / 48

/-- The cores of a partition that are usable, ascending; CORESAV holds a bit for each usable core (R486). -/
def partCores (s : State) (p : Nat) : List Nat :=
  (List.range 384).filter fun c => (part s p).granules.testBit (granOf c) && s.dev.coresav.testBit c

/-- The cores of the rectangle at an anchor, by rank; none where it would leave the mesh (R71). -/
def rectCores (anchor w h : Nat) : Option (List Nat) :=
  if anchor % 12 + w ≤ 12 ∧ anchor % 96 / 12 + h ≤ 8 then
    some ((List.range (w * h)).map fun r => anchor + r / w * 12 + r % w)
  else none

/-- The rectangles of a partition that an anchor gives, with every core in the partition and usable. -/
def rectAt (s : State) (p w h anchor : Nat) : Option (List Nat) :=
  match rectCores anchor w h with
  | some cs => if cs.all fun c => (part s p).granules.testBit (granOf c) && s.dev.coresav.testBit c then some cs else none
  | none => none

/-- Anchors in the order in which R72 tries them. -/
def anchorsOf (s : State) (p : Nat) : List Nat :=
  let cs := partCores s p
  match (part s p).lastAnchor with
  | none => cs
  | some a => (cs.filter fun c => a < c) ++ cs.filter fun c => c ≤ a

/-- Some rectangle of the partition could hold a cluster of the kernel, were the partition empty (R73); a core marked for fencing would
then be fenced (R481). -/
def fitsEver (s : State) (p : Nat) (k : Kern) : Bool :=
  (k.vgrid = 0 || k.cluW * k.cluH = 1)
    && (partCores s p).any fun a => (rectAt s p k.cluW k.cluH a).any fun cs => cs.all fun c => !(coreAt s c).marked

/-! ### What a core admits (R66 to R70) -/

/-- The teams that hold resources of a core. -/
def teamsOn (s : State) (cr : Nat) : List (Nat × Team) := s.teams.filter fun e => e.2.core == cr && teamHere s e.2

/-- NB is 0 on a core without a resident team (R70). -/
def freshNb (s : State) (cr : Nat) : State := if (coreAt s cr).nb = 0 || teamsOn s cr != [] then s else modCore s cr fun c => { c with nb := 0 }

/-- The kernel of a team's launch. -/
def kernOf (s : State) (launch : Nat) : Kern := ((launch? s launch).map (·.kern)).getD {}

/-- How many groups of a team of `n` groups with base `b` a slice holds (R70). -/
def sliceCount (b n sl : Nat) : Nat := ((List.range n).filter fun i => (b + i) % 16 == sl).length

/-- Register bytes and group slots of a slice that teams use. -/
def sliceUse (s : State) (ts : List (Nat × Team)) (sl : Nat) : Nat × Nat :=
  ts.foldl (fun a e =>
    let k := kernOf s e.2.launch
    let n := sliceCount e.2.base k.groups sl
    (a.1 + n * k.vregs * 128, a.2 + n)) (0, 0)

/-- A kernel's team fits the slices with base `b` (R66). -/
def baseFits (s : State) (ts : List (Nat × Team)) (k : Kern) (b : Nat) : Bool :=
  (List.range 16).all fun sl =>
    let n := sliceCount b k.groups sl
    n = 0 || (let u := sliceUse s ts sl; u.1 + n * k.vregs * 128 ≤ 65536 && u.2 + n ≤ 16)

/-- The first base from NB on that fits (R70). -/
def placeBase (s : State) (cr : Nat) (k : Kern) : Option Nat :=
  let ts := teamsOn s cr
  let nb := if ts = [] then 0 else (coreAt s cr).nb
  ((List.range 16).map fun i => (nb + i) % 16).find? (baseFits s ts k)

/-- The gaps that rising allocations leave below 1 MiB, as (start, bytes). -/
def gaps : Nat → List (Nat × Nat) → List (Nat × Nat)
  | pos, [] => if pos < 1048576 then [(pos, 1048576 - pos)] else []
  | pos, (b, n) :: r => if pos < b then (pos, b - pos) :: gaps (b + n) r else gaps (max pos (b + n)) r

/-- The free extents of a core's scratchpad, lowest first (R68). -/
def freeExtents (ts : List (Nat × Team)) : List (Nat × Nat) :=
  gaps 0 (sortBy Prod.fst ((ts.filter fun e => e.2.scrBytes != 0).map fun e => (e.2.scrBase, e.2.scrBytes)))

/-- The grant of R68: where it begins and how long it is. -/
def placeScratch (ts : List (Nat × Team)) (k : Kern) : Option (Nat × Nat) :=
  let es := freeExtents ts
  let best := match es.find? fun e => k.scrMax ≤ e.2 with
    | some e => some e
    | none => es.foldl (fun b e => match b with
        | none => some e
        | some x => if x.2 < e.2 then some e else some x) none
  match best with
  | some (b, n) => if k.scrMin ≤ n then some (b, min k.scrMax n / 128 * 128) else none
  | none => if k.scrMin = 0 then some (0, 0) else none

/-- The energy weight of a class (R67). -/
def energyWeight (c : Nat) : Nat := [1, 2, 3, 4, 6, 8, 12, 16][c]?.getD 16

/-- The weights of the teams of a core. -/
def energyUse (s : State) (ts : List (Nat × Team)) : Nat := ts.foldl (fun a e => a + energyWeight (kernOf s e.2.launch).energy) 0

/-- The weirs that a launch's settings block loads, with their numbers (R30). -/
def launchWeirs (k : Kern) : List (Nat × WeirCfg) := k.weirs.zipIdx.map fun (w, i) => (32 - k.weirs.length + i, w)

/-- Those weirs are free, or hold bit-identical settings that a launch of the context loaded (R30). -/
def weirsFit (s : State) (cr ctx : Nat) (k : Kern) : Bool :=
  (launchWeirs k).all fun (n, cfg) =>
    let w := mget (coreAt s cr).weirs {} n
    w.st = 0 || (w.st = 1 && w.owner == ctx && w.cfg == cfg)

/-- Where a team goes on a core. -/
structure Room where
  base : Nat
  scrBase : Nat
  scrBytes : Nat
  deriving DecidableEq, Repr

/-- The conditions of R66 for a team of a launch on a core; `energy` is whether the energy condition is asked for. -/
def coreRoom (s : State) (ln : Launch) (cr : Nat) (energy : Bool) : Option Room :=
  let ts := teamsOn s cr
  let k := ln.kern
  if (coreAt s cr).marked then none
  else if energy && energyUse s ts + energyWeight k.energy > (coreAt s cr).budget then none
  else if !((List.range 4).all fun q => k.tbMin ≤ freeBlocks s cr q) then none
  else if !weirsFit s cr ln.ctx k then none
  else match placeBase s cr k, placeScratch ts k with
    | some b, some (o, n) => some { base := b, scrBase := o, scrBytes := n }
    | _, _ => none

/-! ### Admission (R64, R65, R70, R72, R74) -/

/-- The lowest group slot of a slice that no resident group holds. -/
def freeSlot (s : State) (cr sl : Nat) : Nat :=
  let used := (teamsOn s cr).flatMap fun e => e.2.groups.filterMap fun g => match group? s g with
    | some g => if g.slice = sl then some g.slot else none
    | none => none
  ((List.range 16).find? fun i => !used.contains i).getD 0

/-- A group joins the active set of its slice while that holds fewer than 8 groups (R120). -/
def joinSlice (s : State) (gid : Nat) : State :=
  match group? s gid with
  | none => s
  | some g => match team? s g.team with
    | none => s
    | some t =>
      let n := ((sliceGroups s t.core g.slice).filter fun e => e.2.active).length
      setGroup s gid { g with active := n < 8, ready := false, waitCnt := 0, promoted := none, readySince := s.now, tradeCd := 0 }

/-- A group starts (R65, R127, R148). -/
def startGroup (ln : Launch) (launch fptrap : Nat) (tid idx sl slot : Nat) : Group :=
  { team := tid, launch := launch, ctx := ln.ctx, idx := idx, slice := sl, slot := slot, steprnd := ln.kern.steprnd, fptrap := fptrap,
    lanes := (List.range 32).map fun L => (L, { pc := ln.kern.entry, st := .run }) }

/-- The launch's weirs are loaded on a core with its first team there, with COUNT 0, or those of another launch are joined (R30). -/
def loadWeirs (s : State) (launch : Nat) (ln : Launch) (cr : Nat) : State :=
  (launchWeirs ln.kern).foldl (fun s (n, cfg) =>
    modCore s cr fun c =>
      let w := mget c.weirs {} n
      let w' : Weir := if w.st = 1 then (if w.launches.contains launch then w else { w with launches := w.launches ++ [launch], count := 0 })
        else { st := 1, owner := ln.ctx, launches := [launch], cfg := cfg, count := 0 }
      { c with weirs := mput c.weirs n w' }) s

/-- A core admits a team whole: its groups on their slices, its grant, its reserve of blocks, its weirs (R66, R68 to R70). -/
def admitTeam (s : State) (launch : Nat) (ln : Launch) (t clu rank cr : Nat) (r : Room) : State :=
  let k := ln.kern
  let (tid, s1) := fresh s
  let blocks : AMap Bool := (List.range 4).flatMap fun q => (List.range k.tbMin).map fun b => (q * 16 + b, false)
  let tm : Team := { launch := launch, ctx := ln.ctx, t := t, cluster := clu, crank := rank, core := cr, base := r.base,
                     scrBase := r.scrBase, scrBytes := r.scrBytes, blocks := blocks, admitted := s.now }
  let s2 := loadWeirs { s1 with teams := mput s1.teams tid tm } launch ln cr
  let s3 := (List.range k.groups).foldl (fun s i =>
    let (gid, s') := fresh s
    let sl := (r.base + i) % 16
    let g := startGroup ln launch (((ctx? s ln.ctx).map (·.fptrap)).getD 0) tid i sl (freeSlot s' cr sl)
    joinSlice (modTeam { s' with groups := mput s'.groups gid g } tid fun t => { t with groups := t.groups ++ [gid] }) gid) s2
  modCore s3 cr fun c => { c with nb := (r.base + k.groups) % 16 }

/-- Clusters of a launch: along x, along y, and in all (R64). -/
def cluGrid (ln : Launch) : Nat × Nat × Nat :=
  let cx := ln.gridX / ln.kern.cluW
  let cy := ln.gridY / ln.kern.cluH
  (cx, cy, cx * cy * ln.gridZ)

/-- The linear team index of a rank of a cluster (R64). -/
def teamIndex (ln : Launch) (clu rank : Nat) : Nat :=
  let (cx, cy, _) := cluGrid ln
  let x := clu % cx * ln.kern.cluW + rank % ln.kern.cluW
  let y := clu / cx % cy * ln.kern.cluH + rank / ln.kern.cluW
  x + ln.gridX * (y + ln.gridY * (clu / (cx * cy)))

/-- A launch that has a cluster to admit: it has not ended and its kernel has been checked. -/
def hasCluster (ln : Launch) : Bool := ln.status.isNone && !ln.needKern && ln.nextClu < (cluGrid ln).2.2

/-- The admission queue of a partition: its launches with a cluster to admit, by PRIO and then take order (R74). -/
def admQueue (s : State) (p : Nat) : List (Nat × Launch) :=
  sortBy (fun e => (7 - e.2.prio) * 2 ^ 64 + e.2.order) (s.launches.filter fun e =>
    hasCluster e.2 && ctxRuns s e.2.ctx && (match ctx? s e.2.ctx with | some c => c.part == p | none => false))

/-- The first usable rectangle for a cluster that admits every team of it, with what each core gives (R71, R72). -/
def findRect (s : State) (p : Nat) (ln : Launch) : Option (Nat × List (Nat × Room)) :=
  (anchorsOf s p).findSome? fun a =>
    match rectAt s p ln.kern.cluW ln.kern.cluH a with
    | none => none
    | some cs => (cs.mapM fun c => (coreRoom s ln c true).map fun r => (c, r)).map fun l => (a, l)

/-- The core on which a logical core of a virtual grid runs (R77). -/
def remapOf (ln : Launch) (l : Nat) : Nat := mget ln.remap 0 l

/-- The logical cores of a launch that a core hosts and that have not retired, ascending (R77). -/
def hostedCores (ln : Launch) (cr : Nat) : List Nat :=
  (List.range ln.kern.vgrid).filter fun l => remapOf ln l == cr && !ln.retired.contains l

/-- A team of a launch. -/
def teamOf (s : State) (launch t : Nat) : Option (Nat × Team) := s.teams.find? fun e => e.2.launch == launch && e.2.t == t

/-- The teams of a virtual-grid launch on a core that have not retired: resident, evicted or held. -/
def hostedTeams (s : State) (launch cr : Nat) : List (Nat × Team) :=
  s.teams.filter fun e => e.2.launch == launch && e.2.core == cr && e.2.st != .retired

/-- The resident team of a launch on a core. -/
def residentOf (s : State) (launch cr : Nat) : Option (Nat × Team) := (hostedTeams s launch cr).find? fun e => e.2.st == .resident

/-- Ordered mode: every logical core below has been resident (R82). -/
def orderOk (ln : Launch) (l : Nat) : Bool := !ln.kern.ordered || (List.range l).all fun i => ln.ran.contains i

/-- What the next cluster of a launch finds. -/
inductive Adm where
  | no
  /-- the cores of its teams, with an anchor where the mesh was searched -/
  | place (anchor : Option Nat) (cores : List (Nat × Room))
  /-- a hosted logical core enters and is held in its initial state (R78) -/
  | hold
  deriving DecidableEq, Repr

/-- Where the next cluster of a launch can go now (R71, R78, R82). -/
def admitAt (s : State) (p _launch : Nat) (ln : Launch) : Adm :=
  if ln.kern.vgrid = 0 then
    match findRect s p ln with
    | some (a, l) => .place (some a) l
    | none => .no
  else
    let cr := remapOf ln ln.nextClu
    if (hostedCores ln cr).any fun l => l < ln.nextClu then .hold
    else if !orderOk ln ln.nextClu then .no
    else match coreRoom s ln cr true with
      | some r => .place none [(cr, r)]
      | none => .no

/-- A logical core has its turn on its core (R79, R82). -/
def markRan (ln : Launch) (t : Nat) : Launch :=
  if ln.kern.vgrid = 0 then ln
  else { ln with ran := if ln.ran.contains t then ln.ran else ln.ran ++ [t], turns := mput ln.turns (remapOf ln t) t }

/-- The next cluster of a launch is admitted as a unit. -/
def admitCluster (s : State) (p launch : Nat) (ln : Launch) (anchor : Option Nat) (cs : List (Nat × Room)) : State :=
  let clu := ln.nextClu
  let s1 := cs.zipIdx.foldl (fun s ((cr, r), rank) => admitTeam s launch ln (teamIndex ln clu rank) clu rank cr r) s
  let s2 := modLaunch s1 launch fun ln => { markRan ln clu with
    nextClu := clu + 1, passed := none, firstAdmit := if ln.firstAdmit.isSome then ln.firstAdmit else some s.now }
  modPart s2 p fun x => { x with
    lastAnchor := if anchor.isSome then anchor else x.lastAnchor, starved := if x.starved = some launch then none else x.starved }

/-- The queue as the front-end considers it: while a launch is starved, that launch alone (R74). -/
def admCands (s : State) (p : Nat) : List (Nat × Launch) :=
  match (part s p).starved with
  | some l => (admQueue s p).filter fun e => e.1 == l
  | none => admQueue s p

/-- The first launch of the queue whose next cluster fits, with what it found. -/
def firstFit (s : State) (p : Nat) : List (Nat × Launch) → Option (Nat × Launch × Adm)
  | [] => none
  | (l, ln) :: r => match admitAt s p l ln with
    | .no => firstFit s p r
    | a => some (l, ln, a)

/-! ### Teams that are saved out (R75, R171, R430) -/

/-- A running lane inside a fused clause goes back to the clause's header when its group is saved out (R171); inside another it honours the
clause's WAIT again (R97). -/
def unfuse (l : Lane) : Lane :=
  match l.cl with
  | some c => if l.st == .run && (hdrOf c).fuse then { l with pc := c.addr, waited := false } else { l with waited := false }
  | none => l

/-- A group is saved out: it leaves its set; fused clauses begin again, WAIT is honoured again, and scheduling restarts (R97, R100, R120,
R132, R171). -/
def saveGroup (s : State) (g : Group) : Group :=
  if g.ended then g
  else { resetSched s (laneMod g allLanes fun _ l => unfuse l) with active := false, ready := false, tradeCd := 0, ext := [] }

/-- A team leaves its core for Cistern. -/
def saveTeam (s : State) (tid : Nat) (st : TSt) : State :=
  match team? s tid with
  | none => s
  | some t =>
    freshNb (modTeam (t.groups.foldl (fun s gid => modGroup s gid fun g => saveGroup s g) s) tid fun t => { t with st := st, turn := 0 }) t.core

/-- The quads' arrays hold an operation of a team, which completes first (R376). -/
def teamMats (s : State) (tid : Nat) : Bool := s.quads.any fun e => e.2.queue.any fun o => o.team == tid

/-- A lane waits at a blocking point of R430. -/
def laneBlocks (s : State) (g : Group) (L : Nat) : Bool :=
  match (laneGet g L).st with
  | .bar _ _ | .park (.cwait _ _) | .park (.remote _) | .park (.layer _) | .park (.fetch _ _) => true
  | .park (.access _) => parkSource s g L == 8
  | _ => false

/-- No entry of the group can issue: each waits for something other than its fetch. -/
def noIssue (s : State) (gid : Nat) (g : Group) : Bool :=
  pageStalled s gid || g.trap.isSome
    || (frontier g).all fun e => match entryHeld g e with | some leaf => leaf != 7 | none => false

/-- A group is at a blocking point (R430); a frozen one never is (R457). -/
def atBlock (s : State) (gid : Nat) (g : Group) : Bool :=
  !g.frozen && noIssue s gid g && (g.stallLong || (List.range 32).any fun L => laneBlocks s g L)

/-- A team is pre-emptible (R430), and none of its matrix operations is in an array. -/
def preemptible (s : State) (tid : Nat) (t : Team) : Bool :=
  t.st == .resident && !teamMats s tid && openGroups s t != []
    && (openGroups s t).all fun gid => match group? s gid with | some g => atBlock s gid g | none => true

/-- The wake condition of a group (R430). -/
def wakeGroup (s : State) (gid : Nat) (g : Group) : Bool :=
  !g.ended && !(s.waits.any fun p => stallsGroup gid p && p.stage != .ok && p.stage != .deny)
    && (runLanes g != 0 || pageStalled s gid || g.trap.isSome || g.fly.any flyWaits
        || (List.range 32).any fun L => laneBlocks s g L && unparkOf s gid g L != .stays)

/-- The wake condition of a team: that of any of its groups. -/
def wakeTeam (s : State) (t : Team) : Bool := t.groups.any fun gid => match group? s gid with | some g => wakeGroup s gid g | none => false

/-- Where a saved team's grant goes on a core: its own place (R75), or, for a team that changes core or turns, an extent that holds it. -/
def grantAgain (ts : List (Nat × Team)) (t : Team) (move : Bool) : Option Nat :=
  let es := freeExtents ts
  if t.scrBytes = 0 then some t.scrBase
  else if es.any fun e => e.1 ≤ t.scrBase && t.scrBase + t.scrBytes ≤ e.1 + e.2 then some t.scrBase
  else if move then (es.find? fun e => t.scrBytes ≤ e.2).map Prod.fst
  else none

/-- A saved team's resources are free on its core (R75). -/
def roomAgain (s : State) (t : Team) (move : Bool) : Option Nat :=
  match launch? s t.launch with
  | none => none
  | some ln =>
    let ts := teamsOn s t.core
    if s.dev.coresav.testBit t.core && energyUse s ts + energyWeight ln.kern.energy ≤ (coreAt s t.core).budget
        && ((List.range 4).all fun q => ((List.range 16).filter fun b => blockHeld t q b).length ≤ freeBlocks s t.core q)
        && weirsFit s t.core ln.ctx ln.kern && baseFits s ts ln.kern t.base
    then grantAgain ts t move else none

/-- A saved team is resident again on the same slices; its grant begins at `o`. -/
def restoreTeam (s : State) (tid o : Nat) : State :=
  match team? s tid with
  | none => s
  | some t => match launch? s t.launch with
    | none => s
    | some ln =>
      -- the slots are chosen before the team counts as resident again
      let s1 := t.groups.foldl (fun s gid => match group? s gid with
        | none => s
        | some g =>
          let taken := (t.groups.takeWhile (· != gid)).filterMap fun x => (group? s x).bind fun y => if y.slice = g.slice then some y.slot else none
          let used := ((teamsOn s t.core).flatMap fun e => e.2.groups.filterMap fun x => (group? s x).bind fun y =>
            if y.slice = g.slice then some y.slot else none) ++ taken
          modGroup s gid fun g => { g with slot := ((List.range 16).find? fun i => !used.contains i).getD 0 }) s
      let s2 := modTeam (loadWeirs (freshNb s1 t.core) t.launch ln t.core) tid fun t => { t with st := .resident, scrBase := o, turn := 0 }
      t.groups.foldl (fun s gid => match group? s gid with | some g => if g.ended then s else joinSlice s gid | none => s) s2

/-- The evicted teams of a team's cluster: they come back together (R75). -/
def evictedMates (s : State) (t : Team) : List (Nat × Team) :=
  s.teams.filter fun e => e.2.launch == t.launch && e.2.cluster == t.cluster && e.2.st == .evicted

/-- An evicted team's wake condition is met, its context runs, every evicted team of its cluster finds its resources (R75), and no other
logical core of its launch is resident on its core (R78). DESIGN CHOICE (log entry 69): the wake conditions of the other teams that come
back with it are not asked. -/
def canReadmit (s : State) (t : Team) : Bool :=
  t.st == .evicted && ctxRuns s t.ctx && wakeTeam s t && ((kernOf s t.launch).vgrid == 0 || (residentOf s t.launch t.core).isNone)
    && (evictedMates s t).all fun e => (roomAgain s e.2 false).isSome

/-- TEAM_READMIT (R75). -/
def readmitTeam (s : State) (tid : Nat) : State :=
  match team? s tid with
  | none => s
  | some t =>
    if !canReadmit s t then s
    else (evictedMates s t).foldl (fun s e => match roomAgain s e.2 false with
      | some o => modLaunch (restoreTeam s e.1 o) e.2.launch fun ln => markRan ln e.2.t
      | none => s) s

/-- Some evicted team of a partition can come back: it goes before every queued cluster (R75). -/
def readmitsIn (s : State) (p : Nat) : Bool :=
  s.teams.any fun e => canReadmit s e.2 && (match ctx? s e.2.ctx with | some c => c.part == p | none => false)

/-- TEAM_READMIT. -/
def execTeamReadmit (s : State) : Host.Outcome State Fault Refusal := .next (readmitTeam s s.ev.a)

/-- CLUSTER_ADMIT (R74): the first cluster that fits is admitted; a launch ahead of it is passed over. -/
def clusterAdmit (s : State) (p : Nat) : State :=
  if readmitsIn s p then s
  else match firstFit s p (admCands s p) with
    | none => s
    | some (l, ln, a) =>
      let s1 := match admQueue s p with
        | (f, fl) :: _ => if f = l || fl.passed.isSome then s else modLaunch s f fun ln => { ln with passed := some s.now }
        | [] => s
      match a with
      | .place an cs => admitCluster s1 p l ln an cs
      | .hold => modPart (modLaunch s1 l fun ln => { ln with nextClu := ln.nextClu + 1, passed := none }) p fun x =>
          { x with starved := if x.starved = some l then none else x.starved }
      | .no => s1

/-- CLUSTER_ADMIT. -/
def execClusterAdmit (s : State) : Host.Outcome State Fault Refusal := .next (clusterAdmit s s.ev.a)

/-- The foremost launch of a partition has been passed over for 1,048,576 cycles (R74). -/
def starves (s : State) (p : Nat) : Option Nat :=
  match admQueue s p with
  | (l, ln) :: _ => match ln.passed with
    | some t => if t + 1048576 ≤ s.now && (part s p).starved != some l then some l else none
    | none => none
  | [] => none

/-- ADMISSION_STARVATION_LIMIT (R74). -/
def execAdmissionStarvationLimit (s : State) : Host.Outcome State Fault Refusal :=
  .next (match starves s s.ev.a with
    | some l => modPart s s.ev.a fun x => { x with starved := some l }
    | none => s)

/-! ### Eviction (R431) -/

/-- Pre-emptible teams of a partition below a priority: lowest PRIO first, most recently admitted first. -/
def victims (s : State) (p prio : Nat) : List Nat :=
  let l := s.teams.filterMap fun e => match launch? s e.2.launch with
    | some ln => if ln.prio < prio && preemptible s e.1 e.2 && ctxRuns s e.2.ctx && (match ctx? s e.2.ctx with | some c => c.part == p | none => false)
        then some (e.1, ln.prio, e.2.admitted) else none
    | none => none
  (sortBy (fun e => e.2.1 * 2 ^ 64 + (2 ^ 63 - e.2.2)) l).map Prod.fst

/-- Evict teams one by one until a launch's next cluster fits; none where that is never so. -/
def evictUntil (s : State) (p launch : Nat) (ln : Launch) : List Nat → Option State
  | [] => none
  | v :: r =>
    let s1 := saveTeam s v .evicted
    if admitAt s1 p launch ln = .no then evictUntil s1 p launch ln r else some s1

/-- The state after an eviction for the foremost cluster of a partition, where one is due (R431). -/
def evictFor (s : State) (p : Nat) : Option State :=
  match admQueue s p with
  | (l, ln) :: _ => if admitAt s p l ln = .no then evictUntil s p l ln (victims s p ln.prio) else none
  | [] => none

/-- TEAM_EVICT (R431). -/
def execTeamEvict (s : State) : Host.Outcome State Fault Refusal := .next ((evictFor s s.ev.a).getD s)

/-! ### Retirement (R30, R69, R76, R87, R481) -/

/-- A launch has no team on a core that is resident, evicted or held: its weirs there are freed with the last (R30). -/
def leaveWeirs (s : State) (launch cr : Nat) : State :=
  if s.teams.any fun e => e.2.launch == launch && e.2.core == cr && e.2.st != .retired then s
  else
    let s1 := modCore s cr fun c => if c.weirs.any fun e => e.2.launches.contains launch then
      { c with weirs := c.weirs.map fun e => (e.1, { e.2 with launches := e.2.launches.filter (· != launch) }) } else c
    freeWeirs s1 cr fun w => w.launches = []

/-- A marked core that no team is on becomes fenced (R481). -/
def fenceCore (s : State) (cr : Nat) : State :=
  if (coreAt s cr).marked && s.dev.coresav.testBit cr && !(s.teams.any fun e => e.2.core == cr && e.2.st != .retired) then
    raiseErr (modDev s fun d => { d with coresav := d.coresav - 2 ^ cr }) 5
  else s

/-- A team can retire: its groups have ended, no matrix operation of it and no engine operation into its grant is unfinished (R76). -/
def canRetire (s : State) (tid : Nat) (t : Team) : Bool :=
  teamHere s t && (match ctx? s t.ctx with | some c => c.halt.isNone | none => false)
    && t.groups.all (fun gid => match group? s gid with | some g => g.ended | none => true)
    && !teamMats s tid && !(s.ops.any fun e => e.2.dsts.any fun d => d == .team tid)

/-- Number of teams of a launch. -/
def teamCount (ln : Launch) : Nat := ln.gridX * ln.gridY * ln.gridZ

/-- The lines of a context in a core's L1. -/
def ctxLines (s : State) (cx cr : Nat) (k : Nat) : Bool := l1Core k == cr && some (l1Pasid k) == (ctx? s cx).map (·.pasid)

/-- The last team of a launch has retired on a core: its L1 writes the context's dirty lines back (R273). -/
def leaveL1 (s : State) (launch cx cr : Nat) : State :=
  if s.l1 = [] || s.teams.any fun e => e.2.launch == launch && e.2.core == cr && e.2.st != .retired then s
  else writeBackAll s (ctxLines s cx cr)

/-- TEAM_RETIRE (R76): everything that the team holds is released together. -/
def retireTeam (s : State) (tid : Nat) : State :=
  match team? s tid with
  | none => s
  | some t =>
    if !canRetire s tid t then s
    else
      let s1 := modTeam s tid fun t =>
        { t with st := .retired, blocks := [], tile := [], tilePois := [], scr := [], scrPois := [], absent := [], holds := [], bars := [] }
      let s2 := { s1 with joints := s1.joints.filter fun e => e.2.team != tid }
      let s3 := t.holds.foldl (fun s i => holdDropped s t.launch i) s2
      let s4 := modLaunch s3 t.launch fun ln => { ln with retired := ln.retired ++ [t.t] }
      let s5 := fenceCore (leaveL1 (leaveWeirs (freshNb s4 t.core) t.launch t.core) t.launch t.ctx t.core) t.core
      let s6 := gsyncTest (barcTest s5 t.launch t.cluster) t.launch
      match launch? s6 t.launch with
      | some ln => if ln.retired.length = teamCount ln && ln.kern.ordered && !ln.serialDone then
          modLaunch (serialPhase s6 t.launch) t.launch fun ln => { ln with serialDone := true } else s6
      | none => s6

/-- TEAM_RETIRE. -/
def execTeamRetire (s : State) : Host.Outcome State Fault Refusal := .next (retireTeam s s.ev.a)

/-! ### Hosted logical cores (R78 to R80) -/

/-- The virtual-grid launches that host logical cores on a core. -/
def hostingLaunches (s : State) (cr : Nat) : List (Nat × Launch) :=
  s.launches.filter fun e => e.2.status.isNone && e.2.kern.vgrid != 0 && !e.2.needKern && ctxRuns s e.2.ctx && hostedCores e.2 cr != []

/-- A hosted logical core is ready for a turn: its saved team's wake condition is met, or it has never run and may (R79, R82). -/
def hostedReady (s : State) (launch : Nat) (ln : Launch) (l : Nat) : Bool :=
  match teamOf s launch l with
  | some (_, t) => (t.st == .held || t.st == .evicted) && wakeTeam s t
  | none => l < ln.nextClu && !ln.ran.contains l && orderOk ln l

/-- The state in which a hosted logical core is resident, where its resources are free; an evicted one takes its own place again (R75). -/
def hostedIn (s : State) (launch : Nat) (ln : Launch) (cr l : Nat) : Option State :=
  match teamOf s launch l with
  | some (tid, t) => (roomAgain s t (t.st == .held)).map fun o => modLaunch (restoreTeam s tid o) launch fun ln => markRan ln l
  | none => (coreRoom s ln cr true).map fun r => modLaunch (admitTeam s launch ln l l 0 cr r) launch fun ln => markRan ln l

/-- The hosted logical cores in turn order after `l` (R79). -/
def turnOrder (ln : Launch) (cr : Nat) (l : Option Nat) : List Nat :=
  let h := hostedCores ln cr
  match l with
  | none => h
  | some x => (h.filter fun i => x < i) ++ h.filter fun i => i < x

/-- The logical core that last had a turn on a core (R79). -/
def lastTurn (ln : Launch) (cr : Nat) : Option Nat := mget? ln.turns cr

/-- The next turn on a core: the first ready logical core that can be resident (R79). -/
def nextTurn (s : State) (launch : Nat) (ln : Launch) (cr : Nat) (from_ : Option Nat) : Option State :=
  (turnOrder ln cr from_).findSome? fun l => if hostedReady s launch ln l then hostedIn s launch ln cr l else none

/-- A hosting core changes turns for a launch: the resident team, if any, is saved and the next one comes in. `why` says when. -/
def turnOver (s : State) (cr : Nat) (why : Nat → Team → Bool) : Option State :=
  (hostingLaunches s cr).findSome? fun (l, ln) =>
    match residentOf s l cr with
    | some (tid, t) =>
      if why tid t && !teamMats s tid && (turnOrder ln cr (some t.t)).any fun x => hostedReady s l ln x then
        let s1 := saveTeam s tid .held
        nextTurn s1 l ln cr (some t.t)
      else none
    | none =>
      -- nothing of the launch is resident there: the one that had the last turn comes last
      match nextTurn s l ln cr (lastTurn ln cr), lastTurn ln cr with
      | some t, _ => some t
      | none, some x => if hostedReady s l ln x && !ln.retired.contains x then hostedIn s l ln cr x else none
      | none, none => none

/-- A quantum has run out with no other logical core ready: the resident one's next turn begins (R79). -/
def turnAgain (s : State) (cr : Nat) : Option State :=
  (hostingLaunches s cr).findSome? fun (l, ln) => match residentOf s l cr with
    | some (tid, t) => if 1048576 ≤ t.turn && !((turnOrder ln cr (some t.t)).any fun x => hostedReady s l ln x) then
        some (modTeam s tid fun t => { t with turn := 0 }) else none
    | none => none

/-- The quantum has run out (R79). -/
def quantumOver (s : State) (cr : Nat) : Option State :=
  match turnOver s cr fun _ t => 1048576 ≤ t.turn with
  | some t => some t
  | none => turnAgain s cr

/-- The resident team has reached a blocking point, or has retired (R79). -/
def turnEnds (s : State) (cr : Nat) : Option State := turnOver s cr fun tid t => preemptible s tid t

/-- VGRID_QUANTUM_EXPIRY (R79). -/
def execVgridQuantumExpiry (s : State) : Host.Outcome State Fault Refusal := .next ((quantumOver s s.ev.a).getD s)
/-- VGRID_TURN_END (R79). -/
def execVgridTurnEnd (s : State) : Host.Outcome State Fault Refusal := .next ((turnEnds s s.ev.a).getD s)

/-- How many logical cores of a launch each core hosts. DESIGN CHOICE (log entry 71): one that has retired is not counted. -/
def hostLoad (ln : Launch) (cr : Nat) : Nat := (hostedCores ln cr).length

/-- The core to which a logical core moves: the fewest hosted, then the lowest number (R80). -/
def leastLoaded (ln : Launch) (cs : List Nat) : Option Nat := minBy (fun c => hostLoad ln c * 384 + c) cs

/-- The logical cores of a launch that a core hosted move to the others (R80): resident and held teams are saved and move with them, once
no matrix operation of theirs is in an array (R376). The core's L1 writes back what they stored, and the others' give up old copies. -/
def remapLaunch (s : State) (p launch cr : Nat) : State :=
  match launch? s launch with
  | none => s
  | some ln =>
    if (hostedTeams s launch cr).any fun e => teamMats s e.1 then s else
    let s0 := writeBackAll ((hostedTeams s launch cr).foldl (fun s e => saveTeam s e.1 .held) s) (ctxLines s ln.ctx cr)
    (hostedCores ln cr).foldl (fun s l =>
      match launch? s launch with
      | none => s
      | some ln =>
        match leastLoaded ln ((partCores s p).filter fun c => c != cr && !(coreAt s c).marked) with
        | none => s
        | some c =>
          let s1 := modLaunch s launch fun ln => { ln with remap := mput ln.remap l c }
          match teamOf s1 launch l with
          | some (tid, t) => if t.st = .retired then s1 else
              let s2 := dropClean (modTeam s1 tid fun t => { t with core := c }) (ctxLines s1 ln.ctx c)
              { s2 with ops := mmap s2.ops fun _ o => if o.team == tid then { o with core := c } else o
                        joints := mmap s2.joints fun _ j => if j.team == tid then
                          { j with members := mmap j.members fun _ m => { m with core := c, quad := quadKey c (m.quad % 4) } } else j }
          | none => s1) s0

/-- Virtual-grid launches move their logical cores away from a marked core, which is fenced once no team is on it (R80, R481). -/
def clearCore (s : State) (cr : Nat) : State :=
  let s2 := (s.launches.filter fun e => e.2.status.isNone && e.2.kern.vgrid != 0).foldl (fun s e =>
    match ctx? s e.2.ctx with
    | some c => leaveWeirs (remapLaunch s c.part e.1 cr) e.1 cr
    | none => s) s
  fenceCore s2 cr

/-- DYXIHAN_SCRUB (R481): a location that still fails marks its core. -/
def markCore (s : State) (cr : Nat) : State := clearCore (modCore s cr fun c => { c with marked := true }) cr

/-- The marked cores that are not fenced yet try again at the end of a cycle: matrix operations may have ended (R376). -/
def clearMarked (s : State) : State := s.cores.foldl (fun s e => if e.2.marked && s.dev.coresav.testBit e.1 then clearCore s e.1 else s) s

/-- DYXIHAN_SCRUB. -/
def execDyxihanScrub (s : State) : Host.Outcome State Fault Refusal :=
  .next (if s.ev.flag && s.ev.a < 384 && !(coreAt s s.ev.a).marked then markCore s s.ev.a else s)

end Sys2Proof.Machine
end

