-- ==== Sys2Proof/Machine/Front.lean ====
section
/-! DEFINITION. Machine/Front.lean: the launch front-end: chains and doorbells, taking a launch record, the checks of descriptors, ownership
tables and model headers, the kernels of a model, and completion (R26 to R34, R50 to R63, R77, R83, R476, R498). -/

namespace Sys2Proof.Machine

/-! ### Chains (R50 to R53, R61 to R63) -/

/-- Launches taken of a chain and not completed (R51). -/
def inflight (s : State) (c : Nat) : Nat := (s.launches.filter fun e => e.2.chain == c && e.2.status.isNone).length

/-- The NEXT word of a chain is read where a record is to follow slot 30 (R53). -/
def chainNext (s : State) (c : Nat) : State :=
  let ch := chain s c
  if !(ch.en && ch.state == 1 && ch.needNext && !ch.stuck && ch.head < ch.tail) then s
  else
    let a := ch.seg + 0xF80
    let nx := leNat (ridRead s a 8)
    if nx = 0 ∨ nx % 4096 ≠ 0 ∨ ridBad s a 8 then modChain s c fun ch => { ch with linkErr := true, stuck := true }
    else modChain s c fun ch => { ch with seg := nx, needNext := false }

/-- DOORBELL_WRITE (R53). -/
def doorbell (s : State) (c v : Nat) : State :=
  let ch := chain s c
  if ch.tail < v then chainNext (modChain s c fun ch => { ch with tail := v, stuck := false }) c
  else if v < ch.tail then modChain s c fun ch => { ch with tailErr := true }
  else s

/-- Software clears LINKERR: the NEXT word is read again (R53). -/
def clearLinkErr (s : State) (c : Nat) : State := chainNext (modChain s c fun ch => { ch with linkErr := false, stuck := false }) c

/-- The completion word moves, as a release at .sys scope (R59). -/
def setWord (s : State) (c w : Nat) : State :=
  if w = (chain s c).word then s else ridWrite (modChain s c fun ch => { ch with word := w }) (chain s c).comp (leBytes 8 w)

/-- A chain whose last launch has completed: an abort ends, or a disabled chain becomes idle (R52, R63). -/
def chainSettle (s : State) (c : Nat) : State :=
  let ch := chain s c
  if inflight s c ≠ 0 then s
  else if ch.state = 3 then
    modChain (setWord s c ((ch.s0 + ch.head) % 2 ^ 64)) c fun ch => { ch with en := false, state := 0, recs := [] }
  else if !ch.en && (ch.state == 1 || ch.state == 2) then modChain s c fun ch => { ch with state := 0, recs := [] }
  else s

/-- The completed records from `k` on that the word moves over: while they succeeded, or all of them on RESUME (R61, R62). -/
def wordRun (all : Bool) : Nat → AMap Nat → Nat → AMap Nat × Nat
  | 0, m, k => (m, k)
  | f + 1, m, k => match mget? m k with
    | some st => if st = 0 || all then wordRun all f (mdel m k) (k + 1) else (m, k)
    | none => (m, k)

/-- The completion word moves over an unbroken run. -/
def moveWord (s : State) (c : Nat) (all : Bool) : State :=
  let ch := chain s c
  let k := (ch.word + 2 ^ 64 - ch.s0) % 2 ^ 64
  let (m, k') := wordRun all (ch.recs.length + 1) ch.recs k
  setWord (modChain s c fun ch => { ch with recs := m }) c ((ch.s0 + k') % 2 ^ 64)

/-- EN is set: an idle chain begins to run, with S read from the completion word (R52). DESIGN CHOICE (log entry 73): until the front-end
writes the completion word, a wait on the chain sees S, and 0 of a chain never enabled (R56); EN set again on a chain that is not idle yet
lets it take records again, with the S, CHHEAD and CHTAIL that it has. -/
def chainEnable (s : State) (c : Nat) : State :=
  let ch := chain s c
  if ch.state = 0 then
    let w := leNat (ridRead s ch.comp 8)
    modChain s c fun ch =>
      { ch with en := true, state := 1, head := 0, tail := 0, s0 := w, word := w, seg := ch.base, needNext := false, stuck := false,
                recs := [] }
  else modChain s c fun ch => { ch with en := true }

/-- EN is cleared: no further record is taken (R52). -/
def chainDisable (s : State) (c : Nat) : State := chainSettle (modChain s c fun ch => { ch with en := false }) c

/-- RESUME (R62). -/
def chainResume (s : State) (c : Nat) : State :=
  if (chain s c).state ≠ 2 then s
  else chainNext (modChain (moveWord s c true) c fun ch => { ch with state := 1 }) c

/-! ### Completion (R59 to R61, R476) -/

/-- The 32-byte completion record (R59). -/
def crBytes (seq status cause kidx chain ctx detail cycles : Nat) : List Nat :=
  leBytes 8 seq ++ leBytes 2 status ++ [cause, kidx] ++ leBytes 2 chain ++ leBytes 2 ctx ++ leBytes 8 detail ++ leBytes 8 cycles

/-- A completed record of a chain: the word moves over a run of successes, and a failure stops the chain (R61). -/
def chainDone (s : State) (c rec status : Nat) : State :=
  let s1 := modChain s c fun ch =>
    { ch with recs := mput ch.recs rec status, state := if status ≠ 0 && ch.state == 1 then 2 else ch.state }
  chainSettle (moveWord s1 c false) c

/-- The teams of a launch are forgotten, with their groups. -/
def purgeTeams (s : State) (id : Nat) : State :=
  { s with teams := s.teams.filter fun e => e.2.launch != id
           groups := s.groups.filter fun e => e.2.launch != id
           joints := s.joints.filter fun e => match team? s e.2.team with | some t => t.launch != id | none => true }

/-- A launch that has completed: its stream ends, and what the device kept of it goes, but for the state of a halted context, which
stays for inspection (R386, R425). -/
def dropLaunch (s : State) (id : Nat) (ln : Launch) (status : Nat) : State :=
  let s1 := { dropWaits (dropWaits s (.stream id)) (.kern id) with
    parts := mmap s.parts fun _ p => if p.starved = some id then { p with starved := none } else p
    rems := s.rems.filter fun e => e.2.who != .stream id }
  if status = 3 && (ctx? s1 ln.ctx).any (·.halt.isSome) then s1
  else
    let s2 := ((s1.teams.filter fun e => e.2.launch == id).map (·.2.core)).eraseDups.foldl (fun s cr => leaveWeirs s id cr) (purgeTeams s1 id)
    { s2 with launches := mdel s2.launches id }

/-- A launch completes: the completion record, then the completion word (R59). -/
def completeLaunch (s : State) (id status cause detail kidx : Nat) : State :=
  match launch? s id with
  | none => s
  | some ln =>
    if ln.status.isSome then s
    else
      let cycles := match ln.firstAdmit with | some t => s.now - t | none => 0
      let bs := crBytes ln.seq status (if status = 3 then cause else 0) (if status ≠ 0 && ln.model.isSome then kidx else 0) ln.chain ln.ctx
        (if status = 3 then detail else 0) cycles
      let s1 := if ln.crAddr = 0 then s else ridWrite s ln.crAddr bs
      let s2 := modLaunch s1 id fun ln => { ln with status := some status, model := ln.model.map fun m => { m with open_ := false, cur := none } }
      chainDone (dropLaunch s2 id ln status) ln.chain ln.record status

/-- ABORT (R63): launches of which no team of the current kernel has been admitted are cancelled. -/
def chainAbort (s : State) (c : Nat) : State :=
  if (chain s c).state ≠ 1 ∧ (chain s c).state ≠ 2 then s
  else
    let s1 := modChain s c fun ch => { ch with state := 3 }
    let s2 := (s1.launches.filter fun e => e.2.chain == c && e.2.status.isNone).foldl (fun s (id, ln) =>
      if ln.nextClu = 0 then completeLaunch s id 4 0 0 ln.kidx else modLaunch s id fun ln => { ln with cancelled := ln.model.isSome }) s1
    chainSettle s2 c

/-- A host write to a register of BAR0 outside the mailbox: ignored while DEVSTAT.STATE is 0 or 2 (R487). -/
def bar0Write (s s' : State) : State := if s.dev.state = 0 ∨ s.dev.state = 2 then s else s'

/-- What the host does to one of the 256 chains (R44, R50); there are no others. -/
def onChain (s : State) (f : Nat → State) : State := if s.ev.a < 256 then f s.ev.a else s

/-- DOORBELL_WRITE (R53): a write to BAR2. -/
def execDoorbellWrite (s : State) : Host.Outcome State Fault Refusal := .next (onChain s fun c => doorbell s c s.ev.c)
/-- CHAIN_ENABLE (R52). -/
def execChainEnable (s : State) : Host.Outcome State Fault Refusal := .next (bar0Write s (onChain s (chainEnable s)))
/-- CHAIN_DISABLE (R52). -/
def execChainDisable (s : State) : Host.Outcome State Fault Refusal := .next (bar0Write s (onChain s (chainDisable s)))
/-- CHAIN_RESUME (R62). -/
def execChainResume (s : State) : Host.Outcome State Fault Refusal := .next (bar0Write s (onChain s (chainResume s)))
/-- CHAIN_ABORT (R63). -/
def execChainAbort (s : State) : Host.Outcome State Fault Refusal := .next (bar0Write s (onChain s (chainAbort s)))
/-- CHSTAT_LINKERR_CLEAR (R53). -/
def execChstatLinkerrClear (s : State) : Host.Outcome State Fault Refusal := .next (bar0Write s (onChain s (clearLinkErr s)))

/-! ### Reads in a context's space (R498) -/

/-- Why the front-end stops. -/
inductive FeStop where
  /-- it waits for a page or a layer -/
  | wait (s : State)
  /-- the record is invalid, or the descriptor: status 2 or 1 -/
  | bad (status : Nat)

/-- Read a range for a unit; where it is denied, outside the space or poisoned, the launch fails with a status (R478, R498). -/
def feRead (s : State) (who : Waiter) (cx va n st : Nat) : Except FeStop (List Nat) :=
  if n = 0 then .ok []
  else if va + n > 2 ^ 57 then .error (.bad st)
  else match vaReady s who cx va n false with
    | .wait s1 => .error (.wait s1)
    | .denied => .error (.bad st)
    | .failed _ _ => .error (.bad st)
    | .ok =>
      let (bs, po) := vaRead s none (((ctx? s cx).map (·.pasid)).getD 0) va n
      if po then .error (.bad st) else .ok bs

/-- A check that fails with status 0x0001. -/
def need (b : Bool) : Except FeStop Unit := if b then .ok () else .error (.bad 1)

/-! ### Kernel descriptors (R26 to R30) -/

/-- A value is between two bounds and a multiple. -/
def inRange (lo hi m x : Nat) : Bool := lo ≤ x && x ≤ hi && x % m == 0

/-- The descriptor passes the checks of R29 that need no other read. -/
def kernOk (b : List Nat) : Bool :=
  let f := fieldAt b
  let kf := f 4 4
  let cw := f 0x41 1
  let ch := f 0x42 1
  f 0 4 == 0x4B440001 && f 0xFC 4 == crc32c (b.take 0xFC)
    && kf < 4 && f 0x43 1 == 0 && f 0x52 2 == 0 && (slice b 0x68 148).all (· == 0)
    && inRange 0 65536 4 (f 0x28 4) && inRange 0 4096 4 (f 0x2C 4) && inRange 32 256 16 (f 0x30 2) && inRange 16 128 16 (f 0x32 2)
    && inRange 1 64 1 (f 0x34 2) && f 0x36 1 ≤ 7 && f 0x37 1 ≤ 16 && inRange 0 1048576 128 (f 0x38 4)
    && inRange (f 0x38 4) 1048576 128 (f 0x3C 4) && f 0x40 1 ≤ 16 && inRange 1 12 1 cw && inRange 1 8 1 ch
    && inRange 0 65535 (max cw 1) (f 0x44 4) && inRange 0 65535 (max ch 1) (f 0x48 4) && f 0x4C 4 ≤ 65535 && f 0x50 2 ≤ 384
    && (f 0x20 8 != 0 || f 0x28 4 == 0)
    && (f 0x34 2 + 15) / 16 * f 0x30 2 * 128 ≤ 65536 && 4 * f 0x37 1 ≤ f 0x34 2 && cw * ch ≤ 12
    && (if kf % 2 = 1 then f 0x50 2 != 0 && f 0x58 8 != 0 else f 0x58 8 == 0)
    && f 8 8 % 4 == 0 && f 0x10 8 % 4 == 0 && f 0x18 8 % 32 == 0 && f 0x20 8 % 64 == 0

/-- The copy of a descriptor that has passed. -/
def kernOf' (b : List Nat) (weirs : List WeirCfg) (const0 : List Nat) : Kern :=
  let f := fieldAt b
  { entry := BitVec.ofNat 64 (f 8 8), trapEntry := BitVec.ofNat 64 (f 0x10 8), weirs := weirs, const0 := const0,
    argSize := f 0x2C 4, vregs := f 0x30 2, sregs := f 0x32 2, groups := f 0x34 2, energy := f 0x36 1, quartets := f 0x37 1,
    scrMin := f 0x38 4, scrMax := f 0x3C 4, tbMin := f 0x40 1, cluW := f 0x41 1, cluH := f 0x42 1,
    gridX := f 0x44 4, gridY := f 0x48 4, gridZ := f 0x4C 4, vgrid := f 0x50 2, ordered := f 4 4 % 2 == 1, steprnd := (f 4 4).testBit 1 }

/-- The `n` entries of a settings block. -/
def weirCfgs (b : List Nat) (n : Nat) : List WeirCfg :=
  (List.range n).map fun i =>
    { cmp0 := fieldAt b (32 * i) 8, cmp1 := fieldAt b (32 * i + 8) 8, qual := fieldAt b (32 * i + 16) 8, ctl := fieldAt b (32 * i + 24) 8 }

/-- Read a weir settings block (R30). -/
def readWeirs (s : State) (who : Waiter) (cx ptr : Nat) : Except FeStop (List WeirCfg) :=
  if ptr = 0 then .ok []
  else do
    let h ← feRead s who cx ptr 32 1
    let n := fieldAt h 0 4
    need (n ≤ 32 && (h.drop 4).all (· == 0))
    let b ← feRead s who cx (ptr + 32) (32 * n) 1
    let ws := weirCfgs b n
    need (ws.zipIdx.all fun (w, i) => !weirBad (32 - n + i) w)
    .ok ws

/-- Ranges given as (base, bytes) meet no other. -/
def disjointAll : List (Nat × Nat) → Bool
  | [] => true
  | (a, n) :: r => (r.all fun (b, m) => a + n ≤ b || b + m ≤ a) && disjointAll r

/-- Read the ownership table (R83). -/
def readOwners (s : State) (who : Waiter) (cx ptr vgrid : Nat) : Except FeStop (List OwnBuf) :=
  if ptr = 0 then .ok []
  else do
    need (ptr % 64 == 0)
    let h ← feRead s who cx ptr 64 1
    let n := fieldAt h 4 2
    need (fieldAt h 0 4 == 0x4F570001 && inRange 1 16 1 n && fieldAt h 6 2 == 0 && fieldAt h 8 4 == vgrid && (slice h 0xC 48).all (· == 0))
    let b ← feRead s who cx (ptr + 64) (32 * n) 1
    need (fieldAt h 0x3C 4 == crc32c (h.take 0x3C ++ b))
    let os := (List.range n).map fun i => ({ base := fieldAt b (32 * i) 8, bytes := fieldAt b (32 * i + 8) 8, map := fieldAt b (32 * i + 16) 8 } : OwnBuf)
    need ((List.range n).all fun i => (slice b (32 * i + 24) 8).all (· == 0))
    need (os.all fun o => o.base % 128 == 0 && o.bytes != 0 && o.bytes % 128 == 0 && o.map % 8 == 0)
    need (disjointAll (os.map fun o => (o.base, o.bytes)))
    .ok os

/-- The grid in force (R28): the record's, or the descriptor's where the record gives none. -/
def gridFor (k : Kern) (g : Nat × Nat × Nat) : Nat × Nat × Nat := if g = (0, 0, 0) then (k.gridX, k.gridY, k.gridZ) else g

/-- The grid fits the kernel (R28). -/
def gridOk (k : Kern) (g : Nat × Nat × Nat) : Bool :=
  g.1 != 0 && g.2.1 != 0 && g.2.2 != 0 && g.1 % k.cluW == 0 && g.2.1 % k.cluH == 0 && (k.vgrid == 0 || g.1 * g.2.1 * g.2.2 == k.vgrid)

/-- What the checks of a descriptor give: the kernel, its grid and its ownership table. -/
structure KernRead where
  kern : Kern
  grid : Nat × Nat × Nat
  owns : List OwnBuf
  ownTab : Nat

/-- Read and check a kernel descriptor with what it names (R28 to R30, R73, R83). `argMax` is MARGSIZE for a kernel of a model (R31). -/
def readKern (s : State) (who : Waiter) (cx part va : Nat) (g : Nat × Nat × Nat) (argMax : Option Nat) : Except FeStop KernRead := do
  need (va % 256 == 0)
  let b ← feRead s who cx va 256 1
  need (kernOk b && match argMax with | some m => fieldAt b 0x2C 4 ≤ m | none => true)
  let ws ← readWeirs s who cx (fieldAt b 0x18 8)
  let k0 := kernOf' b ws []
  let gr := gridFor k0 g
  need (gridOk k0 gr && fitsEver s part k0)
  let os ← readOwners s who cx (fieldAt b 0x58 8) k0.vgrid
  let c0 ← feRead s who cx (fieldAt b 0x20 8) (fieldAt b 0x28 4) 1
  .ok { kern := { k0 with const0 := c0 }, grid := gr, owns := os, ownTab := fieldAt b 0x58 8 }

/-- The remap table of a virtual grid: logical core l runs on A[l mod P] of the usable cores (R77). DESIGN CHOICE (log entry 70): A leaves
out a core that is marked for fencing and not fenced yet. -/
def buildRemap (s : State) (part : Nat) (k : Kern) : AMap Nat :=
  let u := partCores s part
  let a := match u.filter fun c => !(coreAt s c).marked with
    | [] => u
    | l => l
  if k.vgrid = 0 ∨ a = [] then [] else (List.range k.vgrid).map fun l => (l, a.getD (l % a.length) 0)

/-- A launch with a kernel that has been checked. -/
def withKern (s : State) (part : Nat) (ln : Launch) (r : KernRead) : Launch :=
  { ln with kern := r.kern, gridX := r.grid.1, gridY := r.grid.2.1, gridZ := r.grid.2.2, owns := r.owns, ownTab := r.ownTab,
            ownLen := 64 + 32 * r.owns.length, remap := buildRemap s part r.kern, needKern := false, nextClu := 0, ran := [], retired := [],
            serialDone := false, passed := none }

/-! ### Model headers (R31 to R33) -/

/-- A layer table entry. -/
def layerOf (b : List Nat) (i : Nat) : Layer :=
  let f := fun o n => fieldAt b (64 * i + o) n
  { src := f 0 8, dst := f 8 8, bytes := f 0x10 8, flag := f 0x18 8, wlo := f 0x20 8, whi := f 0x28 8, kind := f 0x30 1, pri := f 0x31 1 }

/-- The limits of R32 and R33 for one entry. -/
def layerOk (b : List Nat) (i : Nat) : Bool :=
  let ly := layerOf b i
  ly.dst % 128 == 0 && ly.bytes != 0 && ly.bytes % 128 == 0 && ly.flag % 8 == 0 && ly.wlo % 4096 == 0 && ly.whi % 4096 == 0
    && ly.wlo < ly.whi && ly.kind < 3 && ly.pri < 8 && (slice b (64 * i + 0x32) 14).all (· == 0) && (ly.kind != 1 || ly.src.testBit 63)
    && ly.wlo ≤ ly.dst && ly.dst + ly.bytes ≤ ly.whi

/-- The page of a flag is memory of the host, where no flag may stand (R32). -/
def flagHost (s : State) (pasid va : Nat) : Bool := match translate s none pasid va .wr with | .ok _ host => host | _ => false

/-- GEN of a flag as it is found in HBM (R32, R34). -/
def readGen (s : State) (who : Waiter) (cx : Nat) (ly : Layer) : Except FeStop Layer :=
  if ly.flag + 8 > 2 ^ 57 then .error (.bad 1)
  else match vaReady s who cx ly.flag 8 true with
    | .wait s1 => .error (.wait s1)
    | .denied => .error (.bad 1)
    | .failed _ _ => .error (.bad 1)
    | .ok =>
      let pasid := ((ctx? s cx).map (·.pasid)).getD 0
      if flagHost s pasid ly.flag then .error (.bad 1) else .ok { ly with gen := fieldAt (vaRead s none pasid ly.flag 8).1 4 4 }

/-- Read and check a model header with its layer table and KLIST (R31 to R34). -/
def readModel (s : State) (who : Waiter) (cx va : Nat) : Except FeStop Model := do
  need (va % 64 == 0)
  let h ← feRead s who cx va 64 1
  let n := fieldAt h 4 2
  let k := fieldAt h 7 1
  need (fieldAt h 0 4 == 0x4D440001 && fieldAt h 0x3C 4 == crc32c (h.take 0x3C) && inRange 1 1024 1 n && fieldAt h 6 1 ≤ 7 && inRange 1 64 1 k
    && fieldAt h 8 8 % 64 == 0 && fieldAt h 0x10 8 % 8 == 0 && inRange 0 4096 4 (fieldAt h 0x18 4) && (slice h 0x1C 32).all (· == 0))
  let t ← feRead s who cx (fieldAt h 8 8) (64 * n) 1
  need ((List.range n).all (layerOk t))
  let ls := (List.range n).map (layerOf t)
  need (disjointAll (ls.map fun l => (l.wlo, l.whi - l.wlo)))
  let kl ← feRead s who cx (fieldAt h 0x10 8) (8 * k) 1
  let lg ← ls.mapM (readGen s who cx)
  .ok { layers := lg, mpri := fieldAt h 6 1, klist := (List.range k).map fun i => fieldAt kl (8 * i) 8, margSize := fieldAt h 0x18 4,
        initial := List.range n }

/-! ### Taking a launch (R54 to R57) -/

/-- A launch record as read. -/
structure LRec where
  raw : List Nat
  pois : Bool

/-- A field of the record. -/
def LRec.f (r : LRec) (o n : Nat) : Nat := fieldAt r.raw o n
/-- The wait entries: chain and sequence number. -/
def LRec.waits (r : LRec) : List (Nat × Nat) := (List.range 4).map fun i => (r.f (0x38 + 16 * i) 2, r.f (0x40 + 16 * i) 8)

/-- The lowest untaken record of a chain. -/
def recordOf (s : State) (ch : Chain) : LRec :=
  let a := ch.seg + ch.head % 31 * 0x80
  { raw := ridRead s a 128, pois := ridBad s a 128 }

/-- The record of a chain is offered and ready (R56). -/
def recReady (s : State) (c : Nat) (ch : Chain) : Bool :=
  ch.en && ch.state == 1 && ch.head < ch.tail && !ch.needNext && inflight s c < 16
    && (let r := recordOf s ch
        (r.waits.all fun (w, q) => 255 < w || q ≤ (chain s w).word) && (!(r.f 4 2).testBit 1 || inflight s c == 0))

/-- The chain whose record is taken next: the highest PRIO, then the next in turn (R56). -/
def pickChain (s : State) : Option Nat :=
  if (s.launches.filter fun e => e.2.status.isNone).length ≥ 1024 then none
  else
    let l := s.chains.filter fun e => recReady s e.1 e.2
    match l.foldl (fun (m : Option Nat) (e : Nat × Chain) => some (max (m.getD 0) e.2.prio)) none with
    | none => none
    | some p =>
      let ids := (l.filter fun e => e.2.prio == p).map Prod.fst
      match mget? s.rrChain p with
      | some last => match ids.find? fun i => last < i with
        | some i => some i
        | none => ids.head?
      | none => ids.head?

/-- The record breaks R55, but for the rule on ARGPTR 0. -/
def recBad (s : State) (ch : Chain) (r : LRec) : Bool :=
  let x := r.f 0x18 4
  let y := r.f 0x1C 4
  let z := r.f 0x20 4
  let any := x != 0 || y != 0 || z != 0
  r.pois || r.f 0 4 != 0x4C410001 || r.f 0x7C 4 != crc32c (r.raw.take 0x7C) || r.f 4 2 ≥ 4 || r.f 0x24 4 != 0 || r.f 0x78 4 != 0
    || ((List.range 4).any fun i => r.f (0x3A + 16 * i) 6 != 0)
    || r.f 8 8 != (ch.s0 + 1 + ch.head) % 2 ^ 64 || (ctx? s (r.f 6 2)).isNone
    || (r.waits.any fun (w, _) => 255 < w && w != 0xFFFF)
    || (any && (x == 0 || y == 0 || z == 0)) || x > 65535 || y > 65535 || z > 65535 || x * y * z ≥ 2 ^ 32
    || ((r.f 4 2).testBit 0 && any) || r.f 0x28 8 % 4 != 0 || r.f 0x30 8 % 32 != 0

/-- Copy the argument block (R55, R57). -/
def readArgs (s : State) (cx ptr n : Nat) : Except FeStop (List Nat) :=
  if n = 0 then .ok [] else if ptr = 0 then .error (.bad 2) else feRead s .frontEnd cx ptr n 2

/-- The launch that a record asks for, checked and with everything that is copied at take (R28 to R34, R57). -/
def checkTake (s : State) (c : Nat) (ch : Chain) (r : LRec) : Except FeStop Launch :=
  let cx := r.f 6 2
  let ln : Launch := { chain := c, record := ch.head, seq := r.f 8 8, ctx := cx, prio := ch.prio, crAddr := r.f 0x30 8 }
  let part := ((ctx? s cx).map (·.part)).getD 0
  if (r.f 4 2).testBit 0 then do
    let md ← readModel s .frontEnd cx (r.f 0x10 8)
    let a ← readArgs s cx (r.f 0x28 8) md.margSize
    .ok { ln with args := a, model := some md, needKern := true }
  else do
    let k ← readKern s .frontEnd cx part (r.f 0x10 8) (r.f 0x18 4, r.f 0x1C 4, r.f 0x20 4) none
    let a ← readArgs s cx (r.f 0x28 8) k.kern.argSize
    .ok (withKern s part { ln with args := a } k)

/-- The record leaves the chain as a taken launch (R57). -/
def enterLaunch (s : State) (c : Nat) (ln : Launch) : Nat × State :=
  let (id, s1) := fresh s
  let s2 := modChain { s1 with launches := mput s1.launches id { ln with order := id } } c fun ch =>
    { ch with head := ch.head + 1, needNext := (ch.head + 1) % 31 == 0, stuck := false }
  (id, chainNext s2 c)

/-- A record that is invalid: its completion record is written, unless CRADDR is misaligned, and the chain stops before it (R61, R62). -/
def badRecord (s : State) (c : Nat) (r : LRec) : State :=
  let cr := r.f 0x30 8
  let s1 := if cr = 0 ∨ cr % 32 ≠ 0 then s else ridWrite s cr (crBytes (r.f 8 8) 2 0 0 c (r.f 6 2) 0 0)
  chainSettle (modChain s1 c fun ch => { ch with state := 2 }) c

/-- The flags of a model launch are written (R34). -/
def openFlags (s : State) (id : Nat) : State :=
  (List.range (((launch? s id).map fun ln => (layersOf ln).length).getD 0)).foldl (fun s i => flushFlag s id i) s

/-- Streams that are open. -/
def openStreams (s : State) : Nat := (s.launches.filter fun e => match e.2.model with | some m => m.open_ | none => false).length

/-- The earliest launch that waits for a stream (R377). -/
def nextStream (s : State) : Option Nat :=
  (s.launches.find? fun e => e.2.status.isNone && match e.2.model with | some m => !m.open_ | none => false).map Prod.fst

/-- The stream of a launch opens where fewer than 8 are open, in take order (R377). -/
def openStream (s : State) (id : Nat) : State :=
  if openStreams s < 8 && nextStream s == some id then modModel s id fun m => { m with open_ := true } else s

/-- STREAM_OPEN (R377). -/
def execStreamOpen (s : State) : Host.Outcome State Fault Refusal := .next (openStream s s.ev.a)

/-- Taking a launch drops the instruction-cache lines and the clean L1 lines of its context on the cores of its partition (R92, R273,
R274). -/
def dropLines (s : State) (cx : Nat) : State :=
  match ctx? s cx with
  | none => s
  | some c =>
    let here (cr : Nat) : Bool := (part s c.part).granules.testBit (granOf cr)
    dropClean { s with ilines := s.ilines.filter fun e => !(e.1 / 2 ^ 50 % 2 ^ 20 == c.pasid && here (e.1 / 2 ^ 70)) } fun k =>
      l1Pasid k == c.pasid && here (l1Core k)

/-- Take the record of a chain, or go on waiting (R57, R425, R498). -/
def takeRecord (s : State) (c : Nat) : State :=
  let ch := chain s c
  let r := recordOf s ch
  let close (s : State) : State := { dropWaits s .frontEnd with feChain := none, rrChain := mput s.rrChain ch.prio c }
  let plain : Launch := { chain := c, record := ch.head, seq := r.f 8 8, ctx := r.f 6 2, prio := ch.prio, crAddr := r.f 0x30 8 }
  if recBad s ch r then badRecord (close s) c r
  else match (ctx? s (r.f 6 2)).bind (·.halt) with
    | some h =>
      -- records of a halted context complete at once (R425)
      let (id, s1) := enterLaunch (close s) c plain
      completeLaunch s1 id (if h.unload then 5 else 3) h.cause 0 0
    | none =>
      match checkTake s c ch r with
      | .error (.wait s1) => { s1 with feChain := some c }
      | .error (.bad 2) => badRecord (close s) c r
      | .error (.bad st) =>
        let (id, s1) := enterLaunch (close s) c plain
        completeLaunch s1 id st 0 0 0
      | .ok ln =>
        let (id, s1) := enterLaunch (dropLines (close s) ln.ctx) c ln
        if ln.model.isSome then openStream (openFlags s1 id) id else s1

/-- LAUNCH_TAKE (R57): the record whose reads wait goes on, else the next record of R56. A chain that no longer offers it is left. -/
def launchTake (s : State) : State :=
  match s.feChain with
  | some c =>
    if !recReady s c (chain s c) then { dropWaits s .frontEnd with feChain := none }
    else if waiting s .frontEnd then s else takeRecord s c
  | none => match pickChain s with
    | some c => takeRecord s c
    | none => s

/-- LAUNCH_TAKE. -/
def execLaunchTake (s : State) : Host.Outcome State Fault Refusal := .next (launchTake s)

/-! ### The kernels of a model and the end of a launch (R31, R58, R63, R476) -/

/-- Work that the groups of a launch issued and that is unfinished, but for layers' transfers (R476). -/
def launchBusy (s : State) (id : Nat) : Bool :=
  (s.ops.any fun e => e.2.launch == id) || (s.colls.any fun e => e.2.launch == id)
    || (s.rems.any fun e => match e.2.who with
        | .lanes g _ _ => (match group? s g with | some g => g.launch == id | none => false)
        | _ => false)

/-- Transfers that the groups of a launch asked for and that have neither completed nor stopped (R378, R476). -/
def xfersAsked (ln : Launch) : Bool :=
  match ln.model with
  | some m => m.rereq != [] || (match m.cur with | some x => x.asked | none => false)
  | none => false

/-- The kernel of a launch has run: its teams have retired, its final serial phase has run and nothing of it is unfinished. -/
def kernelOver (s : State) (id : Nat) (ln : Launch) : Bool :=
  ln.status.isNone && !ln.needKern && ln.retired.length == teamCount ln && (!ln.kern.ordered || ln.serialDone) && !launchBusy s id
    && (match ctx? s ln.ctx with | some c => c.halt.isNone | none => false)

/-- A later kernel of KLIST remains. -/
def moreKernels (ln : Launch) : Bool := match ln.model with | some m => ln.kidx + 1 < m.klist.length | none => false

/-- The next kernel of a model launch begins, once the one before it has completed; its descriptor is checked first (R31). -/
def nextKernel (s : State) (id : Nat) (ln : Launch) : State :=
  match ln.model, ctx? s ln.ctx with
  | some m, some c =>
    if c.halt.isSome || waiting s (.kern id) then s
    else match readKern s (.kern id) ln.ctx c.part (m.klist.getD ln.kidx 0) (0, 0, 0) (some m.margSize) with
      | .error (.wait s1) => s1
      | .error (.bad st) => completeLaunch s id st 0 0 ln.kidx
      | .ok k => modLaunch (dropWaits s (.kern id)) id fun ln => withKern s c.part ln k
  | _, _ => s

/-- MODEL_NEXT_KERNEL (R31, R58). -/
def modelNext (s : State) (id : Nat) : State :=
  match launch? s id with
  | none => s
  | some ln =>
    if ln.status.isSome then s
    else if ln.needKern then nextKernel s id ln
    else if kernelOver s id ln && moreKernels ln && !ln.cancelled then
      let s1 := modLaunch (purgeTeams s id) id fun ln =>
        { ln with kidx := ln.kidx + 1, needKern := true, nextClu := 0, ran := [], retired := [], serialDone := false, remap := [], owns := [] }
      match launch? s1 id with
      | some ln => nextKernel s1 id ln
      | none => s1
    else s

/-- MODEL_NEXT_KERNEL. -/
def execModelNextKernel (s : State) : Host.Outcome State Fault Refusal := .next (modelNext s s.ev.a)

/-- A launch can complete: its last kernel has run, or the one after which it was cancelled (R63, R476). -/
def canComplete (s : State) (id : Nat) (ln : Launch) : Bool := kernelOver s id ln && !xfersAsked ln && (!moreKernels ln || ln.cancelled)

/-- LAUNCH_COMPLETE (R59, R63, R476). -/
def launchComplete (s : State) (id : Nat) : State :=
  match launch? s id with
  | none => s
  | some ln =>
    if !canComplete s id ln then s
    else if moreKernels ln then completeLaunch s id 4 0 0 (ln.kidx + 1)
    else completeLaunch s id 0 0 0 0

/-- LAUNCH_COMPLETE. -/
def execLaunchComplete (s : State) : Host.Outcome State Fault Refusal := .next (launchComplete s s.ev.a)

end Sys2Proof.Machine
end

