-- ==== Sys2Proof/Machine/Sluice.lean ====
section
/-! DEFINITION. Machine/Sluice.lean: Sluice: streams, their queues and transfers, the residency pool, eviction and failure of layers (R377 to
R387). -/

namespace Sys2Proof.Machine

/-! ### The pool (R379) -/

/-- The layers of the model launches in progress of a partition: launch, its model's priority and take order, index and layer. -/
def poolLayers (s : State) (p : Nat) : List (Nat × Nat × Nat × Nat × Layer) :=
  s.launches.flatMap fun (id, ln) => match ln.model, ctx? s ln.ctx with
    | some m, some c => if ln.status.isNone && c.part == p then m.layers.zipIdx.map fun (ly, i) => (id, m.mpri, ln.order, i, ly) else []
    | _, _ => []

/-- Bytes counted against a partition's pool. -/
def poolUsed (s : State) (p : Nat) : Nat := (poolLayers s p).foldl (fun a e => if e.2.2.2.2.counted then a + e.2.2.2.2.bytes else a) 0

/-- The pool in bytes; 0 for no limit. -/
def poolSize (s : State) (p : Nat) : Nat := (part s p).pool * 2 ^ 20

/-! ### Queues (R378) -/

/-- The head of a stream's queue, and whether it is a re-request. -/
def streamHead (m : Model) : Option (Nat × Bool) :=
  let pri (i : Nat) : Nat := (m.layers[i]?.map (·.pri)).getD 0
  match minBy (fun i => (7 - pri i) * 2 ^ 16 + i) m.rereq with
  | some i => some (i, true)
  | none => (minBy id m.initial).map fun i => (i, false)

/-- A layer leaves the queue. -/
def dequeue (m : Model) (i : Nat) : Model := { m with rereq := m.rereq.filter (· != i), initial := m.initial.filter (· != i) }

/-- A layer fails (R381): its parked lanes find STATE 3. -/
def layerFail (s : State) (launch i fcause : Nat) : State :=
  let s1 := modModel s launch fun m => { dequeue m i with cur := if (m.cur.map (·.layer)) = some i then none else m.cur }
  writeFlag (modLayer (dropWaits s1 (.stream launch)) launch i fun ly => { ly with fcause := fcause, counted := false }) launch i 3

/-! ### Transfers (R380, R385) -/

/-- A stream may act: it is open and its context is not halted. -/
def streamLive (s : State) (ln : Launch) : Bool :=
  ln.status.isNone && (match ln.model with | some m => m.open_ | none => false)
    && (match ctx? s ln.ctx with | some c => c.halt.isNone | none => false)

/-- The candidates for eviction in a partition, the first to go first (R385). -/
def evictCands (s : State) (p : Nat) : List (Nat × Nat × Layer) :=
  let l := (poolLayers s p).filter fun (id, _, _, i, ly) => ly.state == 2 && ly.counted && !(s.teams.any fun e => e.2.launch == id && e.2.holds.contains i)
  (sortBy (fun (_, pri, ord, i, ly) => ((pri * 2 ^ 64 + ly.release.getD 0) * 2 ^ 64 + ord) * 2 ^ 16 + (65535 - i)) l).map fun (id, _, _, i, ly) => (id, i, ly)

/-- An eviction begins (R385). -/
def evictStart (s : State) (launch i : Nat) : State :=
  writeFlag (modModel s launch fun m => { m with evicting := m.evicting ++ [i] }) launch i 4

/-- Some layer of a partition is being evicted. -/
def evictingIn (s : State) (p : Nat) : Bool :=
  s.launches.any fun (_, ln) => (match ln.model with | some m => m.evicting != [] | none => false) && (match ctx? s ln.ctx with | some c => c.part == p | none => false)

/-- The head of a stream's queue fails, starts, or evicts for room; none where it waits (R380). -/
def transferStart (s : State) (launch : Nat) : Option State :=
  match launch? s launch with
  | none => none
  | some ln =>
    match ln.model, ctx? s ln.ctx with
    | some m, some c =>
      if !streamLive s ln || m.cur.isSome then none
      else match streamHead m with
        | none => none
        | some (i, asked) =>
          match m.layers[i]? with
          | none => none
          | some ly =>
            let pool := poolSize s c.part
            let used := poolUsed s c.part
            let more := if ly.counted then 0 else ly.bytes
            if ly.state = 4 then none
            else if pool ≠ 0 ∧ pool < ly.bytes then some (layerFail s launch i 5)
            else if pool ≠ 0 ∧ pool < used + more then
              if evictingIn s c.part then none
              else
                let cands := evictCands s c.part
                let gain := cands.foldl (fun a e => a + e.2.2.bytes) 0
                if pool + gain < used + more then none
                else match cands with
                  | (l, k, _) :: _ => some (evictStart s l k)
                  | [] => none
            else
              let s1 := modModel s launch fun m => { dequeue m i with cur := some { layer := i, asked := asked } }
              some (writeFlag (modLayer s1 launch i fun ly => { ly with counted := true, fcause := 0 }) launch i 1)
    | _, _ => none

/-- LAYER_TRANSFER_START (R380). -/
def execLayerTransferStart (s : State) : Host.Outcome State Fault Refusal := .next ((transferStart s s.ev.a).getD s)

/-- A layer of a launch is being evicted. -/
def isEvicting (s : State) (launch i : Nat) : Bool :=
  match (launch? s launch).bind (·.model) with | some m => m.evicting.contains i | none => false

/-- What the L1s and the instruction caches hold of a layer's destination goes: whoever finds the layer resident sees its new bytes (R337). -/
def dropDst (s : State) (pasid va n : Nat) : State :=
  (vaCut va n).foldl (fun s (a, k) => match vaKey s pasid a true with
    | some x => recallRange s x k
    | none => s) (dropLinesOf s pasid va n)

/-- The contents of an evicted layer's destination are undefined: each byte of a page that is translated is a free value (R385). -/
def evictBytes (s : State) (cx : Nat) (ly : Layer) : State :=
  match ctx? s cx with
  | none => s
  | some c =>
    let k := s.free
    ((vaCut ly.dst ly.bytes).foldl (fun (r : State × Nat) (a, n) =>
      (match vaKey r.1 c.pasid a true with
       | some x => homeWrite r.1 x ((List.range n).map fun i => Config.evictByte (k + r.2 + i) % 256) false
       | none => r.1, r.2 + n)) ({ dropDst s c.pasid ly.dst ly.bytes with free := k + ly.bytes }, 0)).1

/-- What waits for a page waits still: a clause's fetch has a lane that stands at it, an engine's operation and a group exist. -/
def waitLives (s : State) (p : PWait) : Bool :=
  match p.who with
  | .stream _ => false
  | .lanes g _ | .frame g | .counter g _ => (group? s g).any fun g => !g.ended
  | .fetch g pc => (group? s g).any fun g => lanesWhere g (fun l => l.st == .run && l.pc == pc) != 0
  | .op o => (op? s o).isSome
  | _ => true

/-- STATE 4 of a layer is not in its flag yet, or an access that found the layer resident waits for a page still (R338). -/
def evictHeld (s : State) (launch i : Nat) : Bool :=
  match launch? s launch, layer? s launch i with
  | some ln, some ly =>
    (match ln.model with | some m => m.flagPend.contains i | none => false)
      || s.waits.any fun p => p.ctx == ln.ctx && ly.wlo ≤ p.page && p.page < ly.whi && waitLives s p
  | _, _ => false

/-- The eviction of a layer can end (R338, R385). -/
def canEvict (s : State) (launch i : Nat) : Bool := isEvicting s launch i && !evictHeld s launch i

/-- LAYER_EVICT_DONE (R385): the accesses that found the layer resident are over. -/
def evictDone (s : State) (launch i : Nat) : State :=
  match launch? s launch, layer? s launch i with
  | some ln, some ly =>
    if !canEvict s launch i then s
    else
      let s1 := modModel (evictBytes s ln.ctx ly) launch fun m => { m with evicting := m.evicting.filter (· != i) }
      writeFlag (modLayer s1 launch i fun ly => { ly with counted := false }) launch i 0
  | _, _ => s

/-- LAYER_EVICT_DONE. -/
def execLayerEvictDone (s : State) : Host.Outcome State Fault Refusal := .next (evictDone s s.ev.a s.ev.b)

/-- The transfer of a launch's stream. -/
def xferOf (s : State) (launch : Nat) : Option Xfer := ((launch? s launch).bind (·.model)).bind (·.cur)

/-- The release time of a layer that becomes resident (R383): none while a team holds it, when its last hold was cleared, else now. -/
def releaseOf (s : State) (launch i : Nat) (ly : Layer) : Option Nat :=
  if s.teams.any fun e => e.2.launch == launch && e.2.holds.contains i then none else if ly.heldOnce then ly.release else some s.now

/-- A transfer has moved every byte: STATE 2, as the release of R337 (R380). -/
def transferDone (s : State) (launch : Nat) : State :=
  match xferOf s launch with
  | none => s
  | some x => match layer? s launch x.layer with
    | none => s
    | some ly =>
      if x.done < ly.bytes then s
      else
        let s1 := modModel s launch fun m => { m with cur := none }
        writeFlag (modLayer s1 launch x.layer fun ly => { ly with release := releaseOf s launch x.layer ly }) launch x.layer 2

/-- LAYER_TRANSFER_DONE. -/
def execLayerTransferDone (s : State) : Host.Outcome State Fault Refusal := .next (transferDone s s.ev.a)

/-! ### Beats (R377, R380, R381) -/

/-- Bytes of a beat are written to the layer's destination. -/
def beatWrite (s : State) (launch cx : Nat) (x : Xfer) (ly : Layer) (bs : List Nat) : State :=
  match ctx? s cx with
  | none => s
  | some c =>
    match vaReady s (.stream launch) cx (ly.dst + x.done) bs.length true with
    | .ok =>
      modModel (vaWrite (dropDst s c.pasid (ly.dst + x.done) bs.length) none c.pasid (ly.dst + x.done) bs false) launch fun m =>
        { m with cur := some { x with done := x.done + bs.length, req := none } }
    | .wait s1 => s1
    | .denied => layerFail s launch x.layer 1
    | .failed _ _ => layerFail s launch x.layer 1

/-- One beat of one stream. -/
def streamBeat (s : State) (launch : Nat) : State :=
  match launch? s launch, xferOf s launch with
  | some ln, some x =>
    match layer? s launch x.layer, ctx? s ln.ctx with
    | some ly, some c =>
      if !streamLive s ln || x.done ≥ ly.bytes || x.req.isSome || waiting s (.stream launch) then s
      else
        let n := min 4096 (ly.bytes - x.done)
        let src := ly.src + x.done
        -- the destination's pages first, so that bytes that come from a peer find them
        match vaReady s (.stream launch) ln.ctx (ly.dst + x.done) n true with
        | .wait s1 => s1
        | .denied => layerFail s launch x.layer 1
        | .failed _ _ => layerFail s launch x.layer 1
        | .ok =>
          if ly.kind = 1 then
            let s1 := if isRemote src then tabFill s ln.ctx 1 (remPeer src) (peerKey s ln.ctx (remPeer src)) 16 else s
            match isRemote src, peerGrants s1 ln.ctx src (remPerm .ld) with
            | true, some p =>
              let id := s1.nextId
              modModel (sendReq s1 { id := 0, who := .stream launch, ctx := ln.ctx, dev := p.dev, rclass := p.rclass, addr := src,
                                     msg := remMsg p src .ld n [] 0, since := s.now }) launch fun m => { m with cur := some { x with req := some id } }
            | _, _ => layerFail s1 launch x.layer 6
          else if src + n > 2 ^ 57 then layerFail s launch x.layer 1
          else match vaReady s (.stream launch) ln.ctx src n false with
            | .wait s1 => s1
            | .denied => layerFail s launch x.layer 1
            | .failed _ _ => layerFail s launch x.layer 1
            | .ok =>
              let (bs, po) := vaRead s none c.pasid src n
              if po then layerFail s launch x.layer 2 else beatWrite s launch ln.ctx x ly bs
    | _, _ => s
  | _, _ => s

/-- A stream has a beat to move. -/
def canBeat (s : State) (launch : Nat) (ln : Launch) : Bool :=
  streamLive s ln && !waiting s (.stream launch)
    && (match xferOf s launch with
        | some x => x.req.isNone && (match layer? s launch x.layer with | some ly => x.done < ly.bytes | none => false)
        | none => false)

/-- SLUICE_BEAT (R377): one beat from each open stream with a transfer, in take order. -/
def execSluiceBeat (s : State) : Host.Outcome State Fault Refusal :=
  .next ((s.launches.filter fun e => canBeat s e.1 e.2).foldl (fun s e => streamBeat s e.1) s)

/-- An answer to a stream's request (R381). -/
def streamAnswered (s : State) (r : Rem) (launch : Nat) (ans : RemAns) : State :=
  let s := { s with rems := mdel s.rems r.id }
  match launch? s launch, xferOf s launch with
  | some ln, some x =>
    if x.req ≠ some r.id then s
    else match ans, layer? s launch x.layer with
      | .data bs, some ly => beatWrite (modModel s launch fun m => { m with cur := some { x with req := none } }) launch ln.ctx { x with req := none } ly (slice bs 0 r.msg.width)
      | _, _ => layerFail s launch x.layer 3
  | _, _ => s

end Sys2Proof.Machine
end

