-- ==== Sys2Proof/Machine/Context.lean ====
section
/-! DEFINITION. Machine/Context.lean: contexts: loading and unloading, halts and their records, turns and exchanges, and the barrier watchdog
(R46 to R49, R270, R424 to R435, R441). -/

namespace Sys2Proof.Machine

/-! ### Halts (R425 to R429) -/

/-- A stop record (R428): unit, index, issue order, and its bytes. -/
structure StopRec where
  unit : Nat
  index : Nat
  order : Nat
  bytes : List Nat

/-- The 64 bytes of a stop record. -/
def stopBytes (unit index team w0 w1 ipc next done total tag grp cycles : Nat) : List Nat :=
  [unit, 0] ++ leBytes 2 index ++ leBytes 4 team ++ leBytes 4 w0 ++ leBytes 4 w1 ++ leBytes 8 ipc ++ leBytes 8 next ++ leBytes 8 done
    ++ leBytes 8 total ++ leBytes 4 tag ++ leBytes 2 grp ++ [0, 0] ++ leBytes 8 cycles

/-- %team of a team. -/
def teamNo (s : State) (tid : Nat) : Nat := ((team? s tid).map (·.t)).getD 0xFFFFFFFF

/-- %group of a group. -/
def groupNo (s : State) (gid : Nat) : Nat := ((group? s gid).map (·.idx)).getD 0

/-- A request of lanes: its answer is kept in the halted state (R406). -/
def ofLanes (r : Rem) : Bool := match r.who with | .lanes _ _ _ => true | _ => false

/-- The stop records of a context, in the order of R427. -/
def stopRecs (s : State) (cx : Nat) (since : Nat) : List StopRec :=
  let cyc := s.now - since
  let ops : List StopRec := (s.ops.filter fun e => e.2.ctx == cx).map fun (id, o) =>
    { unit := 1, index := o.core, order := id,
      bytes := stopBytes 1 o.core (teamNo s o.team) o.w0.toNat o.w1.toNat o.pc.toNat (engPiece o o.done).dst o.done (engTotal o)
        (o.objOff.getD 0) (groupNo s o.gid) cyc }
  let cols : List StopRec := (s.colls.filter fun e => e.2.slot == cx && e.2.ended.isNone).map fun (id, c) =>
    { unit := 2, index := c.core / 96, order := id,
      bytes := stopBytes 2 (c.core / 96) (teamNo s c.team) c.w0.toNat c.w1.toNat c.pc.toNat c.dst 0
        (collDstLen c.op c.m c.rank (collUnits c.count c.block) (collPay c.ty c.block c.count) (collUnit c.ty c.block)) c.seq (groupNo s c.gid) cyc }
  let strs : List StopRec := (s.launches.filter fun e => e.2.ctx == cx && e.2.status.isNone).filterMap fun (id, ln) =>
    match xferOf s id with
    | some x => (layer? s id x.layer).map fun ly =>
        { unit := 3, index := 0, order := ln.order, bytes := stopBytes 3 0 0xFFFFFFFF 0 0 0 (ly.dst + x.done) x.done ly.bytes x.layer 0 cyc }
    | none => none
  let rms : List StopRec := (s.rems.filter fun e => e.2.ctx == cx && ofLanes e.2).map fun (id, r) =>
    { unit := 4, index := r.core, order := id,
      bytes := stopBytes 4 r.core (teamNo s r.team) r.w0.toNat r.w1.toNat r.pc.toNat (if remWrites r.msg.op then r.addr else 0) 0 r.msg.width 0 r.group cyc }
  sortBy (fun r => (r.unit * 2 ^ 16 + r.index) * 2 ^ 64 + r.order) (ops ++ cols ++ strs ++ rms)

/-- The halt summary (R427). -/
def summaryBytes (h : Halt) (cx nrec : Nat) : List Nat :=
  (if h.unload then [0, 0] ++ leBytes 2 cx ++ leBytes 2 0xFFFF ++ [0, 0] ++ leBytes 8 0 ++ leBytes 4 0xFFFFFFFF
   else [h.cause, h.kind] ++ leBytes 2 cx ++ leBytes 2 h.core ++ [h.slice, h.slot] ++ leBytes 8 h.pc.toNat ++ leBytes 4 h.team)
    ++ leBytes 2 nrec ++ [0, 0]
    ++ (if h.unload then List.replicate 40 0
        else leBytes 8 h.id ++ (if h.obj = [] then List.replicate 16 0 else slice h.obj 0 16) ++ leBytes 8 h.arrived ++ leBytes 8 h.exited)

/-- The records go to the partition's halt buffer, where EN is set and VALID is clear (R426). -/
def writeHaltBuf (s : State) (p cx : Nat) (h : Halt) : State :=
  let x := part s p
  let a := x.haltBase * 2 ^ 16
  if !x.haltEn || x.haltValid || a + 65536 > hbmSize then s
  else
    let rs := stopRecs s cx h.at_
    modPart (writeBytes s a (summaryBytes h cx rs.length ++ (rs.take 1023).flatMap (·.bytes))) p fun x => { x with haltValid := true }

/-- The arrays hold no operation of a context (R376, R424). -/
def ctxMats (s : State) (cx : Nat) : Bool :=
  s.quads.any fun e => e.2.queue.any fun o => match group? s o.gid with | some g => g.ctx == cx | none => false

/-- HALT_COMPLETE can be: the halt line stands and every begun matrix operation is complete. -/
def canHalt (s : State) (cx : Nat) : Bool :=
  match ctx? s cx with
  | some c => (match c.halt with | some h => !h.done | none => false) && !ctxMats s cx
  | none => false

/-- The frame of a trap that was taken and whose handler has not begun is written (R429). -/
def haltFrame (s : State) (gid : Nat) : State :=
  match group? s gid with
  | none => s
  | some g => match g.trap, ctx? s g.ctx, launch? s g.launch with
    | some p, some c, some ln =>
      let a := c.trapArea + p.frame * 0x400
      (match translateFor s (some (coreOf s g)) (.frame gid) c.pasid a .wr with
      | .ok k _ => coreWrite s (coreOf s g) c a k (frameBytes g ln.kern.vregs p.lanes p.tr) false
      | _ => s)
    | _, _, _ => s

/-- The operations of a context that its units had in flight are over: what they have written stays (R424). -/
def stopUnits (s : State) (cx : Nat) : State :=
  { s with ops := s.ops.filter fun e => e.2.ctx != cx
           rems := s.rems.filter fun e => e.2.ctx != cx || ofLanes e.2
           waits := s.waits.filter fun p => p.ctx != cx || (match p.who with | .target _ | .dump _ | .coll _ | .ctxLoad => true | _ => false) }

/-- An exchange without a context that is unloaded. -/
def exchForget (e : Exch) (cx : Nat) : Exch :=
  { e with out := if e.out = some cx then none else e.out, inn := if e.inn = some cx then none else e.inn }

/-- A partition without a context that is unloaded (R47, R460). -/
def partForget (p : Part) (cx : Nat) : Part :=
  { p with turn := if p.turn = some cx then none else p.turn
           lastCtx := if p.turn = some cx then some cx else p.lastCtx
           insp := p.insp && p.ictx != cx && p.tctx != cx
           exch := p.exch.map (exchForget · cx) }

/-- The collectives of a context that have ended complete with its stop, before its completion records (R342, R410): DST, D and the
counter. One whose counter's page the device does not hold adds nothing (log entry 29). -/
def closeColls (s : State) (cx status : Nat) : State :=
  let s1 := endColls s status true fun c => c.slot == cx
  (s1.colls.filter fun e => e.2.slot == cx && e.2.ended.isSome).foldl (fun s (_, c) =>
    let n := collDstLen c.op c.m c.rank (collUnits c.count c.block) (collPay c.ty c.block c.count) (collUnit c.ty c.block)
    let k := match counterReady s c with | .ok => c.counter | _ => none
    collDone (collFree s c n) { c with counter := k } (c.ended.getD status)) s1

/-- The lines of a context leave every L1, the dirty ones for memory. -/
def dropL1 (s : State) (cx : Nat) : State :=
  if s.l1 = [] then s
  else ((mkeys s.l1).filter fun k => some (l1Pasid k) == (ctx? s cx).map (·.pasid)).foldl evictLine s

/-- Everything of an unloaded context goes (R425, R444, R460); marked cores that its teams leave are fenced (R481). -/
def forgetCtx (s : State) (cx : Nat) : State :=
  let s1 := dropL1 (closeColls s cx 4) cx
  let s2 := { stopUnits s1 cx with
    rems := s1.rems.filter fun e => e.2.ctx != cx
    launches := s1.launches.filter fun e => e.2.ctx != cx
    teams := s1.teams.filter fun e => e.2.ctx != cx
    groups := s1.groups.filter fun e => e.2.ctx != cx
    joints := s1.joints.filter fun e => match team? s1 e.2.team with | some t => t.ctx != cx | none => false
    colls := s1.colls.filter fun e => e.2.slot != cx
    cmsgs := s1.cmsgs.filter fun m => m.slot != cx
    comms := s1.comms.filter fun e => e.1 / 4096 != cx
    cores := mmap s1.cores fun _ c => { c with weirs := c.weirs.filter fun e => e.2.owner != cx }
    ctxs := mdel s1.ctxs cx
    parts := mmap s1.parts fun _ p => partForget p cx }
  let s3 := { s2 with waits := s2.waits.filter fun p => p.ctx != cx || (match p.who with | .target _ | .ctxLoad => true | _ => false) }
  -- requests at this target find no context now (R397)
  let s4 := (s3.treqs.filter fun e => e.2.msg.ectx == cx).foldl (fun s e => targetTry s e.2) s3
  (mkeys s4.cores).foldl fenceCore s4

/-- The launches of an unloaded context complete, and its state is discarded (R49, R425). -/
def finishUnload (s : State) (cx : Nat) : State :=
  let s1 := (s.launches.filter fun e => e.2.ctx == cx && e.2.status.isNone).foldl (fun s e => completeLaunch s e.1 5 0 0 e.2.kidx) s
  forgetCtx s1 cx

/-- Every unit of a halted context has stopped (R425): the records are written, its dirty lines are written back (R273) and, unless it is
being unloaded, its launches complete with status 0x0003. -/
def haltComplete (s : State) (cx : Nat) : State :=
  match ctx? s cx with
  | none => s
  | some c =>
    match c.halt with
    | none => s
    | some h =>
      if !canHalt s cx then s
      else
        let s1 := (ctxGroups s cx).foldl (fun s e => haltFrame s e.1) s
        let s2 := writeHaltBuf s1 c.part cx h
        let s3 := writeBackAll (stopUnits (closeColls s2 cx (if h.unload then 4 else 3)) cx) fun k => l1Pasid k == c.pasid
        let s4 := modCtx s3 cx fun c => { c with onPart := false, halt := some { h with done := true } }
        if h.unload then s4
        else (s4.launches.filter fun e => e.2.ctx == cx && e.2.status.isNone).foldl (fun s e =>
          completeLaunch s e.1 3 h.cause (if h.launch = some e.1 then h.pc.toNat else 0) e.2.kidx) s4

/-- A context that Dyxihan unloads for a reset or for heat has no command that ends it: it ends with its halt (R484, R487). -/
def dyxihanUnloads (s : State) (cx : Nat) : Bool :=
  (match ctx? s cx with | some c => c.unloading && (match c.halt with | some h => h.done | none => false) | none => false)
    && !(s.dev.ctxBusy && s.dev.ctxOp == 2 && s.dev.ctxSlot == cx)

/-- HALT_COMPLETE (R425). -/
def execHaltComplete (s : State) : Host.Outcome State Fault Refusal :=
  .next (
    let s1 := haltComplete s s.ev.a
    if dyxihanUnloads s1 s.ev.a then finishUnload s1 s.ev.a else s1)

/-! ### Loading and unloading (R48, R49) -/

/-- The descriptor passes the limits of R48 and R270. -/
def ctxDescOk (b : List Nat) : Bool :=
  let f := fieldAt b
  f 0 4 == 0x43580001 && f 0x7C 4 == crc32c (b.take 0x7C) && f 4 4 != 0 && f 4 4 < 2 ^ 20 && f 8 1 < 8 && f 9 1 < 2
    && (f 0xA 1 == 0 || inRange 20 40 1 (f 0xA 1)) && f 0xB 1 < 64 && f 0xC 4 == 0 && f 0x10 8 % 64 == 0 && f 0x18 8 % 1024 == 0
    && f 0x20 4 != 0 && f 0x20 4 % 1024 == 0 && (slice b 0x24 88).all (· == 0)

/-- An entry of the region table. -/
def regionOf (b : List Nat) (i : Nat) : Region :=
  let f := fun o n => fieldAt b (32 * i + o) n
  { base := f 0 8, limit := f 8 8, kind := f 0x10 1, nol1 := f 0x11 1 == 1 }

/-- The limits of R270 for an entry. -/
def regionOk (b : List Nat) (i : Nat) : Bool :=
  let r := regionOf b i
  let fl := fieldAt b (32 * i + 0x11) 1
  (slice b (32 * i + 0x12) 14).all (· == 0) &&
    (if r.kind = 0 then r.base == 0 && r.limit == 0 && fl == 0
     else r.kind ≤ 4 && r.base % 4096 == 0 && r.base < 2 ^ 63 && r.limit % 4096 == 0 && r.base < r.limit && r.limit ≤ 2 ^ 57 && fl < 2)

/-- The used regions of a table that passes R270. -/
def regionsOf (b : List Nat) : Option (List Region) :=
  let rs := ((List.range 64).map (regionOf b)).filter fun r => r.kind != 0
  if (List.range 64).all (regionOk b) && disjointAll (rs.map fun r => (r.base, r.limit - r.base)) then some rs else none

/-- The table's read: it waits, fails, or gives the regions (R49, R498). -/
def readRegions (s : State) (slot pasid va : Nat) : Except FeStop (List Region) :=
  if va + 2048 > 2 ^ 57 then .error (.bad 1)
  else
    let ps := vaCut va 2048
    if ps.any fun (a, _) => match translate s none pasid a .rd with
        | .deny => true | .miss => deniedFor s .ctxLoad a | .ok _ _ => false then .error (.bad 1)
    else
      let miss := ps.filter fun (a, _) => translate s none pasid a .rd == .miss
      if miss ≠ [] then .error (.wait (miss.foldl (fun s e => askPasid s .ctxLoad slot pasid e.1 .rd 0) s))
      else
        let (b, po) := vaRead s none pasid va 2048
        match po, regionsOf b with
        | false, some rs => .ok rs
        | _, _ => .error (.bad 1)

/-- The command in progress ends. -/
def ctxResult (s : State) (r : Nat) : State := modDev (dropWaits s .ctxLoad) fun d => { d with ctxBusy := false, ctxResult := r }

/-- A load (R48, R49). -/
def loadCtx (s : State) (slot : Nat) : State :=
  if (ctx? s slot).isSome then ctxResult s 2
  else
    let a := (s.dev.ctxBase + slot * 128) % 2 ^ 64
    let b := ridRead s a 128
    let pasid := fieldAt b 4 4
    let p := fieldAt b 8 1
    if ridBad s a 128 || !ctxDescOk b then ctxResult s 1
    else if s.ctxs.any fun e => e.2.pasid == pasid then ctxResult s 3
    else if (part s p).granules = 0 then ctxResult s 4
    else match readRegions s slot pasid (fieldAt b 0x10 8) with
      | .error (.wait s1) => s1
      | .error (.bad _) => ctxResult s 1
      | .ok rs =>
        let c : Ctx := { pasid := pasid, part := p, start := fieldAt b 9 1 == 1, wdlog := if fieldAt b 0xA 1 = 0 then 26 else fieldAt b 0xA 1,
                         fptrap := fieldAt b 0xB 1, trapArea := fieldAt b 0x18 8, trapSize := fieldAt b 0x20 4, regions := rs }
        ctxResult { s with ctxs := mput s.ctxs slot c } 0

/-- The halt line of an unload is raised (R49, R424). -/
def unloadCtx (s : State) (slot : Nat) : State :=
  modCtx (raiseHalt s slot { cause := 0, unload := true }) slot fun c => { c with unloading := true }

/-- CTXCMD is written (R49, R484). -/
def ctxCmd (s : State) (op slot : Nat) : State :=
  if s.dev.ctxBusy then s
  else
    let s1 := modDev s fun d => { d with ctxSlot := slot }
    if op = 1 then (if s.dev.state = 3 then s1 else modDev s1 fun d => { d with ctxBusy := true, ctxOp := 1, ctxResult := 0 })
    else if op = 2 then
      let s2 := modDev s1 fun d => { d with ctxBusy := true, ctxOp := 2, ctxResult := 0 }
      if (ctx? s slot).isSome then unloadCtx s2 slot else s2
    else s1

/-- CTX_LOAD (R49). -/
def execCtxLoad (s : State) : Host.Outcome State Fault Refusal := .next (bar0Write s (ctxCmd s 1 (s.ev.a % 512)))
/-- CTX_UNLOAD (R49). -/
def execCtxUnload (s : State) : Host.Outcome State Fault Refusal := .next (bar0Write s (ctxCmd s 2 (s.ev.a % 512)))

/-- CTXCMD_DONE can be: a load waits for no page, an unload's units have stopped. -/
def canCmd (s : State) : Bool :=
  s.dev.ctxBusy && (if s.dev.ctxOp = 1 then !waiting s .ctxLoad
    else match ctx? s s.dev.ctxSlot with
      | none => true
      | some c => (match c.halt with | some h => h.done | none => false))

/-- CTXCMD_DONE (R49). A load that was in progress when the device became too hot loads nothing (R484, log entry 37). -/
def ctxcmdDone (s : State) : State :=
  if !canCmd s then s
  else if s.dev.ctxOp = 1 then (if s.dev.state = 3 then ctxResult s 1 else loadCtx s s.dev.ctxSlot)
  else match ctx? s s.dev.ctxSlot with
    | none => ctxResult s 2
    | some _ => ctxResult (finishUnload s s.dev.ctxSlot) 0

/-- CTXCMD_DONE. -/
def execCtxcmdDone (s : State) : Host.Outcome State Fault Refusal := .next (ctxcmdDone s)

/-! ### Turns and exchanges (R47, R432, R433, R441) -/

/-- A context has work and may take a turn (R47, R432, R460). -/
def hasWork (s : State) (cx : Nat) : Bool :=
  (match ctx? s cx with | some c => c.halt.isNone && !c.suspended && !c.unloading | none => false) && !isInspector s cx
    && s.launches.any fun e => e.2.ctx == cx && e.2.status.isNone

/-- The contexts of a partition with work, in slot order. -/
def workers (s : State) (p : Nat) : List Nat := (s.ctxs.filter fun e => e.2.part == p && hasWork s e.1).map Prod.fst

/-- The next context with work after the one that holds or last held the turn (R47). -/
def nextWorker (s : State) (p : Nat) : Option Nat :=
  let x := part s p
  let ws := workers s p
  match (if x.turn.isSome then x.turn else x.lastCtx) with
  | some c => (match ws.find? fun w => c < w with | some w => some w | none => ws.head?)
  | none => ws.head?

/-- The state of a context leaves its partition: its groups stop at an issue boundary (R433). -/
def leavePart (s : State) (cx : Nat) : State :=
  if isInspector s cx then modCtx s cx fun c => { c with onPart := false }
  else
    let s1 := modCtx s cx fun c => { c with onPart := false }
    { s1 with groups := mmap s1.groups fun _ g => if g.ctx == cx then saveGroup s g else g }

/-- The state of a context is on its partition again: its resident groups join their slices (R120, R433). -/
def enterPart (s : State) (cx : Nat) : State :=
  let s0 := ((s.teams.filter fun e => e.2.ctx == cx).map (·.2.core)).eraseDups.foldl freshNb s
  let s1 := modCtx s0 cx fun c => { c with onPart := true }
  (ctxGroups s1 cx).foldl (fun s e => match team? s e.2.team with
    | some t => if t.st = .resident then joinSlice s e.1 else s
    | none => s) s1

/-- An exchange begins (R433). -/
def beginExch (s : State) (p : Nat) (out inn : Option Nat) (cmd : Bool) : State :=
  let s1 := match out with
    | some o => if (ctx? s o).any (·.onPart) then leavePart s o else s
    | none => s
  modPart s1 p fun x => { x with exch := some { out := out, inn := inn, cmd := cmd } }

/-- EXCHANGE_DONE can be: the outgoing context's begun matrix operations are complete (R376, R434). -/
def canExch (s : State) (p : Nat) : Bool :=
  match (part s p).exch with
  | some e => (match e.out with | some o => !ctxMats s o | none => true)
  | none => false

/-- EXCHANGE_DONE (R433). -/
def exchangeDone (s : State) (p : Nat) : State :=
  match (part s p).exch with
  | none => s
  | some e =>
    if !canExch s p then s
    else
      let s1 := if e.cmd then modDev s fun d => { d with xBusy := false } else s
      let comes := e.inn.filter fun c => match ctx? s c with | some c => c.halt.isNone && !c.suspended && !c.unloading && c.part == p | none => false
      let s2 := modPart s1 p fun x =>
        { x with exch := none, turn := comes, turnAt := s.now, lastCtx := if x.turn.isSome then x.turn else x.lastCtx }
      match comes with
      | some c => enterPart s2 c
      | none => s2

/-- EXCHANGE_DONE. -/
def execExchangeDone (s : State) : Host.Outcome State Fault Refusal := .next (exchangeDone s s.ev.a)

/-- The SLICEP period has run out while another context has work (R46, R47). -/
def sliceOver (s : State) (p : Nat) : Option (Nat × Nat) :=
  let x := part s p
  match x.turn, nextWorker s p with
  | some t, some n =>
    if x.exch.isNone && t != n && hasWork s t && x.turnAt + max 1 x.slicep * 240000 ≤ s.now then some (t, n) else none
  | _, _ => none

/-- TIME_SLICE_EXPIRY (R47). -/
def execTimeSliceExpiry (s : State) : Host.Outcome State Fault Refusal :=
  .next (match sliceOver s s.ev.a with
    | some (t, n) => beginExch s s.ev.a (some t) (some n) false
    | none => s)

/-- The holder of the turn has no work left, is halted or suspended, or there is none, while a context has work (R47). -/
def turnPasses (s : State) (p : Nat) : Option Nat :=
  let x := part s p
  if x.exch.isSome then none
  else match x.turn, nextWorker s p with
    | some t, some n => if hasWork s t then none else some n
    | none, some n => some n
    | _, none => none

/-- TURN_PASS (R47). -/
def execTurnPass (s : State) : Host.Outcome State Fault Refusal :=
  .next (match turnPasses s s.ev.a with
    | some n => beginExch s s.ev.a (part s s.ev.a).turn (some n) false
    | none => s)

/-- CTXYIELD (R441): the turn passes where another context of the partition has work. -/
def execCtxyield (p : LS) (s : State) : Host.Outcome State Fault Refusal :=
  run s (uses (.ctxyield p)) fun v =>
    let s1 := finish s v { g := v.g }
    let x := part s1 v.cx.part
    match nextWorker s1 v.cx.part with
    | some n => if x.exch.isNone && x.turn == some v.g.ctx && n != v.g.ctx then beginExch s1 v.cx.part (some v.g.ctx) (some n) false else s1
    | none => s1

/-- The RESULT of an exchange command (R432). -/
def xchgResult (s : State) (op slot : Nat) : Nat :=
  match ctx? s slot with
  | none => 1
  | some c => if c.halt.isSome then 3 else if op ≠ 1 && (op == 2) == c.suspended then 2 else 0

/-- XCHGCMD is written (R432). -/
def xchgCmd (s : State) (op slot : Nat) : State :=
  if s.dev.xBusy then s
  else
    let r := xchgResult s op slot
    let s1 := modDev s fun d => { d with xSlot := slot, xResult := if 1 ≤ op ∧ op ≤ 3 then r else d.xResult }
    if op = 0 ∨ op > 3 ∨ r ≠ 0 then s1
    else if op = 3 then modCtx s1 slot fun c => { c with suspended := false }
    else
      let s2 := if op = 2 then modCtx s1 slot fun c => { c with suspended := true } else s1
      match ctx? s2 slot with
      | none => s2
      | some c =>
        let x := part s2 c.part
        let busy (s : State) : State := modDev s fun d => { d with xBusy := true }
        match x.exch with
        | some e =>
          if e.out = some slot ∨ e.inn = some slot then
            modPart (busy s2) c.part fun x => { x with exch := some { e with cmd := true, inn := if op = 1 ∧ e.out = some slot ∧ e.inn = none then some slot else e.inn } }
          else s2
        | none =>
          if x.turn = some slot && c.onPart then
            beginExch (busy s2) c.part (some slot) (if op = 1 then some slot else nextWorker s2 c.part) true
          else s2

/-- XCHG_OUT_IN (R432). -/
def execXchgOutIn (s : State) : Host.Outcome State Fault Refusal := .next (bar0Write s (xchgCmd s 1 (s.ev.a % 512)))
/-- XCHG_SUSPEND (R432). -/
def execXchgSuspend (s : State) : Host.Outcome State Fault Refusal := .next (bar0Write s (xchgCmd s 2 (s.ev.a % 512)))
/-- XCHG_RESUME (R432). -/
def execXchgResume (s : State) : Host.Outcome State Fault Refusal := .next (bar0Write s (xchgCmd s 3 (s.ev.a % 512)))

/-! ### The barrier watchdog (R137, R435) -/

/-- A lane waits at a WAITK or at a loop's end. -/
def deadWait (l : Lane) : Bool := match l.st with | .waitK _ | .loopEnd _ => !l.hand | _ => false

/-- The watched waits of a group (R435). -/
def watches (s : State) (gid : Nat) (g : Group) : List Watch :=
  let bars := (List.range 32).filterMap fun L => match (laneGet g L).st with
    | .bar (.bar i _) t => some ({ kind := 1, id := i, since := t } : Watch)
    | .bar .barc t => some { kind := 2, id := 0, since := t }
    | .bar .gsync t => some { kind := 3, id := 0, since := t }
    | .bar (.obj o _) t => some { kind := 4, id := o, since := t }
    | _ => none
  let dead := if liveLanes g != 0 && lanesWhere g deadWait == liveLanes g && g.hnd.isNone then
      let k := (lanesOf allLanes).findSome? fun L => match (laneGet g L).st with | .waitK k => some k | _ => none
      [({ kind := 5, id := k.getD 0, since := (lanesOf (liveLanes g)).foldl (fun a L => max a (laneGet g L).since) 0 } : Watch)]
    else []
  let jo := s.joints.flatMap fun e => e.2.members.filterMap fun m => if m.2.gid = gid then some ({ kind := 6, id := 0, since := m.2.at_ } : Watch) else none
  bars ++ dead ++ jo ++ g.tfree.toList

/-- The oldest watched wait of a group. -/
def oldest (s : State) (gid : Nat) (g : Group) : Option Watch := minBy (fun w => w.since) (watches s gid g)

/-- A lane of a context is halted by a weir (R457). -/
def weirHalts (s : State) (cx : Nat) : Bool := s.groups.any fun e => e.2.ctx == cx && lanesWhere e.2 (fun l => l.st == .halted) != 0

/-- The group's watchdog counts (R435): its context is on its partition, neither suspended nor halted, and no lane of it is halted by a weir
(R457). -/
def wdCounts (s : State) (cx : Nat) : Bool :=
  ctxHere s cx && (match ctx? s cx with | some c => c.halt.isNone && !c.suspended | none => false) && !weirHalts s cx

/-- One cycle of a group's watchdog; a group that has ended may be a member of a pending joint operation still (R348). -/
def wdTick (s : State) (gid : Nat) (g : Group) : Group :=
  match oldest s gid g with
    | none => if g.wd = 0 && g.wdFor.isNone then g else { g with wd := 0, wdFor := none }
    | some w => if !wdCounts s g.ctx then g
        else if g.wdFor = some w then { g with wd := g.wd + 1 } else { g with wd := 1, wdFor := some w }

/-- The watchdog period of a group has passed. -/
def wdOver (s : State) (g : Group) : Option Watch :=
  match g.wdFor, ctx? s g.ctx with
  | some w, some c => if wdCounts s g.ctx && 2 ^ c.wdlog ≤ g.wd then some w else none
  | _, _ => none

/-- The arrived groups, members or ranks that a watchdog halt records (R427). -/
def wdArrived (s : State) (gid : Nat) (t : Team) (w : Watch) : Nat :=
  let bits (f : Nat → Group → Bool) : Nat :=
    t.groups.foldl (fun a id => match group? s id with | some x => if f id x then Nat.lor a (2 ^ x.idx) else a | none => a) 0
  match w.kind with
  | 1 => bits fun id _ => match mget? t.bars w.id with | some b => b.arrived.contains id | none => false
  | 2 => (s.teams.filter fun e => e.2.launch == t.launch && e.2.cluster == t.cluster && teamArrived s e.2 isBarc).foldl (fun a e => Nat.lor a (2 ^ e.2.crank)) 0
  | 3 => bits fun _ x => barArrived x isGsync
  | 6 => (s.joints.filter fun e => e.2.members.any fun m => m.2.gid == gid).foldl (fun a e => e.2.members.foldl (fun a m => Nat.lor a (2 ^ groupNo s m.2.gid)) a) 0
  | _ => bits fun id x => match oldest s id x with | some y => y.kind == w.kind && y.id == w.id | none => false

/-- The PC at which the group's watched wait stands. -/
def wdPc (s : State) (gid : Nat) (g : Group) (w : Watch) : DWord :=
  if w.kind = 6 then
    ((s.joints.findSome? fun e => (e.2.members.find? fun m => m.2.gid == gid).map fun m => m.2.pc)).getD 0
  else
    let m := lanesWhere g fun l => match l.st with | .bar _ _ => w.kind ≤ 4 | .waitK _ | .loopEnd _ => w.kind == 5 | .run => w.kind == 7 | _ => false
    (laneGet g (lowLane m)).pc

/-- WATCHDOG_EXPIRY (R435). -/
def execWatchdogExpiry (s : State) : Host.Outcome State Fault Refusal :=
  .next (match group? s s.ev.a with
    | none => s
    | some g => match wdOver s g, team? s g.team with
      | some w, some t =>
        let h := haltOf s s.ev.a 0x08 (wdPc s s.ev.a g w)
        raiseHalt s g.ctx { h with kind := w.kind, id := if w.kind = 1 ∨ w.kind = 4 ∨ w.kind = 5 then w.id else 0
                                   obj := if w.kind = 4 then leBytes 16 (scrNat t w.id 16) else []
                                   arrived := wdArrived s s.ev.a t w }
      | _, _ => s)

end Sys2Proof.Machine
end

