-- ==== Sys2Proof/Machine/Issue.lean ====
section
/-! DEFINITION. Machine/Issue.lean: the instruction that a chosen word is, or the rule that it breaks (R98, R99, R111, R168). -/

namespace Sys2Proof.Machine

/-- The word is the last of its clause. -/
def View.last (v : View) : Bool := v.npc == clauseEnd v.is.cl

/-- The instruction of the chosen word, or the lowest REASON that it breaks (R111). -/
def issueInstr (v : View) : Except Reason Instr :=
  let op := opOf v.w0.toNat
  if opReserved op then .error .opcode
  else if classOf op ≠ v.hdr.eclass then .error .cls
  else if opLong op && v.wn.isNone then .error .cut
  else match decode v.w0.toNat (v.wn.getD 0).toNat with
    | .error r => .error r
    | .ok i => if i.transfers && !v.last then .error .notLast else .ok i

/-- The instructions of a clause before an address, in order: those that R168 calls earlier. -/
def earlier (c : Clause) (pc : DWord) : Nat → DWord → List Instr
  | 0, _ => []
  | n + 1, a =>
    if pc ≤ a then []
    else match wordAt c a with
      | none => []
      | some w =>
        let e := (wordAt c (a + 4)).getD 0
        let rest := earlier c pc n (a + if opLong (opOf w.toNat) then 8 else 4)
        match decode w.toNat e.toNat with
        | .ok i => i :: rest
        | .error _ => rest

/-- The predicate that the guard of a clause reads for every word (R96); guard 31 is true always. -/
def guardReads (h : Header) : List RegRef := if h.guard = 31 then [] else [.p h.guard]

/-- The word breaks R168: an opcode outside 0x30 to 0x37 in a fused clause, or the restart rule. DEDUCED (log entry 58): the
guard's predicate is a register that every word of the clause reads. -/
def fuseBad (v : View) (i : Instr) : Bool :=
  v.hdr.fuse &&
    (let op := opOf v.w0.toNat
     op < 0x30 || 0x37 < op ||
      (let before := earlier v.is.cl v.is.pc 15 (v.is.cl.addr + 4)
       let seen := guardReads v.hdr ++ readsOf (uses i) ++ before.flatMap fun j => readsOf (uses j) ++ writesOf (uses j)
       (writesOf (uses i)).any fun r => seen.contains r))

/-- What the machine does next. -/
inductive Act where
  /-- run an instruction of the ISA on the chosen issue, or a step of the device on State.ev -/
  | run (i : Instr) (s : State)
  /-- the step is over: a decode trap, or a cycle in which nothing happened -/
  | done (s : State)
  /-- an issue without a group -/
  | stuck

/-- What becomes of the chosen issue. -/
def issueAct (s : State) : Act :=
  match view s with
  | none => .stuck
  | some v =>
    match issueInstr v with
    | .error r => .done (trapIllegal s v r)
    | .ok i => if fuseBad v i then .done (trapEntryLanes s v 0x02) else .run i s

end Sys2Proof.Machine
end

