-- ==== Sys2Proof/Machine/Translate.lean ====
section
/-! DEFINITION. Machine/Translate.lean: translation: ATS and PRI responses, their bounds, page request resources, and invalidations (R45,
R279 to R284, R397). -/

namespace Sys2Proof.Machine

/-! ### Translations that the device holds (R279, R281) -/

/-- The size at which a translation is held: 4 KiB, 64 KiB, 2 MiB or 1 GiB. -/
def heldSize (n : Nat) : Nat :=
  if 2 ^ 30 ≤ n then 2 ^ 30 else if 2 ^ 21 ≤ n then 2 ^ 21 else if 2 ^ 16 ≤ n then 2 ^ 16 else 4096

/-- The translation that an answer grants: as it is held. `pa` is the physical address of the page. -/
def transFor (pasid page pa size : Nat) (host r w x : Bool) : Trans :=
  let n := heldSize size
  let base := page / n * n
  { pasid := pasid, va := base, size := n, pa := pa - (page - base), host := host, r := r, w := w, x := x }

/-- A translation enters Basin, where it is enabled (R279, R281). -/
def fillBasin (s : State) (t : Trans) : State :=
  if !s.dev.basinEn then s
  else { s with basin := putEnt s.basin (Config.basinSet t.pasid (t.va / 4096) % (2 ^ s.dev.basinLogn / 8)) (Config.basinVictim s.free) t
                free := s.free + 1 }

/-- A translation enters what the units outside the cores hold (log entry 63). -/
def fillUnits (s : State) (t : Trans) : State :=
  { s with tlb := t :: s.tlb.filter fun u => !(u.pasid == t.pasid && meets u.va u.size t.va t.size) }

/-- The translation is of a PASID and meets a range. -/
def Trans.hits (t : Trans) (pasid a n : Nat) : Bool := t.pasid == pasid && meets t.va t.size a n

/-- The translations of a range go, from the L1 TLBs, Basin, the units outside the cores, and the waits that were granted them (R280). -/
def dropTlb (s : State) (pasid a n : Nat) : State :=
  { s with
    ctlb := mmap s.ctlb fun _ l => l.filter fun e => !e.tr.hits pasid a n
    basin := s.basin.filter fun e => !e.tr.hits pasid a n
    tlb := s.tlb.filter fun t => !t.hits pasid a n
    waits := s.waits.map fun p => if p.tr.any fun t => t.hits pasid a n then { p with tr := none } else p }

/-! ### Waits -/

/-- Change a wait. -/
def modWait (s : State) (id : Nat) (f : PWait → PWait) : State := { s with waits := s.waits.map fun p => if p.id == id then f p else p }

/-- The core for which a unit waits, with the team. -/
def waiterTeam (s : State) (who : Waiter) : Option (Nat × Nat) :=
  match who with
  | .lanes g _ | .frame g | .fetch g _ | .counter g _ => (group? s g).map fun g => (coreOf s g, g.team)
  | .op id => (op? s id).map fun o => (o.core, o.team)
  | _ => none

/-- The core for which a unit waits. -/
def waiterCore (s : State) (who : Waiter) : Option Nat := (waiterTeam s who).map Prod.fst

/-- The group that waits for a translation. -/
def waiterGroup : Waiter → Option Nat
  | .lanes g _ | .frame g | .fetch g _ | .counter g _ => some g
  | _ => none

/-- The group whose words do not issue while the page is absent (R91, R282, R419). -/
def stalledGroup : Waiter → Option Nat
  | .lanes g _ | .frame g | .fetch g _ => some g
  | _ => none

/-- The waits answered for units that act on answers at once: flags of layers and requests at this target (R34, R397). -/
def answered (s : State) (p : PWait) : State :=
  match p.who with
  | .stream l =>
    let pend := (match (launch? s l).bind (·.model) with | some m => m.flagPend | none => []).filter fun i =>
      match layer? s l i with | some ly => pageOf ly.flag == p.page | none => false
    if deniedFor s (.stream l) p.page then modModel s l fun m => { m with flagPend := m.flagPend.filter fun i => !pend.contains i }
    else pend.foldl (fun s i => flushFlag s l i) s
  | .target id => (match mget? s.treqs id with
      | some t => if waiting s (.target id) then s else targetTry s t
      | none => s)
  | _ => s

/-- A core's unit that goes on has the translation that it was granted, though its TLB may have lost it since; a unit outside the cores
looks its page up again, and keeps no record of a grant. -/
def keepsOk (p : PWait) : Bool := p.stage != .ok || (waiterGroup p.who).isSome || (match p.who with | .op _ => true | _ => false)

/-- A wait is granted a translation, or denied. -/
def answerWait (s : State) (p : PWait) (ok : Option Trans) : State :=
  let s1 := modWait s p.id fun q => { q with stage := if ok.isSome then .ok else .deny, tr := ok }
  let s2 := { s1 with waits := s1.waits.filter keepsOk }
  answered s2 p

/-- A translation that ATS grants fills Basin and the TLB of the unit that waits (R279). -/
def grantWait (s : State) (p : PWait) (t : Trans) : State :=
  let s1 := fillBasin s t
  answerWait (match waiterTeam s p.who with
    | some (cr, team) => fillCore s1 cr (some team) t
    | none => fillUnits s1 t) p (some t)

/-- A translation is unrecoverable (R45, R280): the context halts with 0x05. A load of a context, a dump and a request at this target
end as where it is denied (R397, R471, R498). -/
def lostWait (s : State) (p : PWait) : State :=
  match p.who with
  | .ctxLoad | .dump _ | .target _ => answerWait s p none
  | _ =>
    let s1 := modWait s p.id fun q => { q with stage := .deny }
    match waiterGroup p.who with
    | some gid =>
      let g := (group? s1 gid).getD { team := 0, launch := 0, ctx := 0 }
      let pc := match p.who with
        | .fetch _ pc => pc
        | .lanes _ seq => ((flyOf g seq).map (·.pc)).getD 0
        | _ => ((g.trap.map (·.tr.pc)).getD (laneGet g (lowLane (handLanes g))).pc)
      haltGroup s1 gid 0x05 pc
    | none =>
      let l := match p.who with | .stream l | .kern l => some l | .op id => (op? s1 id).map (·.launch) | _ => none
      raiseHalt s1 p.ctx { cause := 0x05, launch := l }

/-! ### Page requests (R45, R282, R283) -/

/-- Page request groups of a context that are outstanding. -/
def priCount (s : State) (ctx : Nat) : Nat := (s.waits.filter fun p => p.ctx == ctx && p.stage == .pri).length

/-- The slice of the replay buffer that a fault of lanes takes an entry of. -/
def replaySlice (s : State) (p : PWait) : Option (Nat × Nat) :=
  match p.who with
  | .lanes g _ => (group? s g).map fun g => (coreOf s g, g.slice)
  | _ => none

/-- Entries of a slice's replay buffer that are taken: by the faults of the teams resident there, until they have replayed (R282, R284). -/
def replayUsed (s : State) (sl : Nat × Nat) : Nat :=
  (s.waits.filter fun p => p.asked && (match p.who with
    | .lanes g _ => (group? s g).any fun g => (coreOf s g, g.slice) == sl && (team? s g.team).any (teamHere s)
    | _ => false)).length

/-- A fault sends its page request. -/
def sendPri (s : State) (p : PWait) : State :=
  emit (modWait s p.id fun q => { q with stage := .pri, since := s.now }) (.pri p.pasid p.page p.w p.x)

/-- The team of the lanes that wait is saved out: its faults take nothing now (R283, R284). -/
def savedOut (s : State) (p : PWait) : Bool :=
  match p.who with
  | .lanes g _ => (group? s g).all fun g => !(team? s g.team).any (teamHere s)
  | _ => false

/-- A stalled fault takes what is free: for lanes an entry of the replay buffer of their slice, then a page request group of its context
(R283). -/
def takeFree (s : State) (p0 : PWait) : State :=
  let p := { p0 with asked := p0.asked || match replaySlice s p0 with | some sl => replayUsed s sl < 64 | none => true }
  if savedOut s p then s
  else if p.asked && priCount s p.ctx < 512 then sendPri (modWait s p.id fun q => { q with asked := true }) p
  else modWait s p.id fun q => { q with asked := p.asked }

/-- The place of a stalled fault in the order in which they stalled; those of one cycle go by core, slice and slot (R283). -/
def stallPos (s : State) (p : PWait) : Nat :=
  let pos := match (stalledGroup p.who).bind (group? s) with
    | some g => groupPos s g
    | none => (waiterCore s p.who).getD 384 * 256 + 255
  (p.since * 2 ^ 20 + pos) * 2 ^ 64 + p.id

/-- Faults that stalled take what is free, oldest first (R283). -/
def unstall (s : State) : State :=
  if s.waits.all fun p => p.stage != .stalled then s
  else (sortBy (stallPos s) (s.waits.filter fun p => p.stage == .stalled)).foldl takeFree s

/-- An absent page: the group of a lane, a fetch or a frame stalls from now (R282), and a page request is sent once there is room for it. A
dump makes no page request (R471). -/
def pageAbsent (s : State) (p : PWait) : State :=
  match p.who with
  | .dump _ => answerWait s p none
  | _ =>
    let s1 := modWait s p.id fun q => { q with stage := .stalled, since := s.now }
    unstall (match stalledGroup p.who with
      | some g => modGroup s1 g fun g => stallFrom g s.now
      | none => s1)

/-! ### Responses (R279, R280) -/

/-- The permission suffices for the access that waits. -/
def permits (p : PWait) (t : Trans) : Bool := (!p.r || t.r) && (!p.w || t.w) && (!p.x || t.x)

/-- A grant names memory that exists, and that a context may reach (R278). -/
def grantOk (s : State) (t : Trans) : Bool := t.host || (t.pa + t.size ≤ hbmSize && !kept s.dev t.pa t.size)

/-- One wait takes an ATS answer. -/
def takeAts (s : State) (p : PWait) (ans : AtsAnswer) : State :=
  let s := monRecord s (waiterCore s p.who) p.ctx 3 (s.now - p.since)
  match ans with
  | .error => lostWait s p
  | .absent => if p.stage = .again then answerWait s p none else pageAbsent s p
  | .grant pa size host r w x =>
    let t := transFor p.pasid p.page pa size host r w x
    if !grantOk s t then lostWait s p
    else if permits p t then grantWait s p t
    else if p.stage = .again then answerWait s p none
    else pageAbsent s p

/-- ATS_RESPONSE (R279): every request outstanding for the page takes the answer. -/
def atsResponse (s : State) (pasid page : Nat) (ans : AtsAnswer) : State :=
  unstall ((s.waits.filter fun p => p.pasid == pasid && p.page == page && (p.stage == .ats || p.stage == .again)).foldl (fun s p => takeAts s p ans) s)

/-- ATS_RESPONSE. -/
def execAtsResponse (s : State) : Host.Outcome State Fault Refusal := .next (atsResponse s s.ev.a s.ev.c s.ev.ats)

/-- An ATS request is past its bound of 1 ms (R45). -/
def atsLate (s : State) (p : PWait) : Bool := (p.stage == .ats || p.stage == .again) && p.since + 2400000 ≤ s.now

/-- ATS_TIMEOUT (R45). -/
def execAtsTimeout (s : State) : Host.Outcome State Fault Refusal :=
  .next (unstall ((s.waits.filter fun p => p.pasid == s.ev.a && p.page == s.ev.c && atsLate s p).foldl lostWait s))

/-- One wait takes a PRI response: it is translated again, or unrecoverable (R280). -/
def takePri (s : State) (p : PWait) (code : PriCode) : State :=
  let s := monRecord s (waiterCore s p.who) p.ctx 4 (s.now - p.since)
  match code with
  | .success => emit (modWait s p.id fun q => { q with stage := .again, since := s.now }) (.ats p.pasid p.page p.w p.x)
  | _ => lostWait s p

/-- PRI_RESPONSE (R280). -/
def execPriResponse (s : State) : Host.Outcome State Fault Refusal :=
  .next (unstall ((s.waits.filter fun p => p.pasid == s.ev.a && p.page == s.ev.c && p.stage == .pri).foldl (fun s p => takePri s p s.ev.pri) s))

/-- A page request is past its bound of 500 ms (R45, R284). -/
def priLate (s : State) (p : PWait) : Bool := p.stage == .pri && p.since + 1200000000 ≤ s.now

/-- PRI_TIMEOUT (R45, R284). -/
def execPriTimeout (s : State) : Host.Outcome State Fault Refusal :=
  .next (unstall ((s.waits.filter fun p => p.pasid == s.ev.a && p.page == s.ev.c && priLate s p).foldl lostWait s))

/-! ### Invalidations (R280) -/

/-- ATS_INVALIDATION: the matching entries go from the TLBs and Basin, and the page's instruction-cache lines go. -/
def execAtsInvalidation (s : State) : Host.Outcome State Fault Refusal :=
  .next (let n := max 4096 s.ev.b
    let s1 := dropLinesOf (dropTlb s s.ev.a s.ev.c n) s.ev.a s.ev.c n
    { s1 with invs := s1.invs ++ [(s.ev.a, s.ev.c)] })

/-- ATS_INVALIDATION_DONE: the host is told. -/
def execAtsInvalidationDone (s : State) : Host.Outcome State Fault Refusal :=
  .next (if s.invs.contains (s.ev.a, s.ev.c) then emit { s with invs := s.invs.erase (s.ev.a, s.ev.c) } (.invDone s.ev.a s.ev.c) else s)

end Sys2Proof.Machine
end

