-- ==== Sys2Proof/Machine/Fabric.lean ====
section
/-! DEFINITION. Machine/Fabric.lean: Runnel's events: requests that arrive at this device, answers and their bound, table drops, the route
table and link failure (R394, R397, R399, R406 to R408). -/

namespace Sys2Proof.Machine

/-! ### Requests and answers (R397, R399) -/

/-- An earlier store of the same word to some of the bytes of a request has not been performed: of overlapping lanes the highest is
performed last (R288, R398). -/
def storeAhead (s : State) (id : Nat) (r : Rem) : Bool :=
  match r.who with
  | .lanes g q _ => s.rems.any fun e => e.1 < id && e.2.ready.isNone && remWrites e.2.msg.op && meets e.2.addr e.2.msg.width r.addr r.msg.width
      && (match e.2.who with | .lanes g' q' _ => g' == g && q' == q | _ => false)
  | _ => false

/-- A request of this device to its own number has not arrived yet, and may. -/
def canLoop (s : State) (id : Nat) : Bool :=
  match mget? s.rems id with
  | some r => r.dev == s.dev.devNow && r.ready.isNone && !(s.treqs.any fun e => e.2.loop == id) && !(remWrites r.msg.op && storeAhead s id r)
  | none => false

/-- REMOTE_REQUEST_ARRIVE (R397): a request of a peer, or one of this device that loops back. -/
def execRemoteRequestArrive (s : State) : Host.Outcome State Fault Refusal :=
  .next (
    let (id, s1) := fresh s
    if s.ev.a = 0 then (match s.ev.msg with | some m => targetTry s1 { id := id, msg := m, loop := 0 } | none => s)
    else if canLoop s s.ev.a then (match mget? s.rems s.ev.a with
      | some r => targetTry s1 { id := id, msg := r.msg, loop := s.ev.a }
      | none => s)
    else s)

/-- A request is answered (R399, R317, R381). -/
def remAnswered (s : State) (r : Rem) (ans : RemAns) : State :=
  match r.who with
  | .lanes g q m =>
    let s1 := if r.msg.op == .ld then monRecord s (some r.core) r.ctx 5 (s.now - r.since) else s
    lanesAnswered s1 r g q m ans
  | .op id => engAnswered s r id ans
  | .stream l => streamAnswered s r l ans

/-- The answer of a request has the form that its operation asks for. -/
def ansFits (r : Rem) (ans : RemAns) : Bool :=
  match ans, r.msg.op with
  | .poison, _ => true
  | .data b, .ld => b.length == r.msg.width
  | .data b, .atom _ _ => b.length == r.msg.width
  | .ack, .st | .ack, .stCnt _ | .ack, .note _ => true
  | _, _ => false

/-- REMOTE_ANSWER (R399): the answer that stands ready here, or that the fabric brings. -/
def execRemoteAnswer (s : State) : Host.Outcome State Fault Refusal :=
  .next (match mget? s.rems s.ev.a with
    | none => s
    | some r => match r.ready with
      | some ans => remAnswered s r ans
      | none => if r.dev != s.dev.devNow && ansFits r s.ev.ans then remAnswered s r s.ev.ans else s)

/-- A request has had no answer for 1 ms (R397). -/
def remLate (s : State) (r : Rem) : Bool := r.since + 2400000 ≤ s.now

/-- REMOTE_TIMEOUT (R397). -/
def execRemoteTimeout (s : State) : Host.Outcome State Fault Refusal :=
  .next (match mget? s.rems s.ev.a with
    | some r => if remLate s r then remAnswered s r .poison else s
    | none => s)

/-! ### RMTINV (R394) -/

/-- RMTINV is written. -/
def rmtinv (s : State) (op slot : Nat) : State :=
  if s.dev.rmtBusy then s
  else
    let s1 := modDev s fun d => { d with rmtSlot := slot }
    if op = 0 ∨ op > 3 then s1
    else
      let s2 := tabDrop (modDev s1 fun d => { d with rmtBusy := true }) slot op
      if op = 3 then endColls s2 4 true fun c => c.slot == slot else s2

/-- RMTINV_PEER (R394). -/
def execRmtinvPeer (s : State) : Host.Outcome State Fault Refusal := .next (bar0Write s (rmtinv s 1 (s.ev.a % 512)))
/-- RMTINV_WINDOW (R394). -/
def execRmtinvWindow (s : State) : Host.Outcome State Fault Refusal := .next (bar0Write s (rmtinv s 2 (s.ev.a % 512)))
/-- RMTINV_COMM (R394). -/
def execRmtinvComm (s : State) : Host.Outcome State Fault Refusal := .next (bar0Write s (rmtinv s 3 (s.ev.a % 512)))
/-- RMTINV_DONE. -/
def execRmtinvDone (s : State) : Host.Outcome State Fault Refusal := .next (modDev s fun d => { d with rmtBusy := false })

/-! ### Routes and links (R407, R408) -/

/-- ROUTE_RELOAD (R407). -/
def execRouteReload (s : State) : Host.Outcome State Fault Refusal := .next (bar0Write s (modDev s fun d => { d with reload := true }))

/-- ROUTE_RELOAD_DONE: the table and DEVNUM come into force, and LINKDOWN clears (R407, R408). -/
def routeReloadDone (s : State) : State :=
  if !s.dev.reload then s
  else
    let a := s.dev.rtBase * 2 ^ 17
    let r : AMap Nat := (List.range 131072).filterMap fun i => let b := (readByte s (a + i)).toNat % 32; if b ≤ 17 then some (i, b) else none
    modDev s fun d => { d with reload := false, linkDown := 0, devNow := d.devnum, route := r }

/-- ROUTE_RELOAD_DONE. -/
def execRouteReloadDone (s : State) : Host.Outcome State Fault Refusal := .next (routeReloadDone s)

/-- The request goes over a link. -/
def usesLink (s : State) (r : Rem) (l : Nat) : Bool := r.ready.isNone && r.dev != s.dev.devNow && routeLink s r.dev r.rclass == some l

/-- LINK_FAILURE (R408, R479): LINKDOWN, poison for the requests on the link, the end of every collective, and the host's signal. -/
def linkFailure (s : State) (l : Nat) : State :=
  let s1 := if s.dev.linkDown.testBit l then s else modDev s fun d => { d with linkDown := d.linkDown + 2 ^ l }
  let s2 := { s1 with rems := mmap s1.rems fun _ r => if usesLink s r l then { r with ready := some .poison } else r }
  raiseErr (endColls s2 1 true fun _ => true) 3

end Sys2Proof.Machine
end

