-- ==== Sys2Proof/Machine/Service.lean ====
section
/-! DEFINITION. Machine/Service.lean: errors and their log, power and heat, Dyxihan with its mailbox, firmware and reset, and the BAR4 window
(R44, R278, R391, R477 to R480, R483 to R488). -/

namespace Sys2Proof.Machine

/-! ### Errors (R477 to R480) -/

/-- A saturating 64-bit counter of errors rises by 1; counters 0 to 6 stand in the order of R479. -/
def softCount (s : State) (n : Nat) : State :=
  modDev s fun d => { d with soft := mput d.soft n (min (2 ^ 64 - 1) (mget d.soft 0 n + 1)) }

/-- ERRLOG takes a UE event (R480, by the rule of R114): FLAGS, SOURCE, UNIT, CTX and PADDR. -/
def logUe (s : State) (source unit ctx paddr : Nat) : State :=
  modDev s fun d =>
    if d.errLog.testBit 7 then { d with errLog := Nat.lor d.errLog (2 ^ 6) }
    else { d with errLog := 2 ^ 7 + source % 256 * 2 ^ 8 + unit % 65536 * 2 ^ 16 + ctx % 65536 * 2 ^ 32 + paddr % 2 ^ 64 * 2 ^ 64 }

/-- Reading ERRLOG returns the record and opens the log again (R480). -/
def errlogRead (s : State) : State :=
  let x := s.dev.errLog
  let y := x - (if x.testBit 7 then 2 ^ 7 else 0) - (if x.testBit 6 then 2 ^ 6 else 0)
  emit (modDev s fun d => { d with errLog := y }) (.read (leBytes 32 x) false)

/-- Reading a counter returns it and clears it (R479). -/
def softRead (s : State) (n : Nat) : State :=
  emit (modDev s fun d => { d with soft := mdel d.soft n }) (.read (leBytes 8 (mget s.dev.soft 0 n)) false)

/-- SOFT_COUNTER_READ (R479). -/
def execSoftCounterRead (s : State) : Host.Outcome State Fault Refusal := .next (softRead s (s.ev.a % 7))
/-- ERRLOG_READ (R480). -/
def execErrlogRead (s : State) : Host.Outcome State Fault Refusal := .next (errlogRead s)

/-- ECC_CORRECTED (R477): the counter of the source, and CE. -/
def execEccCorrected (s : State) : Host.Outcome State Fault Refusal :=
  .next (if 1 ≤ s.ev.a ∧ s.ev.a ≤ 6 then raiseErr (softCount s (s.ev.a - 1)) 0 else s)

/-- A granule of a line of a core's L1 is poisoned; a coherent line has no bytes of its own, and memory's are (R477). -/
def poisonL1 (s : State) (cr pasid key : Nat) : State :=
  match mget? s.l1 (l1Key cr pasid key) with
  | none => s
  | some l =>
    if l.bytes = [] then { s with pois := mput s.pois (key / 16) true }
    else { s with l1 := mput s.l1 (l1Key cr pasid key) { l with pois := Nat.lor l.pois (2 ^ (key % 128 / 16)) } }

/-- A granule of an instruction-cache line is poisoned, and with it what a loop buffer holds of the line (R477). -/
def poisonCode (s : State) (cr pasid va : Nat) : State :=
  { s with ilines := mmod s.ilines (lineKey cr pasid va) fun bs => bs.zipIdx.map fun (b, i) => if i / 16 = va % 128 / 16 then b % 256 + 256 else b }

/-- What an SRAM holds is poisoned (R477, R478), of a team on its core or saved in Cistern: a register in a lane, a scalar register, a word of
a tile column, a scratchpad word of a team, a granule of an L1 line or of an instruction-cache line, a record of a Plume, or the scratchpad
word at an offset of a core. -/
def poisonCore (s : State) (cr off : Nat) (loc : List Nat) : State :=
  match loc with
  | [1, gid, r, L] => modGroup s gid fun g => vpoison g r L
  | [2, gid, r] => modGroup s gid fun g => { g with spois := mput g.spois r true }
  | [3, tid, q, row, col] => modTeam s tid fun t => { t with tilePois := mput t.tilePois ((q * 256 + row) * 128 + col) true }
  | [4, tid, o] => modTeam s tid fun t => { t with scrPois := mput t.scrPois (o / 4) true }
  | [5, pasid, key] => poisonL1 s cr pasid key
  | [6, pasid, va] => poisonCode s cr pasid va
  | [7, die, i] => { s with plume := mmod s.plume die fun p => { p with recs := mmod p.recs i fun x => x % 2 ^ 48 + 2 ^ 48 } }
  | _ => match s.teams.find? fun e => e.2.core == cr && e.2.st == .resident && e.2.scrBase ≤ off && off < e.2.scrBase + e.2.scrBytes with
    | some (tid, t) => modTeam s tid fun t' => { t' with scrPois := mput t'.scrPois ((off - t.scrBase) / 4) true }
    | none => s

/-- The virtual address that maps to a physical one in a context. -/
def vaOf (s : State) (pasid pa : Nat) : Option Nat :=
  (s.tlb.find? fun t => t.pasid == pasid && !t.host && t.pa ≤ pa && pa < t.pa + t.size).map fun t => t.va + (pa - t.pa)

/-- An arriving layer whose destination holds the address fails with FCAUSE 4 (R381). -/
def layerHit (s : State) (pa : Nat) : State :=
  s.launches.foldl (fun s (id, ln) =>
    match xferOf s id, ctx? s ln.ctx with
    | some x, some c => (match layer? s id x.layer, vaOf s c.pasid pa with
        | some ly, some va => if ly.dst ≤ va && va < ly.dst + ly.bytes then layerFail s id x.layer 4 else s
        | _, _ => s)
    | _, _ => s) s

/-- A poisoned granule of Basin's area is an entry of 16 bytes: no unit uses it, and the page is looked up through ATS again (log entry
78). -/
def poisonBasin (s : State) (addr : Nat) : State :=
  let a := s.dev.basinBase * 4096
  if !s.dev.basinEn || addr < a || a + 16 * 2 ^ s.dev.basinLogn ≤ addr then s
  else
    let i := (addr - a) / 16
    match (s.basin.filter fun e => e.set == i / 8)[i % 8]? with
    | some e => { s with basin := s.basin.erase e }
    | none => s

/-- Data in flight on Runnel is poisoned: a request's, or its answer (R399, R478). -/
def poisonRem (s : State) (id : Nat) : State :=
  { s with rems := mmod s.rems id fun r => if r.ready.isSome then { r with ready := some .poison } else { r with msg := { r.msg with poison := true } } }

/-- An uncorrectable error poisons data, counts, sets UE and is logged (R477, R478, R480). -/
def uncorrectable (s : State) (source unit addr ctx : Nat) (loc : List Nat) : State :=
  let inMem := source == 2 || source == 4 || source == 5
  let s1 := if inMem then poisonBasin { s with pois := mput s.pois (addr / 16) true } addr
    else if source = 6 then poisonRem s addr else poisonCore s unit addr loc
  let s2 := if source = 4 then layerHit s1 addr else s1
  raiseErr (logUe (softCount s2 6) source unit ctx (if inMem then addr / 16 * 16 else 0)) 1

/-- ECC_UNCORRECTABLE (R478). -/
def execEccUncorrectable (s : State) : Host.Outcome State Fault Refusal :=
  .next (if 1 ≤ s.ev.a ∧ s.ev.a ≤ 6 then uncorrectable s s.ev.a s.ev.b s.ev.c s.ev.d s.ev.data else s)

/-- RILL_FLIT_FAIL (R391): a retry is counted; a flit that cannot be delivered poisons its data. -/
def execRillFlitFail (s : State) : Host.Outcome State Fault Refusal :=
  .next (
    let s1 := raiseErr (softCount s 4) 0
    if s.ev.flag then s1 else raiseErr (uncorrectable s1 5 s.ev.b s.ev.c s.ev.d []) 4)

/-- LINK_FAILURE (R408). -/
def execLinkFailure (s : State) : Host.Outcome State Fault Refusal := .next (linkFailure s (s.ev.a % 18))

/-! ### Power (R483) -/

/-- Change the budget of every core. -/
def budgets (s : State) (f : Nat → Nat) : State :=
  (List.range 384).foldl (fun s c => modCore s c fun x => { x with budget := f x.budget }) s

/-- Every core's budget is at its lowest. -/
def allLow (s : State) : Bool := (List.range 384).all fun c => (coreAt s c).budget == 16

/-- POWER_INTERVAL (R483). -/
def powerInterval (s : State) (w : Nat) : State :=
  let lim := s.dev.limitW
  let high := lim < w
  let low := w + 100 < lim
  let hc := if high && allLow s then s.dev.highCnt + 1 else 0
  let lc := if low then s.dev.lowCnt + 1 else 0
  let s1 := modDev s fun d => { d with avgW := w, highCnt := hc, lowCnt := if lc ≥ 10 then 0 else lc }
  let s2 := if high then budgets s1 fun b => if 16 < b then b - 8 else b
    else if lc ≥ 10 then budgets s1 fun b => if b < 64 then b + 8 else b else s1
  if hc ≥ 100 then raiseErr s2 6 else s2

/-- POWER_INTERVAL. -/
def execPowerInterval (s : State) : Host.Outcome State Fault Refusal := .next (powerInterval s (s.ev.c % 65536))

/-! ### Unloading every context (R484, R487) -/

/-- Dyxihan unloads a context: at once where its units have stopped already. -/
def dyxUnload (s : State) (cx : Nat) : State :=
  match (ctx? s cx).bind (·.halt) with
  | some h => if h.done && !(s.dev.ctxBusy && s.dev.ctxOp == 2 && s.dev.ctxSlot == cx) then finishUnload s cx else unloadCtx s cx
  | none => unloadCtx s cx

/-- Every loaded context is unloaded. -/
def unloadAll (s : State) : State := (mkeys s.ctxs).foldl dyxUnload s

/-- THERMAL_CRITICAL (R484). -/
def execThermalCritical (s : State) : Host.Outcome State Fault Refusal :=
  .next (raiseErr (unloadAll (modDev s fun d => { d with state := 3 })) 7)

/-! ### Firmware and reset (R485, R486) -/

/-- A firmware slot. -/
def fwSlot (d : Dev) (n : Nat) : FwSlot := if n = 1 then d.fwA else d.fwB
/-- Change a firmware slot. -/
def setFw (d : Dev) (n : Nat) (f : FwSlot) : Dev := if n = 1 then { d with fwA := f } else { d with fwB := f }

/-- The security version of a slot's image; 0 for an empty slot. -/
def fwSvn (d : Dev) (n : Nat) : Nat := if (fwSlot d n).used then Config.imageSvn (fwSlot d n).bytes % 65536 else 0

/-- A slot's image passes R485: its signatures verify, and its security version is not below the fused minimum. -/
def fwOk (d : Dev) (n : Nat) : Bool := (fwSlot d n).used && Config.imageOk (fwSlot d n).bytes && d.fusedMin ≤ fwSvn d n

/-- FIRMWARE_VERIFIED (R485): the slot that was last booted, or activated, then the other; refused both, recovery. -/
def firmwareVerified (s : State) : State :=
  if s.dev.state ≠ 0 then s
  else
    let a := s.dev.bootNext
    let b := if a = 1 then 2 else 1
    let boot (n : Nat) : State := modDev s fun d => { d with state := 1, slot := n, svn := fwSvn d n, bootNext := n }
    if fwOk s.dev a then boot a else if fwOk s.dev b then boot b else modDev s fun d => { d with state := 2 }

/-- FIRMWARE_VERIFIED. -/
def execFirmwareVerified (s : State) : Host.Outcome State Fault Refusal := .next (firmwareVerified s)

/-- DEVICE_RESET (R485, R486): every register returns to its reset value and all work is gone; memory, the flash, the fused minimum and
what is outside the device stay. -/
def deviceReset (s : State) : State :=
  let d : Dev := { fwA := s.dev.fwA, fwB := s.dev.fwB, fusedMin := s.dev.fusedMin, bootNext := s.dev.bootNext, bar4Gib := s.dev.bar4Gib }
  { State.reset with
    now := s.now, agenda := s.agenda, ev := s.ev, turn := s.turn, free := s.free, nextId := s.nextId, mem := s.mem, pois := s.pois, rid := s.rid,
    out := s.out, dev := d }

/-- DEVICE_RESET. -/
def execDeviceReset (s : State) : Host.Outcome State Fault Refusal := .next (deviceReset s)

/-- A mailbox RESET is due: the command has completed and every context is unloaded (R487). -/
def resetReady (s : State) : Bool := s.dev.resetDue && !s.dev.mbBusy && s.ctxs == []

/-! ### The mailbox (R487) -/

/-- DEVSTAT (R486). -/
def devstat (d : Dev) : Nat := d.svn % 65536 * 2 ^ 48 + d.slot % 4 * 2 ^ 8 + d.state % 4

/-- A mailbox argument. -/
def mbArg (s : State) (i : Nat) : Nat := mget s.dev.mbArg 0 i
/-- Set a mailbox argument. -/
def setArg (s : State) (i x : Nat) : State := modDev s fun d => { d with mbArg := msetD d.mbArg 0 i (x % 2 ^ 64) }
/-- The RESULT of the command in progress. -/
def mbResult (s : State) (r : Nat) : State := modDev s fun d => { d with mbResult := r }

/-- The flash is read or written, and may fail: RESULT 4 (R487). -/
def onFlash (s : State) (f : State → State) : State :=
  let s1 := { s with free := s.free + 1 }
  if Config.flashFails s.free then mbResult s1 4 else f (mbResult s1 0)

/-- A command on a slot that is not the booted one (R487). -/
def onSlot (s : State) (n : Nat) (f : State → State) : State :=
  if n ≠ 1 ∧ n ≠ 2 then mbResult s 2 else if n = s.dev.slot then mbResult s 3 else onFlash s f

/-- The buffer's first bytes at an offset of a slot. -/
def fwWrite (d : Dev) (n off len : Nat) : FwSlot :=
  let f := fwSlot d n
  { used := true, verified := false
    bytes := (List.range len).foldl (fun m i => mput m (off + i) (mget d.mbBuf 0 i)) f.bytes }

/-- What a command does (R487). -/
def mbDo (s : State) (op : Nat) : State :=
  let n := mbArg s 0
  match op with
  | 1 => mbResult (setArg (setArg s 0 (devstat s.dev)) 1 (s.dev.fusedMin % 65536 + fwSvn s.dev 1 * 2 ^ 16 + fwSvn s.dev 2 * 2 ^ 32)) 0
  | 2 => onSlot s (n % 4) fun s => modDev s fun d => setFw d (n % 4) {}
  | 3 =>
    let off := mbArg s 1
    let len := mbArg s 2
    if off % 2048 ≠ 0 ∨ len = 0 ∨ len > 2048 ∨ off + len > 2 ^ 25 then mbResult s 2
    else onSlot s n fun s => modDev s fun d => setFw d n (fwWrite d n off len)
  | 4 => onSlot s n fun s =>
    let s1 := setArg s 1 (fwSvn s.dev n)
    if fwOk s.dev n then modDev s1 fun d => setFw d n { fwSlot d n with verified := true } else mbResult s1 5
  | 5 =>
    if n ≠ 1 ∧ n ≠ 2 then mbResult s 2
    else if (fwSlot s.dev n).verified then onFlash s fun s => modDev s fun d => { d with bootNext := n } else mbResult s 3
  | 6 =>
    if s.dev.state ≠ 1 then mbResult s 3
    else
      let m := max s.dev.fusedMin s.dev.svn
      setArg (mbResult (modDev s fun d => { d with fusedMin := m }) 0) 1 m
  | 7 => unloadAll (mbResult (modDev s fun d => { d with resetDue := true }) 0)
  | _ => mbResult s 1

/-- MBCMD is written: a non-zero OP starts the command; OP 0 leaves the last one to be read back. -/
def mbCmd (s : State) (op : Nat) (ien : Bool) : State :=
  if s.dev.mbBusy then s
  else if op = 0 then modDev s fun d => { d with mbIen := ien }
  else modDev s fun d => { d with mbIen := ien, mbOp := op, mbBusy := true }

/-- MB_INFO (R487). -/
def execMbInfo (s : State) : Host.Outcome State Fault Refusal := .next (mbCmd s 1 s.ev.flag)
/-- MB_ERASE (R487). -/
def execMbErase (s : State) : Host.Outcome State Fault Refusal := .next (mbCmd s 2 s.ev.flag)
/-- MB_WRITE (R487). -/
def execMbWrite (s : State) : Host.Outcome State Fault Refusal := .next (mbCmd s 3 s.ev.flag)
/-- MB_VERIFY (R487). -/
def execMbVerify (s : State) : Host.Outcome State Fault Refusal := .next (mbCmd s 4 s.ev.flag)
/-- MB_ACTIVATE (R487). -/
def execMbActivate (s : State) : Host.Outcome State Fault Refusal := .next (mbCmd s 5 s.ev.flag)
/-- MB_RAISEMIN (R487). -/
def execMbRaisemin (s : State) : Host.Outcome State Fault Refusal := .next (mbCmd s 6 s.ev.flag)
/-- MB_RESET (R487). -/
def execMbReset (s : State) : Host.Outcome State Fault Refusal := .next (mbCmd s 7 s.ev.flag)
/-- MB_UNKNOWN_OP (R487): an OP of no command. -/
def execMbUnknownOp (s : State) : Host.Outcome State Fault Refusal :=
  .next (if 8 ≤ s.ev.a % 256 then mbCmd s (s.ev.a % 256) s.ev.flag else s)

/-- MB_COMMAND_DONE: the command has its effect and its results, BUSY clears, and vector 1 is sent where IEN asks for it (R487). -/
def execMbCommandDone (s : State) : Host.Outcome State Fault Refusal :=
  .next (if !s.dev.mbBusy then s
    else
      let s1 := modDev (mbDo s s.dev.mbOp) fun d => { d with mbBusy := false }
      if s.dev.mbIen then emit s1 (.msix 1) else s1)

/-! ### SPDM (R488) -/

/-- An SPDM response leaves: what R488 has it hold, after a part that is not the spec's to give. -/
def spdmHold (s : State) (code : Nat) (hold : List Nat) : State :=
  emit { s with free := s.free + 1 } (.spdm code (Config.spdmBody code s.free ++ hold))

/-- An SPDM response of which R488 says nothing more. -/
def spdm (s : State) (code : Nat) : State := spdmHold s code []

/-- The one algorithm set: ECDSA P-384 and SHA-384 (R488), by SPDM's bits for them (PRESUMED, log entry 31). -/
def spdmAlgs : List Nat := leBytes 4 0x80 ++ leBytes 4 0x02

/-- Measurement blocks 1 to 4 (R488): digests of the Dyxihan firmware and the device firmware, which the booted image holds, of the fused
configuration with CORESAV, and of the security version. -/
def measured (d : Dev) (n : Nat) : List Nat :=
  Config.digest n (match n with
    | 1 | 2 => (fwSlot d d.slot).bytes.flatMap fun e => leBytes 8 e.1 ++ [e.2.toNat]
    | 3 => leBytes 48 d.coresav ++ leBytes 2 d.fusedMin
    | _ => leBytes 2 d.svn)

/-- SPDM_GET_VERSION (R488). -/
def execSpdmGetVersion (s : State) : Host.Outcome State Fault Refusal := .next (spdm s 0x04)
/-- SPDM_GET_CAPABILITIES (R488). -/
def execSpdmGetCapabilities (s : State) : Host.Outcome State Fault Refusal := .next (spdm s 0x61)
/-- SPDM_NEGOTIATE_ALGORITHMS (R488). -/
def execSpdmNegotiateAlgorithms (s : State) : Host.Outcome State Fault Refusal := .next (spdmHold s 0x63 spdmAlgs)
/-- SPDM_GET_DIGESTS (R488). -/
def execSpdmGetDigests (s : State) : Host.Outcome State Fault Refusal := .next (spdmHold s 0x01 (Config.digest 0 Config.certChain))
/-- SPDM_GET_CERTIFICATE (R488): a piece of the one chain, that of slot 0. -/
def execSpdmGetCertificate (s : State) : Host.Outcome State Fault Refusal :=
  .next (if s.ev.a = 0 then emit s (.spdm 0x02 (slice Config.certChain s.ev.b s.ev.c)) else spdm s 0x7F)
/-- SPDM_CHALLENGE (R488): slot 0 answers. -/
def execSpdmChallenge (s : State) : Host.Outcome State Fault Refusal := .next (spdm s (if s.ev.a = 0 then 0x03 else 0x7F))
/-- SPDM_GET_MEASUREMENTS (R488): blocks 1 to 4, or all of them. -/
def execSpdmGetMeasurements (s : State) : Host.Outcome State Fault Refusal :=
  .next (if 1 ≤ s.ev.a && s.ev.a ≤ 4 then spdmHold s 0x60 (measured s.dev s.ev.a)
    else if s.ev.a = 255 then spdmHold s 0x60 ([1, 2, 3, 4].flatMap (measured s.dev)) else spdm s 0x7F)

/-! ### BAR4 (R44, R278, R478) -/

/-- A byte of HBM that BAR4 does not reach: Basin's area, and that of saved teams (R278); there is none past HBM's end. -/
def bar4Hidden (d : Dev) (a : Nat) : Bool := kept d a 1 || hbmSize ≤ a

/-- Runs of the bytes of a write that BAR4 reaches, as (address, bytes). -/
def bar4Runs (d : Dev) : Nat → List Nat → List (Nat × List Nat)
  | _, [] => []
  | a, b :: r =>
    let rest := bar4Runs d (a + 1) r
    if bar4Hidden d a then rest
    else match rest with
      | (x, bs) :: t => if x = a + 1 then (a, b :: bs) :: t else (a, [b]) :: rest
      | [] => [(a, [b])]

/-- A host write through BAR4; a poisoned TLP poisons every granule that it touches (R478). -/
def bar4Write (s : State) (a : Nat) (bs : List Nat) (poison : Bool) : State :=
  (bar4Runs s.dev a bs).foldl (fun s (x, l) => homeWrite s x l poison) s

/-- A host read through BAR4. -/
def bar4Read (s : State) (a n : Nat) : State :=
  let ok := (List.range n).filter fun i => !bar4Hidden s.dev (a + i)
  emit s (.read ((List.range n).map fun i => if bar4Hidden s.dev (a + i) then 0 else (readByte s (a + i)).toNat)
    (ok.any fun i => poisoned s (a + i) 1))

/-- BAR4_ACCESS (R44, R278): the device answers no access beyond the size of the window. -/
def execBar4Access (s : State) : Host.Outcome State Fault Refusal :=
  .next (if s.dev.bar4Gib * 2 ^ 30 < s.ev.c + (if s.ev.flag then s.ev.data.length else s.ev.a) then s
    else if s.ev.flag then bar4Write s s.ev.c s.ev.data (s.ev.b == 1) else bar4Read s s.ev.c s.ev.a)

end Sys2Proof.Machine
end

