-- ==== Sys2Proof/Machine/Trace.lean ====
section
/-! DEFINITION. Machine/Trace.lean: Plume's recording and dumps, and the monitors' clears and levels (R469 to R471, R475). -/

namespace Sys2Proof.Machine

/-- The Plume of a die. -/
def plumeOf (s : State) (die : Nat) : Plume := mget s.plume {} die
/-- Change the Plume of a die. -/
def modPlume (s : State) (die : Nat) (f : Plume → Plume) : State := { s with plume := msetD s.plume {} die (f (plumeOf s die)) }

/-! ### Recording (R469, R470) -/

/-- START: ignored while contents are held. -/
def plumeStart (s : State) (die : Nat) : State :=
  if (plumeOf s die).held then s
  else modPlume s die fun p => { p with head := 0, wrapped := false, recording := true, t0 := s.now, recs := [], stopNow := false }

/-- A cycle has been recorded: HEAD moves on; over a full window the oldest cycle gives way. -/
def plumeNext (p : Plume) : Plume :=
  let h := (p.head + 1) % 65536
  let w := p.wrapped || h == 0
  if w && p.wrap then { p with head := h, wrapped := w, t0 := if p.wrapped then p.t0 + 1 else p.t0, recs := p.recs.filter fun e => e.1 / 16 != h }
  else { p with head := h, wrapped := w }

/-- Recording stops, and the contents are held. -/
def plumeOver (p : Plume) : Plume := { p with recording := false, held := true, stopNow := false }

/-- STOP: the current cycle is the last one recorded. -/
def plumeStop (s : State) (die : Nat) : State :=
  if (plumeOf s die).recording then modPlume s die fun p => plumeOver (if windowFull p then p else plumeNext p) else s

/-- One cycle of a Plume, at the cycle's end. -/
def plumeTick (p : Plume) : Plume :=
  if !p.recording || windowFull p then p
  else let q := plumeNext p; if p.stopNow then plumeOver q else q

/-- DISCARD: held contents are released. -/
def plumeDiscard (s : State) (die : Nat) : State :=
  if (plumeOf s die).held then modPlume s die fun p => { p with held := false, recs := [] } else s

/-! ### Dumps (R471) -/

/-- DUMP: while the contents are held and no dump is busy. -/
def plumeDump (s : State) (die : Nat) : State :=
  let p := plumeOf s die
  if p.held && !p.busy then modPlume s die fun p => { p with busy := true } else s

/-- A slice's record of a cycle; where none was made, the slice was idle with no group. -/
def recAt (p : Plume) (c sl : Nat) : Nat := mget p.recs (2 ^ 47) (c * 16 + sl)

/-- The cycle of a Plume's record in the order in which a dump writes them, oldest first. -/
def dumpCycle (p : Plume) (i : Nat) : Nat := ((if p.wrapped then p.head else 0) + i) % 65536

/-- The bytes of a dump, oldest cycle first. -/
def dumpBytes (p : Plume) : List Nat :=
  (List.range (if p.wrapped then 65536 else p.head)).flatMap fun i => (List.range 16).flatMap fun sl => leBytes 6 (recAt p (dumpCycle p i) sl)

/-- The first `n` bytes of a dump are written; poisoned records poison the granules that they touch (R478). -/
def dumpWrite (s : State) (pasid : Nat) (p : Plume) (n : Nat) : State :=
  let base := p.daddr / 4096 * 4096
  let s1 := vaWrite s none pasid base ((dumpBytes p).take n) false
  if !(p.recs.any fun e => e.2.testBit 48) then s1
  else (List.range (if p.wrapped then 65536 else p.head)).foldl (fun s i => (List.range 16).foldl (fun s sl =>
    let o := (i * 16 + sl) * 6
    if (recAt p (dumpCycle p i) sl).testBit 48 && o + 6 ≤ n then vaWrite s none pasid (base + o) (slice (dumpBytes p) o 6) true else s) s) s1

/-- A dump ends. -/
def dumpOver (s : State) (die off : Nat) (trunc : Bool) : State :=
  modPlume (dropWaits s (.dump die)) die fun p =>
    { p with busy := false, done := !trunc, trunc := trunc, truncOff := if trunc then off else p.truncOff
             held := trunc && p.held }

/-- PLUME_DUMP_DONE can be. -/
def canDump (s : State) (die : Nat) : Bool := (plumeOf s die).busy && !waiting s (.dump die)

/-- A dump writes up to the first page that is not present or denied (R471). -/
def dumpDone (s : State) (die : Nat) : State :=
  if !canDump s die then s
  else
    let p := plumeOf s die
    let bs := dumpBytes p
    let base := p.daddr / 4096 * 4096
    let cx := p.dctx % 512
    match ctx? s cx with
    | none => dumpOver s die 0 true
    | some c =>
      match (vaCut base bs.length).find? fun (a, _) => !(match translate s none c.pasid a .wr with | .ok _ _ => true | _ => false) with
      | none => dumpOver (dumpWrite s c.pasid p bs.length) die bs.length false
      | some (a, _) =>
        if localVA a && translate s none c.pasid a .wr == .miss && !deniedFor s (.dump die) a then askPage s (.dump die) cx a .wr 0
        else dumpOver (dumpWrite s c.pasid p (a - base)) die (a - base) true

/-- PLUME_START (R469). -/
def execPlumeStart (s : State) : Host.Outcome State Fault Refusal := .next (bar0Write s (plumeStart s (s.ev.a % 4)))
/-- PLUME_STOP (R469). -/
def execPlumeStop (s : State) : Host.Outcome State Fault Refusal := .next (bar0Write s (plumeStop s (s.ev.a % 4)))
/-- PLUME_DUMP (R471). -/
def execPlumeDump (s : State) : Host.Outcome State Fault Refusal := .next (bar0Write s (plumeDump s (s.ev.a % 4)))
/-- PLUME_DUMP_DONE (R471). -/
def execPlumeDumpDone (s : State) : Host.Outcome State Fault Refusal := .next (dumpDone s (s.ev.a % 4))
/-- PLUME_DISCARD (R469). -/
def execPlumeDiscard (s : State) : Host.Outcome State Fault Refusal := .next (bar0Write s (plumeDiscard s (s.ev.a % 4)))
/-- PLUME_WINDOW_FULL (R469). -/
def execPlumeWindowFull (s : State) : Host.Outcome State Fault Refusal :=
  .next (if windowFull (plumeOf s (s.ev.a % 4)) then modPlume s (s.ev.a % 4) plumeOver else s)

/-! ### Monitors (R475) -/

/-- The unit of a die. -/
def monOf (s : State) (die m : Nat) : Mon := mget s.mons {} (die * 64 + m)
/-- Change a unit. -/
def modMon (s : State) (die m : Nat) (f : Mon → Mon) : State := { s with mons := msetD s.mons {} (die * 64 + m) (f (monOf s die m)) }

/-- MON_CLEAR (R475): MIN all ones, the rest 0. -/
def execMonClear (s : State) : Host.Outcome State Fault Refusal :=
  .next (bar0Write s (modMon s (s.ev.a % 4) (s.ev.b % 64) fun m => { cfg := m.cfg }))

/-- The occupancy that a unit sees of the replay buffers of the cores that it records. -/
def replayLevel (s : State) (die : Nat) (m : Mon) : Nat :=
  (s.waits.filter fun p => p.asked && match replaySlice s p with
    | some (cr, _) => cr / 96 == die && monHears m (some cr) p.ctx 9
    | none => false).length

/-- Layers queued in every stream. -/
def queueLevel (s : State) : Nat :=
  s.launches.foldl (fun a e => match e.2.model with | some m => if m.open_ then a + m.rereq.length + m.initial.length else a | none => a) 0

/-- The levels are sampled every cycle. -/
def monTick (s : State) : State :=
  if s.mons = [] then s
  else { s with mons := mmap s.mons fun k m =>
    if !m.cfg.testBit 63 then m
    else if bitsOf m.cfg 40 4 = 9 then monTake m (replayLevel s (k / 64) m)
    else if bitsOf m.cfg 40 4 = 10 then monTake m (queueLevel s)
    else m }

end Sys2Proof.Machine
end

