-- ==== Sys2Proof/Machine/Regs.lean ====
section
/-! DEFINITION. Machine/Regs.lean: the registers of BAR0 as the host reads and writes them (R15, R44, R46, R48 to R53, R281, R379, R393, R394,
R407, R426, R432, R439, R460, R469, R471, R475, R479, R480, R483, R486, R487). A write names bytes: `m` has ones in the bits written. -/

namespace Sys2Proof.Machine

/-- The partition has a loaded context (R46). -/
def partLoaded (s : State) (p : Nat) : Bool := s.ctxs.any fun e => e.2.part == p

/-- A bit as a number, at a place. -/
def bitAt (b : Bool) (k : Nat) : Nat := if b then 2 ^ k else 0

/-! ### Reading (R15: reserved fields read zero) -/

/-- The 64-bit word of partition registers at an offset: PARTCFG, SLUICEPOOL, HALTBUF, INSPCFG. -/
def readPart (s : State) (o : Nat) : Option Nat :=
  let p := part s (o % 64 / 8)
  if o / 64 = 0x2000 / 64 then some (p.slicep * 2 ^ 8 + p.granules)
  else if o / 64 = 0x3100 / 64 then some ((poolUsed s (o % 64 / 8) + 2 ^ 20 - 1) / 2 ^ 20 % 2 ^ 20 * 2 ^ 32 + p.pool)
  else if o / 64 = 0x3400 / 64 then some (p.haltBase * 2 ^ 16 + bitAt p.haltValid 1 + bitAt p.haltEn 0)
  else if o / 64 = 0x3700 / 64 then some (p.tctx * 2 ^ 11 + p.ictx * 2 ^ 2 + bitAt p.insp 0)
  else none

/-- A word of a Plume's registers. -/
def readPlume (s : State) (die o : Nat) : Nat :=
  let p := plumeOf s die
  match o with
  | 0 => p.core * 2 ^ 48 + p.head * 2 ^ 16 + bitAt p.wrapped 7 + bitAt p.stoph 5 + bitAt p.wrap 4 + bitAt p.recording 0
  | 8 => p.daddr
  | 16 => p.dctx
  | 24 => p.truncOff * 2 ^ 32 + bitAt p.trunc 2 + bitAt p.done 1 + bitAt p.busy 0
  | 32 => p.t0
  | _ => 0

/-- A word of a chain's registers (R51). -/
def readChain (s : State) (c o : Nat) : Nat :=
  let ch := chain s c
  match o with
  | 0 => ch.base
  | 8 => ch.comp
  | 16 => (inflight s c * 2 ^ 8 + bitAt ch.linkErr 3 + bitAt ch.tailErr 2 + ch.state) * 2 ^ 32 + ch.prio * 2 ^ 4 + bitAt ch.en 0
  | 24 => ch.head
  | 32 => ch.tail
  | _ => 0

/-- A word of a slot's Runnel registers (R393). -/
def readSlot (s : State) (slot o : Nat) : Nat :=
  let r := slotRegs s slot
  match o with
  | 0 => r.peerCfg
  | 8 => r.expCfg
  | 16 => r.expCnt
  | _ => r.commCfg

/-- A word of the single registers. -/
def readOne (s : State) (o : Nat) : Nat :=
  let d := s.dev
  if o = 0x0000 then devstat d
  else if 0x0040 ≤ o ∧ o ≤ 0x0068 then bitsOf d.coresav ((o - 0x40) * 8) 64
  else if o = 0x0200 then bitAt d.mbBusy 31 + bitAt d.mbIen 30 + d.mbResult * 2 ^ 16 + d.mbOp
  else if 0x0208 ≤ o ∧ o ≤ 0x0220 then mbArg s ((o - 0x208) / 8)
  else if 0x0800 ≤ o ∧ o ≤ 0x0FF8 then leNat ((List.range 8).map fun i => (mget d.mbBuf 0 (o - 0x800 + i)).toNat)
  else if o = 0x1000 then d.ctxBase
  else if o = 0x1008 then bitAt d.ctxBusy 31 + d.ctxResult * 2 ^ 24 + d.ctxSlot
  else if o = 0x3000 then d.basinBase * 2 ^ 12 + d.basinLogn * 2 ^ 4 + bitAt d.basinEn 0
  else if o = 0x3200 then bitAt d.rmtBusy 31 + d.rmtSlot
  else if o = 0x3300 then d.linkDown * 2 ^ 46 + d.rtBase * 2 ^ 17 + d.devnum * 2 ^ 2 + bitAt d.reload 1 + bitAt d.routeEn 0
  else if o = 0x3500 then bitAt d.xBusy 31 + d.xResult * 2 ^ 24 + d.xSlot
  else if o = 0x3600 then d.hcBase + d.hcLogn * 2 + bitAt d.hcEn 0
  else if o = 0x3608 then d.hcProd
  else if o = 0x3610 then d.hcCons
  else if o = 0x3618 then d.hcDrop
  else if o = 0x3900 then d.errStat
  else if o = 0x3908 then d.errEn
  else if 0x3910 ≤ o ∧ o ≤ 0x3928 then bitsOf d.errLog ((o - 0x3910) * 8) 64
  else if 0x3940 ≤ o ∧ o ≤ 0x3970 then mget d.soft 0 ((o - 0x3940) / 8)
  else if o = 0x3A00 then 2400 * 2 ^ 16 + d.limitW
  else if o = 0x3A08 then d.avgW
  else 0

/-- The 64-bit word at an offset of BAR0 that is a multiple of 8, before any clearing that a read does. -/
def regRead (s : State) (o : Nat) : Nat :=
  if 0x100000 ≤ o ∧ o < 0x104000 then readChain s ((o - 0x100000) / 64) (o % 64)
  else if 0x8000 ≤ o ∧ o < 0x8800 then (monOf s ((o - 0x8000) / 0x200) (o % 0x200 / 8)).cfg
  else if 0x4000 ≤ o ∧ o < 0x8000 then readSlot s ((o - 0x4000) / 32) (o % 32)
  else if 0x3800 ≤ o ∧ o < 0x3900 then readPlume s ((o - 0x3800) / 64) (o % 64)
  else match readPart s o with
    | some x => x
    | none => readOne s o

/-! ### Writing -/

/-- The word that a write leaves, were every field RW: the bytes it does not write keep what is read there. -/
def mergeW (old m v : Nat) : Nat := Nat.lor (old - Nat.land old m) (Nat.land v m)

/-- PARTCFG (R46): SLICEP is written; GRANULES only where no other partition holds one of them and no context of the partition is
loaded. -/
def writePartcfg (s : State) (p w : Nat) : State :=
  let gr := bitsOf w 0 8
  let held := (List.range 8).any fun q => q != p && Nat.land (part s q).granules gr != 0
  modPart s p fun x => { x with slicep := bitsOf w 8 16, granules := if held || partLoaded s p then x.granules else gr }

/-- BASINCFG (R281). -/
def writeBasincfg (s : State) (w : Nat) : State :=
  let base := bitsOf w 12 28
  let logn := bitsOf w 4 5
  let en := w.testBit 0
  if s.ctxs != [] then s
  else if en && (logn < 16 || 24 < logn || base * 2 ^ 12 % (2 ^ logn * 16) != 0) then s
  else
    let s1 := modDev s fun d => { d with basinBase := base, basinLogn := logn, basinEn := en }
    if en then { s1 with basin := [] } else s1

/-- SLUICEPOOL (R379): streams that wait for room try again by themselves. -/
def writeSluicepool (s : State) (p w : Nat) : State := modPart s p fun x => { x with pool := bitsOf w 0 20 }

/-- The resident groups of an inspector whose context is not on the partition join their slices (R460). -/
def inspEnter (s : State) (cx : Nat) : State :=
  if (ctx? s cx).any (·.onPart) then s
  else (ctxGroups s cx).foldl (fun s e => match team? s e.2.team with
    | some t => if t.st = .resident then joinSlice s e.1 else s
    | none => s) s

/-- The groups of a context that is an inspector no longer leave their slices, unless it is on the partition. -/
def inspLeave (s : State) (cx : Nat) : State :=
  if (ctx? s cx).any (·.onPart) then s
  else { s with groups := mmap s.groups fun _ g => if g.ctx == cx then saveGroup s g else g }

/-- INSPCFG (R460). -/
def writeInspcfg (s : State) (p w : Nat) : State :=
  let x := part s p
  let t := bitsOf w 11 9
  let i := bitsOf w 2 9
  let on (cx : Nat) : Bool := match ctx? s cx with | some c => c.part == p | none => false
  if w.testBit 0 then
    if i = t || !on i || !on t || x.insp then s
    else inspEnter (modPart s p fun x => { x with tctx := t, ictx := i, insp := true }) i
  else
    let s1 := modPart s p fun x => { x with tctx := t, ictx := i, insp := false }
    if x.insp then inspLeave s1 x.ictx else s1

/-- HALTBUF (R426): VALID is cleared by writing one. -/
def writeHaltbuf (s : State) (p w x : Nat) : State :=
  modPart s p fun y => { y with haltBase := bitsOf w 16 24, haltValid := y.haltValid && !x.testBit 1, haltEn := w.testBit 0 }

/-- PLUMECTL (R469). The fields are written first, then STOP, DISCARD, START and DUMP act. -/
def writePlumectl (s : State) (die w x : Nat) : State :=
  let s1 := modPlume s die fun p =>
    { p with core := if p.recording || 96 ≤ bitsOf w 48 7 then p.core else bitsOf w 48 7, stoph := w.testBit 5, wrap := w.testBit 4 }
  let s2 := if x.testBit 2 then plumeStop s1 die else s1
  let s3 := if x.testBit 6 then plumeDiscard s2 die else s2
  let s4 := if x.testBit 1 then plumeStart s3 die else s3
  if x.testBit 3 then plumeDump s4 die else s4

/-- The registers of a Plume. -/
def writePlume (s : State) (die o w x : Nat) : State :=
  match o with
  | 0 => writePlumectl s die w x
  | 8 => modPlume s die fun p => { p with daddr := w }
  | 16 => modPlume s die fun p => { p with dctx := w % 512 }
  | 24 => modPlume s die fun p => { p with trunc := p.trunc && !x.testBit 2, done := p.done && !x.testBit 1 }
  | _ => s

/-- CHCTL (R51): PRIO, then EN where it is written, ABORT and RESUME. -/
def writeChctl (s : State) (c w m x : Nat) : State :=
  let s1 := modChain s c fun ch => { ch with prio := bitsOf w 4 3 }
  let s2 := if !m.testBit 0 then s1 else if x.testBit 0 then chainEnable s1 c else if (chain s1 c).en then chainDisable s1 c else s1
  let s3 := if x.testBit 1 then chainAbort s2 c else s2
  if x.testBit 2 then chainResume s3 c else s3

/-- CHSTAT (R51): TAILERR and LINKERR are cleared by writing ones. -/
def writeChstat (s : State) (c x : Nat) : State :=
  let s1 := if x.testBit 2 then modChain s c fun ch => { ch with tailErr := false } else s
  if x.testBit 3 && (chain s1 c).linkErr then clearLinkErr s1 c else s1

/-- The registers of a chain. -/
def writeChain (s : State) (c o w m x : Nat) : State :=
  match o with
  | 0 => if (chain s c).state = 0 then modChain s c fun ch => { ch with base := w } else s
  | 8 => if (chain s c).state = 0 then modChain s c fun ch => { ch with comp := w } else s
  | 16 => writeChstat (writeChctl s c w m x) c (x / 2 ^ 32)
  | _ => s

/-- Change the Runnel registers of a slot. -/
def modSlot (s : State) (id : Nat) (f : SlotRegs → SlotRegs) : State := { s with slots := msetD s.slots {} id (f (slotRegs s id)) }

/-- The registers of a slot (R393): ignored while its context is loaded. -/
def writeSlot (s : State) (slot o w : Nat) : State :=
  if (ctx? s slot).isSome then s
  else match o with
    | 0 => modSlot s slot fun r => { r with peerCfg := bitsOf w 14 26 * 2 ^ 14 + w % 2 }
    | 8 => modSlot s slot fun r => { r with expCfg := bitsOf w 10 30 * 2 ^ 10 + w % 2 }
    | 16 => modSlot s slot fun r => { r with expCnt := bitsOf w 11 46 * 2 ^ 11 + w % 2 }
    | _ => modSlot s slot fun r => { r with commCfg := bitsOf w 17 23 * 2 ^ 17 + w % 2 }

/-- MONCFG (R475): CLR clears the unit and reads as 0. -/
def writeMoncfg (s : State) (die n w x : Nat) : State :=
  let cfg := bitsOf w 63 1 * 2 ^ 63 + bitsOf w 40 22 * 2 ^ 40 + bitsOf w 0 37
  modMon s die n fun u => if x.testBit 62 then { cfg := cfg } else { u with cfg := cfg }

/-- A bit mask without the bits of another. -/
def clearBits (a b : Nat) : Nat := a - Nat.land a b

/-- ERREN (R480): vector 0 is sent when ERRSTAT & ERREN becomes non-zero. -/
def writeErren (s : State) (w : Nat) : State :=
  let en := bitsOf w 0 8
  let s1 := modDev s fun d => { d with errEn := en }
  if Nat.land s.dev.errStat s.dev.errEn = 0 ∧ Nat.land s.dev.errStat en ≠ 0 then emit s1 (.msix 0) else s1

/-- ROUTECTL (R407). -/
def writeRoutectl (s : State) (w x : Nat) : State :=
  modDev s fun d => { d with rtBase := bitsOf w 17 23, devnum := bitsOf w 2 15, reload := d.reload || x.testBit 1, routeEn := w.testBit 0 }

/-- The registers of a partition. -/
def writePart (s : State) (o w x : Nat) : Option State :=
  let p := o % 64 / 8
  if o / 64 = 0x2000 / 64 then some (writePartcfg s p w)
  else if o / 64 = 0x3100 / 64 then some (writeSluicepool s p w)
  else if o / 64 = 0x3400 / 64 then some (writeHaltbuf s p w x)
  else if o / 64 = 0x3700 / 64 then some (writeInspcfg s p w)
  else none

/-- The single registers. -/
def writeOne (s : State) (o w x : Nat) : State :=
  if o = 0x1000 then modDev s fun d => { d with ctxBase := w / 4096 * 4096 }
  else if o = 0x1008 then ctxCmd s (bitsOf x 28 3) (bitsOf w 0 9)
  else if o = 0x3000 then writeBasincfg s w
  else if o = 0x3200 then rmtinv s (bitsOf x 28 3) (bitsOf w 0 9)
  else if o = 0x3300 then writeRoutectl s w x
  else if o = 0x3500 then xchgCmd s (bitsOf x 28 3) (bitsOf w 0 9)
  else if o = 0x3600 then modDev s fun d => { d with hcBase := w / 4096 * 4096, hcLogn := bitsOf w 1 3, hcEn := w.testBit 0 }
  else if o = 0x3610 then modDev s fun d => { d with hcCons := w }
  else if o = 0x3900 then modDev s fun d => { d with errStat := clearBits d.errStat x }
  else if o = 0x3908 then writeErren s w
  else if o = 0x3A00 then (if 600 ≤ bitsOf w 0 16 ∧ bitsOf w 0 16 ≤ 2400 then modDev s fun d => { d with limitW := bitsOf w 0 16 } else s)
  else s

/-- The mailbox (R487): MBCMD, its arguments and the buffer, all ignored while BUSY is set. -/
def writeMailbox (s : State) (o w m x : Nat) : State :=
  if s.dev.mbBusy then s
  else if o = 0x0200 then
    (if m.testBit 0 then mbCmd s (bitsOf x 0 8) (w.testBit 30) else modDev s fun d => { d with mbIen := w.testBit 30 })
  else if 0x0208 ≤ o ∧ o ≤ 0x0220 then setArg s ((o - 0x208) / 8) w
  else if 0x0800 ≤ o ∧ o ≤ 0x0FF8 then modDev s fun d =>
    { d with mbBuf := (List.range 8).foldl (fun b i => msetD b (0 : Byte) (o - 0x800 + i) (BitVec.ofNat 8 (bitsOf w (8 * i) 8))) d.mbBuf }
  else s

/-- A write to the bits `m` of the 64-bit word at an offset of BAR0. While DEVSTAT.STATE is 0 or 2, only the mailbox accepts it (R487). -/
def regWord (s : State) (o m v : Nat) : State :=
  let w := mergeW (regRead s o) m v
  let x := Nat.land v m
  if 0x200 ≤ o ∧ o < 0x1000 then writeMailbox s o w m x
  else if s.dev.state = 0 ∨ s.dev.state = 2 then s
  else if 0x100000 ≤ o ∧ o < 0x104000 then writeChain s ((o - 0x100000) / 64) (o % 64) w m x
  else if 0x8000 ≤ o ∧ o < 0x8800 then writeMoncfg s ((o - 0x8000) / 0x200) (o % 0x200 / 8) w x
  else if 0x4000 ≤ o ∧ o < 0x8000 then writeSlot s ((o - 0x4000) / 32) (o % 32) w
  else if 0x3800 ≤ o ∧ o < 0x3900 then writePlume s ((o - 0x3800) / 64) (o % 64) w x
  else match writePart s o w x with
    | some s' => s'
    | none => writeOne s o w x

/-- A host write of `n` bytes at an offset of BAR0; a write that spans two 64-bit words writes the lower first. -/
def regWrite (s : State) (off n v : Nat) : State :=
  let k := 8 * (off % 8)
  let m := (2 ^ (8 * min n 8) - 1) * 2 ^ k
  let x := v * 2 ^ k
  let lo := off / 8 * 8
  let s1 := if m % 2 ^ 64 = 0 then s else regWord s lo (m % 2 ^ 64) (x % 2 ^ 64)
  if m / 2 ^ 64 = 0 then s1 else regWord s1 (lo + 8) (m / 2 ^ 64) (x / 2 ^ 64 % 2 ^ 64)

/-- REGISTER_WRITE (R15). -/
def execRegisterWrite (s : State) : Host.Outcome State Fault Refusal := .next (regWrite s s.ev.a s.ev.b s.ev.c)
/-- PARTCFG_WRITE (R46): all 64 bits. -/
def execPartcfgWrite (s : State) : Host.Outcome State Fault Refusal := .next (regWrite s (0x2000 + s.ev.a % 8 * 8) 8 s.ev.c)
/-- BASINCFG_WRITE (R281). -/
def execBasincfgWrite (s : State) : Host.Outcome State Fault Refusal := .next (regWrite s 0x3000 8 s.ev.c)
/-- SLUICEPOOL_WRITE (R379). -/
def execSluicepoolWrite (s : State) : Host.Outcome State Fault Refusal := .next (regWrite s (0x3100 + s.ev.a % 8 * 8) 8 s.ev.c)
/-- INSPCFG_WRITE (R460). -/
def execInspcfgWrite (s : State) : Host.Outcome State Fault Refusal := .next (regWrite s (0x3700 + s.ev.a % 8 * 8) 8 s.ev.c)

end Sys2Proof.Machine
end

