-- ==== Sys2Proof/Machine/Cycle.lean ====
section
/-! DEFINITION. Machine/Cycle.lean: a slice's cycle, with the units that accept its word, what it charges, the moves between its sets, and
the end of a cycle of the whole device (R118 to R129, R133, R219, R317, R454, R455, R470, R473). -/

namespace Sys2Proof.Machine

/-! ### Units (R118, R119, R219) -/

/-- The unit that a word needs: the vector datapath of its slice, a unit of the core that serves the slices in turn, or one that its
slice has to itself. -/
inductive UnitK where
  | vec
  /-- 1 the load-store unit, 2 the copy engine, 3 the system unit, 4 to 7 the matrix arrays -/
  | shared (u : Nat)
  | own
  deriving DecidableEq, Repr

/-- The unit of a word on a slice. -/
def unitOf (w0 wn : Word) (slice : Nat) : UnitK :=
  let op := opOf w0.toNat
  match classOf op with
  | 0 => if issueLeaf w0.toNat wn.toNat 0 = 1 then .vec else .own
  | 1 => .shared 1
  | 2 => .shared (4 + slice % 4)
  | 3 => if op = 0x70 then .shared 2 else .own
  | 5 => .shared 3
  | _ => .own

/-- The types of the values that an ALU word reads or writes. -/
def dpTypes : Instr → List Ty
  | .iaddc p | .imulh p | .imad p | .imin p | .imax p | .isel p | .rot p | .bfe p | .bfi p | .icmpLong p => [p.ty]
  | .imadw _ => [.i64]
  | .cvti p => [p.ty, (tyOf p.c).getD .i32]
  | .shfl p _ | .matchL p | .reduce p | .scan p | .bcast p => [p.ty]
  | .fadd p | .fsub p | .fmul p | .ffma p | .fmin p | .fmax p | .fminnum p | .fmaxnum p | .fdiv p | .fscale p | .fabs p | .fneg p
  | .fsqrt p | .frcp p | .frsq p | .fex2 p | .flg2 p | .fsin p | .fcos p | .frnd p | .fclass p | .fcmp p => [p.ty]
  | .fcvt p t | .fcvti p t | .icvtf p t | .fpack p t | .funpk p t | .xcvt p t => [p.ty, t]
  | .ftwosum p | .ffastsum p | .ftwoprod p | .ffma3 p | .xadd p | .xsub p | .xmul p | .xren p | .xcomp p | .xneg p | .xabs p | .xcmp p => [p.ty]
  | .fsplit p | .fsplit3 p => [p.ty, if p.c = 0x09 then .f64 else .f32]
  | _ => []

/-- A 64-bit element, or an expansion of them. -/
def tyWide (t : Ty) : Bool := t == .i64 || t == .n64 || t == .f64 || t == .x2f64

/-- c of R118 and R219: the datapath cycles for each half. -/
def dpCycles (i : Instr) : Nat :=
  let ts := dpTypes i
  let k := if ts.any tyWide then 2 else 1
  let n := ts.foldl (fun a t => max a (tyN t)) 1
  match i with
  | .fdiv _ | .fsqrt _ => 4 * k
  | .frcp _ | .frsq _ | .fex2 _ | .flg2 _ => 2
  | .fsin _ | .fcos _ => 4
  | .ftwosum _ | .ftwoprod _ | .fsplit _ => 2 * k
  | .ffma3 _ | .fsplit3 _ => 3 * k
  | .xneg _ | .xabs _ | .xcmp _ => n * k
  | .xadd _ | .xsub _ | .xren _ | .xcomp _ | .xcvt _ _ => 2 * n * k
  | .xmul _ => n * n * k * k
  | .rnd _ | .rndg _ => 8
  | _ => k

/-- The halves of 16 lanes that hold a lane of EXEC, never less than 1 (R118). -/
def halves (exec : Word) : Nat := if exec &&& 0xFFFF != 0 && exec &&& 0xFFFF0000 != 0 then 2 else 1

/-- The words at an entry: the one that it issues next, and the one after it. -/
def entryWords (e : Entry) : Word × Word :=
  match e.cl with
  | some c => ((wordAt c (entryWord e)).getD 0, (wordAt c (entryWord e + 4)).getD 0)
  | none => (0, 0)

/-- The unit that an entry's next word needs. -/
def entryUnit (slice : Nat) (e : Entry) : UnitK := unitOf (entryWords e).1 (entryWords e).2 slice

/-- The unit accepts the entry's word in this cycle: the datapath is free, and no other slice is served by the unit. -/
def unitFree (s : State) (cr slice : Nat) (full : List Nat) (e : Entry) : Bool :=
  match entryUnit slice e with
  | .vec => mget (coreAt s cr).vbusy 0 slice ≤ s.now
  | .shared u => !full.contains u
  | .own => true

/-- The units of a core that have served a slice in this cycle. -/
def servedNow (s : State) (cr : Nat) : List Nat := (List.range 8).filter fun u => mget (coreAt s cr).served 0 u / 16 == s.now + 1

/-- How far after the slice that a unit served last a slice comes in its turn. -/
def turnOf (s : State) (cr u slice : Nat) : Nat :=
  (slice + 15 - (match mget? (coreAt s cr).served u with | some x => x % 16 | none => 15)) % 16

/-! ### The choice (R121, R123, R124, R128) -/

/-- The words that their unit may turn away, or that may wait for a page before they issue (R121, R267, R363, R368, R410): their meanings hold
them. Where the launch has owner maps, the words that read them too (R84). -/
def mayHold (owns : Bool) (i : Instr) : Option (State → Host.Outcome State Fault Refusal) :=
  match i with
  | .acopy p => some (execAcopy p)
  | .agath p => some (execAgath p)
  | .ascat p => some (execAscat p)
  | .acopym p => some (execAcopym p)
  | .mmaj p sh r => some (execMmaj p sh r)
  | .mmajs p sh r => some (execMmajs p sh r)
  | .tfree p => some (execTfree p)
  | .coll p => some (execColl p)
  | .hrd p => some (execHrd p)
  | .hwr p => some (execHwr p)
  | .hprd p => some (execHprd p)
  | .hstep p => some (execHstep p)
  | .loop lc len cnt x => some (execLoop lc len cnt x)
  | .cwait p => some (execCwait p)
  | .cnote p => some (execCnote p)
  | .ld p => if owns then some (execLd p) else none
  | .st p => if owns then some (execSt p) else none
  | .ldx p => if owns then some (execLdx p) else none
  | .stx p => if owns then some (execStx p) else none
  | .pld p => if owns then some (execPld p) else none
  | .pst p => if owns then some (execPst p) else none
  | .atom p f => if owns then some (execAtom p f) else none
  | .red p f => if owns then some (execRed p f) else none
  | .atomc p => if owns then some (execAtomc p) else none
  | _ => none

/-- An entry's next word as it would issue now, its group's marks apart. -/
def trialState (s : State) (gid : Nat) (e : Entry) (c : Clause) : State :=
  { modGroup s gid (fun g => laneMod g e.lanes fun _ l => { l with blocked := none }) with
    sel := some { gid := gid, pc := entryWord e, cl := c, lanes := e.lanes } }

/-- Trying an entry's next word: where it would be held, the leaf with the mark of a long wait (`holdAs`) and the state that shows it. -/
def tried (s : State) (gid : Nat) (g : Group) (e : Entry) : Option (Nat × State) :=
  match e.cl, decode (entryWords e).1.toNat (entryWords e).2.toNat with
  | some c, .ok i =>
    (match mayHold ((launch? s g.launch).any fun ln => ln.owns != []) i with
     | none => none
     | some f => match issueAct (trialState s gid e c) with
       | .run _ t => (match f t with
           | .next u => ((group? u gid).bind fun h => (lanesOf e.lanes).findSome? fun L => (laneGet h L).blocked).map fun leaf => (leaf, u)
           | _ => none)
       | _ => none)
  | _, _ => none

/-- A trap waits for the entry's lanes or for the next issue of the group: it is taken in place of the word (R317, R454). -/
def trapWaits (g : Group) (e : Entry) : Bool :=
  (lanesOf e.lanes).any (fun L => (mget? g.fpPend L).isSome) || (g.engTrap != [] && handLanes g = 0)

/-- The unit does not take the entry's word now (R121). A word that waits for a page is tried in earnest once, to ask for it. -/
def unitHeld (s : State) (gid : Nat) (g : Group) (e : Entry) : Option Nat :=
  if trapWaits g e then none
  else match tried s gid g e with
    | some (leaf, u) => if leaf = 0x0E && u.waits.length != s.waits.length then none else some leaf
    | none => none

/-- The entries of a group that are issuable, but for the turns of the units (R119, R121). -/
def freeEntries (s : State) (gid : Nat) (g : Group) : List Entry := (issuable s gid g).filter fun e => (unitHeld s gid g e).isNone

/-- Issuable entries of a group (R121). -/
def readyEntries (s : State) (cr : Nat) (full : List Nat) (gid : Nat) (g : Group) : List Entry :=
  (freeEntries s gid g).filter (unitFree s cr g.slice full)

/-- The ready-since cycle that a group has now (R121). -/
def sinceNow (s : State) (g : Group) : Nat := if g.ready then g.readySince else s.now

/-- A context in start-up, test and recovery mode (R133). -/
def startMode (s : State) (cx : Nat) : Bool := match ctx? s cx with | some c => c.start | none => false

/-- The group that a slice chooses among its ready active groups: promoted ones first, then the earliest ready-since cycle, served
round-robin (R123, R124). -/
def chooseGroup (s : State) (cr slice : Nat) (l : List (Nat × Group)) : Option (Nat × Group) :=
  match minBy (fun e => (e.2.promoted.getD 0) * 16 + e.2.slot) (l.filter fun e => e.2.promoted.isSome) with
  | some e => some e
  | none => minBy (fun e => sinceNow s e.2 * 16 + (e.2.slot + 16 - mget (coreAt s cr).ptr 0 slice) % 16) l

/-- What a slice chooses, the units of `full` apart. -/
def pickSlice (s : State) (cr slice : Nat) (full : List Nat) : Option (Nat × Entry) :=
  match chooseGroup s cr slice ((sliceGroups s cr slice).filter fun e => e.2.active && e.2.tradeCd == 0 && readyEntries s cr full e.1 e.2 != []) with
  | none => none
  | some (gid, g) => (chooseEntry g (startMode s g.ctx) (readyEntries s cr full gid g)).map fun e => (gid, e)

/-- Another slice that has yet to have its cycle offers the unit a word and comes before this one in the unit's turn (R119). -/
def outbid (s : State) (cr slice u : Nat) (full : List Nat) : Bool :=
  (List.range 16).any fun x => x != slice && !(coreAt s cr).did.getLsbD x && turnOf s cr u x < turnOf s cr u slice
    && (match pickSlice s cr x full with | some (_, e) => entryUnit x e == .shared u | none => false)

/-- The choice of a slice once the units have accepted what they accept, and the units that serve others. -/
def sliceChoice (s : State) (cr slice : Nat) : Nat → List Nat → Option (Nat × Entry) × List Nat
  | 0, full => (none, full)
  | n + 1, full =>
    match pickSlice s cr slice full with
    | none => (none, full)
    | some (gid, e) => match entryUnit slice e with
      | .shared u => if outbid s cr slice u full then sliceChoice s cr slice n (u :: full) else (some (gid, e), full)
      | _ => (some (gid, e), full)

/-! ### What a slice charges (R470, R473) -/

/-- A lane that is live and does not sleep. -/
def awake (l : Lane) : Bool := match l.st with | .dead => false | .park (.sleep _) => false | _ => true

/-- Every lane of a group that is awake is halted, or the group is frozen or its context halted. -/
def groupHalted (s : State) (g : Group) : Bool :=
  g.frozen || (lanesWhere g fun l => awake l && l.st != .halted) = 0
    || (match ctx? s g.ctx with | some c => c.halt.isSome || c.suspended | none => true)

/-- The leaf of a group without a running lane: that of its lowest lane awake. -/
def waitLeaf (s : State) (g : Group) : Nat :=
  let L := lowLane (lanesWhere g awake)
  match (laneGet g L).st with
  | .park (.access seq) => if !(g.accs.any fun a => a.seq == seq && a.lanes.getLsbD L) then 9 else if parkSource s g L = 8 then 0x0D else 0x0C
  | .park (.line _ _ _) => 0x0C
  | .park (.fetch _ _) | .park (.layer _) => 0x0D
  | .park (.remote _) | .park (.rfence _) | .park (.cwait _ _) => 0x0F
  | .bar _ _ | .waitK _ | .loopEnd _ => 0x0B
  | .halted => 0x12
  | _ => 9

/-- The leaf and the PC that the charged group gives (R473). -/
def groupLeaf (s : State) (gid : Nat) (g : Group) : Nat × DWord :=
  let es := frontier g
  let at_ := match bestEntry es with | some e => entryWord e | none => (laneGet g (lowLane (lanesWhere g awake))).pc
  (if g.tradeCd != 0 then 7
    else if pageStalled s gid then 0x0E
    else match bestEntry es with
      | some e => ((entryHeld g e).orElse fun _ => (unitHeld s gid g e).map (· % 0x100)).getD 9
      | none => waitLeaf s g, at_)

/-- A team waits for admission on a core, refused only by energy (R66, R473). -/
def energyCapped (s : State) (cr : Nat) : Bool :=
  (List.range 8).any fun p => (part s p).granules.testBit (granOf cr) && s.dev.coresav.testBit cr
    && (admQueue s p).any fun e =>
      (e.2.kern.vgrid = 0 || remapOf e.2 e.2.nextClu == cr) && (coreRoom s e.2 cr false).isSome && (coreRoom s e.2 cr true).isNone

/-- A slice that issues nothing charges a leaf; idle slices without a group charge none, which leaf 0x10 counts (R473). -/
def chargeIdle (s : State) (cr slice : Nat) : State :=
  let gs := (sliceGroups s cr slice).filter fun e => lanesWhere e.2 awake != 0
  if gs = [] then
    (if energyCapped s cr then plumeRec (chargeLeaf s cr 0x11) cr slice (2 ^ 47 + 2 ^ 40) else plumeRec s cr slice (2 ^ 47))
  else
    let un := gs.filter fun e => !groupHalted s e.2
    let pool := if un.any fun e => e.2.active then un.filter fun e => e.2.active else un
    match minBy (fun e => e.2.readySince * 16 + e.2.slot) pool with
    | none => plumeRec (chargeLeaf s cr 0x12) cr slice (2 ^ 47 + 2 ^ 41)
    | some (gid, g) =>
      let (leaf, pc) := groupLeaf s gid g
      if leaf = 0x12 then plumeRec (chargeLeaf s cr 0x12) cr slice (2 ^ 47 + 2 ^ 41)
      else plumeRec (chargeLeaf s cr leaf) cr slice (2 ^ 46 + g.slot % 16 * 2 ^ 42 + bitsOf pc.toNat 2 26 * 2 ^ 16 + (leaf - 7) * 2 ^ 12)

/-! ### A slice's cycle (R123) -/

/-- The TFREE of a group that is held now (R368, R435); while the group does not act, or lanes of it are in a handler, that which was. -/
def heldFree (s : State) (gid : Nat) (g : Group) : Option Watch :=
  if !groupActs s gid g || handLanes g != 0 then g.tfree
  else (issuable s gid g).findSome? fun e => match decode (entryWords e).1.toNat (entryWords e).2.toNat with
    | .ok (.tfree _) => (tried s gid g e).bind fun r => (group? r.2 gid).bind (·.tfree)
    | _ => none

/-- Readiness and wait counts of a slice's groups after its choice (R121, R124); the cycles of a trade are not counted (R125). -/
def countGroup (s : State) (cr : Nat) (full : List Nat) (chosen : Option Nat) (gid : Nat) (g0 : Group) : Group :=
  let g := { g0 with tfree := heldFree s gid g0 }
  let rdy := readyEntries s cr full gid g0 != []
  if chosen = some gid then { g with ready := true, readySince := s.now, waitCnt := 0, promoted := none }
  else { g with ready := rdy, readySince := if rdy && !g.ready then s.now else g.readySince,
                waitCnt := if rdy && g.tradeCd = 0 then g.waitCnt + 1 else g.waitCnt }

/-- The lanes of an entry that take the pending trap of its lowest lane that has one (R454): those with the same record. -/
def pendLanes (g : Group) (e : Entry) : Option (TrapRec × Word) :=
  (lanesOf e.lanes).findSome? fun L => (mget? g.fpPend L).map fun tr => (tr, e.lanes &&& maskOf fun M => mget? g.fpPend M == some tr)

/-- An engine error or weir hit is taken by the entry that was chosen, whose word does not issue (R317, R422, R455). -/
def engTake (g : Group) (e : Entry) (tr : TrapRec) : TrapRec :=
  { tr with tlanes := e.lanes, npc := e.pc, cl := e.cl, eng := true, detail := if tr.cause = 0x06 then e.lanes.toNat else tr.detail
            exec := if tr.exec = 0 then liveLanes g else tr.exec }

/-- The chosen entry: a pending trap of its lanes or of an engine goes before its word (R317, R454); else the word issues. -/
def issueEntry (s : State) (gid : Nat) (e : Entry) : State :=
  match group? s gid, e.cl with
  | some g, some c =>
    (match pendLanes g e with
     | some (tr, m) =>
       takeTrap (modGroup s gid fun g => { g with fpPend := (lanesOf m).foldl mdel g.fpPend }) gid g.lanes { tr with tlanes := m }
     | none => match g.engTrap with
       | (tr, _) :: r =>
         if handLanes g = 0 then takeTrap (modGroup s gid fun g => { g with engTrap := r }) gid g.lanes (engTake g e tr)
         else { s with sel := some { gid := gid, pc := entryWord e, cl := c, lanes := e.lanes } }
       | [] => { s with sel := some { gid := gid, pc := entryWord e, cl := c, lanes := e.lanes } })
  | _, _ => s

/-- The word occupies its unit (R118, R119). -/
def occupy (s : State) (cr slice : Nat) (g : Group) (e : Entry) : State :=
  let (w0, wn) := entryWords e
  match entryUnit slice e with
  | .vec => (match decode w0.toNat wn.toNat with
      | .ok i => modCore s cr fun c => { c with vbusy := mput c.vbusy slice (s.now + halves (guardLanes g (entryHdr e) e.lanes) * dpCycles i) }
      | .error _ => s)
  | .shared u => modCore s cr fun c => { c with served := mput c.served u ((s.now + 1) * 16 + slice) }
  | .own => s

/-- Halts that engine weirs left take effect at an issue boundary (R455). -/
def engHalts (s : State) (cr slice : Nat) : State :=
  (sliceGroups s cr slice).foldl (fun s e =>
    if e.2.engHalt = 0 then s
    else modGroup s e.1 fun g => { dropExt (laneMod g g.engHalt fun _ l => stopLane l) g.engHalt with engHalt := 0 }) s

/-- The slice has had its cycle. -/
def markDid (s : State) (cr slice : Nat) : State := modCore s cr fun c => { c with did := c.did ||| lbit slice }

/-- SLICE_CYCLE (R123): the slice chooses a group and an entry; its word is the next to issue. -/
def sliceCycle (s0 : State) (cr slice : Nat) : State :=
  if (coreAt s0 cr).did.getLsbD slice || s0.sel.isSome then s0
  else
    let s := engHalts s0 cr slice
    let (ch, full) := sliceChoice s cr slice 9 (servedNow s cr)
    let s1 := (sliceGroups s cr slice).foldl (fun t e => modGroup t e.1 fun g => countGroup s cr full (ch.map Prod.fst) e.1 g) s
    match ch with
    | none => markDid (chargeIdle s1 cr slice) cr slice
    | some (gid, e) =>
      match group? s1 gid with
      | none => markDid s1 cr slice
      | some g =>
        let s2 := modCore (markDid s1 cr slice) cr fun c => { c with ptr := msetD c.ptr 0 slice ((g.slot + 1) % 16) }
        let s3 := issueEntry s2 gid e
        if s3.sel.isSome then occupy s3 cr slice g e else chargeAt s3 cr slice g.slot (entryWord e) 9

/-- SLICE_CYCLE. -/
def execSliceCycle (s : State) : Host.Outcome State Fault Refusal := .next (sliceCycle s s.ev.a (s.ev.b % 16))

/-! ### The end of a cycle (R122, R124) -/

/-- A word in flight on which R122 lets a group be moved: an RLD, a load that missed the L1, or a joint operation that its partners have not
all issued. -/
def longFly (s : State) (f : Fly) : Bool :=
  match f.ins with
  | .rld _ => true
  | .ld _ | .ldx _ | .pld _ => f.miss
  | .mmaj _ _ _ | .mmajs _ _ _ => s.joints.any fun e => e.2.members.any fun m => m.2.seq == f.seq && e.2.members.length < 4
  | _ => false

/-- A clause's WAIT or the scoreboard stops an entry on such a word, or its unit does not take it for a wait of R122: a joint operation behind
this member's last one, a TFREE, a copy whose lines are absent. -/
def entryLong (s : State) (gid : Nat) (g : Group) (e : Entry) : Bool :=
  match e.cl with
  | none => false
  | some c =>
    if !waitMet g e then g.fly.any fun f => longFly s f && match f.dep with | some n => (entryHdr e).wait.testBit n | none => false
    else match wordStop g (hdrOf c) (entryWords e).1 (entryWords e).2 with
      | some (_, fs) => fs.any (longFly s)
      | none => (unitHeld s gid g e).any fun leaf => 0x100 ≤ leaf

/-- A lane waits as R122 lists. -/
def laneLong (s : State) (g : Group) (L : Nat) : Bool :=
  match (laneGet g L).st with
  | .bar _ _ | .park (.line _ _ _) | .park (.fetch _ _) | .park (.layer _) | .park (.cwait _ _) | .park (.sleep _) => true
  | .park (.access seq) => parkSource s g L == 8 || g.accs.any fun a => a.seq == seq && a.lanes.getLsbD L && a.space != .global
  | _ => false

/-- A group is blocked long (R122); one that trades sets is not while the trade lasts. -/
def blockedLong (s : State) (gid : Nat) (g : Group) : Bool :=
  g.tradeCd = 0 && freeEntries s gid g = []
    && (((List.range 32).any fun L => laneLong s g L) || (g.stallAt.isSome && pageStalled s gid)
        || (frontier g).any (entryLong s gid g)
        || (liveLanes g != 0 && liveLanes g == lanesWhere g fun l => match l.st with | .waitK _ | .loopEnd _ | .halted => true | _ => false))

/-- The pending group that enters the active set: a promoted one, else a ready one (R122, R124). -/
def comesIn (s : State) (gs : List (Nat × Group)) : Option (Nat × Group) :=
  match minBy (fun e => (e.2.promoted.getD 0) * 16 + e.2.slot) (gs.filter fun e => !e.2.active && e.2.promoted.isSome) with
  | some e => some e
  | none => minBy (fun e => sinceNow s e.2 * 16 + e.2.slot) (gs.filter fun e => !e.2.active && e.2.ready)

/-- The active group that a trade displaces: for a promoted one the latest ready-since cycle, else the blocked-long group with the
earliest. -/
def goesOut (s : State) (gs : List (Nat × Group)) (promoted : Bool) : Option (Nat × Group) :=
  let act := gs.filter fun e => e.2.active
  if promoted then minBy (fun e => 2 ^ 70 - (e.2.readySince * 16 + e.2.slot)) act
  else minBy (fun e => e.2.readySince * 16 + e.2.slot) (act.filter fun e => blockedLong s e.1 e.2)

/-- The one move of a slice at the end of a cycle (R122). -/
def moveSets (s : State) (cr slice : Nat) : State :=
  let gs := sliceGroups s cr slice
  match comesIn s gs with
  | none => s
  | some (i, g) =>
    if (gs.filter fun e => e.2.active).length < 8 then modGroup s i fun g => { g with active := true }
    else match goesOut s gs g.promoted.isSome with
      | some (o, _) => tradeSets s 2 o i
      | none => s

/-- The end of a slice's cycle: trades run down, and at most one move is made. -/
def sliceEnd (s : State) (cr slice : Nat) : State :=
  let gs := sliceGroups s cr slice
  let traded := gs.any fun e => e.2.tradeCd == 3
  let s1 := gs.foldl (fun s e => if e.2.tradeCd = 0 then s else modGroup s e.1 fun g => { g with tradeCd := g.tradeCd - 1 }) s
  if traded then s1 else moveSets s1 cr slice

/-- A lane's sleep runs down while its group is resident (R185). -/
def sleepTick (g : Group) : Group :=
  let m := lanesWhere g fun l => match l.st with | .park (.sleep (_ + 1)) => true | _ => false
  if m = 0 then g else laneMod g m fun _ l => match l.st with | .park (.sleep (n + 1)) => { l with st := .park (.sleep n) } | _ => l

/-- A group at the end of a cycle: its watchdog and its sleeping lanes. -/
def groupTick (s : State) (gid : Nat) (g : Group) : Group :=
  let g1 := wdTick s gid g
  match team? s g.team with
  | some t => if teamHere s t then sleepTick g1 else g1
  | none => g1

/-- A hosted team's quantum runs (R79). -/
def teamTick (s : State) (t : Team) : Team := if teamHere s t && (kernOf s t.launch).vgrid != 0 then { t with turn := t.turn + 1 } else t

/-- The slices of a core that hold a group. -/
def groupSlices (s : State) (cr : Nat) : Word := maskOf fun sl => sl < 16 && sliceGroups s cr sl != []

/-- Slices without a group on cores where energy alone keeps a team out charge energy-capped (R473). -/
def chargeCapped (s : State) : State :=
  if (List.range 8).all fun p => admQueue s p == [] then s
  else (List.range 384).foldl (fun s cr =>
    if energyCapped s cr then
      (List.range 16).foldl (fun s sl => if (coreAt s cr).did.getLsbD sl then s else plumeRec (chargeLeaf s cr 0x11) cr sl (2 ^ 47 + 2 ^ 40)) s
    else s) s

/-- The lines of the core and set of a line (R275). -/
def setLines (s : State) (k : Nat) : List Nat :=
  (mkeys s.l1).filter fun j => l1Core j == l1Core k && Config.l1Set (j % 2 ^ 60) % 128 == Config.l1Set (k % 2 ^ 60) % 128

/-- A set of an L1 with more than 16 lines loses one, which is written back (R273, R275; log entry 74). -/
def trimSet (s : State) (k : Nat) : State :=
  let l := setLines s k
  if l.length ≤ 16 then s
  else match l[Config.l1Victim s.free % l.length]? with
    | some v => evictLine { s with free := s.free + 1 } v
    | none => s

/-- The sets of the L1s hold 16 lines each. -/
def trimL1 (s : State) : State := if s.l1.length ≤ 16 then s else (mkeys s.l1).foldl trimSet s

/-- The cycle ends: the sets of each slice, watchdogs, sleeps, quanta, traces and levels, caches, marked cores, and the cycle count. -/
def tick (s : State) : State :=
  let s1 := chargeCapped s
  let s2 := s1.cores.foldl (fun s e => (List.range 16).foldl (fun s sl => if e.2.did.getLsbD sl then sliceEnd s e.1 sl else s) s) s1
  let s3 := { s2 with groups := mmap s2.groups fun k g => groupTick s2 k g, teams := mmap s2.teams fun _ t => teamTick s2 t }
  let s4 := clearMarked (trimL1 (unstall (monTick { s3 with plume := mmap s3.plume fun _ p => plumeTick p })))
  { s4 with now := s4.now + 1, pos := 0, cores := mmap s4.cores fun _ c => { c with did := 0 } }

end Sys2Proof.Machine
end

