-- ==== Sys2Proof/Machine/Exact.lean ====
section
/-! DEFINITION. Machine/Exact.lean: error-free transforms, expansions and the Spout generator (R241 to R260). -/

namespace Sys2Proof.Machine

/-- Write words of a format into consecutive registers, or pairs, from `d`. -/
def putWords (g : Group) (t : Ty) (d L : Nat) (ws : List Nat) : Group :=
  (ws.zipIdx).foldl (fun g (x, i) => vput g t (d + i * tyRegs1 t) L x) g

/-- Results of several words of a format, with flags, in the lanes of EXEC. -/
def wordResults (s : State) (v : View) (t : Ty) (d n : Nat) (res : Nat → List Nat × Nat) : State :=
  let rs := (lanesOf v.exec).map fun L => (L, res L)
  let g := rs.foldl (fun g e => putWords g t d e.1 e.2.1) v.g
  alu s v g ((rs.filter fun e => e.2.2 != 0).map fun e => (e.1, e.2.2)) d n (tyRegs1 t == 2)

/-! ### Error-free transforms (R241 to R247) -/

/-- A plain vector operand. -/
def xreg (v : View) (t : Ty) (r L : Nat) : FV := fdec t (vbits v.g t r L)

/-- A transform of A and B with one error word. -/
def twoWord (s : State) (i : Instr) (p : L) (f : Ty → FV → FV → TOut) : Host.Outcome State Fault Refusal :=
  run s (uses i) fun v =>
    wordResults s v p.ty p.d 2 fun L =>
      let o := f p.ty (xreg v p.ty p.a L) (fdec p.ty (bbits v.g p.ty p.b L))
      (o.words, o.fl)

/-- FTWOSUM (R242). -/
def execFtwosum (p : L) (s : State) : Host.Outcome State Fault Refusal :=
  twoWord s (.ftwosum p) p fun t a b => tTwo t (fAdd t .rne 0 a b) (dyAdd a.dy b.dy)
/-- FFASTSUM (R243). -/
def execFfastsum (p : L) (s : State) : Host.Outcome State Fault Refusal := twoWord s (.ffastsum p) p tFast
/-- FTWOPROD (R244). -/
def execFtwoprod (p : L) (s : State) : Host.Outcome State Fault Refusal :=
  twoWord s (.ftwoprod p) p fun t a b => tTwo t (fMul t .rne 0 a b) (dyMul a.dy b.dy)
/-- FFMA3 (R245). -/
def execFfma3 (p : L) (s : State) : Host.Outcome State Fault Refusal :=
  run s (uses (.ffma3 p)) fun v =>
    wordResults s v p.ty p.d 3 fun L =>
      let o := tFma3 p.ty (xreg v p.ty p.a L) (fdec p.ty (bbits v.g p.ty p.b L)) (xreg v p.ty p.c L)
      (o.words, o.fl)

/-- A split into `n` words (R247). -/
def splitWords (s : State) (i : Instr) (p : L) (n : Nat) : Host.Outcome State Fault Refusal :=
  let src := (tyOf p.c).getD .f32
  run s (uses i) fun v =>
    wordResults s v p.ty p.d n fun L => let o := tSplit src p.ty n (xreg v src p.a L); (o.words, o.fl)

/-- FSPLIT (R247). -/
def execFsplit (p : L) (s : State) : Host.Outcome State Fault Refusal := splitWords s (.fsplit p) p 2
/-- FSPLIT3 (R247). -/
def execFsplit3 (p : L) (s : State) : Host.Outcome State Fault Refusal := splitWords s (.fsplit3 p) p 3

/-! ### Expansions (R248 to R256) -/

/-- The bits of the components of an expansion, or of the one word of a plain value. -/
def compsBits (g : Group) (t : Ty) (r L : Nat) : List Nat :=
  (List.range (tyN t)).map fun i => vbits g (tyComp t) (r + i * tyRegs1 (tyComp t)) L % 2 ^ fWidth (tyComp t)

/-- The components as values. -/
def compsVal (g : Group) (t : Ty) (r L : Nat) : List FV := (compsBits g t r L).map (fdec (tyComp t))

/-- XADD, XSUB and XMUL (R251). -/
def xArith (s : State) (i : Instr) (p : L) (op : FV → FV → Option FV) : Host.Outcome State Fault Refusal :=
  run s (uses i) fun v =>
    wordResults s v (tyComp p.ty) p.d (tyN p.ty) fun L =>
      xOp (tyComp p.ty) (tyN p.ty) [compsVal v.g p.ty p.a L, compsVal v.g p.ty (bNum p.b) L] fun l =>
        match l with
        | [a, b] => op a b
        | _ => none

/-- XADD (R251). -/
def execXadd (p : L) (s : State) : Host.Outcome State Fault Refusal := xArith s (.xadd p) p (fvAdd .rne)
/-- XSUB (R251). -/
def execXsub (p : L) (s : State) : Host.Outcome State Fault Refusal := xArith s (.xsub p) p fun a b => fvAdd .rne a b.neg
/-- XMUL (R251). -/
def execXmul (p : L) (s : State) : Host.Outcome State Fault Refusal := xArith s (.xmul p) p fvMul

/-- XNORM of a value into `n` components (R252, R253). -/
def xSame (t : Ty) (n : Nat) (cs : List FV) : List Nat × Nat := xOp t n [cs] fun l => l.head?

/-- XREN (R252). -/
def execXren (p : L) (s : State) : Host.Outcome State Fault Refusal :=
  run s (uses (.xren p)) fun v =>
    wordResults s v (tyComp p.ty) p.d (tyN p.ty) fun L => xSame (tyComp p.ty) (tyN p.ty) (compsVal v.g p.ty p.a L)

/-- One rounding of an expansion's value to a plain format; `src` is the format of its components (R253, R256). -/
def xRound (src dst : Ty) (mode : RM) (u : Nat) (sat : Bool) (cs : List FV) : Nat × Nat :=
  let iv := if xSig src cs then fIV else 0
  match xval cs with
  | .nan b => if src == dst then (quietBits dst b, iv) else let (x, f) := nanConv src dst b; (x, Nat.lor f iv)
  | .clash => (canonNan dst, fIV)
  | .val x => frnd dst mode u sat x

/-- XCOMP: to one component by RND_MODE, to more by XNORM (R253). -/
def execXcomp (p : L) (s : State) : Host.Outcome State Fault Refusal :=
  let t := tyComp p.ty
  run s (uses (.xcomp p)) fun v =>
    wordResults s v t p.d p.c fun L =>
      let cs := compsVal v.g p.ty p.a L
      if p.c = 1 then let (b, f) := xRound t t p.rm 0 false cs; ([b], f) else xSame t p.c cs

/-- XNEG and XABS (R254). -/
def xSignOp (s : State) (i : Instr) (p : L) (isNeg : Bool) : Host.Outcome State Fault Refusal :=
  run s (uses i) fun v =>
    wordResults s v (tyComp p.ty) p.d (tyN p.ty) fun L =>
      xNegAbs (tyComp p.ty) (tyN p.ty) isNeg (compsVal v.g p.ty p.a L) (compsBits v.g p.ty p.a L)

/-- XNEG (R254). -/
def execXneg (p : L) (s : State) : Host.Outcome State Fault Refusal := xSignOp s (.xneg p) p true
/-- XABS (R254). -/
def execXabs (p : L) (s : State) : Host.Outcome State Fault Refusal := xSignOp s (.xabs p) p false

/-- XCMP (R255). -/
def execXcmp (p : L) (s : State) : Host.Outcome State Fault Refusal :=
  let t := tyComp p.ty
  run s (uses (.xcmp p)) fun v =>
    let res (L : Nat) : Bool × Nat :=
      let a := compsVal v.g p.ty p.a L
      let b := compsVal v.g p.ty (bNum p.b) L
      fCmp ((condOf p.aux).getD .eq) (xvalFV t a) (xvalFV t b) (xSignals t a || xSignals t b)
    let rs := (lanesOf v.exec).map fun L => (L, res L)
    finish s v { g := pset v.g p.d v.exec (maskOf fun L => rs.any fun e => e.1 == L && e.2.1)
                 flags := (rs.filter fun e => e.2.2 != 0).map fun e => (e.1, e.2.2) }

/-- XCVT of components of one format into `n` components of another (R256). -/
def xConv (src dst : Ty) (n : Nat) (cs : List FV) : List Nat × Nat :=
  let iv := if xSig src cs then fIV else 0
  match xval cs with
  | .nan b => let (x, f) := nanConv src dst b; xSpecial n x (Nat.lor f iv)
  | .clash => xSpecial n (canonNan dst) fIV
  | .val (.inf neg) => xSpecial n (infBits dst neg) 0
  | .val x => xnorm dst n x

/-- XCVT (R256). -/
def execXcvt (p : L) (src : Ty) (s : State) : Host.Outcome State Fault Refusal :=
  run s (uses (.xcvt p src)) fun v =>
    wordResults s v (tyComp p.ty) p.d (tyN p.ty) fun L =>
      let cs := compsVal v.g src p.a L
      if tyExp p.ty then xConv (tyComp src) (tyComp p.ty) (tyN p.ty) cs
      else let (b, f) := xRound (tyComp src) p.ty p.rm (uOf v p L) (satOf p) cs; ([b], f)

/-! ### The Spout generator (R258 to R260) -/

/-- The four words of Spout's state. -/
abbrev Quad4 := Word × Word × Word × Word

/-- One round of Spout. -/
def spoutRound (k0 k1 : Word) (i : Nat) (x : Quad4) : Quad4 :=
  let (x0, x1, x2, x3) := x
  let x0 := x0 + x1
  let x3 := (x3 ^^^ x0).rotateLeft 13
  let x2 := x2 + x3
  let x1 := (x1 ^^^ x2).rotateLeft 9
  let x0 := x0 + x1
  let x3 := (x3 ^^^ x0).rotateLeft 11
  let x2 := x2 + x3
  let x1 := (x1 ^^^ x2).rotateLeft 5
  (x0 + (if i % 2 = 0 then k0 else k1) + BitVec.ofNat 32 i, x1, x2, x3)

/-- SPOUT (R258). -/
def spout (k0 k1 c0 c1 c2 c3 : Word) : Quad4 :=
  let (x0, x1, x2, x3) := (List.range 8).foldl (fun x i => spoutRound k0 k1 i x) (c0 ^^^ k0, c1 ^^^ k1, c2 ^^^ 0x9E3779B9, c3 ^^^ 0x6A09E667)
  (x0 + c0, x1 + c1, x2 + c2, x3 + c3)

/-- The outputs as the words of a vector quad. -/
def spoutWords (x : Quad4) : List Nat := [x.1.toNat, x.2.1.toNat, x.2.2.1.toNat, x.2.2.2.toNat]

/-- The key of a lane: a pair. -/
def keyOf (v : View) (p : L) (L : Nat) : Word × Word :=
  let k := BitVec.ofNat 64 (bbits v.g .n64 p.b L)
  (k.truncate 32, (k >>> 32).truncate 32)

/-- RND (R259). -/
def execRnd (p : L) (s : State) : Host.Outcome State Fault Refusal :=
  run s (uses (.rnd p)) fun v =>
    wordResults s v .n32 p.d 4 fun L =>
      let (k0, k1) := keyOf v p L
      let c (i : Nat) : Word := vget v.g (p.a + i) L
      (spoutWords (spout k0 k1 (c 0) (c 1) (c 2) (c 3)), 0)

/-- RNDG: the lane's index is added to the first counter word (R260). -/
def execRndg (p : L) (s : State) : Host.Outcome State Fault Refusal :=
  run s (uses (.rndg p)) fun v =>
    wordResults s v .n32 p.d 4 fun L =>
      let (k0, k1) := keyOf v p L
      let c (i : Nat) : Word := sget v.g (p.a + i)
      (spoutWords (spout k0 k1 (c 0 + BitVec.ofNat 32 L) (c 1) (c 2) (c 3)), 0)

end Sys2Proof.Machine
end

