-- ==== Sys2Proof/Machine/Scalar.lean ====
section
/-! DEFINITION. Machine/Scalar.lean: scalar integer instructions; each acts once (R192 to R196). -/

namespace Sys2Proof.Machine

/-- A scalar short form (R192). -/
def scal3 (s : State) (i : Instr) (p : S3) (f : Word → Word → Word) : Host.Outcome State Fault Refusal :=
  runS s (uses i) fun g => sset g p.d (f (sget g p.a) (bsval g p.b))

/-- SADD (R192). -/
def execSadd (p : S3) (s : State) : Host.Outcome State Fault Refusal := scal3 s (.sadd p) p fun a b => a + b
/-- SSUB (R192). -/
def execSsub (p : S3) (s : State) : Host.Outcome State Fault Refusal := scal3 s (.ssub p) p fun a b => a - b
/-- SMUL (R192). -/
def execSmul (p : S3) (s : State) : Host.Outcome State Fault Refusal := scal3 s (.smul p) p fun a b => a * b
/-- SAND (R192). -/
def execSand (p : S3) (s : State) : Host.Outcome State Fault Refusal := scal3 s (.sand p) p fun a b => a &&& b
/-- SOR (R192). -/
def execSor (p : S3) (s : State) : Host.Outcome State Fault Refusal := scal3 s (.sor p) p fun a b => a ||| b
/-- SXOR (R192). -/
def execSxor (p : S3) (s : State) : Host.Outcome State Fault Refusal := scal3 s (.sxor p) p fun a b => a ^^^ b
/-- SSHL (R192). -/
def execSshl (p : S3) (s : State) : Host.Outcome State Fault Refusal := scal3 s (.sshl p) p shlW
/-- SSHR (R192). -/
def execSshr (p : S3) (s : State) : Host.Outcome State Fault Refusal := scal3 s (.sshr p) p shrW
/-- SSRA (R192). -/
def execSsra (p : S3) (s : State) : Host.Outcome State Fault Refusal := scal3 s (.ssra p) p sraW

/-- SMOVI (R193). -/
def execSmovi (p : SI) (s : State) : Host.Outcome State Fault Refusal :=
  runS s (uses (.smovi p)) fun g => sset g p.d (imm16 p.imm)
/-- SMOVH keeps the low half (R193). -/
def execSmovh (p : SI) (s : State) : Host.Outcome State Fault Refusal :=
  runS s (uses (.smovh p)) fun g => sset g p.d (setHigh (sget g p.d) p.imm)

/-- SMOV (R194). -/
def execSmov (d a : Nat) (s : State) : Host.Outcome State Fault Refusal := runS s (uses (.smov d a)) fun g => sset g d (sget g a)
/-- SNOT (R194). -/
def execSnot (d a : Nat) (s : State) : Host.Outcome State Fault Refusal := runS s (uses (.snot d a)) fun g => sset g d (~~~(sget g a))
/-- SPOPC (R194). -/
def execSpopc (d a : Nat) (s : State) : Host.Outcome State Fault Refusal := runS s (uses (.spopc d a)) fun g => sset g d (popW (sget g a))
/-- SCLZ (R194). -/
def execSclz (d a : Nat) (s : State) : Host.Outcome State Fault Refusal := runS s (uses (.sclz d a)) fun g => sset g d (clzW (sget g a))

/-- SADDR (R196). -/
def execSaddr (p : L) (s : State) : Host.Outcome State Fault Refusal :=
  runS s (uses (.saddr p)) fun g =>
    let b := if p.ty == .i64 then bsPair g p.b else wrapN 64 (tyVal p.ty (bsval g p.b).toNat)
    sset64 g p.d (sget64 g p.a + BitVec.ofNat 64 (b * 2 ^ p.c))

/-- A scalar long form with a 32-bit result (R195). -/
def scalL (s : State) (i : Instr) (p : L) (f : Word → Word → Word → Word) : Host.Outcome State Fault Refusal :=
  runS s (uses i) fun g => sset g p.d (f (sget g p.a) (bsval g p.b) (sget g p.c))

/-- SMULH (R195). -/
def execSmulh (p : L) (s : State) : Host.Outcome State Fault Refusal := scalL s (.smulh p) p fun a b _ => mulhW p.ty a b
/-- SMAD (R195). -/
def execSmad (p : L) (s : State) : Host.Outcome State Fault Refusal := scalL s (.smad p) p fun a b c => a * b + c
/-- SMIN (R195). -/
def execSmin (p : L) (s : State) : Host.Outcome State Fault Refusal :=
  scalL s (.smin p) p fun a b _ => BitVec.ofNat 32 (pickInt p.ty false a.toNat b.toNat)
/-- SMAX (R195). -/
def execSmax (p : L) (s : State) : Host.Outcome State Fault Refusal :=
  scalL s (.smax p) p fun a b _ => BitVec.ofNat 32 (pickInt p.ty true a.toNat b.toNat)
/-- SCMP (R195). -/
def execScmp (p : L) (s : State) : Host.Outcome State Fault Refusal :=
  scalL s (.scmp p) p fun a b _ => if condInt p.ty p.aux a.toNat b.toNat then 1 else 0
/-- SSEL (R195). -/
def execSsel (p : L) (s : State) : Host.Outcome State Fault Refusal := scalL s (.ssel p) p fun a b c => if c ≠ 0 then a else b

end Sys2Proof.Machine
end

