-- ==== Sys2Proof/Machine/VecInt.lean ====
section
/-! DEFINITION. Machine/VecInt.lean: vector integer instructions; each acts per lane of EXEC (R192, R197 to R203). -/

namespace Sys2Proof.Machine

/-- A vector short form (R192). -/
def vec3 (s : State) (i : Instr) (p : S3) (f : Word → Word → Word) : Host.Outcome State Fault Refusal :=
  runV s (uses i) p.d fun g L => f (vget g p.a L) (bval g p.b L)

/-- IADD (R192). -/
def execIadd (p : S3) (s : State) : Host.Outcome State Fault Refusal := vec3 s (.iadd p) p fun a b => a + b
/-- ISUB (R192). -/
def execIsub (p : S3) (s : State) : Host.Outcome State Fault Refusal := vec3 s (.isub p) p fun a b => a - b
/-- IMUL (R192). -/
def execImul (p : S3) (s : State) : Host.Outcome State Fault Refusal := vec3 s (.imul p) p fun a b => a * b
/-- AND (R192). -/
def execAnd (p : S3) (s : State) : Host.Outcome State Fault Refusal := vec3 s (.and p) p fun a b => a &&& b
/-- OR (R192). -/
def execOr (p : S3) (s : State) : Host.Outcome State Fault Refusal := vec3 s (.or p) p fun a b => a ||| b
/-- XOR (R192). -/
def execXor (p : S3) (s : State) : Host.Outcome State Fault Refusal := vec3 s (.xor p) p fun a b => a ^^^ b
/-- SHL (R192). -/
def execShl (p : S3) (s : State) : Host.Outcome State Fault Refusal := vec3 s (.shl p) p shlW
/-- SHR (R192). -/
def execShr (p : S3) (s : State) : Host.Outcome State Fault Refusal := vec3 s (.shr p) p shrW
/-- SRA (R192). -/
def execSra (p : S3) (s : State) : Host.Outcome State Fault Refusal := vec3 s (.sra p) p sraW

/-- ICMP, short form (R199). -/
def execIcmp (cond : SCond) (pd a : Nat) (b : Src) (s : State) : Host.Outcome State Fault Refusal :=
  runP s (uses (.icmp cond pd a b)) pd fun g L => scondInt cond (vget g a L) (bval g b L)

/-- ICMP, long form (R199). -/
def execIcmpLong (p : L) (s : State) : Host.Outcome State Fault Refusal :=
  runP s (uses (.icmpLong p)) p.d fun g L => condInt p.ty p.aux (vbits g p.ty p.a L) (bbits g p.ty p.b L)

/-- MOVI (R198). -/
def execMovi (p : SI) (s : State) : Host.Outcome State Fault Refusal := runV s (uses (.movi p)) p.d fun _ _ => imm16 p.imm
/-- MOVI.H keeps the low half (R198). -/
def execMoviH (p : SI) (s : State) : Host.Outcome State Fault Refusal :=
  runV s (uses (.moviH p)) p.d fun g L => setHigh (vget g p.d L) p.imm

/-- A vector unary form: X makes A scalar (R200). -/
def vec1 (s : State) (i : Instr) (p : S2) (f : Word → Word) : Host.Outcome State Fault Refusal :=
  runV s (uses i) p.d fun g L => f (if p.x then sget g p.a else vget g p.a L)

/-- MOV (R200). -/
def execMov (p : S2) (s : State) : Host.Outcome State Fault Refusal := vec1 s (.mov p) p fun a => a
/-- NOT (R200). -/
def execNot (p : S2) (s : State) : Host.Outcome State Fault Refusal := vec1 s (.not p) p fun a => ~~~a
/-- POPC (R200). -/
def execPopc (p : S2) (s : State) : Host.Outcome State Fault Refusal := vec1 s (.popc p) p popW
/-- CLZ (R200). -/
def execClz (p : S2) (s : State) : Host.Outcome State Fault Refusal := vec1 s (.clz p) p clzW
/-- BREV (R200). -/
def execBrev (p : S2) (s : State) : Host.Outcome State Fault Refusal := vec1 s (.brev p) p brevW
/-- IABS (R200). -/
def execIabs (p : S2) (s : State) : Host.Outcome State Fault Refusal := vec1 s (.iabs p) p fun a => if a.msb then -a else a
/-- INEG (R200). -/
def execIneg (p : S2) (s : State) : Host.Outcome State Fault Refusal := vec1 s (.ineg p) p fun a => -a

/-- VRDI: the register that a scalar names; a number at or beyond VREGS raises 0x02 (R201). -/
def execVrdi (d a : Nat) (s : State) : Host.Outcome State Fault Refusal :=
  run s (uses (.vrdi d a)) fun v =>
    let n := (sget v.g a).toNat
    if n ≥ v.ln.kern.vregs then trapAll s v 0x02 0
    else if readsPoison v.g { r := [vg n 1] } v.exec then trapAll s v 0x0D 0
    else alu s v (mapLanes v d fun L => vget v.g n L) [] d 1 false

/-- VWRI (R201). -/
def execVwri (d a : Nat) (s : State) : Host.Outcome State Fault Refusal :=
  run s (uses (.vwri d a)) fun v =>
    let n := (sget v.g d).toNat
    if n ≥ v.ln.kern.vregs then trapAll s v 0x02 0
    else alu s v (mapLanes v n fun L => vget v.g a L) [] n 1 false

/-- IADDC: the predicate is read and written (R202). -/
def execIaddc (p : L) (s : State) : Host.Outcome State Fault Refusal :=
  run s (uses (.iaddc p)) fun v =>
    let t (L : Nat) : Nat := (vget v.g p.a L).toNat + (bval v.g p.b L).toNat + (if (pget v.g p.c).getLsbD L then 1 else 0)
    let g := mapLanes v p.d fun L => BitVec.ofNat 32 (t L)
    alu s v (pset g p.c v.exec (maskOf fun L => v.exec.getLsbD L && t L ≥ 2 ^ 32)) [] p.d 1 false

/-- A vector long form on 32-bit values (R202). -/
def vecL (s : State) (i : Instr) (p : L) (f : Word → Word → Word) : Host.Outcome State Fault Refusal :=
  runV s (uses i) p.d fun g L => f (vget g p.a L) (bval g p.b L)

/-- IMULH (R202). -/
def execImulh (p : L) (s : State) : Host.Outcome State Fault Refusal := vecL s (.imulh p) p (mulhW p.ty)
/-- IMAD (R202). -/
def execImad (p : L) (s : State) : Host.Outcome State Fault Refusal :=
  runV s (uses (.imad p)) p.d fun g L => vget g p.a L * bval g p.b L + vget g p.c L
/-- IMADW: a 64-bit sum (R202). -/
def execImadw (p : L) (s : State) : Host.Outcome State Fault Refusal :=
  runT s (uses (.imadw p)) .n64 p.d fun g L =>
    wrapN 64 (tyVal p.ty (vget g p.a L).toNat * tyVal p.ty (bval g p.b L).toNat + (vget64 g p.c L).toNat)
/-- IMIN (R202). -/
def execImin (p : L) (s : State) : Host.Outcome State Fault Refusal :=
  runT s (uses (.imin p)) p.ty p.d fun g L => pickInt p.ty false (vbits g p.ty p.a L) (bbits g p.ty p.b L)
/-- IMAX (R202). -/
def execImax (p : L) (s : State) : Host.Outcome State Fault Refusal :=
  runT s (uses (.imax p)) p.ty p.d fun g L => pickInt p.ty true (vbits g p.ty p.a L) (bbits g p.ty p.b L)
/-- ISEL (R202). -/
def execIsel (p : L) (s : State) : Host.Outcome State Fault Refusal :=
  runT s (uses (.isel p)) p.ty p.d fun g L => if (pget g p.c).getLsbD L then vbits g p.ty p.a L else bbits g p.ty p.b L
/-- ROT (R202). -/
def execRot (p : L) (s : State) : Host.Outcome State Fault Refusal := vecL s (.rot p) p fun a b => a.rotateLeft (b.toNat % 32)
/-- BFE (R202). -/
def execBfe (p : L) (s : State) : Host.Outcome State Fault Refusal := vecL s (.bfe p) p fun a b => bfeW p.ty a b p.c
/-- BFI reads and writes D (R202). -/
def execBfi (p : L) (s : State) : Host.Outcome State Fault Refusal :=
  runV s (uses (.bfi p)) p.d fun g L => bfiW (vget g p.d L) (vget g p.a L) (bval g p.b L) p.c
/-- CVTI (R203). -/
def execCvti (p : L) (s : State) : Host.Outcome State Fault Refusal :=
  let src := (tyOf p.c).getD .i32
  runT s (uses (.cvti p)) p.ty p.d fun g L => cvtiVal src p.ty (p.aux % 2 == 1) (vbits g src p.a L)

end Sys2Proof.Machine
end

