-- ==== Sys2Proof/Machine/Dispatch.lean ====
section
/-! DEFINITION. Machine/Dispatch.lean: the one match that gives every instruction, and every step of the device, its meaning. -/

namespace Sys2Proof.Machine

/-- The meaning of an instruction. -/
def exec (i : Instr) (s : State) : Host.Outcome State Fault Refusal :=
  match i with
  | .nop => Sys2Proof.Machine.execNop s
  | .bra off => Sys2Proof.Machine.execBra off s
  | .brx b => Sys2Proof.Machine.execBrx b s
  | .call d off => Sys2Proof.Machine.execCall d off s
  | .callx d b => Sys2Proof.Machine.execCallx d b s
  | .ret b => Sys2Proof.Machine.execRet b s
  | .loop lc len cnt x => Sys2Proof.Machine.execLoop lc len cnt x s
  | .join d => Sys2Proof.Machine.execJoin d s
  | .leave d => Sys2Proof.Machine.execLeave d s
  | .waitk d => Sys2Proof.Machine.execWaitk d s
  | .exit => Sys2Proof.Machine.execExit s
  | .yield => Sys2Proof.Machine.execYield s
  | .sleep d imm x => Sys2Proof.Machine.execSleep d imm x s
  | .bkpt imm => Sys2Proof.Machine.execBkpt imm s
  | .pcrel d off => Sys2Proof.Machine.execPcrel d off s
  | .sadd p => Sys2Proof.Machine.execSadd p s
  | .ssub p => Sys2Proof.Machine.execSsub p s
  | .smul p => Sys2Proof.Machine.execSmul p s
  | .sand p => Sys2Proof.Machine.execSand p s
  | .sor p => Sys2Proof.Machine.execSor p s
  | .sxor p => Sys2Proof.Machine.execSxor p s
  | .sshl p => Sys2Proof.Machine.execSshl p s
  | .sshr p => Sys2Proof.Machine.execSshr p s
  | .ssra p => Sys2Proof.Machine.execSsra p s
  | .smovi p => Sys2Proof.Machine.execSmovi p s
  | .smovh p => Sys2Proof.Machine.execSmovh p s
  | .smov d a => Sys2Proof.Machine.execSmov d a s
  | .snot d a => Sys2Proof.Machine.execSnot d a s
  | .spopc d a => Sys2Proof.Machine.execSpopc d a s
  | .sclz d a => Sys2Proof.Machine.execSclz d a s
  | .saddr p => Sys2Proof.Machine.execSaddr p s
  | .smulh p => Sys2Proof.Machine.execSmulh p s
  | .smad p => Sys2Proof.Machine.execSmad p s
  | .smin p => Sys2Proof.Machine.execSmin p s
  | .smax p => Sys2Proof.Machine.execSmax p s
  | .scmp p => Sys2Proof.Machine.execScmp p s
  | .ssel p => Sys2Proof.Machine.execSsel p s
  | .iadd p => Sys2Proof.Machine.execIadd p s
  | .isub p => Sys2Proof.Machine.execIsub p s
  | .imul p => Sys2Proof.Machine.execImul p s
  | .and p => Sys2Proof.Machine.execAnd p s
  | .or p => Sys2Proof.Machine.execOr p s
  | .xor p => Sys2Proof.Machine.execXor p s
  | .shl p => Sys2Proof.Machine.execShl p s
  | .shr p => Sys2Proof.Machine.execShr p s
  | .sra p => Sys2Proof.Machine.execSra p s
  | .icmp cond pd a b => Sys2Proof.Machine.execIcmp cond pd a b s
  | .movi p => Sys2Proof.Machine.execMovi p s
  | .moviH p => Sys2Proof.Machine.execMoviH p s
  | .mov p => Sys2Proof.Machine.execMov p s
  | .not p => Sys2Proof.Machine.execNot p s
  | .popc p => Sys2Proof.Machine.execPopc p s
  | .clz p => Sys2Proof.Machine.execClz p s
  | .brev p => Sys2Proof.Machine.execBrev p s
  | .iabs p => Sys2Proof.Machine.execIabs p s
  | .ineg p => Sys2Proof.Machine.execIneg p s
  | .vrdi d a => Sys2Proof.Machine.execVrdi d a s
  | .vwri d a => Sys2Proof.Machine.execVwri d a s
  | .iaddc p => Sys2Proof.Machine.execIaddc p s
  | .imulh p => Sys2Proof.Machine.execImulh p s
  | .imad p => Sys2Proof.Machine.execImad p s
  | .imadw p => Sys2Proof.Machine.execImadw p s
  | .imin p => Sys2Proof.Machine.execImin p s
  | .imax p => Sys2Proof.Machine.execImax p s
  | .isel p => Sys2Proof.Machine.execIsel p s
  | .rot p => Sys2Proof.Machine.execRot p s
  | .bfe p => Sys2Proof.Machine.execBfe p s
  | .bfi p => Sys2Proof.Machine.execBfi p s
  | .cvti p => Sys2Proof.Machine.execCvti p s
  | .icmpLong p => Sys2Proof.Machine.execIcmpLong p s
  | .srd p => Sys2Proof.Machine.execSrd p s
  | .swr p => Sys2Proof.Machine.execSwr p s
  | .pset d a => Sys2Proof.Machine.execPset d a s
  | .pnot d a => Sys2Proof.Machine.execPnot d a s
  | .pmov d a => Sys2Proof.Machine.execPmov d a s
  | .ptok d a => Sys2Proof.Machine.execPtok d a s
  | .ktop d a => Sys2Proof.Machine.execKtop d a s
  | .kand p => Sys2Proof.Machine.execKand p s
  | .kor p => Sys2Proof.Machine.execKor p s
  | .kxor p => Sys2Proof.Machine.execKxor p s
  | .knot p => Sys2Proof.Machine.execKnot p s
  | .kpopc p => Sys2Proof.Machine.execKpopc p s
  | .kffs p => Sys2Proof.Machine.execKffs p s
  | .kmov p => Sys2Proof.Machine.execKmov p s
  | .kact p => Sys2Proof.Machine.execKact p s
  | .shfl p mode => Sys2Proof.Machine.execShfl p mode s
  | .vote p => Sys2Proof.Machine.execVote p s
  | .matchL p => Sys2Proof.Machine.execMatchL p s
  | .reduce p => Sys2Proof.Machine.execReduce p s
  | .scan p => Sys2Proof.Machine.execScan p s
  | .bcast p => Sys2Proof.Machine.execBcast p s
  | .split p => Sys2Proof.Machine.execSplit p s
  | .faddF32 p => Sys2Proof.Machine.execFaddF32 p s
  | .fsubF32 p => Sys2Proof.Machine.execFsubF32 p s
  | .fmulF32 p => Sys2Proof.Machine.execFmulF32 p s
  | .ffmaF32 p => Sys2Proof.Machine.execFfmaF32 p s
  | .fadd p => Sys2Proof.Machine.execFadd p s
  | .fsub p => Sys2Proof.Machine.execFsub p s
  | .fmul p => Sys2Proof.Machine.execFmul p s
  | .ffma p => Sys2Proof.Machine.execFfma p s
  | .fmin p => Sys2Proof.Machine.execFmin p s
  | .fmax p => Sys2Proof.Machine.execFmax p s
  | .fminnum p => Sys2Proof.Machine.execFminnum p s
  | .fmaxnum p => Sys2Proof.Machine.execFmaxnum p s
  | .fdiv p => Sys2Proof.Machine.execFdiv p s
  | .fscale p => Sys2Proof.Machine.execFscale p s
  | .fabs p => Sys2Proof.Machine.execFabs p s
  | .fneg p => Sys2Proof.Machine.execFneg p s
  | .fsqrt p => Sys2Proof.Machine.execFsqrt p s
  | .frcp p => Sys2Proof.Machine.execFrcp p s
  | .frsq p => Sys2Proof.Machine.execFrsq p s
  | .fex2 p => Sys2Proof.Machine.execFex2 p s
  | .flg2 p => Sys2Proof.Machine.execFlg2 p s
  | .fsin p => Sys2Proof.Machine.execFsin p s
  | .fcos p => Sys2Proof.Machine.execFcos p s
  | .frnd p => Sys2Proof.Machine.execFrnd p s
  | .fclass p => Sys2Proof.Machine.execFclass p s
  | .fcmp p => Sys2Proof.Machine.execFcmp p s
  | .fcvt p src => Sys2Proof.Machine.execFcvt p src s
  | .fcvti p src => Sys2Proof.Machine.execFcvti p src s
  | .icvtf p src => Sys2Proof.Machine.execIcvtf p src s
  | .fpack p src => Sys2Proof.Machine.execFpack p src s
  | .funpk p src => Sys2Proof.Machine.execFunpk p src s
  | .fstatRd d => Sys2Proof.Machine.execFstatRd d s
  | .fstatWr a x => Sys2Proof.Machine.execFstatWr a x s
  | .fstatClr a => Sys2Proof.Machine.execFstatClr a s
  | .ftwosum p => Sys2Proof.Machine.execFtwosum p s
  | .ffastsum p => Sys2Proof.Machine.execFfastsum p s
  | .ftwoprod p => Sys2Proof.Machine.execFtwoprod p s
  | .ffma3 p => Sys2Proof.Machine.execFfma3 p s
  | .fsplit p => Sys2Proof.Machine.execFsplit p s
  | .fsplit3 p => Sys2Proof.Machine.execFsplit3 p s
  | .xadd p => Sys2Proof.Machine.execXadd p s
  | .xsub p => Sys2Proof.Machine.execXsub p s
  | .xmul p => Sys2Proof.Machine.execXmul p s
  | .xren p => Sys2Proof.Machine.execXren p s
  | .xcomp p => Sys2Proof.Machine.execXcomp p s
  | .xneg p => Sys2Proof.Machine.execXneg p s
  | .xabs p => Sys2Proof.Machine.execXabs p s
  | .xcmp p => Sys2Proof.Machine.execXcmp p s
  | .xcvt p src => Sys2Proof.Machine.execXcvt p src s
  | .rnd p => Sys2Proof.Machine.execRnd p s
  | .rndg p => Sys2Proof.Machine.execRndg p s
  | .ld p => Sys2Proof.Machine.execLd p s
  | .st p => Sys2Proof.Machine.execSt p s
  | .lds p vbase => Sys2Proof.Machine.execLds p vbase s
  | .sts p vbase => Sys2Proof.Machine.execSts p vbase s
  | .ldsc p vbase => Sys2Proof.Machine.execLdsc p vbase s
  | .stsc p vbase => Sys2Proof.Machine.execStsc p vbase s
  | .ldx p => Sys2Proof.Machine.execLdx p s
  | .stx p => Sys2Proof.Machine.execStx p s
  | .ldc p => Sys2Proof.Machine.execLdc p s
  | .pld p => Sys2Proof.Machine.execPld p s
  | .pst p => Sys2Proof.Machine.execPst p s
  | .pref p => Sys2Proof.Machine.execPref p s
  | .atom p fn => Sys2Proof.Machine.execAtom p fn s
  | .atoms p fn => Sys2Proof.Machine.execAtoms p fn s
  | .atomc p => Sys2Proof.Machine.execAtomc p s
  | .red p fn => Sys2Proof.Machine.execRed p fn s
  | .fence p => Sys2Proof.Machine.execFence p s
  | .bar p => Sys2Proof.Machine.execBar p s
  | .barc p => Sys2Proof.Machine.execBarc p s
  | .gsync p => Sys2Proof.Machine.execGsync p s
  | .binit p => Sys2Proof.Machine.execBinit p s
  | .barrive p => Sys2Proof.Machine.execBarrive p s
  | .bexpect p => Sys2Proof.Machine.execBexpect p s
  | .bwait p => Sys2Proof.Machine.execBwait p s
  | .btest p => Sys2Proof.Machine.execBtest p s
  | .bdrop p => Sys2Proof.Machine.execBdrop p s
  | .binv p => Sys2Proof.Machine.execBinv p s
  | .stscb p => Sys2Proof.Machine.execStscb p s
  | .acopy p => Sys2Proof.Machine.execAcopy p s
  | .agath p => Sys2Proof.Machine.execAgath p s
  | .ascat p => Sys2Proof.Machine.execAscat p s
  | .acopym p => Sys2Proof.Machine.execAcopym p s
  | .acancel p => Sys2Proof.Machine.execAcancel p s
  | .mma p shape r => Sys2Proof.Machine.execMma p shape r s
  | .mmaj p shape r => Sys2Proof.Machine.execMmaj p shape r s
  | .mmas p shape r => Sys2Proof.Machine.execMmas p shape r s
  | .mmajs p shape r => Sys2Proof.Machine.execMmajs p shape r s
  | .talloc p => Sys2Proof.Machine.execTalloc p s
  | .tfree p => Sys2Proof.Machine.execTfree p s
  | .tzero p => Sys2Proof.Machine.execTzero p s
  | .tstat p => Sys2Proof.Machine.execTstat p s
  | .tld p => Sys2Proof.Machine.execTld p s
  | .tst p => Sys2Proof.Machine.execTst p s
  | .tread p => Sys2Proof.Machine.execTread p s
  | .twrite p => Sys2Proof.Machine.execTwrite p s
  | .tscale p => Sys2Proof.Machine.execTscale p s
  | .rld p => Sys2Proof.Machine.execRld p s
  | .rst p => Sys2Proof.Machine.execRst p s
  | .rstCnt p => Sys2Proof.Machine.execRstCnt p s
  | .ratom p fn => Sys2Proof.Machine.execRatom p fn s
  | .rfence p => Sys2Proof.Machine.execRfence p s
  | .cwait p => Sys2Proof.Machine.execCwait p s
  | .cnote p => Sys2Proof.Machine.execCnote p s
  | .coll p => Sys2Proof.Machine.execColl p s
  | .bknote p => Sys2Proof.Machine.execBknote p s
  | .lreq p => Sys2Proof.Machine.execLreq p s
  | .lwait p => Sys2Proof.Machine.execLwait p s
  | .lrel p => Sys2Proof.Machine.execLrel p s
  | .lstat p => Sys2Proof.Machine.execLstat p s
  | .trap imm => Sys2Proof.Machine.execTrap imm s
  | .tret => Sys2Proof.Machine.execTret s
  | .hcall p => Sys2Proof.Machine.execHcall p s
  | .srdp p => Sys2Proof.Machine.execSrdp p s
  | .swrp p => Sys2Proof.Machine.execSwrp p s
  | .ctxyield p => Sys2Proof.Machine.execCtxyield p s
  | .illrd p => Sys2Proof.Machine.execIllrd p s
  | .frmrd p => Sys2Proof.Machine.execFrmrd p s
  | .weirset p => Sys2Proof.Machine.execWeirset p s
  | .weirclr p => Sys2Proof.Machine.execWeirclr p s
  | .weirrd p => Sys2Proof.Machine.execWeirrd p s
  | .hrd p => Sys2Proof.Machine.execHrd p s
  | .hwr p => Sys2Proof.Machine.execHwr p s
  | .hprd p => Sys2Proof.Machine.execHprd p s
  | .hfront p => Sys2Proof.Machine.execHfront p s
  | .hscb p => Sys2Proof.Machine.execHscb p s
  | .hstep p => Sys2Proof.Machine.execHstep p s
  | .hresume p => Sys2Proof.Machine.execHresume p s
  | .trcmark p => Sys2Proof.Machine.execTrcmark p s
  | .cntrd p => Sys2Proof.Machine.execCntrd p s
  | .registerWrite => Sys2Proof.Machine.execRegisterWrite s
  | .partcfgWrite => Sys2Proof.Machine.execPartcfgWrite s
  | .ctxLoad => Sys2Proof.Machine.execCtxLoad s
  | .ctxUnload => Sys2Proof.Machine.execCtxUnload s
  | .ctxcmdDone => Sys2Proof.Machine.execCtxcmdDone s
  | .doorbellWrite => Sys2Proof.Machine.execDoorbellWrite s
  | .chainEnable => Sys2Proof.Machine.execChainEnable s
  | .chainDisable => Sys2Proof.Machine.execChainDisable s
  | .chainResume => Sys2Proof.Machine.execChainResume s
  | .chainAbort => Sys2Proof.Machine.execChainAbort s
  | .chstatLinkerrClear => Sys2Proof.Machine.execChstatLinkerrClear s
  | .launchTake => Sys2Proof.Machine.execLaunchTake s
  | .streamOpen => Sys2Proof.Machine.execStreamOpen s
  | .modelNextKernel => Sys2Proof.Machine.execModelNextKernel s
  | .launchComplete => Sys2Proof.Machine.execLaunchComplete s
  | .clusterAdmit => Sys2Proof.Machine.execClusterAdmit s
  | .admissionStarvationLimit => Sys2Proof.Machine.execAdmissionStarvationLimit s
  | .teamReadmit => Sys2Proof.Machine.execTeamReadmit s
  | .teamEvict => Sys2Proof.Machine.execTeamEvict s
  | .teamRetire => Sys2Proof.Machine.execTeamRetire s
  | .vgridQuantumExpiry => Sys2Proof.Machine.execVgridQuantumExpiry s
  | .vgridTurnEnd => Sys2Proof.Machine.execVgridTurnEnd s
  | .timeSliceExpiry => Sys2Proof.Machine.execTimeSliceExpiry s
  | .turnPass => Sys2Proof.Machine.execTurnPass s
  | .xchgOutIn => Sys2Proof.Machine.execXchgOutIn s
  | .xchgSuspend => Sys2Proof.Machine.execXchgSuspend s
  | .xchgResume => Sys2Proof.Machine.execXchgResume s
  | .exchangeDone => Sys2Proof.Machine.execExchangeDone s
  | .basincfgWrite => Sys2Proof.Machine.execBasincfgWrite s
  | .sluicepoolWrite => Sys2Proof.Machine.execSluicepoolWrite s
  | .rmtinvPeer => Sys2Proof.Machine.execRmtinvPeer s
  | .rmtinvWindow => Sys2Proof.Machine.execRmtinvWindow s
  | .rmtinvComm => Sys2Proof.Machine.execRmtinvComm s
  | .rmtinvDone => Sys2Proof.Machine.execRmtinvDone s
  | .routeReload => Sys2Proof.Machine.execRouteReload s
  | .routeReloadDone => Sys2Proof.Machine.execRouteReloadDone s
  | .inspcfgWrite => Sys2Proof.Machine.execInspcfgWrite s
  | .plumeStart => Sys2Proof.Machine.execPlumeStart s
  | .plumeStop => Sys2Proof.Machine.execPlumeStop s
  | .plumeDump => Sys2Proof.Machine.execPlumeDump s
  | .plumeDumpDone => Sys2Proof.Machine.execPlumeDumpDone s
  | .plumeDiscard => Sys2Proof.Machine.execPlumeDiscard s
  | .plumeWindowFull => Sys2Proof.Machine.execPlumeWindowFull s
  | .monClear => Sys2Proof.Machine.execMonClear s
  | .softCounterRead => Sys2Proof.Machine.execSoftCounterRead s
  | .errlogRead => Sys2Proof.Machine.execErrlogRead s
  | .mbInfo => Sys2Proof.Machine.execMbInfo s
  | .mbErase => Sys2Proof.Machine.execMbErase s
  | .mbWrite => Sys2Proof.Machine.execMbWrite s
  | .mbVerify => Sys2Proof.Machine.execMbVerify s
  | .mbActivate => Sys2Proof.Machine.execMbActivate s
  | .mbRaisemin => Sys2Proof.Machine.execMbRaisemin s
  | .mbReset => Sys2Proof.Machine.execMbReset s
  | .mbUnknownOp => Sys2Proof.Machine.execMbUnknownOp s
  | .mbCommandDone => Sys2Proof.Machine.execMbCommandDone s
  | .spdmGetVersion => Sys2Proof.Machine.execSpdmGetVersion s
  | .spdmGetCapabilities => Sys2Proof.Machine.execSpdmGetCapabilities s
  | .spdmNegotiateAlgorithms => Sys2Proof.Machine.execSpdmNegotiateAlgorithms s
  | .spdmGetDigests => Sys2Proof.Machine.execSpdmGetDigests s
  | .spdmGetCertificate => Sys2Proof.Machine.execSpdmGetCertificate s
  | .spdmChallenge => Sys2Proof.Machine.execSpdmChallenge s
  | .spdmGetMeasurements => Sys2Proof.Machine.execSpdmGetMeasurements s
  | .deviceReset => Sys2Proof.Machine.execDeviceReset s
  | .firmwareVerified => Sys2Proof.Machine.execFirmwareVerified s
  | .thermalCritical => Sys2Proof.Machine.execThermalCritical s
  | .powerInterval => Sys2Proof.Machine.execPowerInterval s
  | .eccCorrected => Sys2Proof.Machine.execEccCorrected s
  | .eccUncorrectable => Sys2Proof.Machine.execEccUncorrectable s
  | .dyxihanScrub => Sys2Proof.Machine.execDyxihanScrub s
  | .rillFlitFail => Sys2Proof.Machine.execRillFlitFail s
  | .linkFailure => Sys2Proof.Machine.execLinkFailure s
  | .collEndNoticeReceive => Sys2Proof.Machine.execCollEndNoticeReceive s
  | .atsResponse => Sys2Proof.Machine.execAtsResponse s
  | .atsTimeout => Sys2Proof.Machine.execAtsTimeout s
  | .priResponse => Sys2Proof.Machine.execPriResponse s
  | .priTimeout => Sys2Proof.Machine.execPriTimeout s
  | .atsInvalidation => Sys2Proof.Machine.execAtsInvalidation s
  | .atsInvalidationDone => Sys2Proof.Machine.execAtsInvalidationDone s
  | .faultStallBlocking => Sys2Proof.Machine.execFaultStallBlocking s
  | .faultReplay => Sys2Proof.Machine.execFaultReplay s
  | .bar4Access => Sys2Proof.Machine.execBar4Access s
  | .clauseFetch => Sys2Proof.Machine.execClauseFetch s
  | .sliceCycle => Sys2Proof.Machine.execSliceCycle s
  | .groupPromotion => Sys2Proof.Machine.execGroupPromotion s
  | .entryOverdue => Sys2Proof.Machine.execEntryOverdue s
  | .opComplete => Sys2Proof.Machine.execOpComplete s
  | .laneUnpark => Sys2Proof.Machine.execLaneUnpark s
  | .sleepWake => Sys2Proof.Machine.execSleepWake s
  | .cwaitPoll => Sys2Proof.Machine.execCwaitPoll s
  | .trapEntry => Sys2Proof.Machine.execTrapEntry s
  | .watchdogExpiry => Sys2Proof.Machine.execWatchdogExpiry s
  | .haltComplete => Sys2Proof.Machine.execHaltComplete s
  | .matrixOpBegin => Sys2Proof.Machine.execMatrixOpBegin s
  | .matrixOpDone => Sys2Proof.Machine.execMatrixOpDone s
  | .engineBeat => Sys2Proof.Machine.execEngineBeat s
  | .engineOpDone => Sys2Proof.Machine.execEngineOpDone s
  | .engineOpError => Sys2Proof.Machine.execEngineOpError s
  | .sluiceBeat => Sys2Proof.Machine.execSluiceBeat s
  | .layerTransferStart => Sys2Proof.Machine.execLayerTransferStart s
  | .layerTransferDone => Sys2Proof.Machine.execLayerTransferDone s
  | .layerEvictDone => Sys2Proof.Machine.execLayerEvictDone s
  | .remoteRequestArrive => Sys2Proof.Machine.execRemoteRequestArrive s
  | .remoteAnswer => Sys2Proof.Machine.execRemoteAnswer s
  | .remoteTimeout => Sys2Proof.Machine.execRemoteTimeout s
  | .collStart => Sys2Proof.Machine.execCollStart s
  | .collMessage => Sys2Proof.Machine.execCollMessage s
  | .collComplete => Sys2Proof.Machine.execCollComplete s
  | .hcallWriteDone => Sys2Proof.Machine.execHcallWriteDone s

end Sys2Proof.Machine
end

