-- ==== Sys2Proof/Machine/Schedule.lean ====
section
/-! DEFINITION. Machine/Schedule.lean: what the machine does next: a chosen word issues, then what the environment does falls due, then what
the rules force at once, then a free choice among what the units can do, the next slice's cycle, and the end of the cycle (R118 to
R129, R436). Also the state in which a given instruction is the next to run. -/

namespace Sys2Proof.Machine

/-! ### Events -/

/-- A step of the device with its operands. -/
abbrev Event := Instr × Ev

/-- An event where a condition holds. -/
def evIf (b : Bool) (i : Instr) (e : Ev) : List Event := if b then [(i, e)] else []

/-- What a partition can do. -/
def partEvents (s : State) (p : Nat) : List Event :=
  evIf (!readmitsIn s p && (firstFit s p (admCands s p)).isSome) .clusterAdmit { a := p }
    ++ evIf (evictFor s p).isSome .teamEvict { a := p }
    ++ evIf (sliceOver s p).isSome .timeSliceExpiry { a := p }
    ++ evIf (turnPasses s p).isSome .turnPass { a := p }
    ++ evIf (canExch s p) .exchangeDone { a := p }

/-- What a team can do. -/
def teamEvents (s : State) (tid : Nat) (t : Team) : List Event :=
  evIf (canReadmit s t) .teamReadmit { a := tid } ++ evIf (canRetire s tid t) .teamRetire { a := tid }

/-- The cores that host logical cores of a launch that is under way. -/
def hostCores (s : State) : List Nat := (s.launches.flatMap fun e => if e.2.status.isNone then e.2.remap.map Prod.snd else []).eraseDups

/-- What a hosting core can do (R79). -/
def hostEvents (s : State) (cr : Nat) : List Event :=
  evIf (quantumOver s cr).isSome .vgridQuantumExpiry { a := cr } ++ evIf (turnEnds s cr).isSome .vgridTurnEnd { a := cr }

/-- What a launch can do. -/
def launchEvents (s : State) (id : Nat) (ln : Launch) : List Event :=
  evIf (openStreams s < 8 && nextStream s == some id) .streamOpen { a := id }
    ++ evIf (ln.status.isNone && ((ln.needKern && !waiting s (.kern id)) || (kernelOver s id ln && moreKernels ln && !ln.cancelled)))
        .modelNextKernel { a := id }
    ++ evIf (canComplete s id ln) .launchComplete { a := id }
    ++ evIf (transferStart s id).isSome .layerTransferStart { a := id }
    ++ evIf (match xferOf s id with
        | some x => x.req.isNone && (match layer? s id x.layer with | some ly => ly.bytes ≤ x.done | none => false)
        | none => false) .layerTransferDone { a := id }
    ++ (match ln.model with
        | some m => m.evicting.flatMap fun i => evIf (canEvict s id i) .layerEvictDone { a := id, b := i }
        | none => [])

/-- Clauses that a group can fetch. -/
def fetchEvents (s : State) (gid : Nat) (g : Group) : List Event :=
  if groupActs s gid g then ((frontier g).filter fun e => e.cl.isNone).map fun e => (.clauseFetch, { a := gid, c := e.pc.toNat }) else []

/-- Words in flight that can complete (R142). -/
def flyEvents (s : State) (gid : Nat) (g : Group) : List Event :=
  g.fly.flatMap fun f => evIf (flyOver f || (flyWaits f && groupLive s g)) .opComplete { a := gid, b := f.seq }

/-- Lanes that can go on. -/
def laneEvents (s : State) (gid : Nat) (g : Group) : List Event :=
  (List.range 32).flatMap fun L => match (laneGet g L).st with
    | .park _ => evIf (canUnpark s gid g L) .laneUnpark { a := gid, b := L }
    | _ => []

/-- A group's stall can end, or lanes of it can replay (R282). -/
def canReplay (s : State) (gid : Nat) (g : Group) : Bool :=
  groupLive s g && g.trap.isNone
    && (answeredWaits s gid != [] || (g.stallAt.isSome && !pageStalled s gid)
        || (g.hnd.isSome && s.waits.any fun p => p.who == .frame gid && (p.stage == .ok || p.stage == .deny)))

/-- Some lane of a group waits at a CWAIT. -/
def waitsCounter (g : Group) : Bool := lanesWhere g (fun l => match l.st with | .park (.cwait _ _) => true | _ => false) != 0

/-- What a group can do, its issue apart. -/
def groupEvents (s : State) (gid : Nat) (g : Group) : List Event :=
  if g.ended then flyEvents s gid g
  else fetchEvents s gid g ++ flyEvents s gid g ++ laneEvents s gid g
    ++ evIf (canReplay s gid g) .faultReplay { a := gid }
    ++ evIf (sleepers g != 0 && groupLive s g) .sleepWake { a := gid }
    ++ evIf (waitsCounter g) .cwaitPoll { a := gid }
    ++ evIf (canEnter s gid g) .trapEntry { a := gid }

/-- What an array can do. -/
def quadEvents (k : Nat) (q : Quad) : List Event :=
  match q.queue with
  | [] => []
  | o :: _ => [(if o.begun then .matrixOpDone else .matrixOpBegin, { a := k / 4, b := k % 4 })]

/-- What an engine operation can do. -/
def opEvents (s : State) (id : Nat) (o : EngOp) : List Event :=
  evIf (engReady s o) .engineBeat { a := id }
    ++ evIf (engTotal o ≤ o.done && o.err.isNone) .engineOpDone { a := id }
    ++ evIf o.err.isSome .engineOpError { a := id }

/-- What a remote request can do: loop back to this device, or be answered where an answer stands ready. -/
def remEvents (s : State) (id : Nat) (r : Rem) : List Event :=
  evIf (canLoop s id) .remoteRequestArrive { a := id } ++ evIf r.ready.isSome .remoteAnswer { a := id }

/-- What a collective can do. -/
def collEvents (s : State) (c : Coll) : List Event :=
  evIf (canStart s c) .collStart { a := c.slot, b := c.comm, c := c.seq } ++ evIf (canFinish s c) .collComplete { a := c.slot, b := c.comm, c := c.seq }

/-- The front-end goes on with a read that it waited for, or takes another record. -/
def canTake (s : State) : Bool :=
  match s.feChain with
  | some c => !recReady s c (chain s c) || !waiting s .frontEnd
  | none => (pickChain s).isSome

/-- What the device's own units can do. -/
def devEvents (s : State) : List Event :=
  evIf (canTake s) .launchTake {}
    ++ evIf (canCmd s) .ctxcmdDone {}
    ++ evIf s.dev.rmtBusy .rmtinvDone {}
    ++ evIf s.dev.reload .routeReloadDone {}
    ++ evIf s.dev.mbBusy .mbCommandDone {}
    ++ evIf (s.dev.state == 0) .firmwareVerified {}
    ++ evIf (resetReady s) .deviceReset {}
    ++ evIf (s.launches.any fun e => canBeat s e.1 e.2) .sluiceBeat {}
    ++ (List.range 4).flatMap (fun d => evIf (canDump s d) .plumeDumpDone { a := d })
    ++ s.invs.map (fun i => (.atsInvalidationDone, { a := i.1, c := i.2 }))

/-- What the units can do now. -/
def freeEvents (s : State) : List Event :=
  devEvents s ++ (List.range 8).flatMap (partEvents s) ++ s.teams.flatMap (fun e => teamEvents s e.1 e.2) ++ (hostCores s).flatMap (hostEvents s)
    ++ s.launches.flatMap (fun e => launchEvents s e.1 e.2) ++ s.ctxs.flatMap (fun e => evIf (canHalt s e.1) .haltComplete { a := e.1 })
    ++ s.groups.flatMap (fun e => groupEvents s e.1 e.2) ++ s.quads.flatMap (fun e => quadEvents e.1 e.2)
    ++ s.ops.flatMap (fun e => opEvents s e.1 e.2) ++ s.rems.flatMap (fun e => remEvents s e.1 e.2) ++ s.colls.flatMap (fun e => collEvents s e.2)

/-- What a group must do at once: promotion, overdue entries, a stall's 50 µs (R124, R129, R284). -/
def groupMust (s : State) (gid : Nat) (g : Group) : List Event :=
  if g.ended then []
  else evIf (256 ≤ g.waitCnt && g.promoted.isNone) .groupPromotion { a := gid }
    ++ ((List.range 32).flatMap fun L =>
        let l := laneGet g L
        evIf (l.st == .run && 64 ≤ l.skip && !l.overdue) .entryOverdue { a := gid, c := l.pc.toNat })
    ++ evIf (match g.stallAt with | some t => t + 120000 ≤ s.now && !g.stallLong | none => false) .faultStallBlocking { a := gid }

/-- What a bound forces at once (R45, R74, R397, R469); of the waits that are late together those of the lowest groups go first (R436). -/
def mustEvents (s : State) : List Event :=
  ((sortBy (stallPos s) (s.waits.filter fun p => atsLate s p || priLate s p)).flatMap fun p => evIf (atsLate s p) .atsTimeout { a := p.pasid, c := p.page } ++ evIf (priLate s p) .priTimeout { a := p.pasid, c := p.page })
    ++ (s.rems.flatMap fun e => evIf (remLate s e.2) .remoteTimeout { a := e.1 })
    ++ ((List.range 4).flatMap fun d => evIf (windowFull (plumeOf s d)) .plumeWindowFull { a := d })
    ++ ((List.range 8).flatMap fun p => evIf (starves s p).isSome .admissionStarvationLimit { a := p })
    ++ s.groups.flatMap fun e => groupMust s e.1 e.2

/-! ### The step's choice -/

/-- The next slice of a core that has yet to have its cycle (R436: in ascending order); none while the cores are held in reset (R484). -/
def nextSlice (s : State) : Option (Nat × Nat) :=
  if s.dev.state = 3 then none else
  let l := s.groups.filterMap fun e => if e.2.ended then none else match team? s e.2.team with
    | some t => if teamHere s t && !(coreAt s t.core).did.getLsbD e.2.slice then some (t.core * 16 + e.2.slice) else none
    | none => none
  (minBy id l).map fun k => (k / 16, k % 16)

/-- An event runs: its operands stand in State.ev. -/
def runEvent (s : State) (e : Event) : Act := .run e.1 { s with ev := e.2 }

/-- The first thing of the environment that is due. -/
def dueNow (s : State) : Option Due := s.agenda.find? fun d => d.at_ ≤ s.now

/-- The group of which an event is. -/
def evGroup (s : State) (e : Event) : Option Nat :=
  match e.1 with
  | .clauseFetch | .opComplete | .laneUnpark | .faultReplay | .sleepWake | .cwaitPoll | .trapEntry => some e.2.a
  | .engineBeat | .engineOpDone | .engineOpError => (op? s e.2.a).map (·.gid)
  | .matrixOpBegin | .matrixOpDone => (quad s (e.2.a * 4 + e.2.b)).queue.head?.map (·.gid)
  | .remoteRequestArrive | .remoteAnswer => (mget? s.rems e.2.a).bind fun r => match r.who with | .lanes g _ _ => some g | _ => none
  | .collStart | .collComplete => (collOf s e.2.a e.2.b e.2.c).map (·.gid)
  | _ => none

/-- An event of a group comes in its place among those of the cycle: after the cycle of its slice, and after no event of a higher place
that the arbiter has seen (R114, R419, R436). -/
def evInTurn (s : State) (next : Option (Nat × Nat)) (e : Event) : Bool :=
  match (evGroup s e).bind (group? s) with
  | none => true
  | some g =>
    let p := groupPos s g
    s.pos ≤ p && (match next with | none => true | some (cr, sl) => p / 16 < cr * 16 + sl)

/-- The slot of the group that a slice would choose now. -/
def slotNow (s : State) (cr slice : Nat) : Option Nat :=
  ((sliceChoice s cr slice 9 (servedNow s cr)).1.bind fun r => group? s r.1).map (·.slot)

/-- The group whose watchdog expires next in its place among the events of the cycle (R435, R436). -/
def wdNext (s : State) (next : Option (Nat × Nat)) : Option Nat :=
  match minBy Prod.snd (s.groups.filterMap fun e => if (wdOver s e.2).isSome then some (e.1, groupPos s e.2) else none) with
  | none => none
  | some (gid, p) => match next with
    | none => some gid
    | some (cr, sl) =>
      if p / 16 < cr * 16 + sl then some gid
      else if p / 16 = cr * 16 + sl && (slotNow s cr sl).all fun k => p % 16 ≤ k then some gid
      else none

/-- A free choice: among what the units can do, and the next slice's cycle or the end of the cycle (R436; Config.pick). -/
def chooseAct (s : State) : Act :=
  let next := nextSlice s
  match wdNext s next with
  | some gid => runEvent s (.watchdogExpiry, { a := gid })
  | none =>
    let l := (freeEvents s).filter (evInTurn s next)
    let s1 := { s with turn := s.turn + 1 }
    match l[(Config.pick s.turn + s.turn) % (l.length + 1)]? with
    | some e => runEvent s1 e
    | none => match next with
      | some (cr, sl) => runEvent s1 (.sliceCycle, { a := cr, b := sl })
      | none => .done (tick s1)

/-- The next act of the machine. -/
def nextAct (s : State) : Act :=
  match s.sel with
  | some _ => issueAct s
  | none => match dueNow s with
    | some d => runEvent { s with agenda := s.agenda.erase d } (d.ins, d.ev)
    | none => match mustEvents s with
      | e :: _ => runEvent s e
      | [] => chooseAct s

/-! ### Placing an instruction -/

/-- Where the clause of a placed instruction stands: its header's address. -/
def placeAddr : Nat := 0x1000

/-- The words of a placed instruction under a header of its class. -/
def placedClause (nbits w : Nat) : Clause :=
  let w0 := w % 2 ^ nbits % 2 ^ 32
  let long := opLong (opOf w0)
  let h := encHeader { wait := 0, fuse := false, pri := 0, gneg := false, guard := 31, eclass := classOf (opOf w0),
                       count := if long then 2 else 1 }
  { addr := BitVec.ofNat 64 placeAddr
    words := BitVec.ofNat 32 h :: BitVec.ofNat 32 w0 ::
      if long then [BitVec.ofNat 32 (w % 2 ^ nbits / 2 ^ 32)] else [] }

/-- A state that has one group of one team, launched in context 0 of partition 0, whose 32 lanes are about to issue an
instruction: what loading a context, taking a launch, admitting its team, fetching the clause and choosing the entry amount to
(notes/assumptions/3.md). -/
def placeWord (s : State) (nbits w : Nat) : State :=
  let c := placedClause nbits w
  let lanes : AMap Lane := (List.range 32).map fun L => (L, { pc := c.addr, cl := some c, st := .run })
  { s with
    ctxs := mput s.ctxs 0 { pasid := 0, part := 0, onPart := true }
    launches := mput s.launches 0 { chain := 0, record := 0, seq := 1, ctx := 0, kern := { entry := c.addr, vregs := 256, sregs := 128 } }
    teams := mput s.teams 0 { launch := 0, ctx := 0, t := 0, cluster := 0, crank := 0, core := 0, groups := [0] }
    groups := mput s.groups 0 { team := 0, launch := 0, ctx := 0, lanes := lanes, active := true }
    ctlb := mput s.ctlb 0 ({ set := 0, tr := { pasid := 0, va := placeAddr, size := 4096, pa := placeAddr, host := false, r := true, w := true, x := true } }
      :: coreTlb s 0)
    mem := writeCells s.mem placeAddr (c.words.flatMap fun x => leBytes 4 x.toNat)
    sel := some { gid := 0, pc := c.addr + 4, cl := c, lanes := allLanes } }

end Sys2Proof.Machine
end

