-- ==== Sys2Proof/Machine/Step.lean ====
section
/-! DEFINITION. Machine/Step.lean: one step of the machine: the chosen issue, else what the schedule chooses. -/

namespace Sys2Proof.Machine

/-- One step: an instruction of one issue, a step of the device, or a cycle in which nothing happens. -/
def step (s : State) : Host.Outcome State Fault Refusal :=
  match nextAct s with
  | .run i s' => exec i s'
  | .done s' => .next s'
  | .stuck => .fault .noIssue

/-- The state with an instruction of the opcode table placed so that the next step runs it. -/
def State.withFetchWord (s : State) (nbits w : Nat) : State := placeWord s nbits w

end Sys2Proof.Machine
end

