-- ==== Sys2Proof/Safety.lean ====
section
/-! DEFINITION. Safety.lean: what a safe run is, and the words that the statements use: an issue that is ready to have its effect,
what an instruction writes, and what it leaves as it was. -/

namespace Sys2Proof

/-- A step that answers a next state. -/
def Goes (o : Host.Outcome Machine.State Machine.Fault Machine.Refusal) (t : Machine.State) : Prop := o = .next t

/-- `n` steps from a state that all answer a next state. -/
def SafeFor : Nat → Machine.State → Prop
  | 0, _ => True
  | n + 1, s => ∃ t, Machine.step s = .next t ∧ SafeFor n t

end Sys2Proof

namespace Sys2Proof.Machine

/-- The chosen issue of a state, seen as `v`, is ready to have the effect of a word with the register uses `u`: no register fault
(R105), a lane in EXEC (R174), no poisoned operand (R478), and it is the group's own issue, not a step by HSTEP (R467). -/
structure Ready (s : State) (v : View) (u : Uses) : Prop where
  here : view s = some v
  regs : usesBad v.ln.kern u = false
  exec : v.exec ≠ 0
  clean : readsPoison v.g u v.exec = false
  own : v.is.step = none

/-- No weir is loaded or set on the issue's core (R444): nothing but the instruction itself acts at its commit. -/
def NoWeirs (s : State) (v : View) : Prop := (coreAt s v.tm.core).weirs = []

/-- No loop of a group is active (R191). -/
def NoLoops (g : Group) : Prop := ∀ n, n < 3 → (loopGet g n).active = false

/-- Lane `L` of a group stands at a PC in a state, with the clause it is in. -/
structure Stands (g : Group) (L : Nat) (pc : DWord) (st : LSt) : Prop where
  pc : (laneGet g L).pc = pc
  st : (laneGet g L).st = st

/-- What an instruction may write of its group's registers: vector registers by lane, scalars, predicate bits by lane, masks, and
whether it may write the counters D, the status FSTAT, GSPLIT, STEPRND, FPTRAP and the loop counters. -/
structure Written where
  v : Nat → Nat → Prop := fun _ _ => False
  s : Nat → Prop := fun _ => False
  p : Nat → Nat → Prop := fun _ _ => False
  k : Nat → Prop := fun _ => False
  d : Nat → Prop := fun _ => False
  fstat : Prop := False
  gsplit : Prop := False
  steprnd : Prop := False
  fptrap : Prop := False
  lc : Nat → Prop := fun _ => False

/-- A group's registers are as they were but for what `w` names. A loop counter may also fall where a loop is active (R190). -/
structure RegsKept (g h : Group) (w : Written) : Prop where
  v : ∀ r L, L < 32 → ¬ w.v r L → vget h r L = vget g r L
  vpois : ∀ r L, L < 32 → ¬ w.v r L → mget h.vpois false (r * 32 + L) = mget g.vpois false (r * 32 + L)
  s : ∀ r, ¬ w.s r → sget h r = sget g r
  spois : ∀ r, ¬ w.s r → mget h.spois false r = mget g.spois false r
  p : ∀ n L, L < 32 → ¬ w.p n L → (pget h n).getLsbD L = (pget g n).getLsbD L
  k : ∀ n, ¬ w.k n → kget h n = kget g n
  d : ∀ n, ¬ w.d n → dget h n = dget g n
  fstat : ¬ w.fstat → h.fstat = g.fstat
  gsplit : ¬ w.gsplit → h.gsplit = g.gsplit
  steprnd : ¬ w.steprnd → h.steprnd = g.steprnd
  fptrap : ¬ w.fptrap → h.fptrap = g.fptrap
  lc : (∀ n, n < 3 → (loopGet g n).active = false) → ∀ n, ¬ w.lc n → lcget h n = lcget g n

/-- The other groups, the contexts and the launches are as they were. -/
structure ElseKept (s t : State) (gid : Nat) : Prop where
  groups : ∀ id, id ≠ gid → group? t id = group? s id
  ctxs : t.ctxs = s.ctxs
  launches : t.launches = s.launches

/-- Outside the registers of group `gid` and memory, nothing of the teams, the other groups, the contexts and the launches has
changed. -/
structure OthersKept (s t : State) (gid : Nat) : Prop extends ElseKept s t gid where
  teams : t.teams = s.teams

/-- Outside the registers of group `gid` nothing of memory, the teams with their scratchpads and tile stores, the other groups, the
contexts and the launches has changed. -/
structure RestKept (s t : State) (gid : Nat) : Prop extends OthersKept s t gid where
  mem : ∀ a, readByte t a = readByte s a
  pois : t.pois = s.pois

/-- An instruction of a group's own issue completes: it answers a next state, in which the group `h` has the results `R`, and of the
group's registers only those of `w` have changed; where `quiet` holds, nothing else has changed either. -/
def Completes (s : State) (v : View) (o : Host.Outcome State Fault Refusal) (w : Written) (R : Group → Prop) (quiet : Prop) : Prop :=
  ∃ t h, o = .next t ∧ group? t v.is.gid = some h ∧ R h ∧ RegsKept v.g h w ∧ (quiet → RestKept s t v.is.gid)

/-- An instruction of a group's own issue completes and may change memory: `R` says what holds of the next state and its group. -/
def Changes (v : View) (o : Host.Outcome State Fault Refusal) (w : Written) (R : State → Group → Prop) : Prop :=
  ∃ t h, o = .next t ∧ group? t v.is.gid = some h ∧ R t h ∧ RegsKept v.g h w

/-- The vector registers `d` to `d + n - 1` of the lanes in EXEC. -/
def vecOf (v : View) (d n : Nat) : Written := { v := fun r L => v.exec.getLsbD L = true ∧ d ≤ r ∧ r < d + n }

end Sys2Proof.Machine
end

