-- ==== Sys2Proof/Certificates/Slice0/Obligations.lean ====
section
/-! DEFINITION. Certificates/Slice0/Obligations.lean: the statements for the provers, with the tables that they quantify over. Each
table is written from the rule that it names. -/

namespace Sys2Proof.Stated

open Sys2Proof.Machine

/-! ### Integer instructions (R192 to R203) -/

/-- The vector short forms of R192, with their fields and their 32-bit operation; for a shift, `b` is the full unsigned amount (R176). -/
inductive VecShort : Instr → S3 → (Word → Word → Word) → Prop
  | iadd (p) : VecShort (.iadd p) p (fun a b => a + b)
  | isub (p) : VecShort (.isub p) p (fun a b => a - b)
  | imul (p) : VecShort (.imul p) p (fun a b => a * b)
  | and (p) : VecShort (.and p) p (fun a b => a &&& b)
  | or (p) : VecShort (.or p) p (fun a b => a ||| b)
  | xor (p) : VecShort (.xor p) p (fun a b => a ^^^ b)
  | shl (p) : VecShort (.shl p) p (fun a b => a <<< b.toNat)
  | shr (p) : VecShort (.shr p) p (fun a b => a >>> b.toNat)
  | sra (p) : VecShort (.sra p) p (fun a b => BitVec.ofInt 32 (a.toInt / 2 ^ min b.toNat 31))

/-- The scalar short forms of R192. -/
inductive ScalShort : Instr → S3 → (Word → Word → Word) → Prop
  | sadd (p) : ScalShort (.sadd p) p (fun a b => a + b)
  | ssub (p) : ScalShort (.ssub p) p (fun a b => a - b)
  | smul (p) : ScalShort (.smul p) p (fun a b => a * b)
  | sand (p) : ScalShort (.sand p) p (fun a b => a &&& b)
  | sor (p) : ScalShort (.sor p) p (fun a b => a ||| b)
  | sxor (p) : ScalShort (.sxor p) p (fun a b => a ^^^ b)
  | sshl (p) : ScalShort (.sshl p) p (fun a b => a <<< b.toNat)
  | sshr (p) : ScalShort (.sshr p) p (fun a b => a >>> b.toNat)
  | ssra (p) : ScalShort (.ssra p) p (fun a b => BitVec.ofInt 32 (a.toInt / 2 ^ min b.toNat 31))

/-- How many bits of a word are set. -/
def setBits (a : Word) : Nat := (List.range 32).countP fun i => a.getLsbD i

/-- `n` is the number of zero bits above the highest set bit of `a`: 32 when `a` is 0. -/
def LeadingZeros (a : Word) (n : Nat) : Prop := n ≤ 32 ∧ (∀ i, i < n → a.getLsbD (31 - i) = false) ∧ (n < 32 → a.getLsbD (31 - n) = true)

/-- The result `x` of a unary operation on `a`, by R194 and R200. -/
inductive UnaryOp : Instr → Word → Word → Prop
  | mov (p a) : UnaryOp (.mov p) a a
  | smov (d r a) : UnaryOp (.smov d r) a a
  | not (p a) : UnaryOp (.not p) a (~~~a)
  | snot (d r a) : UnaryOp (.snot d r) a (~~~a)
  | popc (p a) : UnaryOp (.popc p) a (BitVec.ofNat 32 (setBits a))
  | spopc (d r a) : UnaryOp (.spopc d r) a (BitVec.ofNat 32 (setBits a))
  | clz (p a x) : LeadingZeros a x.toNat → UnaryOp (.clz p) a x
  | sclz (d r a x) : LeadingZeros a x.toNat → UnaryOp (.sclz d r) a x
  | brev (p a x) : (∀ i, i < 32 → x.getLsbD i = a.getLsbD (31 - i)) → UnaryOp (.brev p) a x
  | iabs (p a) : UnaryOp (.iabs p) a (if a.getLsbD 31 then 0 - a else a)
  | ineg (p a) : UnaryOp (.ineg p) a (0 - a)

/-- The vector unary words, and their fields. -/
inductive VecUnary : Instr → S2 → Prop
  | mov (p) : VecUnary (.mov p) p
  | not (p) : VecUnary (.not p) p
  | popc (p) : VecUnary (.popc p) p
  | clz (p) : VecUnary (.clz p) p
  | brev (p) : VecUnary (.brev p) p
  | iabs (p) : VecUnary (.iabs p) p
  | ineg (p) : VecUnary (.ineg p) p

/-- The integer that the low bits of `x` are under an integer type: two's complement for a signed type (R152). -/
def intOf (t : Ty) (x : Nat) : Int := if tySigned t then (BitVec.ofNat (tyBits t) x).toInt else (BitVec.ofNat (tyBits t) x).toNat

/-- The conditions 0 to 5 of R108 on integers. -/
def condOn (aux : Nat) (x y : Int) : Prop :=
  match aux with
  | 0 => x = y
  | 1 => x ≠ y
  | 2 => x < y
  | 3 => x ≤ y
  | 4 => x > y
  | _ => x ≥ y

/-- The result `x` of a scalar long form on A, B and C, by R195. -/
inductive ScalLong : Instr → L → Word → Word → Word → Word → Prop
  | smulh (p a b c) : ScalLong (.smulh p) p a b c (BitVec.ofInt 32 (intOf p.ty a.toNat * intOf p.ty b.toNat / 2 ^ 32))
  | smad (p a b c) : ScalLong (.smad p) p a b c (a * b + c)
  | smin (p a b c) : ScalLong (.smin p) p a b c (if intOf p.ty a.toNat ≤ intOf p.ty b.toNat then a else b)
  | smax (p a b c) : ScalLong (.smax p) p a b c (if intOf p.ty a.toNat ≤ intOf p.ty b.toNat then b else a)
  | scmpTrue (p a b c) : condOn p.aux (intOf p.ty a.toNat) (intOf p.ty b.toNat) → ScalLong (.scmp p) p a b c 1
  | scmpFalse (p a b c) : ¬ condOn p.aux (intOf p.ty a.toNat) (intOf p.ty b.toNat) → ScalLong (.scmp p) p a b c 0
  | ssel (p a b c) : ScalLong (.ssel p) p a b c (if c = 0 then b else a)

/-- The scalar long forms with a 32-bit result (R195). -/
inductive ScalLongForm : Instr → L → Prop
  | smulh (p) : ScalLongForm (.smulh p) p
  | smad (p) : ScalLongForm (.smad p) p
  | smin (p) : ScalLongForm (.smin p) p
  | smax (p) : ScalLongForm (.smax p) p
  | scmp (p) : p.aux ≤ 5 → ScalLongForm (.scmp p) p
  | ssel (p) : ScalLongForm (.ssel p) p

/-- BFE of R202: the field, by the type. -/
def bfeOf (t : Ty) (a : Word) (pos c : Nat) : Word :=
  if tySigned t then ((a.sshiftRight (min pos 31)).setWidth c).signExtend 32 else ((a >>> pos).setWidth c).setWidth 32

/-- BFI of R202. -/
def bfiOf (d a : Word) (pos c : Nat) : Word :=
  let m : Word := ((BitVec.allOnes c).setWidth 32) <<< pos
  (d &&& ~~~m) ||| ((a <<< pos) &&& m)

/-- The vector long forms on 32-bit values, with their operation on A, B, C as a register and D as it was (R202). -/
inductive VecLong : Instr → L → (Word → Word → Word → Word → Word) → Prop
  | imulh (p) : p.ty = .i32 ∨ p.ty = .n32 →
      VecLong (.imulh p) p fun a b _ _ => BitVec.ofInt 32 (intOf p.ty a.toNat * intOf p.ty b.toNat / 2 ^ 32)
  | imad (p) : VecLong (.imad p) p fun a b c _ => a * b + c
  | rot (p) : VecLong (.rot p) p fun a b _ _ => (a <<< (b.toNat % 32)) ||| (a >>> (32 - b.toNat % 32))
  | bfe (p) : 1 ≤ p.c → p.c ≤ 32 → VecLong (.bfe p) p fun a b _ _ => bfeOf p.ty a b.toNat p.c
  | bfi (p) : 1 ≤ p.c → p.c ≤ 32 → VecLong (.bfi p) p fun a b _ d => bfiOf d a b.toNat p.c

/-- The vector long forms whose type may be 64 bits wide, with their operation on the bits of A and B in a lane (R202). -/
inductive VecWide : Instr → L → (Group → Nat → Nat → Nat → Nat) → Prop
  | imin (p) : VecWide (.imin p) p fun _ _ a b => if intOf p.ty a ≤ intOf p.ty b then a else b
  | imax (p) : VecWide (.imax p) p fun _ _ a b => if intOf p.ty a ≤ intOf p.ty b then b else a
  | isel (p) : VecWide (.isel p) p fun g L a b => if (pget g p.c).getLsbD L then a else b

/-- The compares of R108's COND. -/
def scondOn (c : SCond) (a b : Word) : Prop :=
  match c with
  | .eq => a = b
  | .ne => a ≠ b
  | .ltI => a.toInt < b.toInt
  | .geI => a.toInt ≥ b.toInt
  | .ltN => a.toNat < b.toNat
  | .geN => a.toNat ≥ b.toNat
  | .gtI => a.toInt > b.toInt
  | .gtN => a.toNat > b.toNat

/-- The least and the greatest value of an integer type. -/
def intLo (t : Ty) : Int := if tySigned t then -(2 ^ (tyBits t - 1)) else 0
def intHi (t : Ty) : Int := if tySigned t then 2 ^ (tyBits t - 1) - 1 else 2 ^ tyBits t - 1

/-- The value that CVTI writes, as the integer that the destination type gives it (R203). -/
def cvtiOf (dst : Ty) (sat : Bool) (x : Int) : Int :=
  if sat then max (intLo dst) (min (intHi dst) x) else if tySigned dst then Int.bmod x (2 ^ tyBits dst) else x % 2 ^ tyBits dst

end Sys2Proof.Stated

open Sys2Proof Sys2Proof.Machine Sys2Proof.Stated

/-- R192, vector forms: IADD, ISUB, IMUL, AND, OR, XOR, SHL, SHR, SRA write the operation of A and B to D in every lane of EXEC, and
nothing else changes. -/
def Sys2Proof.Stated.VectorShortForms : Prop :=
  ∀ (i : Instr) (p : S3) (f : Word → Word → Word) (s : State) (v : View), VecShort i p f → Ready s v (uses i) →
    Completes s v (exec i s) (vecOf v p.d 1)
      (fun h => ∀ L, v.exec.getLsbD L = true → vget h p.d L = f (vget v.g p.a L) (bval v.g p.b L)) (NoWeirs s v)

/-- R192, scalar forms: SADD, SSUB, SMUL, SAND, SOR, SXOR, SSHL, SSHR, SSRA act once on scalars. -/
def Sys2Proof.Stated.ScalarShortForms : Prop :=
  ∀ (i : Instr) (p : S3) (f : Word → Word → Word) (s : State) (v : View), ScalShort i p f → Ready s v (uses i) →
    Completes s v (exec i s) { s := (· = p.d) } (fun h => sget h p.d = f (sget v.g p.a) (bsval v.g p.b)) (NoWeirs s v)

/-- R200: MOV, NOT, POPC, CLZ, BREV, IABS, INEG write the operation of A, a vector register or under X a scalar, in every lane of
EXEC. -/
def Sys2Proof.Stated.VectorUnary : Prop :=
  ∀ (i : Instr) (p : S2) (s : State) (v : View), VecUnary i p → Ready s v (uses i) →
    Completes s v (exec i s) (vecOf v p.d 1)
      (fun h => ∀ L, v.exec.getLsbD L = true → UnaryOp i (if p.x then sget v.g p.a else vget v.g p.a L) (vget h p.d L)) (NoWeirs s v)

/-- R194: SMOV, SNOT, SPOPC and SCLZ write the operation of scalar A to scalar D, once. -/
def Sys2Proof.Stated.ScalarUnary : Prop :=
  ∀ (i : Instr) (d a : Nat) (s : State) (v : View), i ∈ [Instr.smov d a, .snot d a, .spopc d a, .sclz d a] → Ready s v (uses i) →
    Completes s v (exec i s) { s := (· = d) } (fun h => UnaryOp i (sget v.g a) (sget h d)) (NoWeirs s v)

/-- R193 and R198: SMOVI and MOVI write the 16-bit immediate sign-extended; SMOVH and MOVI.H replace the high half and keep the low. -/
def Sys2Proof.Stated.MoveImmediates : Prop :=
  ∀ (p : SI) (s : State) (v : View),
    (Ready s v (uses (.smovi p)) → Completes s v (exec (.smovi p) s) { s := (· = p.d) }
      (fun h => sget h p.d = (BitVec.ofNat 16 p.imm).signExtend 32) (NoWeirs s v))
    ∧ (Ready s v (uses (.smovh p)) → Completes s v (exec (.smovh p) s) { s := (· = p.d) }
      (fun h => sget h p.d = BitVec.ofNat 16 p.imm ++ (sget v.g p.d).setWidth 16) (NoWeirs s v))
    ∧ (Ready s v (uses (.movi p)) → Completes s v (exec (.movi p) s) (vecOf v p.d 1)
      (fun h => ∀ L, v.exec.getLsbD L = true → vget h p.d L = (BitVec.ofNat 16 p.imm).signExtend 32) (NoWeirs s v))
    ∧ (Ready s v (uses (.moviH p)) → Completes s v (exec (.moviH p) s) (vecOf v p.d 1)
      (fun h => ∀ L, v.exec.getLsbD L = true → vget h p.d L = BitVec.ofNat 16 p.imm ++ (vget v.g p.d L).setWidth 16) (NoWeirs s v))

/-- R195: SMULH, SMAD, SMIN, SMAX, SCMP and SSEL write the table's effect on scalars, with the signedness of TYPE. -/
def Sys2Proof.Stated.ScalarLongForms : Prop :=
  ∀ (i : Instr) (p : L) (s : State) (v : View), ScalLongForm i p → p.ty = .i32 ∨ p.ty = .n32 → Ready s v (uses i) →
    Completes s v (exec i s) { s := (· = p.d) } (fun h => ScalLong i p (sget v.g p.a) (bsval v.g p.b) (sget v.g p.c) (sget h p.d))
      (NoWeirs s v)

/-- R196: SADDR adds B, extended by its type and shifted left by C, to the scalar pair A, modulo 2^64. -/
def Sys2Proof.Stated.SaddrSum : Prop :=
  ∀ (p : L) (s : State) (v : View), p.ty = .i32 ∨ p.ty = .n32 ∨ p.ty = .i64 → p.c ≤ 3 → p.b.fits = true → Ready s v (uses (.saddr p)) →
    Completes s v (exec (.saddr p) s) { s := fun r => r = p.d ∨ r = p.d + 1 }
      (fun h => sget64 h p.d = sget64 v.g p.a + BitVec.ofInt 64 (
        (match p.b with
          | .imm n => (n : Int)
          | .reg n | .scal n => if p.ty = .i64 then ((sget64 v.g n).toNat : Int) else intOf p.ty (sget v.g n).toNat) * 2 ^ p.c))
      (NoWeirs s v)

/-- R202: IMULH, IMAD, ROT, BFE and BFI write the table's effect in every lane of EXEC. -/
def Sys2Proof.Stated.VectorLongForms : Prop :=
  ∀ (i : Instr) (p : L) (f : Word → Word → Word → Word → Word) (s : State) (v : View), VecLong i p f → Ready s v (uses i) →
    Completes s v (exec i s) (vecOf v p.d 1)
      (fun h => ∀ L, v.exec.getLsbD L = true → vget h p.d L = f (vget v.g p.a L) (bval v.g p.b L) (vget v.g p.c L) (vget v.g p.d L))
      (NoWeirs s v)

/-- R202: IMIN, IMAX and ISEL on 32-bit and 64-bit types, IMADW's 64-bit sum, and IADDC with its carry in and out. -/
def Sys2Proof.Stated.VectorWideForms : Prop :=
  (∀ (i : Instr) (p : L) (f : Group → Nat → Nat → Nat → Nat) (s : State) (v : View), VecWide i p f → p.ty ∈ ty64s → p.b.fits = true →
    Ready s v (uses i) →
    Completes s v (exec i s) (vecOf v p.d (tyRegs1 p.ty))
      (fun h => ∀ L, v.exec.getLsbD L = true → vbits h p.ty p.d L = f v.g L (vbits v.g p.ty p.a L) (bbits v.g p.ty p.b L)) (NoWeirs s v))
  ∧ (∀ (p : L) (s : State) (v : View), p.ty = .i32 ∨ p.ty = .n32 → Ready s v (uses (.imadw p)) →
    Completes s v (exec (.imadw p) s) (vecOf v p.d 2)
      (fun h => ∀ L, v.exec.getLsbD L = true → vget64 h p.d L
        = BitVec.ofInt 64 (intOf p.ty (vget v.g p.a L).toNat * intOf p.ty (bval v.g p.b L).toNat) + vget64 v.g p.c L) (NoWeirs s v))
  ∧ ∀ (p : L) (s : State) (v : View), Ready s v (uses (.iaddc p)) →
    Completes s v (exec (.iaddc p) s) { vecOf v p.d 1 with p := fun n L => n = p.c ∧ v.exec.getLsbD L = true }
      (fun h => ∀ L, v.exec.getLsbD L = true →
        let t := (vget v.g p.a L).toNat + (bval v.g p.b L).toNat + ((pget v.g p.c).getLsbD L).toNat
        vget h p.d L = BitVec.ofNat 32 t ∧ (pget h p.c).getLsbD L = t.testBit 32) (NoWeirs s v)

/-- R203: CVTI reads A as the source type and writes it to the destination type, saturated or wrapped. -/
def Sys2Proof.Stated.CvtiConverts : Prop :=
  ∀ (p : L) (src : Ty) (s : State) (v : View), tyOf p.c = some src → tyInt src = true → tyInt p.ty = true → p.aux ≤ 1 →
    Ready s v (uses (.cvti p)) →
    Completes s v (exec (.cvti p) s) (vecOf v p.d (tyRegs1 p.ty))
      (fun h => ∀ L, v.exec.getLsbD L = true →
        let x := vbits h p.ty p.d L
        intOf p.ty x = cvtiOf p.ty (p.aux == 1) (intOf src (vbits v.g src p.a L))
          ∧ (tyBits p.ty < 32 → intOf (if tySigned p.ty then .i32 else .n32) x = intOf p.ty x)) (NoWeirs s v)

/-- R199: ICMP sets its predicate to the compare in every lane of EXEC, in the short form by COND and in the long form by AUX and TYPE. -/
def Sys2Proof.Stated.IcmpCompares : Prop :=
  (∀ (c : SCond) (pd a : Nat) (b : Src) (s : State) (v : View), Ready s v (uses (.icmp c pd a b)) →
    Completes s v (exec (.icmp c pd a b) s) { p := fun n L => n = pd ∧ v.exec.getLsbD L = true }
      (fun h => ∀ L, v.exec.getLsbD L = true → ((pget h pd).getLsbD L = true ↔ scondOn c (vget v.g a L) (bval v.g b L))) (NoWeirs s v))
  ∧ ∀ (p : L) (s : State) (v : View), p.ty ∈ ty64s → p.aux ≤ 5 → Ready s v (uses (.icmpLong p)) →
    Completes s v (exec (.icmpLong p) s) { p := fun n L => n = p.d ∧ v.exec.getLsbD L = true }
      (fun h => ∀ L, v.exec.getLsbD L = true →
        ((pget h p.d).getLsbD L = true ↔ condOn p.aux (intOf p.ty (vbits v.g p.ty p.a L)) (intOf p.ty (bbits v.g p.ty p.b L))))
      (NoWeirs s v)

/-- R201: VRDI and VWRI reach the vector register that a scalar names, where it lies below VREGS. -/
def Sys2Proof.Stated.IndirectRegisters : Prop :=
  ∀ (d a : Nat) (s : State) (v : View),
    (Ready s v (uses (.vrdi d a)) → (sget v.g a).toNat < v.ln.kern.vregs →
      readsPoison v.g { r := [vg (sget v.g a).toNat 1] } v.exec = false →
      Completes s v (exec (.vrdi d a) s) (vecOf v d 1)
        (fun h => ∀ L, v.exec.getLsbD L = true → vget h d L = vget v.g (sget v.g a).toNat L) (NoWeirs s v))
    ∧ (Ready s v (uses (.vwri d a)) → (sget v.g d).toNat < v.ln.kern.vregs →
      Completes s v (exec (.vwri d a) s) (vecOf v (sget v.g d).toNat 1)
        (fun h => ∀ L, v.exec.getLsbD L = true → vget h (sget v.g d).toNat L = vget v.g a L) (NoWeirs s v))
    ∧ (Ready s v (uses (.vrdi d a)) → v.ln.kern.vregs ≤ (sget v.g a).toNat → exec (.vrdi d a) s = .next (trapAll s v 0x02 0))
    ∧ (Ready s v (uses (.vwri d a)) → v.ln.kern.vregs ≤ (sget v.g d).toNat → exec (.vwri d a) s = .next (trapAll s v 0x02 0))

/-! ### Special registers, predicates and masks (R134 to R139, R204 to R208) -/

namespace Sys2Proof.Stated

/-- The special registers and their values in lane `L` of an issue (R65, R204). -/
def specTable (v : View) (L : Nat) : List (Nat × Nat) :=
  [(0x00, L), (0x01, v.g.idx), (0x02, v.tm.t), (0x03, v.ln.gridX), (0x04, v.ln.gridY), (0x05, v.ln.gridZ), (0x06, v.tm.cluster),
   (0x07, v.tm.crank), (0x08, if v.ln.kern.vgrid = 0 then 0xFFFFFFFF else v.tm.t), (0x09, v.tm.core), (0x0A, v.g.slice),
   (0x0B, v.tm.scrBytes), (0x0C, v.tm.t % v.ln.gridX), (0x0D, v.tm.t / v.ln.gridX % v.ln.gridY), (0x0E, v.tm.t / (v.ln.gridX * v.ln.gridY)),
   (0x0F, v.ln.kern.groups), (0x10, v.exec.toNat), (0x11, (liveLanes v.g).toNat), (0x12, v.g.gsplit), (0x13, v.g.steprnd.toNat),
   (0x14, (lcget v.g 0).toNat), (0x15, (lcget v.g 1).toNat), (0x16, (lcget v.g 2).toNat)]

/-- `L` is the lowest-numbered lane of a mask. -/
def LowestIn (m : Word) (L : Nat) : Prop := m.getLsbD L = true ∧ ∀ M, M < L → m.getLsbD M = false

/-- The mask instructions that write a mask, and the mask they write (R208). -/
inductive MaskOp (v : View) : Instr → Nat → Word → Prop
  | kand (p b) : p.b = .reg b → MaskOp v (.kand p) p.d (kget v.g p.a &&& kget v.g b)
  | kor (p b) : p.b = .reg b → MaskOp v (.kor p) p.d (kget v.g p.a ||| kget v.g b)
  | kxor (p b) : p.b = .reg b → MaskOp v (.kxor p) p.d (kget v.g p.a ^^^ kget v.g b)
  | knot (p) : MaskOp v (.knot p) p.d (~~~(kget v.g p.a))
  | kmov0 (p) : p.c = 0 → MaskOp v (.kmov p) p.d (sget v.g p.a)
  | kmov2 (p) : p.c = 2 → MaskOp v (.kmov p) p.d (kget v.g p.a)
  | kact (p) : MaskOp v (.kact p) p.d v.exec

/-- The mask instructions that write a scalar, and the value they write (R208). -/
inductive MaskToScalar (v : View) : Instr → Nat → Word → Prop
  | kpopc (p) : MaskToScalar v (.kpopc p) p.d (BitVec.ofNat 32 (setBits (kget v.g p.a)))
  | kffs (p L) : LowestIn (kget v.g p.a) L → MaskToScalar v (.kffs p) p.d (BitVec.ofNat 32 L)
  | kffs0 (p) : kget v.g p.a = 0 → MaskToScalar v (.kffs p) p.d 32
  | kmov1 (p) : p.c = 1 → MaskToScalar v (.kmov p) p.d (kget v.g p.a)

/-- The lanes of the issue's entry have no halt pending for them (R452). -/
def Unhalted (v : View) : Prop := ∀ L, v.is.lanes.getLsbD L = true → (laneGet v.g L).haltPend = false

/-- While lanes of the group run in a handler, the entry's lanes are among them (R131). -/
def Runnable (v : View) : Prop := ∀ L, v.is.lanes.getLsbD L = true → handLanes v.g = 0 ∨ (laneGet v.g L).hand = true

/-- Nothing but the instruction moves lanes: no weir stands on the core, no loop is active, and no halt is pending. -/
structure Plain (s : State) (v : View) : Prop where
  weirs : NoWeirs s v
  loops : NoLoops v.g
  halts : Unhalted v

/-- Every lane of the entry goes on: the lanes of EXEC at `t`, the others at the next word. -/
def GoesTo (v : View) (t : Nat → DWord) (h : Group) : Prop :=
  ∀ L, v.is.lanes.getLsbD L = true → Stands h L (if v.exec.getLsbD L then t L else v.npc) .run

/-- The lanes of EXEC stop at the word in a state; the others of the entry go on at the next word. -/
def StopsIn (v : View) (st : LSt) (h : Group) : Prop :=
  ∀ L, v.is.lanes.getLsbD L = true → if v.exec.getLsbD L then Stands h L v.is.pc st else Stands h L v.npc .run

end Sys2Proof.Stated

/-- R205: SRD reads a special register of R204 into a vector register, lane by lane, or into a scalar, once. -/
def Sys2Proof.Stated.SpecialReads : Prop :=
  ∀ (p : S2) (s : State) (v : View), Ready s v (uses (.srd p)) →
    (p.x = false → Completes s v (exec (.srd p) s) (vecOf v p.d 1)
      (fun h => ∀ L x, v.exec.getLsbD L = true → (p.a, x) ∈ specTable v L → vget h p.d L = BitVec.ofNat 32 x) (NoWeirs s v))
    ∧ (p.x = true → Completes s v (exec (.srd p) s) { s := (· = p.d) }
      (fun h => ∀ x, p.a ≠ 0 → (p.a, x) ∈ specTable v 0 → sget h p.d = BitVec.ofNat 32 x) (NoWeirs s v))

/-- R206, R139, R172, R191: SWR writes %gsplit, %steprnd or a loop counter with the scalar A, or with A of the lowest lane in EXEC; a
GSPLIT outside 2, 4, 8, 16 and 32 traps with 0x02. -/
def Sys2Proof.Stated.SpecialWrites : Prop :=
  ∀ (p : S2) (L0 : Nat) (s : State) (v : View), Ready s v (uses (.swr p)) → LowestIn v.exec L0 →
    let x := if p.x then sget v.g p.a else vget v.g p.a L0
    (p.d = 0x12 → x.toNat ∈ [2, 4, 8, 16, 32] →
      Completes s v (exec (.swr p) s) { gsplit := True } (fun h => h.gsplit = x.toNat) (NoWeirs s v))
    ∧ (p.d = 0x12 → x.toNat ∉ [2, 4, 8, 16, 32] → exec (.swr p) s = .next (trapAll s v 0x02 0))
    ∧ (p.d = 0x13 → Completes s v (exec (.swr p) s) { steprnd := True } (fun h => h.steprnd = x.getLsbD 0) (NoWeirs s v))
    ∧ ∀ n, n < 3 → p.d = 0x14 + n →
      Completes s v (exec (.swr p) s) { lc := (· = n) } (fun h => NoLoops v.g → lcget h n = x) (NoWeirs s v)

/-- R207: PSET, PNOT, PMOV and KTOP write a predicate in the lanes of EXEC, PTOK a mask in the bits of those lanes. -/
def Sys2Proof.Stated.PredicateMoves : Prop :=
  ∀ (d a : Nat) (s : State) (v : View),
    let w : Written := { p := fun n L => n = d ∧ v.exec.getLsbD L = true }
    (a ≤ 1 → Ready s v (uses (.pset d a)) →
      Completes s v (exec (.pset d a) s) w (fun h => ∀ L, v.exec.getLsbD L = true → (pget h d).getLsbD L = decide (a = 1)) (NoWeirs s v))
    ∧ (Ready s v (uses (.pnot d a)) →
      Completes s v (exec (.pnot d a) s) w (fun h => ∀ L, v.exec.getLsbD L = true → (pget h d).getLsbD L = !(pget v.g a).getLsbD L)
        (NoWeirs s v))
    ∧ (Ready s v (uses (.pmov d a)) →
      Completes s v (exec (.pmov d a) s) w (fun h => ∀ L, v.exec.getLsbD L = true → (pget h d).getLsbD L = (pget v.g a).getLsbD L)
        (NoWeirs s v))
    ∧ (Ready s v (uses (.ktop d a)) →
      Completes s v (exec (.ktop d a) s) w (fun h => ∀ L, v.exec.getLsbD L = true → (pget h d).getLsbD L = (kget v.g a).getLsbD L)
        (NoWeirs s v))
    ∧ (Ready s v (uses (.ptok d a)) →
      Completes s v (exec (.ptok d a) s) { k := (· = d) }
        (fun h => ∀ L, L < 32 → (kget h d).getLsbD L = if v.exec.getLsbD L then (pget v.g a).getLsbD L else (kget v.g d).getLsbD L)
        (NoWeirs s v))

/-- R208 and R134: the mask instructions, JOIN and LEAVE write the mask or the scalar that the tables give, once. -/
def Sys2Proof.Stated.MaskLogic : Prop :=
  (∀ (i : Instr) (d : Nat) (x : Word) (s : State) (v : View), MaskOp v i d x → Ready s v (uses i) →
    Completes s v (exec i s) { k := (· = d) } (fun h => kget h d = x) (NoWeirs s v))
  ∧ (∀ (i : Instr) (d : Nat) (x : Word) (s : State) (v : View), MaskToScalar v i d x → Ready s v (uses i) →
    Completes s v (exec i s) { s := (· = d) } (fun h => sget h d = x) (NoWeirs s v))
  ∧ (∀ (d : Nat) (s : State) (v : View), Ready s v (uses (.join d)) →
    Completes s v (exec (.join d) s) { k := (· = d) }
      (fun h => ∀ L, L < 32 → (kget h d).getLsbD L = (v.exec.getLsbD L || (kget v.g d).getLsbD L)) (NoWeirs s v))
  ∧ ∀ (d : Nat) (s : State) (v : View), Ready s v (uses (.leave d)) →
    Completes s v (exec (.leave d) s) { k := (· = d) }
      (fun h => ∀ L, L < 32 → (kget h d).getLsbD L = (!v.exec.getLsbD L && (kget v.g d).getLsbD L)) (NoWeirs s v)

/-- R135: at WAITK a lane whose own bit is clear goes on; the others wait while some member of the mask does not wait on it. -/
def Sys2Proof.Stated.WaitkHolds : Prop :=
  ∀ (k M : Nat) (s : State) (v : View), k < 12 → Ready s v (uses (.waitk k)) → Plain s v → Runnable v →
    (kget v.g k).getLsbD M = true → v.exec.getLsbD M = false → (laneGet v.g M).st ≠ .waitK k →
    Completes s v (exec (.waitk k) s) {}
      (fun h => ∀ L, v.exec.getLsbD L = true →
        if (kget v.g k).getLsbD L then Stands h L v.is.pc (.waitK k) else Stands h L v.npc .run) True

/-- R135, R131, R136: when every member of the mask waits at a WAITK of it, all of them go on, each past its own WAITK; while lanes run in
a handler, the lanes outside it keep their state and PC. -/
def Sys2Proof.Stated.WaitkReleases : Prop :=
  ∀ (k : Nat) (s : State) (v : View), k < 12 → Ready s v (uses (.waitk k)) → Plain s v → Runnable v →
    (∀ M, (kget v.g k).getLsbD M = true →
      v.exec.getLsbD M = true ∨ v.is.lanes.getLsbD M = false ∧ (laneGet v.g M).st = .waitK k ∧ (laneGet v.g M).wake = false) →
    Completes s v (exec (.waitk k) s) {}
      (fun h => ∀ L, (v.exec.getLsbD L = true → Stands h L v.npc .run)
        ∧ (L < 32 → v.is.lanes.getLsbD L = false → (laneGet v.g L).st = .waitK k → (laneGet v.g L).wake = false →
          (laneGet v.g L).haltPend = false → ∀ c, (laneGet v.g L).cl = some c →
            if handLanes v.g = 0 ∨ (laneGet v.g L).hand = true then Stands h L (nextPc c (laneGet v.g L).pc) .run
            else Stands h L (laneGet v.g L).pc (.waitK k))) True

/-! ### Control (R177 to R191) -/

/-- R178 and R180: BRA and CALL send every lane of EXEC to PC + SEXT × 4; CALL leaves PC + 4 in the link pair. A lane whose guard
fails goes to the next word. -/
def Sys2Proof.Stated.DirectTransfers : Prop :=
  ∀ (s : State) (v : View), Plain s v →
    (∀ off, Ready s v (uses (.bra off)) → Completes s v (exec (.bra off) s) {}
      (GoesTo v fun _ => v.is.pc + (BitVec.ofNat 25 off).signExtend 64 * 4) True)
    ∧ ∀ d off, Ready s v (uses (.call d off)) → Completes s v (exec (.call d off) s) (vecOf v d 2)
      (fun h => GoesTo v (fun _ => v.is.pc + (BitVec.ofNat 17 off).signExtend 64 * 4) h
        ∧ ∀ L, v.exec.getLsbD L = true → vget64 h d L = v.is.pc + 4) True

/-- R179 and R180: BRX, RET and CALLX send every lane of EXEC to its own target, where all are aligned; CALLX leaves PC + 4 in the link
pair, which may be the pair of the targets (R19). -/
def Sys2Proof.Stated.IndirectTransfers : Prop :=
  ∀ (b : Src) (s : State) (v : View), Plain s v →
    (∀ L, v.exec.getLsbD L = true → bbits v.g .n64 b L % 4 = 0) →
    (∀ i, i ∈ [Instr.brx b, .ret b] → Ready s v (uses i) →
      Completes s v (exec i s) {} (GoesTo v fun L => BitVec.ofNat 64 (bbits v.g .n64 b L)) True)
    ∧ ∀ d, Ready s v (uses (.callx d b)) → Completes s v (exec (.callx d b) s) (vecOf v d 2)
      (fun h => GoesTo v (fun L => BitVec.ofNat 64 (bbits v.g .n64 b L)) h
        ∧ ∀ L, v.exec.getLsbD L = true → vget64 h d L = v.is.pc + 4) True

/-- R181: PCREL writes PC + SEXT(OFF17, 17) × 4 to its scalar pair, once; D[7] = 1 is an illegal instruction and D[0] = 1 traps with
0x02. -/
def Obligations.PcrelAddress : Prop :=
  (∀ (d off : Nat) (s : State) (v : View), Ready s v (uses (.pcrel d off)) →
    Completes s v (exec (.pcrel d off) s) { s := fun r => r = d ∨ r = d + 1 }
      (fun h => sget64 h d = v.is.pc + (BitVec.ofNat 17 off).signExtend 64 * 4) (NoWeirs s v))
  ∧ (∀ (d off : Nat) (s : State) (v : View), view s = some v → d % 2 = 1 → exec (.pcrel d off) s = .next (trapEntryLanes s v 0x02))
  ∧ ∀ d off w1, 128 ≤ d → d < 256 → off < 2 ^ 17 → ∃ r, decode (0x0E * 2 ^ 25 + d * 2 ^ 17 + off) w1 = .error r

/-- R184: NOP changes nothing but where its lanes stand. -/
def Sys2Proof.Stated.NopGoesOn : Prop :=
  ∀ (s : State) (v : View), Plain s v → Ready s v (uses .nop) → Completes s v (exec .nop s) {} (GoesTo v fun _ => v.npc) True

/-- R126 and R185: YIELD, and SLEEP of 0, set the ready-since cycle to the current one, and trade sets where the pending set of the
slice holds a ready group; the registers and memory stay. -/
def Sys2Proof.Stated.YieldTrades : Prop :=
  ∀ (i : Instr) (s : State) (v : View), i = .yield ∨ i = .sleep 0 0 false → Ready s v (uses i) →
    ∃ t h, exec i s = .next t ∧ group? t v.is.gid = some h ∧ RegsKept v.g h {}
      ∧ (NoWeirs s v → h.readySince = s.now ∧ (∀ a, readByte t a = readByte s a) ∧ t.teams = s.teams ∧ t.launches = s.launches
        ∧ ((∀ e, e ∈ s.groups → e.1 = v.is.gid → e.2.active = true) → (∃ e, e ∈ sliceGroups s (coreOf s v.g) v.g.slice ∧ e.2.active = false ∧ e.2.ready = true) →
          h.active = false))

/-- R185: SLEEP parks the lanes of EXEC for 64 cycles of residency for each count, an immediate or a scalar of at most 65535. -/
def Sys2Proof.Stated.SleepParks : Prop :=
  ∀ (d imm : Nat) (x : Bool) (s : State) (v : View), Plain s v → Ready s v (uses (.sleep d imm x)) →
    let n := if x then min (sget v.g d).toNat 65535 else imm
    n ≠ 0 → Completes s v (exec (.sleep d imm x) s) {} (StopsIn v (.park (.sleep (64 * n)))) True

/-- R188: a LOOP whose body ends with a clause goes to END with a count of 0; else it sets its counter, makes the loop active with the
lanes of EXEC as its members, and every lane goes to START. -/
def Sys2Proof.Stated.LoopEnters : Prop :=
  ∀ (lc len cnt : Nat) (x : Bool) (s : State) (v : View), lc < 3 → len < 256 → Plain s v → Ready s v (uses (.loop lc len cnt x)) → s.waits = [] →
    let start := v.npc
    let e := start + BitVec.ofNat 64 ((len + 1) * 4)
    let n := if x then (sget v.g cnt).toNat else cnt
    walkBody s v.cx v.g.ctx v.tm.core (.fetch v.is.gid v.is.pc) e.toNat 257 start.toNat = .ends true →
    regionKind v.cx start.toNat ≠ 4 → regionKind v.cx (e.toNat - 1) ≠ 4 →
    (n = 0 → Completes s v (exec (.loop lc len cnt x) s) {} (GoesTo v fun _ => e) True)
    ∧ (n ≠ 0 → Completes s v (exec (.loop lc len cnt x) s) { lc := (· = lc) }
      (fun h => GoesTo v (fun _ => start) h ∧ lcget h lc = BitVec.ofNat 32 n
        ∧ (loopGet h lc).active = true ∧ (loopGet h lc).start = start ∧ (loopGet h lc).len = len ∧ (loopGet h lc).members = v.exec) True)

/-- R190: the end test of a loop whose members have all arrived: with a counter above 1 it counts down and they go back to START;
otherwise the counter is 0, the loop is inactive and they go on at END. A loop that was active before a handler began is tested when the
handler is over (R191). -/
def Sys2Proof.Stated.LoopEndTest : Prop :=
  ∀ (g : Group) (n : Nat), n < 3 → (loopGet g n).active = true → (loopGet g n).members ≠ 0 →
    (∀ L, L < 32 → ((loopGet g n).members.getLsbD L = true ↔ (laneGet g L).st = .loopEnd n)) →
    (∀ L, L < 32 → (laneGet g L).haltPend = false) → (∀ m, m < 3 → m ≠ n → (loopGet g m).active = false) →
    handLanes g = 0 ∨ (loopGet g n).hand = true →
    (1 < (lcget g n).toNat → lcget (loopTest g n) n = lcget g n - 1 ∧ (loopGet (loopTest g n) n).active = true
      ∧ ∀ L, (loopGet g n).members.getLsbD L = true → Stands (loopTest g n) L (loopGet g n).start .run)
    ∧ ((lcget g n).toNat ≤ 1 → lcget (loopTest g n) n = 0 ∧ (loopGet (loopTest g n) n).active = false
      ∧ ∀ L, (loopGet g n).members.getLsbD L = true → Stands (loopTest g n) L (laneGet g L).pc .run)

/-- R183: EXIT ends the lanes of EXEC: they are dead, their bits in every mask are clear, and they are members of no loop; a group
without a live lane ends. The other registers and memory stay. -/
def Sys2Proof.Stated.ExitEnds : Prop :=
  ∀ (s : State) (v : View), Ready s v (uses .exit) → NoWeirs s v → v.g.hnd = none → v.g.trap = none →
    ∃ t h, exec .exit s = .next t ∧ group? t v.is.gid = some h
      ∧ (∀ L, v.exec.getLsbD L = true → (laneGet h L).st = .dead ∧ (∀ k, k < 12 → (kget h k).getLsbD L = false)
        ∧ ∀ n, n < 3 → (loopGet h n).active = true → (loopGet h n).members.getLsbD L = false)
      ∧ (∀ k L, k < 12 → L < 32 → v.exec.getLsbD L = false → (kget h k).getLsbD L = (kget v.g k).getLsbD L)
      ∧ ((∀ L, L < 32 → v.exec.getLsbD L = false → (laneGet v.g L).st = .dead) → h.ended = true ∧ h.exited = true)
      ∧ (∀ r L, vget h r L = vget v.g r L) ∧ (∀ r, sget h r = sget v.g r) ∧ (∀ n, pget h n = pget v.g n)
      ∧ (∀ a, readByte t a = readByte s a) ∧ t.launches = s.launches

/-! ### Lane operations (R138, R209 to R216) -/

namespace Sys2Proof.Stated

/-- Lanes `L` and `M` lie in one tile (R138, R209). -/
def SameTile (g : Group) (L M : Nat) : Prop := M < 32 ∧ L / g.gsplit = M / g.gsplit

/-- The source lane of SHFL; none where it is out of range (R210). -/
def shflFrom (mode : ShflMode) (w b L : Nat) : Option Nat :=
  let base := L - L % w
  let i := L % w
  match mode with
  | .idx => some (base + b % w)
  | .up => if b ≤ i then some (L - b) else none
  | .down => if i + b < w then some (L + b) else none
  | .xor => some (base + (i ^^^ (b % w)))

/-- An integer operation of REDUCE and SCAN on the bits of two values (R213). -/
inductive RedOp (t : Ty) : Nat → Nat → Nat → Nat → Prop
  | add (a b) : RedOp t 0 a b ((a + b) % 2 ^ tyBits t)
  | min (a b) : RedOp t 1 a b (if intOf t a ≤ intOf t b then a else b)
  | max (a b) : RedOp t 2 a b (if intOf t a ≤ intOf t b then b else a)
  | and (a b) : RedOp t 3 a b (a &&& b)
  | or (a b) : RedOp t 4 a b (a ||| b)
  | xor (a b) : RedOp t 5 a b (a ^^^ b)

/-- `x` combines the values `l`, in order, by an operation (R213, R214). -/
inductive Combines (t : Ty) (op : Nat) : List Nat → Nat → Prop
  | one (a) : Combines t op [a] a
  | snoc (l a x y) : Combines t op l x → RedOp t op x a y → Combines t op (l ++ [a]) y

/-- The lanes of EXEC in the tile of lane `L`, ascending. -/
def tileLanes (v : View) (L : Nat) : List Nat :=
  (List.range 32).filter fun M => v.exec.getLsbD M && decide (L / v.g.gsplit = M / v.g.gsplit)

/-- The tree of R213: node `j` after `k` halvings of the values `t`. -/
def treeNode (ty : Ty) (t : Nat → Nat) : Nat → Nat → Nat
  | 0, j => t j
  | k + 1, j => (fAdd ty .rne 0 (fdec ty (treeNode ty t k (2 * j))) (fdec ty (treeNode ty t k (2 * j + 1)))).bits

/-- The serial sum of R214. -/
def serialSum (ty : Ty) : List Nat → Nat → Nat
  | [], x => x
  | a :: r, x => serialSum ty r (fAdd ty .rne 0 (fdec ty x) (fdec ty a)).bits

/-- The identity of an operation for an exclusive SCAN, as the integer that its bits are under the type (R214). -/
def identOf (t : Ty) (op : Nat) : Int :=
  match op with
  | 1 => intHi t
  | 2 => intLo t
  | 3 => if tySigned t then -1 else intHi t
  | _ => 0

/-- What a lane operation leaves: FSTAT may be written only by a floating-point sum. -/
def laneW (v : View) (d n : Nat) : Written := { vecOf v d n with fstat := True }

end Sys2Proof.Stated

/-- R210: SHFL gives each lane of EXEC the value of its source lane, as that stands, or where there is none its own value or 0. -/
def Sys2Proof.Stated.ShflMoves : Prop :=
  ∀ (p : L) (mode : ShflMode) (s : State) (v : View), p.ty = .n32 ∨ p.ty = .n64 → Ready s v (uses (.shfl p mode)) →
    v.g.vpois = [] →
    Completes s v (exec (.shfl p mode) s) (vecOf v p.d (tyRegs1 p.ty))
      (fun h => ∀ L, v.exec.getLsbD L = true →
        vbits h p.ty p.d L = match shflFrom mode v.g.gsplit (bval v.g p.b L).toNat L with
          | some M => vbits v.g p.ty p.a M
          | none => if p.aux = 0 then vbits v.g p.ty p.a L else 0) (NoWeirs s v)

/-- R211: VOTE over the lanes of EXEC in a lane's tile: all, any, equal, and the ballot. -/
def Sys2Proof.Stated.VoteDecides : Prop :=
  ∀ (p : L) (s : State) (v : View), Ready s v (uses (.vote p)) →
    let set (M : Nat) : Bool := (pget v.g p.a).getLsbD M
    let all (L : Nat) : Prop := ∀ M, v.exec.getLsbD M = true → SameTile v.g L M → set M = true
    let none (L : Nat) : Prop := ∀ M, v.exec.getLsbD M = true → SameTile v.g L M → set M = false
    let w : Written := { p := fun n L => n = p.d ∧ v.exec.getLsbD L = true }
    (p.c = 0 → Completes s v (exec (.vote p) s) w
      (fun h => ∀ L, v.exec.getLsbD L = true → ((pget h p.d).getLsbD L = true ↔ all L)) (NoWeirs s v))
    ∧ (p.c = 1 → Completes s v (exec (.vote p) s) w
      (fun h => ∀ L, v.exec.getLsbD L = true → ((pget h p.d).getLsbD L = true ↔ ¬ none L)) (NoWeirs s v))
    ∧ (p.c = 2 → Completes s v (exec (.vote p) s) w
      (fun h => ∀ L, v.exec.getLsbD L = true → ((pget h p.d).getLsbD L = true ↔ all L ∨ none L)) (NoWeirs s v))
    ∧ (p.c = 3 → Completes s v (exec (.vote p) s) (vecOf v p.d 1)
      (fun h => ∀ L M, v.exec.getLsbD L = true → M < 32 →
        ((vget h p.d L).getLsbD M = true ↔ v.exec.getLsbD M = true ∧ SameTile v.g L M ∧ set M = true)) (NoWeirs s v))

/-- R212 and R215: MATCH gives each lane the mask of the lanes of EXEC in its tile with an equal A; BCAST gives it A of the lowest of
them. -/
def Sys2Proof.Stated.MatchAndBcast : Prop :=
  ∀ (p : L) (s : State) (v : View), p.ty = .n32 ∨ p.ty = .n64 →
    (Ready s v (uses (.matchL p)) → Completes s v (exec (.matchL p) s) (vecOf v p.d 1)
      (fun h => ∀ L M, v.exec.getLsbD L = true → M < 32 →
        ((vget h p.d L).getLsbD M = true ↔
          v.exec.getLsbD M = true ∧ SameTile v.g L M ∧ vbits v.g p.ty p.a M = vbits v.g p.ty p.a L)) (NoWeirs s v))
    ∧ (Ready s v (uses (.bcast p)) → Completes s v (exec (.bcast p) s) (vecOf v p.d (tyRegs1 p.ty))
      (fun h => ∀ L M, v.exec.getLsbD L = true → v.exec.getLsbD M = true → SameTile v.g L M →
        (∀ N, N < M → v.exec.getLsbD N = true → ¬ SameTile v.g L N) → vbits h p.ty p.d L = vbits v.g p.ty p.a M)
      (NoWeirs s v ∧ v.g.fptrap = 0))

/-- R213: REDUCE combines A over the lanes of EXEC in a lane's tile, by an integer operation or by the fixed tree of sums, in which an
absent lane counts as −0. -/
def Sys2Proof.Stated.ReduceTiles : Prop :=
  ∀ (p : L) (s : State) (v : View), Ready s v (uses (.reduce p)) →
    (p.aux ≤ 5 → p.ty ∈ ty64s → Completes s v (exec (.reduce p) s) (laneW v p.d (tyRegs1 p.ty))
      (fun h => h.fstat = v.g.fstat ∧ ∀ L, v.exec.getLsbD L = true →
        Combines p.ty p.aux ((tileLanes v L).map fun M => vbits v.g p.ty p.a M) (vbits h p.ty p.d L)) (NoWeirs s v))
    ∧ (p.aux = 6 → p.ty = .f32 ∨ p.ty = .f64 → Completes s v (exec (.reduce p) s) (laneW v p.d (tyRegs1 p.ty))
      (fun h => ∀ L, v.exec.getLsbD L = true → vbits h p.ty p.d L =
        treeNode p.ty (fun j => if v.exec.getLsbD (L - L % v.g.gsplit + j) then vbits v.g p.ty p.a (L - L % v.g.gsplit + j)
          else fSign p.ty true) (Nat.log2 v.g.gsplit) 0 % 2 ^ (32 * tyRegs1 p.ty)) (NoWeirs s v ∧ v.g.fptrap = 0))

/-- R214: SCAN combines A over the lanes of EXEC in a lane's tile up to the lane, or below it; over none it gives the identity. -/
def Sys2Proof.Stated.ScanTiles : Prop :=
  ∀ (p : L) (s : State) (v : View), p.c ≤ 1 → Ready s v (uses (.scan p)) →
    let upTo (L : Nat) : List Nat := ((tileLanes v L).filter fun M => M < L || (p.c == 0 && M == L)).map fun M => vbits v.g p.ty p.a M
    (p.aux ≤ 5 → p.ty ∈ ty64s → Completes s v (exec (.scan p) s) (laneW v p.d (tyRegs1 p.ty))
      (fun h => h.fstat = v.g.fstat ∧ ∀ L, v.exec.getLsbD L = true →
        if upTo L = [] then intOf p.ty (vbits h p.ty p.d L) = identOf p.ty p.aux
        else Combines p.ty p.aux (upTo L) (vbits h p.ty p.d L)) (NoWeirs s v))
    ∧ (p.aux = 6 → p.ty = .f32 ∨ p.ty = .f64 → Completes s v (exec (.scan p) s) (laneW v p.d (tyRegs1 p.ty))
      (fun h => ∀ L, v.exec.getLsbD L = true → vbits h p.ty p.d L = (match upTo L with
        | [] => 0
        | a :: r => serialSum p.ty r a) % 2 ^ (32 * tyRegs1 p.ty)) (NoWeirs s v ∧ v.g.fptrap = 0))

/-- R216 and R139: SPLIT writes GSPLIT; a value outside 2, 4, 8, 16 and 32 traps with 0x02. -/
def Sys2Proof.Stated.SplitWrites : Prop :=
  ∀ (p : L) (s : State) (v : View), Ready s v (uses (.split p)) →
    let x := (bval v.g p.b 0).toNat
    (x ∈ [2, 4, 8, 16, 32] → Completes s v (exec (.split p) s) { gsplit := True } (fun h => h.gsplit = x) (NoWeirs s v))
    ∧ (x ∉ [2, 4, 8, 16, 32] → exec (.split p) s = .next (trapAll s v 0x02 0))

/-! ### Floating point (R144 to R176, R217 to R257) -/

namespace Sys2Proof.Stated

/-- The lone results of floating-point instructions: the instruction, its fields, and the result in a lane (R221 to R231). An operand of
a fused clause is what a writer of the clause delivers (R169). -/
inductive FloatLone (v : View) : Instr → Ty → Nat → (Nat → FOut) → Prop
  | faddS (p : S3) : FloatLone v (.faddF32 p) .f32 p.d (fun L => fAdd .f32 .rne 0 (fop v .f32 p.a L) (fopB v .f32 p.b L))
  | fsubS (p : S3) : FloatLone v (.fsubF32 p) .f32 p.d (fun L => fSub .f32 .rne 0 (fop v .f32 p.a L) (fopB v .f32 p.b L))
  | fmulS (p : S3) : FloatLone v (.fmulF32 p) .f32 p.d (fun L => fMul .f32 .rne 0 (fop v .f32 p.a L) (fopB v .f32 p.b L))
  | ffmaS (p : S3) : FloatLone v (.ffmaF32 p) .f32 p.d
      (fun L => fFma .f32 .rne 0 (fop v .f32 p.a L) (fopB v .f32 p.b L) (fop v .f32 p.d L))
  | fadd (p) : isPacked p = false → FloatLone v (.fadd p) p.ty p.d
      (fun L => fAdd p.ty p.rm (uOf v p L) (fop v p.ty p.a L) (fopB v p.ty p.b L))
  | fsub (p) : isPacked p = false → FloatLone v (.fsub p) p.ty p.d
      (fun L => fSub p.ty p.rm (uOf v p L) (fop v p.ty p.a L) (fopB v p.ty p.b L))
  | fmul (p) : isPacked p = false → FloatLone v (.fmul p) p.ty p.d
      (fun L => fMul p.ty p.rm (uOf v p L) (fop v p.ty p.a L) (fopB v p.ty p.b L))
  | ffmaC (p) : tyPk p.ty = false → FloatLone v (.ffma p) p.ty p.d
      (fun L => fFma p.ty p.rm (uOf v p L) (fop v p.ty p.a L) (fopB v p.ty p.b L) (fop v p.ty p.c L))
  | ffmaD (p) : tyPk p.ty = true → isPacked p = false → FloatLone v (.ffma p) p.ty p.d
      (fun L => fFma p.ty p.rm (uOf v p L) (fop v p.ty p.a L) (fopB v p.ty p.b L) (fop v p.ty p.d L))
  | fmin (p) : isPacked p = false → FloatLone v (.fmin p) p.ty p.d (fun L => fMinMax p.ty false false (fop v p.ty p.a L) (fopB v p.ty p.b L))
  | fmax (p) : isPacked p = false → FloatLone v (.fmax p) p.ty p.d (fun L => fMinMax p.ty true false (fop v p.ty p.a L) (fopB v p.ty p.b L))
  | fminnum (p) : isPacked p = false → FloatLone v (.fminnum p) p.ty p.d
      (fun L => fMinMax p.ty false true (fop v p.ty p.a L) (fopB v p.ty p.b L))
  | fmaxnum (p) : isPacked p = false → FloatLone v (.fmaxnum p) p.ty p.d
      (fun L => fMinMax p.ty true true (fop v p.ty p.a L) (fopB v p.ty p.b L))
  | fdiv (p) : FloatLone v (.fdiv p) p.ty p.d
      (fun L => fDiv p.ty p.rm (uOf v p L) (fdec p.ty (vbits v.g p.ty p.a L)) (fdec p.ty (bbits v.g p.ty p.b L)))
  | fscale (p) : FloatLone v (.fscale p) p.ty p.d
      (fun L => fScale p.ty p.rm (fdec p.ty (vbits v.g p.ty p.a L)) (bval v.g p.b L).toInt)
  | fabs (p) : isPacked p = false → FloatLone v (.fabs p) p.ty p.d (fun L => fAbsNeg p.ty false (fop v p.ty p.a L))
  | fneg (p) : isPacked p = false → FloatLone v (.fneg p) p.ty p.d (fun L => fAbsNeg p.ty true (fop v p.ty p.a L))
  | fsqrt (p) : FloatLone v (.fsqrt p) p.ty p.d (fun L => fSqrt p.ty p.rm (fdec p.ty (vbits v.g p.ty p.a L % 2 ^ fWidth p.ty)))
  | frnd (p) : FloatLone v (.frnd p) p.ty p.d (fun L => fRndInt p.ty p.rm (fdec p.ty (vbits v.g p.ty p.a L % 2 ^ fWidth p.ty)))
  | frcp (p) : FloatLone v (.frcp p) p.ty p.d (fun L => fAppr .rcp p.ty (vbits v.g p.ty p.a L % 2 ^ fWidth p.ty))
  | frsq (p) : FloatLone v (.frsq p) p.ty p.d (fun L => fAppr .rsq p.ty (vbits v.g p.ty p.a L % 2 ^ fWidth p.ty))
  | fex2 (p) : FloatLone v (.fex2 p) p.ty p.d (fun L => fAppr .ex2 p.ty (vbits v.g p.ty p.a L % 2 ^ fWidth p.ty))
  | flg2 (p) : FloatLone v (.flg2 p) p.ty p.d (fun L => fAppr .lg2 p.ty (vbits v.g p.ty p.a L % 2 ^ fWidth p.ty))
  | fsin (p) : FloatLone v (.fsin p) p.ty p.d (fun L => fAppr .sin p.ty (vbits v.g p.ty p.a L % 2 ^ fWidth p.ty))
  | fcos (p) : FloatLone v (.fcos p) p.ty p.d (fun L => fAppr .cos p.ty (vbits v.g p.ty p.a L % 2 ^ fWidth p.ty))

/-- The packed pair forms: two independent elements of 16 bits, by the element's number (R222, R228). -/
inductive FloatPair (v : View) : Instr → L → (Nat → Nat → FOut) → Prop
  | fadd (p) : FloatPair v (.fadd p) p
      (fun L j => fAdd p.ty p.rm 0 (felem p.ty (vget v.g p.a L) j) (felem p.ty (bval v.g p.b L) j))
  | fsub (p) : FloatPair v (.fsub p) p
      (fun L j => fSub p.ty p.rm 0 (felem p.ty (vget v.g p.a L) j) (felem p.ty (bval v.g p.b L) j))
  | fmul (p) : FloatPair v (.fmul p) p
      (fun L j => fMul p.ty p.rm 0 (felem p.ty (vget v.g p.a L) j) (felem p.ty (bval v.g p.b L) j))
  | ffma (p) : FloatPair v (.ffma p) p
      (fun L j => fFma p.ty p.rm 0 (felem p.ty (vget v.g p.a L) j) (felem p.ty (bval v.g p.b L) j) (felem p.ty (vget v.g p.d L) j))
  | fmin (p) : FloatPair v (.fmin p) p
      (fun L j => fMinMax p.ty false false (felem p.ty (vget v.g p.a L) j) (felem p.ty (bval v.g p.b L) j))
  | fmax (p) : FloatPair v (.fmax p) p
      (fun L j => fMinMax p.ty true false (felem p.ty (vget v.g p.a L) j) (felem p.ty (bval v.g p.b L) j))
  | fminnum (p) : FloatPair v (.fminnum p) p
      (fun L j => fMinMax p.ty false true (felem p.ty (vget v.g p.a L) j) (felem p.ty (bval v.g p.b L) j))
  | fmaxnum (p) : FloatPair v (.fmaxnum p) p
      (fun L j => fMinMax p.ty true true (felem p.ty (vget v.g p.a L) j) (felem p.ty (bval v.g p.b L) j))
  | fabs (p) : FloatPair v (.fabs p) p (fun L j => fAbsNeg p.ty false (felem p.ty (vget v.g p.a L) j))
  | fneg (p) : FloatPair v (.fneg p) p (fun L j => fAbsNeg p.ty true (felem p.ty (vget v.g p.a L) j))

/-- Conversions and packing of elements: the destination's type, and its bits and flags in a lane (R232, R234 to R239). -/
inductive FloatConv (v : View) : Instr → Ty → Nat → (Nat → Nat × Nat) → Prop
  | fclass (p) : FloatConv v (.fclass p) .n32 p.d (fun L => (fClass p.ty (fdec p.ty (vbits v.g p.ty p.a L)), 0))
  | fcvt (p src) : FloatConv v (.fcvt p src) p.ty p.d
      (fun L => fCvt src p.ty p.rm (uOf v p L) (p.aux % 2 == 1) (if tyLone src then fop v src p.a L else fdec src (vbits v.g src p.a L)))
  | fcvti (p src) : FloatConv v (.fcvti p src) p.ty p.d
      (fun L => let r := fCvti p.ty p.rm (p.aux % 2 == 1) (fdec src (vbits v.g src p.a L)); (intBits p.ty r.1, r.2))
  | icvtf (p src) : FloatConv v (.icvtf p src) p.ty p.d
      (fun L => iCvtf p.ty p.rm (uOf v p L) (p.aux % 2 == 1) (intOf src (vbits v.g src p.a L)))

/-- The OR of numbers over the lanes of a mask, from `a`. -/
def laneOr (m : Word) (f : Nat → Nat) (a : Nat) : Nat := (lanesOf m).foldl (fun x L => Nat.lor x (f L)) a

/-- What an instruction that sets flags may write: a vector destination and FSTAT. -/
def flagW (v : View) (d n : Nat) : Written := { vecOf v d n with fstat := True }

/-- A finite encoding of an IEEE format. -/
def FiniteBits (t : Ty) (c : Nat) : Prop := c < 2 ^ fWidth t ∧ c / 2 ^ fFrac t % 2 ^ fExpb t ≠ 2 ^ fExpb t - 1

/-- The error-free transforms and the expansions: component format, number of words, and words and flags in a lane (R241 to R256). -/
inductive WordOp (v : View) : Instr → Ty → Nat → Nat → (Nat → List Nat × Nat) → Prop
  | ftwosum (p) : WordOp v (.ftwosum p) p.ty p.d 2 (fun L =>
      let a := fdec p.ty (vbits v.g p.ty p.a L); let b := fdec p.ty (bbits v.g p.ty p.b L)
      let o := tTwo p.ty (fAdd p.ty .rne 0 a b) (dyAdd a.dy b.dy); (o.words, o.fl))
  | ffastsum (p) : WordOp v (.ffastsum p) p.ty p.d 2 (fun L =>
      let o := tFast p.ty (fdec p.ty (vbits v.g p.ty p.a L)) (fdec p.ty (bbits v.g p.ty p.b L)); (o.words, o.fl))
  | ftwoprod (p) : WordOp v (.ftwoprod p) p.ty p.d 2 (fun L =>
      let a := fdec p.ty (vbits v.g p.ty p.a L); let b := fdec p.ty (bbits v.g p.ty p.b L)
      let o := tTwo p.ty (fMul p.ty .rne 0 a b) (dyMul a.dy b.dy); (o.words, o.fl))
  | ffma3 (p) : WordOp v (.ffma3 p) p.ty p.d 3 (fun L =>
      let o := tFma3 p.ty (fdec p.ty (vbits v.g p.ty p.a L)) (fdec p.ty (bbits v.g p.ty p.b L)) (fdec p.ty (vbits v.g p.ty p.c L))
      (o.words, o.fl))
  | fsplit (p src) : tyOf p.c = some src → WordOp v (.fsplit p) p.ty p.d 2 (fun L =>
      let o := tSplit src p.ty 2 (fdec src (vbits v.g src p.a L)); (o.words, o.fl))
  | fsplit3 (p src) : tyOf p.c = some src → WordOp v (.fsplit3 p) p.ty p.d 3 (fun L =>
      let o := tSplit src p.ty 3 (fdec src (vbits v.g src p.a L)); (o.words, o.fl))
  | xadd (p b) : p.b = .reg b → WordOp v (.xadd p) (tyComp p.ty) p.d (tyN p.ty) (fun L =>
      xOp (tyComp p.ty) (tyN p.ty) [compsVal v.g p.ty p.a L, compsVal v.g p.ty b L] fun l => fvAdd .rne (l.getD 0 (.nan 0)) (l.getD 1 (.nan 0)))
  | xsub (p b) : p.b = .reg b → WordOp v (.xsub p) (tyComp p.ty) p.d (tyN p.ty) (fun L =>
      xOp (tyComp p.ty) (tyN p.ty) [compsVal v.g p.ty p.a L, compsVal v.g p.ty b L] fun l =>
        fvAdd .rne (l.getD 0 (.nan 0)) (l.getD 1 (.nan 0)).neg)
  | xmul (p b) : p.b = .reg b → WordOp v (.xmul p) (tyComp p.ty) p.d (tyN p.ty) (fun L =>
      xOp (tyComp p.ty) (tyN p.ty) [compsVal v.g p.ty p.a L, compsVal v.g p.ty b L] fun l => fvMul (l.getD 0 (.nan 0)) (l.getD 1 (.nan 0)))
  | xren (p) : WordOp v (.xren p) (tyComp p.ty) p.d (tyN p.ty) (fun L =>
      xOp (tyComp p.ty) (tyN p.ty) [compsVal v.g p.ty p.a L] List.head?)
  | xcomp1 (p) : p.c = 1 → WordOp v (.xcomp p) (tyComp p.ty) p.d 1 (fun L =>
      let r := xRound (tyComp p.ty) (tyComp p.ty) p.rm 0 false (compsVal v.g p.ty p.a L); ([r.1], r.2))
  | xcomp (p) : 2 ≤ p.c → WordOp v (.xcomp p) (tyComp p.ty) p.d p.c (fun L =>
      xOp (tyComp p.ty) p.c [compsVal v.g p.ty p.a L] List.head?)
  | xneg (p) : WordOp v (.xneg p) (tyComp p.ty) p.d (tyN p.ty) (fun L =>
      xNegAbs (tyComp p.ty) (tyN p.ty) true (compsVal v.g p.ty p.a L) (compsBits v.g p.ty p.a L))
  | xabs (p) : WordOp v (.xabs p) (tyComp p.ty) p.d (tyN p.ty) (fun L =>
      xNegAbs (tyComp p.ty) (tyN p.ty) false (compsVal v.g p.ty p.a L) (compsBits v.g p.ty p.a L))
  | xcvt (p src) : tyExp p.ty = true → WordOp v (.xcvt p src) (tyComp p.ty) p.d (tyN p.ty) (fun L =>
      xConv (tyComp src) (tyComp p.ty) (tyN p.ty) (compsVal v.g src p.a L))
  | xcvt1 (p src) : tyExp p.ty = false → WordOp v (.xcvt p src) p.ty p.d 1 (fun L =>
      let r := xRound (tyComp src) p.ty p.rm (uOf v p L) (p.aux % 2 == 1) (compsVal v.g src p.a L); ([r.1], r.2))

/-- The four words of Spout. -/
structure Spout where
  x0 : Word
  x1 : Word
  x2 : Word
  x3 : Word

/-- ROTL of R258. -/
def rotl (x : Word) (n : Nat) : Word := (x <<< n) ||| (x >>> (32 - n))

/-- Round `i` of SPOUT (R258). -/
def spoutStep (k0 k1 : Word) (s : Spout) (i : Nat) : Spout :=
  let s := { s with x0 := s.x0 + s.x1 }
  let s := { s with x3 := rotl (s.x3 ^^^ s.x0) 13 }
  let s := { s with x2 := s.x2 + s.x3 }
  let s := { s with x1 := rotl (s.x1 ^^^ s.x2) 9 }
  let s := { s with x0 := s.x0 + s.x1 }
  let s := { s with x3 := rotl (s.x3 ^^^ s.x0) 11 }
  let s := { s with x2 := s.x2 + s.x3 }
  let s := { s with x1 := rotl (s.x1 ^^^ s.x2) 5 }
  { s with x0 := s.x0 + (if i % 2 = 0 then k0 else k1) + BitVec.ofNat 32 i }

/-- SPOUT of a key and a counter (R258). -/
def spoutOf (k : DWord) (c0 c1 c2 c3 : Word) : Spout :=
  let k0 : Word := k.setWidth 32
  let k1 : Word := (k >>> 32).setWidth 32
  let s := [0, 1, 2, 3, 4, 5, 6, 7].foldl (spoutStep k0 k1)
    { x0 := c0 ^^^ k0, x1 := c1 ^^^ k1, x2 := c2 ^^^ 0x9E3779B9, x3 := c3 ^^^ 0x6A09E667 }
  { x0 := s.x0 + c0, x1 := s.x1 + c1, x2 := s.x2 + c2, x3 := s.x3 + c3 }

/-- Four vector registers of a lane hold a result of SPOUT. -/
def HoldsSpout (h : Group) (d L : Nat) (x : Spout) : Prop :=
  vget h d L = x.x0 ∧ vget h (d + 1) L = x.x1 ∧ vget h (d + 2) L = x.x2 ∧ vget h (d + 3) L = x.x3

end Sys2Proof.Stated

/-- R221 to R231 and R160: every lone floating-point instruction writes its rounded result in the lanes of EXEC and ORs its flags into
FSTAT. -/
def Sys2Proof.Stated.FloatLoneForms : Prop :=
  ∀ (i : Instr) (t : Ty) (d : Nat) (f : Nat → FOut) (s : State) (v : View), FloatLone v i t d f → Ready s v (uses i) →
    Completes s v (exec i s) (flagW v d (tyRegs1 t))
      (fun h => (∀ L, v.exec.getLsbD L = true → vbits h t d L = (f L).bits % 2 ^ (32 * tyRegs1 t))
        ∧ h.fstat = laneOr v.exec (fun L => (f L).fl) v.g.fstat) (NoWeirs s v ∧ v.g.fptrap = 0)

/-- R222 and R228: a packed pair form acts on the two elements of each register independently. -/
def Sys2Proof.Stated.FloatPairForms : Prop :=
  ∀ (i : Instr) (p : L) (f : Nat → Nat → FOut) (s : State) (v : View), FloatPair v i p f → tyPk p.ty = true → p.c = 1 → p.rm ≠ .rst →
    Ready s v (uses i) →
    Completes s v (exec i s) (flagW v p.d 1)
      (fun h => (∀ L, v.exec.getLsbD L = true → (vget h p.d L).toNat = ((f L 0).bits + (f L 1).bits * 2 ^ 16) % 2 ^ 32)
        ∧ h.fstat = laneOr v.exec (fun L => Nat.lor (f L 0).fl (f L 1).fl) v.g.fstat) (NoWeirs s v ∧ v.g.fptrap = 0)

/-- R154 and R173: rounding to nearest gives a finite value no farther from the exact one than any other finite value of the format. -/
def Sys2Proof.Stated.RoundsToNearest : Prop :=
  ∀ (t : Ty) (neg : Bool) (m : Nat) (e : Int) (c : Nat), t ∈ [Ty.f64, .f32, .f16, .bf16] → m ≠ 0 → FiniteBits t c →
    let x := FV.fin neg m e
    let b := (frnd t .rne 0 false x).1
    FiniteBits t b → dyLt (dyAbs (dySub x.dy (fdec t c).dy)) (dyAbs (dySub x.dy (fdec t b).dy)) = false

/-- R154 and R160: a value that the format holds is returned as it is by every rounding mode, with no flag. -/
def Sys2Proof.Stated.RoundsExactly : Prop :=
  ∀ (t : Ty) (mode : RM) (u c : Nat) (sat : Bool), t ∈ [Ty.f64, .f32, .f16, .bf16] → FiniteBits t c →
    frnd t mode u sat (fdec t c) = (c, 0)

/-- R232 to R237: FCLASS, FCVT, FCVTI and ICVTF write the class or the converted value in the lanes of EXEC; FCMP writes its predicate. -/
def Sys2Proof.Stated.FloatConversions : Prop :=
  (∀ (i : Instr) (t : Ty) (d : Nat) (f : Nat → Nat × Nat) (s : State) (v : View), FloatConv v i t d f → Ready s v (uses i) →
    Completes s v (exec i s) (flagW v d (tyRegs1 t))
      (fun h => (∀ L, v.exec.getLsbD L = true → vbits h t d L = (f L).1 % 2 ^ (32 * tyRegs1 t))
        ∧ h.fstat = laneOr v.exec (fun L => (f L).2) v.g.fstat) (NoWeirs s v ∧ v.g.fptrap = 0))
  ∧ ∀ (p : L) (c : Cond) (s : State) (v : View), condOf p.aux = some c → Ready s v (uses (.fcmp p)) →
    let r (L : Nat) : Bool × Nat :=
      let a := fop v p.ty p.a L
      let b := fopB v p.ty p.b L
      fCmp c a b (isSig p.ty a || isSig p.ty b)
    Completes s v (exec (.fcmp p) s) { p := fun n L => n = p.d ∧ v.exec.getLsbD L = true, fstat := True }
      (fun h => (∀ L, v.exec.getLsbD L = true → (pget h p.d).getLsbD L = (r L).1) ∧ h.fstat = laneOr v.exec (fun L => (r L).2) v.g.fstat)
      (NoWeirs s v ∧ v.g.fptrap = 0)

/-- R238 and R239: FPACK writes elements 2C and 2C + 1 of D from two values and a block scale, and keeps the others; FUNPK writes two
registers from those elements of A. -/
def Sys2Proof.Stated.FloatPacking : Prop :=
  ∀ (p : L) (src : Ty) (s : State) (v : View),
    (p.c < tyPairs p.ty → tyElem p.ty = true → Ready s v (uses (.fpack p src)) →
      Completes s v (exec (.fpack p src) s) (flagW v p.d 1)
        (fun h => ∀ L, v.exec.getLsbD L = true → ∀ j, (j + 1) * fWidth p.ty ≤ 32 →
          bitsOf (vget h p.d L).toNat (j * fWidth p.ty) (fWidth p.ty) =
            if j / 2 = p.c then
              (fPack1 src p.ty p.rm (p.aux % 2 == 1) ((bval v.g p.b L).toNat % 256) (fdec src (vget v.g (p.a + j % 2) L).toNat)).1
                % 2 ^ fWidth p.ty
            else bitsOf (vget v.g p.d L).toNat (j * fWidth p.ty) (fWidth p.ty)) (NoWeirs s v ∧ v.g.fptrap = 0))
    ∧ (Ready s v (uses (.funpk p src)) → Completes s v (exec (.funpk p src) s) (flagW v p.d 2)
        (fun h => ∀ L j, v.exec.getLsbD L = true → j < 2 → (vget h (p.d + j) L).toNat =
          (fUnpk1 src p.ty p.rm (p.aux % 2 == 1) ((bval v.g p.b L).toNat % 256) (felem src (vget v.g p.a L) (2 * p.c + j))).1 % 2 ^ 32)
        (NoWeirs s v ∧ v.g.fptrap = 0))

/-- R240: FSTAT.RD reads the six flags into a scalar, FSTAT.WR writes them from a scalar or from the lowest lane in EXEC, FSTAT.CLR
clears those that its mask names. -/
def Sys2Proof.Stated.FstatAccess : Prop :=
  ∀ (a : Nat) (s : State) (v : View),
    (Ready s v (uses (.fstatRd a)) → Completes s v (exec (.fstatRd a) s) { s := (· = a) }
      (fun h => sget h a = BitVec.ofNat 32 v.g.fstat) (NoWeirs s v))
    ∧ (∀ x L0, LowestIn v.exec L0 → Ready s v (uses (.fstatWr a x)) → Completes s v (exec (.fstatWr a x) s) { fstat := True }
      (fun h => h.fstat = (if x then sget v.g a else vget v.g a L0).toNat % 64) (NoWeirs s v))
    ∧ (Ready s v (uses (.fstatClr a)) → Completes s v (exec (.fstatClr a) s) { fstat := True }
      (fun h => ∀ i, h.fstat.testBit i = (v.g.fstat.testBit i && decide (i < 6) && !a.testBit i)) (NoWeirs s v))

/-- R241 to R256: the error-free transforms and the expansion instructions write their words, most significant first, in the lanes of
EXEC; XCMP writes its predicate. -/
def Sys2Proof.Stated.ExpansionForms : Prop :=
  (∀ (i : Instr) (t : Ty) (d n : Nat) (f : Nat → List Nat × Nat) (s : State) (v : View), WordOp v i t d n f → Ready s v (uses i) →
    Completes s v (exec i s) (flagW v d (n * tyRegs1 t))
      (fun h => (∀ L i, v.exec.getLsbD L = true → i < n → vbits h t (d + i * tyRegs1 t) L = (f L).1.getD i 0 % 2 ^ (32 * tyRegs1 t))
        ∧ h.fstat = laneOr v.exec (fun L => (f L).2) v.g.fstat) (NoWeirs s v ∧ v.g.fptrap = 0))
  ∧ ∀ (p : L) (b : Nat) (c : Cond) (s : State) (v : View), p.b = .reg b → condOf p.aux = some c → Ready s v (uses (.xcmp p)) →
    let r (L : Nat) : Bool × Nat :=
      let x := compsVal v.g p.ty p.a L
      let y := compsVal v.g p.ty b L
      fCmp c (xvalFV (tyComp p.ty) x) (xvalFV (tyComp p.ty) y) (xSignals (tyComp p.ty) x || xSignals (tyComp p.ty) y)
    Completes s v (exec (.xcmp p) s) { p := fun n L => n = p.d ∧ v.exec.getLsbD L = true, fstat := True }
      (fun h => (∀ L, v.exec.getLsbD L = true → (pget h p.d).getLsbD L = (r L).1) ∧ h.fstat = laneOr v.exec (fun L => (r L).2) v.g.fstat)
      (NoWeirs s v ∧ v.g.fptrap = 0)

/-- R242, R244 and R246: where FTWOSUM's or FTWOPROD's leading word is finite and RL is clear, the two words sum to the exact sum, or
product, of the operands. -/
def Sys2Proof.Stated.TransformsExact : Prop :=
  ∀ (t : Ty) (a b : FV), t ∈ [Ty.f64, .f32, .f16, .bf16] →
    (∀ o, o = tTwo t (fAdd t .rne 0 a b) (dyAdd a.dy b.dy) → isFinite t (o.words.getD 0 0) = true → Nat.land o.fl fRL = 0 →
      dyEq (dyAdd (fdec t (o.words.getD 0 0)).dy (fdec t (o.words.getD 1 0)).dy) (dyAdd a.dy b.dy) = true)
    ∧ ∀ o, o = tTwo t (fMul t .rne 0 a b) (dyMul a.dy b.dy) → isFinite t (o.words.getD 0 0) = true → Nat.land o.fl fRL = 0 →
      dyEq (dyAdd (fdec t (o.words.getD 0 0)).dy (fdec t (o.words.getD 1 0)).dy) (dyMul a.dy b.dy) = true

/-- R258 to R260: RND writes SPOUT of the key and the counter of each lane; RNDG takes the counter from scalars and adds the lane's
index to its first word. -/
def Sys2Proof.Stated.RandomNumbers : Prop :=
  ∀ (p : L) (k : Nat) (s : State) (v : View),
    (p.b = .reg k ∨ p.b = .scal k → Ready s v (uses (.rnd p)) → Completes s v (exec (.rnd p) s) (flagW v p.d 4)
      (fun h => h.fstat = v.g.fstat ∧ ∀ L, v.exec.getLsbD L = true →
        HoldsSpout h p.d L (spoutOf (if p.b = .reg k then vget64 v.g k L else sget64 v.g k)
          (vget v.g p.a L) (vget v.g (p.a + 1) L) (vget v.g (p.a + 2) L) (vget v.g (p.a + 3) L))) (NoWeirs s v))
    ∧ (p.b = .scal k → Ready s v (uses (.rndg p)) → Completes s v (exec (.rndg p) s) (flagW v p.d 4)
      (fun h => h.fstat = v.g.fstat ∧ ∀ L, v.exec.getLsbD L = true →
        HoldsSpout h p.d L (spoutOf (sget64 v.g k)
          (sget v.g p.a + BitVec.ofNat 32 L) (sget v.g (p.a + 1)) (sget v.g (p.a + 2)) (sget v.g (p.a + 3)))) (NoWeirs s v))

/-! ### Memory (R261 to R300) -/

namespace Sys2Proof.Stated

/-- Bytes of a component of a type (R287). -/
def cbytes (t : Ty) : Nat := tyBytes1 (tyComp t)

/-- Component `i` of a value of type `t` that register `r` begins, as its bits. -/
def compBits (g : Group) (t : Ty) (r L i : Nat) : Nat := vbits g (tyComp t) (r + i * tyRegs1 (tyComp t)) L

/-- `n` bytes of global memory at `a` can be accessed now, at the key `k`: in range, in no layer that is not resident, on a page whose
translation the core's L1 TLB holds with the permission, and writable where they are written (R262, R271, R279). Where they are coherent
and written, the core's own L1 holds nothing of them under another kind. -/
structure Reaches (s : State) (v : View) (need : Need) (a n k : Nat) : Prop where
  range : a + n ≤ 2 ^ 57
  layer : layerCheck s v.cx v.g.ctx a = .ok
  page : ∃ tr host, entOf (coreTlb s v.tm.core) v.cx.pasid a = some tr ∧ useTrans tr a need = .ok k host
  kind : need.w = true → regionKind v.cx a ≠ 2 ∧ regionKind v.cx a ≠ 4
  one : need.w = true → regionKind v.cx a ≠ 1 → ∀ b, b < n → l1Data s v.tm.core v.cx.pasid (k + b) = none

/-- The page of an address has no translation at the core (R279). -/
def Misses (s : State) (v : View) (need : Need) (a : Nat) : Prop := translate s (some v.tm.core) v.cx.pasid a need = .miss

/-- `n` bytes of memory as the issue's core sees them: of a line that its L1 holds, else of memory (R271, R273). -/
def seenNat (s : State) (v : View) (k n : Nat) : Nat := coreNat s v.tm.core v.cx.pasid k n
/-- One byte, as the issue's core sees it. -/
def seenByte (s : State) (v : View) (k : Nat) : Nat := coreByte s v.tm.core v.cx.pasid k
/-- Some of them are poisoned, as the issue's core sees it. -/
def seenPois (s : State) (v : View) (k n : Nat) : Bool := corePois s v.tm.core v.cx.pasid k n

/-- The lines that L1s hold with their bytes are whole. -/
def LinesWhole (s : State) : Prop := ∀ e, e ∈ s.l1 → e.2.bytes = [] ∨ e.2.bytes.length = 128
/-- No L1 holds some of `n` bytes apart from memory. -/
def Unheld (s : State) (k n : Nat) : Prop := ∀ e, e ∈ s.l1 → meets (l1Base e.1) 128 k n = true → e.2.bytes = []

/-- EA of LD and ST (R286). -/
def eaOf2 (v : View) (p : LM) (L : Nat) : Nat := eaLM v.g p (sget64 v.g p.a).toNat L

/-- The address of component `j` of a split expansion: HI's array, or LO's with its interleave (R167, R294). -/
def splitAddr (v : View) (p : LM) (L j : Nat) : Nat :=
  let d := splitDesc v.g p.a
  let i := elemIdx v.g p.b L
  if j = 0 then d.hi + i * d.stride * cbytes p.ty else d.lo + (i * d.stride * (tyN p.ty - 1) + j - 1) * cbytes p.ty

/-- The global loads of a vector register group, and the address of each component in each lane. -/
inductive GlobLoad (v : View) : Instr → LM → (Nat → Nat → Nat) → Prop
  | ld (p) : (∀ L, v.exec.getLsbD L = true → eaOf2 v p L % tyAlign p.ty = 0) →
      GlobLoad v (.ld p) p (fun L j => eaOf2 v p L + j * cbytes p.ty)
  | ldx (p) : (splitDesc v.g p.a).bad p.ty = false → (splitDesc v.g p.a).misaligned p.ty = false → GlobLoad v (.ldx p) p (splitAddr v p)

/-- The global stores of a vector register group. -/
inductive GlobStore (v : View) : Instr → LM → (Nat → Nat → Nat) → Prop
  | st (p) : (∀ L, v.exec.getLsbD L = true → eaOf2 v p L % tyAlign p.ty = 0) →
      GlobStore v (.st p) p (fun L j => eaOf2 v p L + j * cbytes p.ty)
  | stx (p) : (splitDesc v.g p.a).bad p.ty = false → (splitDesc v.g p.a).misaligned p.ty = false → GlobStore v (.stx p) p (splitAddr v p)

/-- A word with DEP adds 1 to the counter that it names, and to no other (R142). -/
def depW (w : Written) (dep : Option Nat) : Written := { w with d := fun n => dep = some n }

/-- The counter of DEP has gone up by one (R142). -/
def Counted (g h : Group) (dep : Option Nat) : Prop := ∀ n, dep = some n → dget h n = dget g n + 1

/-- Bytes `a` to `a + n - 1` hold byte `x`. -/
def Covers (a n x : Nat) : Prop := a ≤ x ∧ x < a + n

/-- An access of lane `L`, component `i` comes before that of lane `M`, component `j` (R288). -/
def Before (L i M j : Nat) : Prop := L < M ∨ L = M ∧ i < j

/-- Memory after the stores of the lanes of a mask, `n` components of `w` bytes each: a stored byte has the value of the last store to
it, as the core sees it, and in memory itself where its region is not private; every other byte is as it was, and no byte of memory has
become poisoned (R271, R288, R478). -/
structure Stored (s t : State) (v : View) (m : Word) (n w : Nat) (addr key data : Nat → Nat → Nat) : Prop where
  last : ∀ L i b, m.getLsbD L = true → i < n → b < w →
    (∀ M j, m.getLsbD M = true → j < n → Before L i M j → ¬ Covers (key M j) w (key L i + b)) →
    seenByte t v (key L i + b) = data L i / 256 ^ b % 256
      ∧ (regionKind v.cx (addr L i) ≠ 1 → (readByte t (key L i + b)).toNat = data L i / 256 ^ b % 256)
  kept : ∀ a, (∀ L i, m.getLsbD L = true → i < n → ¬ Covers (key L i) w a) → readByte t a = readByte s a ∧ seenByte t v a = seenByte s v a
  clean : ∀ a k, poisoned s a k = false → poisoned t a k = false

/-- A usable grant, clean where it is read: the team, its offset and the number of bytes (R264 to R266, R478). -/
structure Grant (s : State) (id o n : Nat) (tt : Team) : Prop where
  here : team? s id = some tt
  st : tt.st = .resident
  line : lineAbsent tt o n = none

/-- The lanes of a scratchpad access, as the team and the offset that each reaches: its own grant, or a cluster address (R264, R265). -/
def OwnAt (v : View) (p : LM) (vb : Bool) (f : Nat → Nat × Nat) : Prop :=
  ∀ L, v.exec.getLsbD L = true → let ea := eaLM v.g p (scrBaseVal v.g p.a vb L) L
    f L = (v.g.team, ea) ∧ ea + tyBytes p.ty ≤ v.tm.scrBytes ∧ ea % tyAlign p.ty = 0
/-- A cluster access. -/
def ClusterAt (s : State) (v : View) (p : LM) (vb : Bool) (f : Nat → Nat × Nat) : Prop :=
  ∀ L, v.exec.getLsbD L = true → let ea := eaLM v.g p (scrBaseVal v.g p.a vb L) L
    clusterAt s v.tm ea (tyBytes p.ty) = some (f L) ∧ ea % tyAlign p.ty = 0

/-- The loads of scratchpads. -/
inductive ScrLoad (s : State) (v : View) : Instr → LM → (Nat → Nat × Nat) → Prop
  | lds (p vb f) : OwnAt v p vb f → ScrLoad s v (.lds p vb) p f
  | ldsc (p vb f) : ClusterAt s v p vb f → ScrLoad s v (.ldsc p vb) p f
/-- The stores to scratchpads. -/
inductive ScrStore (s : State) (v : View) : Instr → LM → (Nat → Nat × Nat) → Prop
  | sts (p vb f) : OwnAt v p vb f → ScrStore s v (.sts p vb) p f
  | stsc (p vb f) : ClusterAt s v p vb f → ScrStore s v (.stsc p vb) p f

/-- Scratchpads after the stores of the lanes of a mask, as `Stored` says of memory; the rest of every team is as it was, and so is
memory. -/
structure ScrStored (s t : State) (m : Word) (n w : Nat) (at_ : Nat → Nat × Nat) (data : Nat → Nat → Nat) : Prop where
  last : ∀ L i b tt, m.getLsbD L = true → i < n → b < w → team? t (at_ L).1 = some tt →
    (∀ M j, m.getLsbD M = true → j < n → Before L i M j → (at_ M).1 = (at_ L).1 →
      ¬ Covers ((at_ M).2 + j * w) w ((at_ L).2 + i * w + b)) →
    (mget tt.scr 0 ((at_ L).2 + i * w + b)).toNat = data L i / 256 ^ b % 256
  kept : ∀ id tt, team? s id = some tt → ∃ tt', team? t id = some tt' ∧ { tt' with scr := tt.scr, scrPois := tt.scrPois } = tt
    ∧ (∀ a, (∀ L i, m.getLsbD L = true → i < n → (at_ L).1 = id → ¬ Covers ((at_ L).2 + i * w) w a) → mget tt'.scr 0 a = mget tt.scr 0 a)
    ∧ ∀ a k, scrPoisoned tt a k = false → scrPoisoned tt' a k = false
  mem : ∀ a, readByte t a = readByte s a
  pois : t.pois = s.pois

/-- The cells of `m` after the operations `f` of some lanes, one after another, each on the cell of its lane. -/
def atomAt {κ α : Type} [DecidableEq κ] (key : Nat → κ) (f : Nat → α → α) : List Nat → (κ → α) → κ → α
  | [], m => m
  | L :: r, m => atomAt key f r fun k => if k = key L then f L (m k) else m k

/-- The lanes of a mask below lane `L`. -/
def lanesBelow (m : Word) (L : Nat) : List Nat := (lanesOf m).filter fun M => decide (M < L)

/-- The operand and the compare value of an atomic, as numbers of its width (R297, R298). -/
def atomArg (v : View) (p : LT) (L : Nat) : Nat := vbits v.g p.ty p.c L % 2 ^ (8 * tyBytes1 p.ty)
/-- The compare value. -/
def atomCmp (v : View) (p : LT) (fn : AtomFn) (L : Nat) : Nat := if fn = .cas then vbits v.g p.ty p.d L % 2 ^ (8 * tyBytes1 p.ty) else 0

/-- What the atomic of a lane makes of the value in memory. -/
def atomStep (v : View) (p : LT) (fn : AtomFn) (L x : Nat) : Nat :=
  (atomNew fn p.ty x (atomArg v p L) (atomCmp v p fn L)).1 % 2 ^ (8 * tyBytes1 p.ty)

/-- The atomics on global memory, and whether they return the old value. -/
inductive GlobAtom : Instr → LT → AtomFn → Bool → Prop
  | atom (p fn) : GlobAtom (.atom p fn) p fn true
  | red (p fn) : GlobAtom (.red p fn) p fn false

/-- EA of a global atomic (R286). -/
def eaAtom (v : View) (p : LT) (L : Nat) : Nat := eaLT v.g p (sget64 v.g p.a).toNat L

/-- A scope of the device, or an operation that host memory has (R276). -/
def HostTakes (p : LT) (fn : AtomFn) : Prop := p.scope ≠ .sys ∨ fn = .exch ∨ fn = .cas ∨ fn = .add ∧ tyInt p.ty = true

/-- A word traps by a check of R262: all lanes of EXEC at the word, with the failing lanes in DETAIL and the EA of the lowest of them
in FADDR (R422). The state `s'` is `s` with the table entries read. -/
def FailsBy (s s' : State) (v : View) (i : Instr) (cause : Nat) (ea : Nat → Nat) (bad : Nat → Prop) : Prop :=
  ∃ m L0, LowestIn m L0 ∧ (∀ L, L < 32 → (m.getLsbD L = true ↔ v.exec.getLsbD L = true ∧ bad L))
    ∧ exec i s = .next (trapIssue s' v { v.tr cause v.exec with detail := m.toNat, faddr := BitVec.ofNat 64 (ea L0) })

/-- The accesses whose checks are stated, with their EA, type and the number of bytes that lie in range from the EA. -/
inductive Checked (v : View) : Instr → Ty → (Nat → Nat) → Nat → Prop
  | ld (p) : Checked v (.ld p) p.ty (eaOf2 v p) (2 ^ 57)
  | st (p) : Checked v (.st p) p.ty (eaOf2 v p) (2 ^ 57)
  | lds (p vb) : Checked v (.lds p vb) p.ty (fun L => eaLM v.g p (scrBaseVal v.g p.a vb L) L) v.tm.scrBytes
  | sts (p vb) : Checked v (.sts p vb) p.ty (fun L => eaLM v.g p (scrBaseVal v.g p.a vb L) L) v.tm.scrBytes
  | atom (p fn) : Checked v (.atom p fn) p.ty (eaAtom v p) (2 ^ 57)
  | red (p fn) : Checked v (.red p fn) p.ty (eaAtom v p) (2 ^ 57)
  | atoms (p fn) : Checked v (.atoms p fn) p.ty (fun L => eaLT v.g p (vget v.g p.a L).toNat L) v.tm.scrBytes

end Sys2Proof.Stated

/-- R286 to R288, R291, R292, R294, R295: LD and LDX give the registers of every lane of EXEC the components at its addresses,
sign-extended from .i8 and .i16; PLD gives a predicate the word at one address. DEP counts. -/
def Sys2Proof.Stated.GlobalLoads : Prop :=
  (∀ (i : Instr) (p : LM) (addr key : Nat → Nat → Nat) (s : State) (v : View), GlobLoad v i p addr → Ready s v (uses i) → NoWeirs s v →
    v.ln.owns = [] →
    (∀ L j, v.exec.getLsbD L = true → j < tyN p.ty →
      Reaches s v .rd (addr L j) (cbytes p.ty) (key L j) ∧ seenPois s v (key L j) (cbytes p.ty) = false) →
    Completes s v (exec i s) (depW (vecOf v p.d (tyRegs p.ty)) p.dep)
      (fun h => Counted v.g h p.dep ∧ ∀ L j, v.exec.getLsbD L = true → j < tyN p.ty →
        compBits h p.ty p.d L j = loadReg p.ty (seenNat s v (key L j) (cbytes p.ty)))
      (∀ L j, v.exec.getLsbD L = true → j < tyN p.ty → regionKind v.cx (addr L j) ≠ 4))
  ∧ ∀ (p : LM) (L0 k : Nat) (s : State) (v : View), Ready s v (uses (.pld p)) → NoWeirs s v → v.ln.owns = [] → LowestIn v.exec L0 →
    eaOf2 v p L0 % 4 = 0 → Reaches s v .rd (eaOf2 v p L0) 4 k → seenPois s v k 4 = false →
    Completes s v (exec (.pld p) s) (depW { p := fun n L => n = p.d ∧ v.exec.getLsbD L = true } p.dep)
      (fun h => Counted v.g h p.dep ∧ ∀ L, v.exec.getLsbD L = true → (pget h p.d).getLsbD L = (seenNat s v k 4).testBit L)
      (regionKind v.cx (eaOf2 v p L0) ≠ 4)

/-- R286 to R288, R291, R292, R294, R295: ST and STX store the registers of every lane of EXEC at its addresses, PST the bits of a
predicate in EXEC at one address, with zeros in the other lanes; every other byte of memory stays. -/
def Sys2Proof.Stated.GlobalStores : Prop :=
  (∀ (i : Instr) (p : LM) (addr key : Nat → Nat → Nat) (s : State) (v : View), GlobStore v i p addr → Ready s v (uses i) → NoWeirs s v →
    v.ln.owns = [] → LinesWhole s →
    (∀ L j, v.exec.getLsbD L = true → j < tyN p.ty → Reaches s v .wr (addr L j) (cbytes p.ty) (key L j)) →
    Changes v (exec i s) (depW {} p.dep) (fun t h => Counted v.g h p.dep ∧ OthersKept s t v.is.gid
      ∧ Stored s t v v.exec (tyN p.ty) (cbytes p.ty) addr key fun L j => compBits v.g p.ty p.d L j))
  ∧ ∀ (p : LM) (L0 k : Nat) (s : State) (v : View), Ready s v (uses (.pst p)) → NoWeirs s v → v.ln.owns = [] → LowestIn v.exec L0 →
    LinesWhole s → eaOf2 v p L0 % 4 = 0 → Reaches s v .wr (eaOf2 v p L0) 4 k →
    Changes v (exec (.pst p) s) (depW {} p.dep) (fun t h => Counted v.g h p.dep ∧ OthersKept s t v.is.gid
      ∧ Stored s t v 1 1 4 (fun _ _ => eaOf2 v p L0) (fun _ _ => k) fun _ _ => (pget v.g p.d &&& v.exec).toNat)

/-- R264 to R266, R291, R292: LDS and LDSC load from the team's own grant or from a grant of its cluster, STS and STSC store there. -/
def Sys2Proof.Stated.ScratchAccess : Prop :=
  (∀ (i : Instr) (p : LM) (at_ : Nat → Nat × Nat) (s : State) (v : View), ScrLoad s v i p at_ → Ready s v (uses i) → NoWeirs s v →
    (∀ L j, v.exec.getLsbD L = true → j < tyN p.ty → ∃ tt, Grant s (at_ L).1 ((at_ L).2 + j * cbytes p.ty) (cbytes p.ty) tt
      ∧ scrPoisoned tt ((at_ L).2 + j * cbytes p.ty) (cbytes p.ty) = false) →
    Completes s v (exec i s) (depW (vecOf v p.d (tyRegs p.ty)) p.dep)
      (fun h => Counted v.g h p.dep ∧ ∀ L j tt, v.exec.getLsbD L = true → j < tyN p.ty → team? s (at_ L).1 = some tt →
        compBits h p.ty p.d L j = loadReg p.ty (scrNat tt ((at_ L).2 + j * cbytes p.ty) (cbytes p.ty))) True)
  ∧ ∀ (i : Instr) (p : LM) (at_ : Nat → Nat × Nat) (s : State) (v : View), ScrStore s v i p at_ → Ready s v (uses i) → NoWeirs s v →
    (∀ L j, v.exec.getLsbD L = true → j < tyN p.ty → ∃ tt, Grant s (at_ L).1 ((at_ L).2 + j * cbytes p.ty) (cbytes p.ty) tt) →
    Changes v (exec i s) (depW {} p.dep) (fun t h => Counted v.g h p.dep ∧ ElseKept s t v.is.gid
      ∧ ScrStored s t v.exec (tyN p.ty) (cbytes p.ty) at_ fun L j => compBits v.g p.ty p.d L j)

/-- R293 and R296: LDC loads from a constant bank into a vector register group, lane by lane, or with A of 128 or more into scalars,
once, at the EA of the lowest lane; PREF changes nothing. -/
def Sys2Proof.Stated.ConstantLoads : Prop :=
  ∀ (p : LM) (s : State) (v : View), NoWeirs s v →
    let bank := if p.a % 2 = 0 then v.ln.kern.const0 else v.ln.args.take v.ln.kern.argSize
    let at_ (L j : Nat) : Nat := eaLM v.g p 0 L + j * cbytes p.ty
    (Ready s v (uses (.ldc p)) → p.a < 128 →
      (∀ L, v.exec.getLsbD L = true → eaLM v.g p 0 L + tyBytes p.ty ≤ bank.length ∧ eaLM v.g p 0 L % tyAlign p.ty = 0) →
      Completes s v (exec (.ldc p) s) (depW (vecOf v p.d (tyRegs p.ty)) p.dep)
        (fun h => Counted v.g h p.dep ∧ ∀ L j, v.exec.getLsbD L = true → j < tyN p.ty →
          compBits h p.ty p.d L j = loadReg p.ty (fieldAt bank (at_ L j) (cbytes p.ty))) True)
    ∧ (∀ L0, Ready s v (uses (.ldc p)) → 128 ≤ p.a → tyExp p.ty = false → LowestIn v.exec L0 →
      eaLM v.g p 0 L0 + tyBytes p.ty ≤ bank.length → eaLM v.g p 0 L0 % tyAlign p.ty = 0 →
      Completes s v (exec (.ldc p) s) (depW { s := fun r => p.d ≤ r ∧ r < p.d + tyRegs p.ty } p.dep)
        (fun h => Counted v.g h p.dep ∧ (if tyRegs p.ty = 2 then (sget64 h p.d).toNat else (sget h p.d).toNat)
          = loadReg p.ty (fieldAt bank (at_ L0 0) (cbytes p.ty))) True)
    ∧ (Ready s v (uses (.pref p)) → Plain s v → Completes s v (exec (.pref p) s) {} (GoesTo v fun _ => v.npc) True)

/-- R297 to R299: ATOM and RED update the value at the address of each lane of EXEC, lane after lane; ATOM returns the value before
its own update, and the flags of floating-point sums go to FSTAT. ATOMS does the same in the team's grant. -/
def Sys2Proof.Stated.AtomicUpdates : Prop :=
  (∀ (i : Instr) (p : LT) (fn : AtomFn) (ret : Bool) (key : Nat → Nat) (s : State) (v : View), GlobAtom i p fn ret → Ready s v (uses i) →
    NoWeirs s v → v.ln.owns = [] → tyExp p.ty = false → v.g.fptrap = 0 ∨ tyInt p.ty = true → LinesWhole s →
    (∀ L, v.exec.getLsbD L = true → eaAtom v p L % tyAlign p.ty = 0 ∧ Reaches s v .rw (eaAtom v p L) (cbytes p.ty) (key L)
      ∧ seenPois s v (key L) (cbytes p.ty) = false
      ∧ (translate s (some v.tm.core) v.cx.pasid (eaAtom v p L) .rw = .ok (key L) true → HostTakes p fn)
      ∧ (p.scope = .sys → hostBase ≤ key L → Unheld s (key L) (cbytes p.ty))) →
    (∀ L M, v.exec.getLsbD L = true → v.exec.getLsbD M = true → key L = key M ∨ key L + cbytes p.ty ≤ key M ∨ key M + cbytes p.ty ≤ key L) →
    let before (l : List Nat) : Nat → Nat := atomAt key (atomStep v p fn) l fun k => seenNat s v k (cbytes p.ty)
    Changes v (exec i s) { depW (if ret then vecOf v p.d (tyRegs p.ty) else {}) p.dep with fstat := True }
      (fun t h => Counted v.g h p.dep ∧ OthersKept s t v.is.gid
        ∧ (ret = true → ∀ L, v.exec.getLsbD L = true → vbits h p.ty p.d L = loadReg p.ty (before (lanesBelow v.exec L) (key L)))
        ∧ (∀ L, v.exec.getLsbD L = true → seenNat t v (key L) (cbytes p.ty) = before (lanesOf v.exec) (key L)
          ∧ (regionKind v.cx (eaAtom v p L) ≠ 1 → (∀ M, v.exec.getLsbD M = true → regionKind v.cx (eaAtom v p M) ≠ 1) →
            readNat t (key L) (cbytes p.ty) = before (lanesOf v.exec) (key L)))
        ∧ (∀ a, (∀ L, v.exec.getLsbD L = true → ¬ Covers (key L) (cbytes p.ty) a) →
          readByte t a = readByte s a ∧ seenByte t v a = seenByte s v a)
        ∧ h.fstat = laneOr v.exec (fun L =>
            (atomNew fn p.ty (before (lanesBelow v.exec L) (key L)) (atomArg v p L) (atomCmp v p fn L)).2) v.g.fstat))
  ∧ ∀ (p : LT) (fn : AtomFn) (s : State) (v : View), Ready s v (uses (.atoms p fn)) → NoWeirs s v → tyExp p.ty = false →
    v.g.fptrap = 0 ∨ tyInt p.ty = true → v.tm.st = .resident →
    let ea (L : Nat) : Nat := eaLT v.g p (vget v.g p.a L).toNat L
    (∀ L, v.exec.getLsbD L = true → ea L % tyAlign p.ty = 0 ∧ ea L + cbytes p.ty ≤ v.tm.scrBytes ∧ lineAbsent v.tm (ea L) (cbytes p.ty) = none
      ∧ scrPoisoned v.tm (ea L) (cbytes p.ty) = false) →
    let before (l : List Nat) : Nat → Nat := atomAt ea (atomStep v p fn) l fun k => scrNat v.tm k (cbytes p.ty)
    Changes v (exec (.atoms p fn) s) { depW (vecOf v p.d (tyRegs p.ty)) p.dep with fstat := True }
      (fun t h => Counted v.g h p.dep ∧ ElseKept s t v.is.gid ∧ (∀ a, readByte t a = readByte s a)
        ∧ (∀ L, v.exec.getLsbD L = true → vbits h p.ty p.d L = loadReg p.ty (before (lanesBelow v.exec L) (ea L)))
        ∧ (∀ id, id ≠ v.g.team → team? t id = team? s id)
        ∧ ∃ tt, team? t v.g.team = some tt ∧ { tt with scr := v.tm.scr, scrPois := v.tm.scrPois } = v.tm
          ∧ (∀ L, v.exec.getLsbD L = true → scrNat tt (ea L) (cbytes p.ty) = before (lanesOf v.exec) (ea L))
          ∧ ∀ a, (∀ L, v.exec.getLsbD L = true → ¬ Covers (ea L) (cbytes p.ty) a) → mget tt.scr 0 a = mget v.tm.scr 0 a)

/-- R277 and R300: ATOMC adds the operand of each lane of EXEC, lane after lane, to the pair of values at its address by the compensated
update, and returns the pair before its own update. -/
def Sys2Proof.Stated.CompensatedAtomics : Prop :=
  ∀ (p : LT) (key : Nat → Nat × Nat) (s : State) (v : View), p.ty = .f32 ∨ p.ty = .f64 → Ready s v (uses (.atomc p)) → NoWeirs s v →
    v.ln.owns = [] → v.g.fptrap = 0 →
    let w := cbytes p.ty
    (∀ L, v.exec.getLsbD L = true → let ea := eaAtom v p L
      ea % (2 * w) = 0 ∧ Reaches s v .rw ea w (key L).1 ∧ Reaches s v .rw (ea + w) w (key L).2
      ∧ poisoned s (key L).1 w = false ∧ poisoned s (key L).2 w = false ∧ Unheld s (key L).1 (2 * w)
      ∧ translate s (some v.tm.core) v.cx.pasid ea .rw = .ok (key L).1 false
      ∧ translate s (some v.tm.core) v.cx.pasid (ea + w) .rw = .ok (key L).2 false ∧ (key L).2 = (key L).1 + w) →
    (∀ L M, v.exec.getLsbD L = true → v.exec.getLsbD M = true → key L = key M ∨ (key L).1 + 2 * w ≤ (key M).1 ∨ (key M).1 + 2 * w ≤ (key L).1) →
    let arg (L : Nat) : Nat := vbits v.g p.ty p.c L % 2 ^ (8 * w)
    let upd (L : Nat) (x : Nat × Nat) : Nat × Nat :=
      let r := (atomcNew p.ty x.1 x.2 (arg L)).1
      (r.1 % 2 ^ (8 * w), r.2 % 2 ^ (8 * w))
    let before (l : List Nat) : Nat × Nat → Nat × Nat := atomAt key upd l fun k => (readNat s k.1 w, readNat s k.2 w)
    Changes v (exec (.atomc p) s) { depW (vecOf v p.d (2 * tyRegs p.ty)) p.dep with fstat := True }
      (fun t h => Counted v.g h p.dep ∧ OthersKept s t v.is.gid
        ∧ (∀ L, v.exec.getLsbD L = true →
          (vbits h p.ty p.d L, vbits h p.ty (p.d + tyRegs p.ty) L) = before (lanesBelow v.exec L) (key L)
          ∧ (readNat t (key L).1 w, readNat t (key L).2 w) = before (lanesOf v.exec) (key L))
        ∧ (∀ a, (∀ L, v.exec.getLsbD L = true → ¬ Covers (key L).1 (2 * w) a) → readByte t a = readByte s a)
        ∧ h.fstat = laneOr v.exec (fun L =>
            let x := before (lanesBelow v.exec L) (key L)
            (atomcNew p.ty x.1 x.2 (arg L)).2) v.g.fstat)

/-- R262 and R422: an access with a lane out of range traps with 0x04 and performs nothing; else one with a misaligned lane traps with
0x03; else a store or atomic to a read-only or layer region traps with 0x04. A split descriptor that is not of the type traps with
0x02 (R294). -/
def Obligations.AccessTraps : Prop :=
  (∀ (i : Instr) (p : LM) (s : State) (v : View), i = .ldx p ∨ i = .stx p → Ready s v (uses i) → (splitDesc v.g p.a).bad p.ty = true →
    exec i s = .next (trapAll s v 0x02 0))
  ∧ ∀ (i : Instr) (t : Ty) (ea : Nat → Nat) (top : Nat) (s : State) (v : View), Checked v i t ea top → Ready s v (uses i) →
    let far (L : Nat) : Prop := top < ea L + tyBytes t
    let odd (L : Nat) : Prop := ea L % tyAlign t ≠ 0
    let ro (L : Nat) : Prop := ∃ j, j < tyN t ∧ (regionKind v.cx (ea L + j * cbytes t) = 2 ∨ regionKind v.cx (ea L + j * cbytes t) = 4)
    ((∃ L, v.exec.getLsbD L = true ∧ far L) → FailsBy s s v i 0x04 ea far)
    ∧ ((∀ L, v.exec.getLsbD L = true → ¬ far L) → (∃ L, v.exec.getLsbD L = true ∧ odd L) → FailsBy s s v i 0x03 ea odd)
    ∧ ((∀ L, v.exec.getLsbD L = true → ¬ far L ∧ ¬ odd L) → (∃ L, v.exec.getLsbD L = true ∧ ro L) →
        (∃ p, i = .st p) ∨ (∃ p fn, i = .atom p fn) ∨ (∃ p fn, i = .red p fn) → FailsBy s s v i 0x04 ea ro)

/-- R279 and R282: a lane of LD whose page the device has no translation of waits at its word, and an ATS request for the page leaves;
the other lanes of EXEC load and go on. -/
def Sys2Proof.Stated.PageWaits : Prop :=
  ∀ (p : LM) (key : Nat → Nat) (miss : Nat → Bool) (s : State) (v : View), Ready s v (uses (.ld p)) → Plain s v → v.ln.owns = [] →
    s.waits = [] → tyExp p.ty = false →
    (∀ L, v.exec.getLsbD L = true → eaOf2 v p L % tyAlign p.ty = 0
      ∧ if miss L then eaOf2 v p L + cbytes p.ty ≤ 2 ^ 57 ∧ layerCheck s v.cx v.g.ctx (eaOf2 v p L) = .ok ∧ Misses s v .rd (eaOf2 v p L)
        else Reaches s v .rd (eaOf2 v p L) (cbytes p.ty) (key L) ∧ seenPois s v (key L) (cbytes p.ty) = false) →
    Changes v (exec (.ld p) s) (depW (vecOf v p.d (tyRegs p.ty)) p.dep) (fun t h => Counted v.g h p.dep ∧ ∃ q, ∀ L, v.exec.getLsbD L = true →
      if miss L then Stands h L v.is.pc (.park (.access q)) ∧ Out.ats v.cx.pasid (pageOf (eaOf2 v p L)) false false ∈ t.out
        ∧ vbits h p.ty p.d L = vbits v.g p.ty p.d L
      else Stands h L v.npc .run ∧ vbits h p.ty p.d L = loadReg p.ty (seenNat s v (key L) (cbytes p.ty)))

/-! ### Fences, barriers and barrier objects (R301 to R312) -/

namespace Sys2Proof.Stated

/-- The barrier words, what a lane waits for at each, and the count of BAR (R302 to R304). -/
inductive BarWord (v : View) : Instr → BWhy → Prop
  | bar (p) : p.a < 16 → (bsval v.g p.b).toNat ≤ 64 → BarWord v (.bar p) (.bar p.a (bsval v.g p.b).toNat)
  | barc (p) : BarWord v (.barc p) .barc
  | gsync (p) : BarWord v (.gsync p) .gsync

/-- The group is alone in its team, and no group of the team has arrived at a BAR. -/
structure Alone (v : View) : Prop where
  groups : v.tm.groups = [v.is.gid]
  bars : v.tm.bars = []
  st : v.tm.st = .resident
  launch : v.tm.launch = v.g.launch
  goes : v.g.exited = false ∧ v.g.ended = false

/-- The team is alone: in its cluster for BARC, in its launch for GSYNC. -/
def AloneAt (s : State) (v : View) : BWhy → Prop
  | .barc => (s.teams.filter fun e => e.2.launch == v.tm.launch && e.2.cluster == v.tm.cluster) = [(v.g.team, v.tm)]
  | .gsync => (s.teams.filter fun e => e.2.launch == v.tm.launch) = [(v.g.team, v.tm)]
      ∧ v.ln.gridX * v.ln.gridY * v.ln.gridZ = 1 + v.ln.retired.length ∧ v.ln.kern.ordered = false
  | .bar _ n => n ≤ 1
  | .obj _ _ => True

/-- With the lanes of EXEC every live lane of the group has arrived. -/
def AllArrive (v : View) : Prop :=
  ∀ L, L < 32 → v.exec.getLsbD L = false → (laneGet v.g L).st = .dead ∧ v.is.lanes.getLsbD L = false

/-- BARC and GSYNC, with their waits. -/
inductive WideWord : BWhy → (BWhy → Bool) → Prop
  | barc : WideWord .barc isBarc
  | gsync : WideWord .gsync isGsync

/-- The groups that BARC or GSYNC joins: those that have not exited of the teams of the cluster, or of the launch, that have not retired
(R304). -/
def joined (s : State) (v : View) (w : BWhy) : List Nat :=
  (s.teams.filter fun e => e.2.launch == v.tm.launch && (w == .gsync || e.2.cluster == v.tm.cluster) && e.2.st != .retired).flatMap
    fun e => openGroups s e.2

/-- No lane of the team's groups waits at a BAR. -/
def NoBars (s : State) (v : View) : Prop :=
  ∀ x g L b n c, x ∈ v.tm.groups → group? s x = some g → L < 32 → (laneGet g L).st ≠ .bar (.bar b n) c

/-- The groups `arr` of the team, and no others, have arrived at BAR `id` with the count `n`; no other BAR is under way (R303). -/
structure Gathered (s : State) (v : View) (id n : Nat) (arr : List Nat) : Prop where
  here : v.is.gid ∈ v.tm.groups ∧ v.tm.groups.Nodup ∧ v.is.gid ∉ arr ∧ v.tm.st = .resident ∧ v.g.exited = false ∧ v.g.ended = false
  bars : mget? v.tm.bars id = if arr = [] then none else some { n := n, arrived := arr }
  came : ∀ x, x ∈ arr → x ∈ v.tm.groups ∧ ∃ g, group? s x = some g ∧ barArrived g (isBar id) = true ∧ g.exited = false ∧ handLanes g = 0
  rest : ∀ x g, x ∈ v.tm.groups → x ≠ v.is.gid → x ∉ arr → group? s x = some g → barArrived g (isBar id) = false
  only : ∀ x g L b k c, x ∈ v.tm.groups → x ≠ v.is.gid → group? s x = some g → L < 32 → (laneGet g L).st = .bar (.bar b k) c → b = id ∧ k = n

/-- The live lanes of some groups have gone on past their barriers: without loops and halts, each stands at the next word. -/
def PassOn (s t : State) (gs : List Nat) : Prop :=
  ∀ x g, x ∈ gs → group? s x = some g → NoLoops g → ∃ h, group? t x = some h ∧ ∀ L c, L < 32 → (laneGet g L).st ≠ .dead →
    (laneGet g L).haltPend = false → (laneGet g L).cl = some c → Stands h L (nextPc c (laneGet g L).pc) .run

/-- A usable object of the issue's own team, at the offset that A names (R305, R306). -/
structure OwnObj (v : View) (a : Nat) (b : BObj) : Prop where
  range : (sget v.g a).toNat + 16 ≤ v.tm.scrBytes
  aligned : (sget v.g a).toNat % 16 = 0
  line : lineAbsent v.tm (sget v.g a).toNat 16 = none
  get : bobjGet v.tm (sget v.g a).toNat = b

/-- An object after an update: where both counts are zero, its phase flips, and its counts start again (R307). -/
def settled (b : BObj) : BObj :=
  if b.valid = true ∧ b.parr = 0 ∧ b.pbytes = 0 then { b with phase := !b.phase, parr := b.earr, ebytes := 0, pbytes := 0 } else b

/-- The updates of an object (R307): the instruction, the condition on its operand, the object after it, and whether it writes the
phase before it to scalar D. -/
inductive ObjUpd (n : Nat) (b : BObj) : Instr → LT → BObj → Bool → Prop
  | binit (p) : 1 ≤ n → n ≤ 65535 → ObjUpd n b (.binit p) p
      { earr := n, parr := n, ecause := 0, can := false, err := false, valid := true, phase := false, ebytes := 0, pbytes := 0, rest := 0 } false
  | barrive (p) : b.valid = true → b.err = false → 1 ≤ n → n ≤ b.parr → ObjUpd n b (.barrive p) p { b with parr := b.parr - n } true
  | bdrop (p) : b.valid = true → b.err = false → 1 ≤ n → n ≤ b.parr → n < b.earr →
      ObjUpd n b (.bdrop p) p { b with parr := b.parr - n, earr := b.earr - n } true
  | bexpect (p) : b.valid = true → b.err = false → b.pbytes + n ≤ 2 ^ 31 - 1 →
      ObjUpd n b (.bexpect p) p { b with pbytes := b.pbytes + n, ebytes := (b.ebytes + n) % 2 ^ 32 } false

/-- Only the 16 bytes of an object at `o` of a team's grant have changed among the scratchpads, and nothing of memory, the contexts, the
launches and the registers of the other groups. -/
structure ObjKept (s t : State) (id o gid : Nat) : Prop where
  team : ∀ tt, team? s id = some tt → ∃ tt', team? t id = some tt' ∧ { tt' with scr := tt.scr, scrPois := tt.scrPois } = tt
    ∧ ∀ a, ¬ Covers o 16 a → mget tt'.scr 0 a = mget tt.scr 0 a
  teams : ∀ j, j ≠ id → team? t j = team? s j
  groups : ∀ j g, j ≠ gid → group? s j = some g → ∃ h, group? t j = some h ∧ RegsKept g h {}
  mem : ∀ a, readByte t a = readByte s a
  ctxs : t.ctxs = s.ctxs
  launches : t.launches = s.launches

end Sys2Proof.Stated

/-- R301: FENCE changes no register and no memory, and every lane goes on. -/
def Sys2Proof.Stated.FenceGoesOn : Prop :=
  ∀ (p : LT) (s : State) (v : View), Plain s v → Ready s v (uses (.fence p)) →
    Completes s v (exec (.fence p) s) {} (GoesTo v fun _ => v.npc) True

/-- R303 and R304: at BAR, BARC and GSYNC the lanes of EXEC wait while another live lane of the group does not; where every group that the
barrier joins has arrived, the waiting lanes of all of them go on, each past its own barrier, and while one has not, those of this group
wait. A count above 64 traps with 0x02. -/
def Obligations.BarriersJoin : Prop :=
  (∀ (i : Instr) (w : BWhy) (M : Nat) (s : State) (v : View), BarWord v i w → Plain s v → Ready s v (uses i) → Alone v →
    M < 32 → v.exec.getLsbD M = false → (laneGet v.g M).st ≠ .dead → (∀ x c, (laneGet v.g M).st ≠ .bar x c) →
    Changes v (exec i s) {} (fun t h => StopsIn v (.bar w s.now) h ∧ (∀ a, readByte t a = readByte s a)
      ∧ (∀ id, team? t id = team? s id) ∧ ElseKept s t v.is.gid))
  ∧ (∀ (i : Instr) (w : BWhy) (s : State) (v : View), BarWord v i w → Plain s v → Ready s v (uses i) → Alone v → AloneAt s v w →
    AllArrive v → (∀ L, v.exec.getLsbD L = true → (laneGet v.g L).hand = false) →
    Changes v (exec i s) {} (fun t h => GoesTo v (fun _ => v.npc) h ∧ (∀ a, readByte t a = readByte s a)
      ∧ (∀ id, team? t id = team? s id) ∧ ElseKept s t v.is.gid))
  ∧ (∀ (p : LT) (arr : List Nat) (s : State) (v : View), Plain s v → Ready s v (uses (.bar p)) → p.a < 16 → (bsval v.g p.b).toNat ≤ 64 →
    AllArrive v → handLanes v.g = 0 → Gathered s v p.a (bsval v.g p.b).toNat arr →
    let n := (bsval v.g p.b).toNat
    let full := if n = 0 then ∀ x, x ∈ openGroups s v.tm → x = v.is.gid ∨ x ∈ arr else n ≤ arr.length + 1
    (full → Changes v (exec (.bar p) s) {} (fun t h => GoesTo v (fun _ => v.npc) h ∧ PassOn s t arr ∧ (∀ a, readByte t a = readByte s a)
      ∧ ∃ tt, team? t v.g.team = some tt ∧ mget? tt.bars p.a = none))
    ∧ (¬ full → Changes v (exec (.bar p) s) {} (fun t h => StopsIn v (.bar (.bar p.a n) s.now) h ∧ (∀ a, readByte t a = readByte s a)
      ∧ ElseKept s t v.is.gid ∧ ∃ tt, team? t v.g.team = some tt ∧ mget? tt.bars p.a = some { n := n, arrived := arr ++ [v.is.gid] })))
  ∧ (∀ (i : Instr) (w : BWhy) (f : BWhy → Bool) (s : State) (v : View), BarWord v i w → WideWord w f → Plain s v → Ready s v (uses i) →
    AllArrive v → handLanes v.g = 0 → NoBars s v → v.g.exited = false → v.tm.st = .resident → v.tm.launch = v.g.launch →
    v.is.gid ∈ v.tm.groups →
    ((∀ x, x ∈ joined s v w → x ≠ v.is.gid → ∃ g, group? s x = some g ∧ barArrived g f = true ∧ handLanes g = 0) →
      (w = .gsync → (s.teams.filter fun e => e.2.launch == v.tm.launch && e.2.st != .retired).length + v.ln.retired.length
          = v.ln.gridX * v.ln.gridY * v.ln.gridZ
        ∧ (v.ln.kern.ordered = false ∨ ∀ e, e ∈ s.teams → e.2.launch = v.tm.launch → e.2.defer = [])) →
      Changes v (exec i s) {} (fun t h => GoesTo v (fun _ => v.npc) h ∧ PassOn s t ((joined s v w).filter fun x => x != v.is.gid)
        ∧ ∀ a, readByte t a = readByte s a))
    ∧ ((∃ x g, x ∈ joined s v w ∧ x ≠ v.is.gid ∧ group? s x = some g ∧ barArrived g f = false) →
      Changes v (exec i s) {} (fun t h => StopsIn v (.bar w s.now) h ∧ (∀ a, readByte t a = readByte s a) ∧ ElseKept s t v.is.gid)))
  ∧ ∀ (p : LT) (s : State) (v : View), Ready s v (uses (.bar p)) → 64 < (bsval v.g p.b).toNat → exec (.bar p) s = .next (trapAll s v 0x02 0)

/-- R305 to R307: BINIT, BARRIVE, BDROP and BEXPECT leave the object that the rules give, flipped where both counts are zero; BARRIVE and
BDROP return the phase before it. -/
def Sys2Proof.Stated.ObjectUpdates : Prop :=
  ∀ (i : Instr) (p : LT) (b c : BObj) (ret : Bool) (s : State) (v : View), ObjUpd (bsval v.g p.b).toNat b i p c ret → Ready s v (uses i) →
    NoWeirs s v → OwnObj v p.a b →
    Changes v (exec i s) { s := fun r => ret = true ∧ r = p.d } (fun t h => ObjKept s t v.g.team (sget v.g p.a).toNat v.is.gid
      ∧ (∀ tt, team? t v.g.team = some tt → bobjGet tt (sget v.g p.a).toNat = settled c)
      ∧ (ret = true → sget h p.d = if b.phase then 1 else 0))

/-- R309, R310, R311: BWAIT goes on where the phase differs from its operand and waits where it is equal; BTEST sets its predicate where
they differ; BINV makes the object dead. -/
def Sys2Proof.Stated.ObjectWaits : Prop :=
  ∀ (p : LT) (b : BObj) (s : State) (v : View), b.valid = true → OwnObj v p.a b →
    let q := (bsval v.g p.b).getLsbD 0
    (Ready s v (uses (.bwait p)) → Plain s v → b.phase ≠ q → b.err = false →
      Completes s v (exec (.bwait p) s) {} (GoesTo v fun _ => v.npc) True)
    ∧ (Ready s v (uses (.bwait p)) → Plain s v → b.phase = q →
      Completes s v (exec (.bwait p) s) {} (StopsIn v (.bar (.obj (sget v.g p.a).toNat (p.order == .acq)) s.now)) True)
    ∧ (Ready s v (uses (.btest p)) → NoWeirs s v → b.err = false →
      Completes s v (exec (.btest p) s) { p := fun n L => n = p.d ∧ v.exec.getLsbD L = true }
        (fun h => ∀ L, v.exec.getLsbD L = true → ((pget h p.d).getLsbD L = true ↔ b.phase ≠ q)) True)
    ∧ (Ready s v (uses (.binv p)) → Plain s v → (∀ j g L, group? s j = some g → L < 32 → ∀ x a c, (laneGet g L).st ≠ .bar (.obj x a) c) →
      (∀ L x a c, L < 32 → (laneGet v.g L).st ≠ .bar (.obj x a) c) →
      Changes v (exec (.binv p) s) {} (fun t _ => ObjKept s t v.g.team (sget v.g p.a).toNat v.is.gid
        ∧ ∀ tt, team? t v.g.team = some tt → bobjGet tt (sget v.g p.a).toNat = { b with valid := false }))

/-- R306, R307: an operand outside its range is a barrier error, or for BINIT the operand trap 0x02; a dead object is a barrier error;
an offset beyond the grant and a misaligned one trap with 0x04 and 0x03. -/
def Sys2Proof.Stated.ObjectTraps : Prop :=
  ∀ (i : Instr) (p : LT) (b : BObj) (s : State) (v : View), Ready s v (uses i) →
    let o := (sget v.g p.a).toNat
    let n := (bsval v.g p.b).toNat
    (i ∈ [Instr.binit p, .barrive p, .bdrop p, .bexpect p, .bwait p, .btest p, .binv p] → v.tm.scrBytes < o + 16 →
      exec i s = .next (trapIssue s v { v.tr 0x04 v.exec with detail := v.exec.toNat, faddr := BitVec.ofNat 64 o }))
    ∧ (i ∈ [Instr.binit p, .barrive p, .bdrop p, .bexpect p, .bwait p, .btest p, .binv p] → o + 16 ≤ v.tm.scrBytes → o % 16 ≠ 0 →
      exec i s = .next (trapIssue s v { v.tr 0x03 v.exec with detail := v.exec.toNat, faddr := BitVec.ofNat 64 o }))
    ∧ (OwnObj v p.a b →
      (i ∈ [Instr.barrive p, .bdrop p, .bexpect p, .bwait p, .btest p, .binv p] → b.valid = false → exec i s = .next (trapAll s v 0x07 o))
      ∧ (i = .binit p → n = 0 ∨ 65535 < n → exec i s = .next (trapAll s v 0x02 0))
      ∧ (i = .barrive p → b.valid = true → n = 0 ∨ b.parr < n → exec i s = .next (trapAll s v 0x07 o))
      ∧ (i = .bdrop p → b.valid = true → n = 0 ∨ b.parr < n ∨ b.earr ≤ n → exec i s = .next (trapAll s v 0x07 o))
      ∧ (i = .bexpect p → b.valid = true → 2 ^ 31 - 1 < b.pbytes + n → exec i s = .next (trapAll s v 0x07 o)))

/-- R312: STSCB stores to the cluster as STSC does, and lowers the bytes still to come of each target team's object by what its lanes
stored there. -/
def Sys2Proof.Stated.StscbCounts : Prop :=
  ∀ (p : LT) (at_ : Nat → Nat × Nat) (s : State) (v : View), Ready s v (uses (.stscb p)) → NoWeirs s v →
    let o := (bsval v.g p.b).toNat
    let n := tyBytes p.ty
    let sent (id : Nat) : Nat := ((lanesOf v.exec).countP fun L => (at_ L).1 == id) * n
    (∀ L, v.exec.getLsbD L = true → clusterAt s v.tm (vget v.g p.a L).toNat n = some (at_ L) ∧ (vget v.g p.a L).toNat % tyAlign p.ty = 0
      ∧ ∃ tt, Grant s (at_ L).1 (at_ L).2 n tt ∧ Grant s (at_ L).1 o 16 tt ∧ o + 16 ≤ tt.scrBytes ∧ o % 16 = 0
        ∧ ((at_ L).2 + n ≤ o ∨ o + 16 ≤ (at_ L).2) ∧ (bobjGet tt o).valid = true ∧ (bobjGet tt o).err = false
        ∧ -(2 ^ 31) ≤ (bobjGet tt o).pbytes - sent (at_ L).1) →
    (∀ L j, v.exec.getLsbD L = true → j < tyN p.ty → ∃ tt, Grant s (at_ L).1 ((at_ L).2 + j * cbytes p.ty) (cbytes p.ty) tt) →
    Changes v (exec (.stscb p) s) (depW {} p.dep) (fun t h => Counted v.g h p.dep
      ∧ ∀ L tt tt', v.exec.getLsbD L = true → team? s (at_ L).1 = some tt → team? t (at_ L).1 = some tt' →
        (let b := bobjGet tt o; bobjGet tt' o = settled { b with pbytes := b.pbytes - sent (at_ L).1 })
        ∧ ∀ j c, j < tyN p.ty → c < cbytes p.ty →
          (∀ M k, v.exec.getLsbD M = true → k < tyN p.ty → Before L j M k → (at_ M).1 = (at_ L).1 →
            ¬ Covers ((at_ M).2 + k * cbytes p.ty) (cbytes p.ty) ((at_ L).2 + j * cbytes p.ty + c)) →
          (mget tt'.scr 0 ((at_ L).2 + j * cbytes p.ty + c)).toNat = compBits v.g p.ty p.d L j / 256 ^ c % 256)

/-! ### The copy engines (R266, R313 to R319) -/

namespace Sys2Proof.Stated

/-- A copy descriptor, as ACOPY and ACOPYM read it from a scalar octet (R314). -/
structure CopyDesc where
  src : Nat
  dst : Nat
  bytes : Nat
  rows : Nat
  ss : Nat
  ds : Nat
  deriving DecidableEq, Repr

/-- The descriptor that scalar `a` begins. -/
def copyDesc (g : Group) (a : Nat) : CopyDesc :=
  { src := (sget64 g a).toNat, dst := (sget64 g (a + 2)).toNat, bytes := (sget g (a + 4)).toNat, rows := (sget g (a + 5)).toNat,
    ss := (sget g (a + 6)).toNat, ds := (sget g (a + 7)).toNat }

/-- A descriptor within the limits of R314, with both addresses aligned. -/
structure CopyFits (p : LE) (c : CopyDesc) : Prop where
  bytes : c.bytes % 16 = 0 ∧ 1 ≤ c.bytes ∧ c.bytes ≤ 1048576
  rows : 1 ≤ c.rows ∧ c.rows ≤ 65536 ∧ c.rows * c.bytes ≤ 16777216
  strides : c.ss % 16 = 0 ∧ c.ds % 16 = 0 ∧ (1 < c.rows → c.bytes ≤ c.ds)
  ends : c.src % 16 = 0 ∧ c.dst % 16 = 0
  near : (p.sk ≠ 0 → c.src < 2 ^ 32) ∧ (p.dk ≠ 0 → c.dst < 2 ^ 32)

/-- Where an end of a copy lies, for the overlap of its rows: global memory, the own grant, or that of a rank. -/
def copyPlace (v : View) (k a : Nat) : Nat × Nat :=
  if k = 0 then (0, a) else if k = 1 then (1 + v.tm.crank, a) else (1 + a / 2 ^ 20, a % 2 ^ 20)

/-- An end in a scratchpad: the own grant (1) or a cluster address (2), all of its span in the grant (R264, R265, R315). -/
inductive ScrEnd (s : State) (v : View) (k a span : Nat) : Nat → Nat → Prop
  | own : k = 1 → a + span ≤ v.tm.scrBytes → ScrEnd s v k a span v.g.team a
  | clu (id o) : k = 2 → clusterAt s v.tm a span = some (id, o) → ScrEnd s v k a span id o

/-- An end of `rows` rows of `bytes` bytes: global memory of this device, of a peer that grants the access, or a scratchpad. -/
inductive CopyEnd (s : State) (v : View) (w : Bool) (k a st bytes rows : Nat) : End → Nat → Prop
  | here : k = 0 → isRemote a = false → (∀ r, r < rows → a + r * st + bytes ≤ 2 ^ 57 ∧
      (w = true → ∀ x, x ∈ v.cx.regions → x.kind = 2 ∨ x.kind = 4 → x.limit ≤ a + r * st ∨ a + r * st + bytes ≤ x.base)) →
      CopyEnd s v w k a st bytes rows .glob a
  | peer : k = 0 → isRemote a = true → a + ((rows - 1) * st + bytes) ≤ 2 ^ 64 →
      (peerGrants s v.g.ctx a (remPerm (if w then .st else .ld))).isSome = true →
      (peerGrants s v.g.ctx (a + ((rows - 1) * st + bytes) - 1) (remPerm (if w then .st else .ld))).isSome = true →
      CopyEnd s v w k a st bytes rows .glob a
  | scr (id o) : ScrEnd s v k a ((rows - 1) * st + bytes) id o → CopyEnd s v w k a st bytes rows (.team id) o

/-- Line `l` of a grant holds a byte of a row of a copy (R266). -/
def RowLine (dst ds bytes rows l : Nat) : Prop := ∃ r, r < rows ∧ l * 128 < dst + r * ds + bytes ∧ dst + r * ds < (l + 1) * 128

/-- The destination lines of a team are present, and no tile store is about to write them (R267). -/
def LinesFree (s : State) (id : Nat) (line : Nat → Prop) : Prop :=
  ∀ tt l, team? s id = some tt → line l → mget? tt.absent l = none ∧ tstBusy s id [l] = false

/-- The objects that C names in some teams: none with 0x80, else the one at the offset in each of them (R306, R313). -/
inductive ObjsOf (s : State) (v : View) (c : Nat) (teams : List Nat) : List (Nat × Nat) → Prop
  | none : c = 0x80 → ObjsOf s v c teams []
  | some : c ≠ 0x80 → (∀ id, id ∈ teams → targetObj s id (sget v.g c).toNat = none
      ∧ ∀ tt, team? s id = some tt → lineAbsent tt (sget v.g c).toNat 16 = none) →
      ObjsOf s v c teams (teams.map fun id => (id, (sget v.g c).toNat))

/-- A copy has been accepted: its operation is in flight with nothing moved, its destination lines are absent, and nothing else has
changed (R266, R313). -/
structure Accepted (s t : State) (v : View) (h : Group) (dep : Option Nat) (o : EngOp) (line : Nat → Prop) : Prop extends
    ElseKept s t v.is.gid where
  counted : Counted v.g h dep
  op : mget? t.ops o.id = some o
  who : o.gid = v.is.gid ∧ o.team = v.g.team ∧ o.exec = v.exec ∧ o.pc = v.is.pc
  start : o.done = 0 ∧ o.err = none ∧ o.req = none
  mem : ∀ a, readByte t a = readByte s a
  teams : ∀ id tt, team? s id = some tt → ∃ tt', team? t id = some tt' ∧ { tt' with absent := tt.absent } = tt
    ∧ ∀ l, (End.team id ∈ o.dsts → line l → mget? tt'.absent l = some o.id)
      ∧ (End.team id ∉ o.dsts ∨ ¬ line l → mget? tt'.absent l = mget? tt.absent l)
  fly : ∃ f, f ∈ h.fly ∧ f.seq = o.seq ∧ f.unit = true

/-- Nothing stands on the core of a group. -/
def QuietCore (s : State) (gid : Nat) : Prop :=
  ∀ g tm, group? s gid = some g → team? s g.team = some tm → (coreAt s tm.core).weirs = []

/-- The elements of AGATH and ASCAT: a lane and its global address (R315). -/
def elemsOf (v : View) (p : LE) : List (Nat × Nat) :=
  (lanesOf v.exec).map fun L => (L, ((sget64 v.g p.a).toNat + idxOf v.g p.b L + (match p.b with | .imm n => n | _ => 0)) % 2 ^ 64)

/-- A beat of `n` bytes of an operation has been written; no group has changed. -/
structure Beaten (s t : State) (o : EngOp) (n : Nat) : Prop where
  op : ∃ o', mget? t.ops o.id = some o' ∧ o'.done = o.done + n ∧ o'.dsts = o.dsts ∧ o'.srcAddr = o.srcAddr ∧ o'.dstAddr = o.dstAddr
    ∧ o'.req = none ∧ o'.err = o.err
  groups : t.groups = s.groups

/-- An operation has sent a request to the peer of an entry, and waits for its answer; nothing has moved yet (R316, R397). -/
structure EngRequested (s t : State) (o : EngOp) (e : Peer) (a : Nat) (rop : RemOp) (n : Nat) (bs : List Nat) : Prop where
  op : ∃ o', mget? t.ops o.id = some o' ∧ o'.done = o.done ∧ o'.req = some s.nextId ∧ o'.err = o.err
  rem : ∃ r, mget? t.rems s.nextId = some r ∧ r.who = .op o.id ∧ r.dev = e.dev ∧ r.addr = a ∧ r.msg.op = rop ∧ r.msg.ectx = e.ectx
    ∧ r.msg.win = remWin a ∧ r.msg.off = remOff a ∧ r.msg.width = n ∧ r.msg.data = bs
  mem : ∀ x, readByte t x = readByte s x
  teams : t.teams = s.teams

/-- Line `l` of a grant holds a byte of an element. -/
def ElemLine (v : View) (off w l : Nat) : Prop :=
  ∃ L, v.exec.getLsbD L = true ∧ l * 128 < off + L * w + w ∧ off + L * w < (l + 1) * 128

end Sys2Proof.Stated

/-- R313 to R315: ACOPY, and ACOPYM into the grant of each team of its mask, begin an operation of the rows that the descriptor gives;
nothing is moved at the issue. -/
def Sys2Proof.Stated.CopiesBegin : Prop :=
  (∀ (p : LE) (se de : End) (sa da : Nat) (objs : List (Nat × Nat)) (s : State) (v : View), Ready s v (uses (.acopy p)) → NoWeirs s v →
    v.ln.owns = [] → CopyFits p (copyDesc v.g p.a) →
    let c := copyDesc v.g p.a
    let s' := fillPeers s v [if p.sk = 0 then c.src else 0, if p.dk = 0 then c.dst else 0]
    CopyEnd s' v false p.sk c.src c.ss c.bytes c.rows se sa → CopyEnd s' v true p.dk c.dst c.ds c.bytes c.rows de da →
    (copyPlace v p.sk c.src).1 ≠ (copyPlace v p.dk c.dst).1
      ∨ rowsOverlap (copyPlace v p.sk c.src).2 c.ss (copyPlace v p.dk c.dst).2 c.ds c.bytes c.rows = false →
    (∀ id, de = .team id → LinesFree s id (RowLine da c.ds c.bytes c.rows)) →
    ObjsOf s v p.c [match de with | .team id => id | .glob => v.g.team] objs →
    Changes v (exec (.acopy p) s) (depW {} p.dep) (fun t h => ∃ o : EngOp, Accepted s t v h p.dep o (RowLine da c.ds c.bytes c.rows)
      ∧ o.kind = .rows ∧ o.src = se ∧ o.dsts = [de] ∧ o.srcAddr = sa ∧ o.dstAddr = da ∧ o.bytes = c.bytes ∧ o.rows = c.rows
      ∧ o.sstride = c.ss ∧ o.dstride = c.ds ∧ o.objs = objs))
  ∧ ∀ (p : LE) (f : Nat → Nat) (objs : List (Nat × Nat)) (s : State) (v : View), Ready s v (uses (.acopym p)) → NoWeirs s v →
    v.ln.owns = [] → CopyFits p (copyDesc v.g p.a) → p.sk = 0 → p.dk = 1 →
    let c := copyDesc v.g p.a
    let m := (bsval v.g p.b).toNat
    let size := v.ln.kern.cluW * v.ln.kern.cluH
    let ts := ((List.range size).filter fun r => m.testBit r).map f
    isRemote c.src = false → CopyEnd s v false 0 c.src c.ss c.bytes c.rows .glob c.src → m ≠ 0 → m < 2 ^ size →
    (∀ r, m.testBit r = true → teamOfRank s v.tm.launch v.tm.cluster r = some (f r)
      ∧ ∃ x, team? s (f r) = some x ∧ x.st ≠ .retired ∧ c.dst + ((c.rows - 1) * c.ds + c.bytes) ≤ x.scrBytes) →
    (∀ id, id ∈ ts → LinesFree s id (RowLine c.dst c.ds c.bytes c.rows)) → ObjsOf s v p.c ts objs →
    Changes v (exec (.acopym p) s) (depW {} p.dep) (fun t h => ∃ o : EngOp, Accepted s t v h p.dep o (RowLine c.dst c.ds c.bytes c.rows)
      ∧ o.kind = .rows ∧ o.src = .glob ∧ o.dsts = ts.map .team ∧ o.srcAddr = c.src ∧ o.dstAddr = c.dst ∧ o.bytes = c.bytes
      ∧ o.rows = c.rows ∧ o.sstride = c.ss ∧ o.dstride = c.ds ∧ o.objs = objs)

/-- R313 and R315: AGATH begins a copy of one element for each lane of EXEC from its global address to its place in a grant, ASCAT from its
place in the own grant to its global address. -/
def Sys2Proof.Stated.ElementCopiesBegin : Prop :=
  ∀ (p : LE) (id o0 : Nat) (objs : List (Nat × Nat)) (s : State) (v : View), NoWeirs s v → v.ln.owns = [] → p.w ≤ 2 →
    let w := 4 * 2 ^ p.w
    let span := ((lanesOf v.exec).foldl max 0 + 1) * w
    (∀ e, e ∈ elemsOf v p → e.2 + w ≤ 2 ^ 57 ∧ e.2 % w = 0) →
    (Ready s v (uses (.agath p)) → p.sk = 0 → ScrEnd s v p.dk (sget v.g p.d).toNat span id o0 → LinesFree s id (ElemLine v o0 w) →
      ObjsOf s v p.c [id] objs →
      Changes v (exec (.agath p) s) (depW {} p.dep) (fun t h => ∃ o : EngOp, Accepted s t v h p.dep o (ElemLine v o0 w)
        ∧ o.kind = .gather ∧ o.src = .glob ∧ o.dsts = [.team id] ∧ o.dstAddr = o0 ∧ o.bytes = w ∧ o.elems = elemsOf v p ∧ o.objs = objs))
    ∧ (Ready s v (uses (.ascat p)) → p.sk = 1 → p.dk = 0 → ScrEnd s v 1 (sget v.g p.d).toNat span id o0 →
      (∀ e, e ∈ elemsOf v p → ∀ x, x ∈ v.cx.regions → x.kind = 2 ∨ x.kind = 4 → x.limit ≤ e.2 ∨ e.2 + w ≤ x.base) →
      ObjsOf s v p.c [v.g.team] objs →
      Changes v (exec (.ascat p) s) (depW {} p.dep) (fun t h => ∃ o : EngOp, Accepted s t v h p.dep o (fun _ => False)
        ∧ o.kind = .scatter ∧ o.src = .team id ∧ o.dsts = [.glob] ∧ o.srcAddr = o0 ∧ o.bytes = w ∧ o.elems = elemsOf v p ∧ o.objs = objs))

/-- R318: ACANCEL ends every operation of its group, or those that name its object. -/
def Sys2Proof.Stated.CancelEnds : Prop :=
  ∀ (p : LE) (s : State) (v : View), Ready s v (uses (.acancel p)) → NoWeirs s v →
    Changes v (exec (.acancel p) s) (depW {} p.dep) (fun t h => Counted v.g h p.dep
      ∧ ∀ k o, (k, o) ∈ s.ops → o.gid = v.is.gid → p.c = 0x80 ∨ o.objOff = some (sget v.g p.c).toNat → mget? t.ops o.id = none)

/-- R316, R308, R317: a beat writes the next bytes of an operation's source at its destination, or at each of them, and nothing else; a
source or destination of a peer is reached by a request, whose answer moves the operation on. An operation that has written all of its
bytes ends and lowers its object; one with an error ends with a trap for its group's next issue, and its object, lowered by every byte,
shows the error. -/
def Obligations.EnginesMove : Prop :=
  (∀ (s : State) (o : EngOp), mget? s.ops s.ev.a = some o → o.id = s.ev.a → QuietCore s o.gid →
    let p := engPiece o o.done
    (∀ bs bad, engReady s o = true → engTouch s o p = s → LinesWhole s → (∀ b, b ∈ bs → b < 256) → (∀ x, x ∈ bad → x = false) →
      endRead s o (endAt s o o.src p.src p.n false) p.n = some (bs, bad) →
      (∀ d k va c, o.dsts = [d] → endAt s o d p.dst p.n true = .key k va → ctx? s o.ctx = some c → ∃ t, exec .engineBeat s = .next t
        ∧ Beaten s t o p.n
        ∧ (regionKind c va ≠ 1 → readBytes t k p.n = bs ∧ ∀ a, ¬ Covers k p.n a → readByte t a = readByte s a)
        ∧ (regionKind c va = 1 → coreBytes t o.core c.pasid k p.n = bs ∧ (∀ a, readByte t a = readByte s a)
          ∧ ∀ a, ¬ Covers k p.n a → coreByte t o.core c.pasid a = coreByte s o.core c.pasid a))
      ∧ (∀ ids, o.dsts = ids.map End.team → ids ≠ [] → ids.Nodup →
        (∀ id, id ∈ ids → endAt s o (.team id) p.dst p.n true = .grant id p.dst) → ∃ t, exec .engineBeat s = .next t
        ∧ Beaten s t o p.n ∧ (∀ x, readByte t x = readByte s x)
        ∧ ∀ id tt, team? s id = some tt → ∃ tt', team? t id = some tt'
          ∧ (id ∈ ids → scrBytesOf tt' p.dst p.n = bs) ∧ ∀ x, id ∉ ids ∨ ¬ Covers p.dst p.n x → mget tt'.scr 0 x = mget tt.scr 0 x)
      ∧ ∀ d a e, o.dsts = [d] → endAt s o d p.dst p.n true = .remote a → peerGrants s o.ctx a (remPerm .st) = some e →
        ∃ t, exec .engineBeat s = .next t ∧ EngRequested s t o e a .st p.n bs)
    ∧ (∀ a e, engReady s o = true → endAt s o o.src p.src p.n false = .remote a →
      (∀ d x, d ∈ o.dsts → endAt s o d p.dst p.n true ≠ .deny ∧ endAt s o d p.dst p.n true ≠ .page x) →
      peerGrants s o.ctx a (remPerm .ld) = some e → ∃ t, exec .engineBeat s = .next t ∧ EngRequested s t o e a .ld p.n [])
    ∧ (engTotal o ≤ o.done → o.err = none → ∃ t, exec .engineOpDone s = .next t ∧ mget? t.ops s.ev.a = none
      ∧ (∀ id tt l, team? t id = some tt → mget? tt.absent l ≠ some s.ev.a)
      ∧ ∀ id x tt tt', o.objs = [(id, x)] → team? s id = some tt → (bobjGet tt x).valid = true → (bobjGet tt x).err = false →
        -(2 ^ 31) ≤ (bobjGet tt x).pbytes - engTotal o → team? t id = some tt' →
        bobjGet tt' x = settled { bobjGet tt x with pbytes := (bobjGet tt x).pbytes - engTotal o })
    ∧ ∀ tr g, o.err = some tr → group? s o.gid = some g → g.exited = false →
      (o.objs = [] → ∃ t h, exec .engineOpError s = .next t ∧ mget? t.ops s.ev.a = none ∧ group? t o.gid = some h
        ∧ h.engTrap = g.engTrap ++ [(tr, [])] ∧ RegsKept g h {})
      ∧ ∀ id x tt, o.objs = [(id, x)] → team? s id = some tt → (bobjGet tt x).valid = true → (bobjGet tt x).err = false → tr.cause < 256 →
        -(2 ^ 31) ≤ (bobjGet tt x).pbytes - engTotal o → (∀ q y, q ∈ tt.groups → group? s q = some y → bwaiters y x = 0) →
        (∀ k, k < engTotal o → (engPiece o k).dst + (engPiece o k).n ≤ x ∨ x + 16 ≤ (engPiece o k).dst) →
        ∃ t h tt', exec .engineOpError s = .next t ∧ mget? t.ops s.ev.a = none ∧ group? t o.gid = some h
          ∧ h.engTrap = g.engTrap ++ [(tr, [(id, x)])] ∧ RegsKept g h {} ∧ team? t id = some tt'
          ∧ bobjGet tt' x = settled { bobjGet tt x with pbytes := (bobjGet tt x).pbytes - engTotal o, err := true, ecause := tr.cause })
  ∧ ∀ (s : State) (r : Rem) (o : EngOp), mget? s.rems s.ev.a = some r → r.id = s.ev.a → r.who = .op o.id → mget? s.ops o.id = some o →
    o.gid ∈ mkeys s.groups → QuietCore s o.gid →
    let p := engPiece o o.done
    (r.ready = some .ack → ∃ t o', exec .remoteAnswer s = .next t ∧ mget? t.ops o.id = some o' ∧ o'.done = o.done + r.msg.width
      ∧ o'.req = none ∧ o'.err = o.err ∧ mget? t.rems s.ev.a = none ∧ ∀ x, readByte t x = readByte s x)
    ∧ (r.ready = some .poison → ∃ t o' tr, exec .remoteAnswer s = .next t ∧ mget? t.ops o.id = some o' ∧ o'.err = some tr ∧ tr.cause = 0x06
      ∧ tr.faddr = BitVec.ofNat 64 r.addr ∧ ∀ x, readByte t x = readByte s x)
    ∧ ∀ id bs, r.ready = some (.data bs) → r.msg.op = .ld → bs.length = p.n → (∀ b, b ∈ bs → b < 256) → o.dsts = [.team id] →
      endAt s o (.team id) p.dst p.n true = .grant id p.dst → ∃ t o' tt', exec .remoteAnswer s = .next t ∧ mget? t.ops o.id = some o'
        ∧ o'.done = o.done + p.n ∧ o'.req = none ∧ team? t id = some tt' ∧ scrBytesOf tt' p.dst p.n = bs

/-! ### Matrix operations and tiles (R345 to R376) -/

namespace Sys2Proof.Stated

/-- The dense and sparse matrix instructions: fields, shape, residual, joint or solo. -/
inductive MmaWord : Instr → LX → Nat → Bool → Bool → Prop
  | mma (p sh r) : MmaWord (.mma p sh r) p sh r false
  | mmas (p sh r) : MmaWord (.mmas p sh r) p sh r false
  | mmaj (p sh r) : MmaWord (.mmaj p sh r) p sh r true
  | mmajs (p sh r) : MmaWord (.mmajs p sh r) p sh r true

/-- The register that B names. -/
def bReg0 (b : Src) : Nat := match b with | .reg n | .scal n | .imm n => n

/-- The operands that an operation has captured at its issue: the spans of A, of the metadata and of B (R352 to R356, R365). -/
structure Captured (v : View) (p : LX) (o : MatOp) : Prop where
  a : ∀ r L, r < (mmaSpans p).1 → L < 32 → mget o.regs 0 (r * 32 + L) = vget v.g (p.a + r) L
  c : ∀ r L, r < (mmaSpans p).2.2 → L < 32 → mget o.regs 0 ((128 + r) * 32 + L) = vget v.g (p.c + r) L
  b : ∀ r L, r < (mmaSpans p).2.1 → L < 32 → mget o.bq 0 (r * 32 + L) = vget v.g (bReg0 p.b + r) L

/-- An operation of the issue. -/
structure IssuedAs (v : View) (i : Instr) (o : MatOp) (word : Nat) : Prop where
  ins : o.ins = i
  word : o.word = word
  who : o.gid = v.is.gid ∧ o.team = v.g.team ∧ o.core = v.tm.core ∧ o.exec = v.exec ∧ o.pc = v.is.pc
  quad : o.quad = quadKey v.tm.core (quadOf v.g)
  new : o.begun = false

/-- The array of the issuing quad has accepted an operation after those that it held; nothing else has changed (R345). -/
structure Queued (s t : State) (v : View) (h : Group) (dep : Option Nat) (o : MatOp) : Prop extends RestKept s t v.is.gid where
  counted : Counted v.g h dep
  last : (quad t o.quad).queue = (quad s o.quad).queue ++ [o]

/-- A word of a tile instruction: bit fields (R362, R366, R371). -/
def wordOf (v : View) (r : Nat) : Nat := (sget v.g r).toNat

/-- The quads and blocks of a request word (R366). -/
def InRequest (g : Group) (w q b : Nat) : Prop := q ∈ (reqOf g w).1 ∧ (reqOf g w).2.1 ≤ b ∧ b < (reqOf g w).2.1 + (reqOf g w).2.2

/-- The request word of TALLOC and TFREE is well formed (R366). -/
def RequestOk (g : Group) (w : Nat) : Prop := reqResv w = false ∧ 1 ≤ (reqOf g w).2.2 ∧ (reqOf g w).2.1 + (reqOf g w).2.2 ≤ 16

/-- A team's blocks and tile words after TALLOC or TFREE: the blocks of the request are held, or not, and read as zero; the others are as
they were (R367, R368). -/
structure BlocksSet (g : Group) (tt tt' : Team) (w : Nat) (held : Bool) : Prop where
  rest : { tt' with blocks := tt.blocks, tile := tt.tile, tilePois := tt.tilePois } = tt
  ours : ∀ q b, q < 4 → b < 16 → InRequest g w q b → blockHeld tt' q b = held
  others : ∀ q b, q < 4 → b < 16 → ¬ InRequest g w q b → blockHeld tt' q b = blockHeld tt q b
  zero : ∀ q row col, q < 4 → row < 256 → col < 128 → InRequest g w q (row / 16) → tileGet tt' q row col = 0
  kept : ∀ q row col, q < 4 → row < 256 → col < 128 → ¬ InRequest g w q (row / 16) → tileGet tt' q row col = tileGet tt q row col

/-- A tile store word of a team after an operation: `f` gives the words that change. -/
structure TileIs (tt tt' : Team) (q : Nat) (f : Nat → Nat → Option Word) : Prop where
  new : ∀ row col x, row < 256 → col < 128 → f row col = some x → tileGet tt' q row col = x
  kept : ∀ q' row col, q' < 4 → row < 256 → col < 128 → (q' = q → f row col = none) → tileGet tt' q' row col = tileGet tt q' row col

/-- Row `row` and column `col` lie in a rectangle. -/
def InRect (r : Rect) (row col : Nat) : Prop := r.row ≤ row ∧ row ≤ r.last ∧ r.col ≤ col ∧ col < r.col + r.ncol

/-- Element `k` of row `m` of A, or column `m` of B, of an .i8 operation (R352, R353): a byte of its captured registers. -/
def i8Elem (m : AMap Word) (base r k : Nat) : Int :=
  (BitVec.ofNat 8 ((mget m 0 ((base + k / 4 % 48) * 32 + (16 * (k / 4 / 48) + r))).toNat / 2 ^ (8 * (k % 4)))).toInt

/-- The head of an array's queue is an operation that has begun, with its team; its word has nothing to count. -/
structure Head (s : State) (o : MatOp) (tt : Team) : Prop where
  head : ∃ r, (quad s (quadKey s.ev.a s.ev.b)).queue = o :: r
  begun : o.begun = true
  team : team? s o.team = some tt
  cnt : ∀ g f, group? s o.gid = some g → f ∈ g.fly → f.cnt = []

/-- Where the tile of a matrix operation lies is allowed (R362). -/
structure Placed (o : MatOp) (cty : Ty) (joint r : Bool) : Prop where
  row : bitsOf o.word 0 8 % 16 = 0
  col : bitsOf o.word 8 7 + colSpan cty joint ≤ 128
  rrow : r = true → bitsOf o.word 16 8 % 16 = 0 ∧ bitsOf o.word 16 8 ≠ bitsOf o.word 0 8

end Sys2Proof.Stated

/-- R345, R346, R362 to R365: with all lanes in EXEC, a placement word that is allowed and no other member pending, a solo matrix word
captures its operands and joins its quad's array; a joint one joins the pending operation of its quartet, and the fourth member sends the
operation to all four arrays. -/
def Obligations.MatrixWordsIssue : Prop :=
  ∀ (i : Instr) (p : LX) (sh : Nat) (r joint : Bool) (s : State) (v : View), MmaWord i p sh r joint → Ready s v (uses i) → NoWeirs s v →
    v.exec = allLanes → bitsOf (wordOf v p.d) 24 8 = 0 → (wordOf v p.d).testBit 15 = false →
    placeBad v.tm (quadOf v.g) (wordOf v p.d) p.cty joint r = false →
    (joint = false → Changes v (exec i s) (depW {} p.dep) (fun t h => ∃ o, IssuedAs v i o (wordOf v p.d) ∧ Captured v p o
      ∧ Queued s t v h p.dep o))
    ∧ (joint = true → v.g.idx < 4 * v.ln.kern.quartets →
      let key := jointKey v.g.team (v.g.idx / 4)
      let me := v.g.idx % 4
      let par := [opOf v.w0.toNat, sh + (if r then 16 else 0), tyCode p.aty, tyCode p.cty, p.sp]
      (mget? s.joints key = none → Changes v (exec i s) (depW {} p.dep) (fun t h => Counted v.g h p.dep ∧ RestKept s t v.is.gid
        ∧ ∃ j o, mget? t.joints key = some j ∧ j.members = [(me, o)] ∧ j.params = par ∧ IssuedAs v i o (wordOf v p.d) ∧ Captured v p o))
      ∧ (∀ j, mget? s.joints key = some j → mget? j.members me = none → j.params ≠ par → exec i s = .next (trapEntryLanes s v 0x02))
      ∧ (∀ j, mget? s.joints key = some j → mget? j.members me = none → j.params = par → j.members.length < 3 →
        Changes v (exec i s) (depW {} p.dep) (fun t h => Counted v.g h p.dep ∧ RestKept s t v.is.gid
          ∧ ∃ j' o, mget? t.joints key = some j' ∧ j'.members = mput j.members me o ∧ IssuedAs v i o (wordOf v p.d) ∧ Captured v p o))
      ∧ (∀ j, mget? s.joints key = some j → mget? j.members me = none → j.params = par → j.members.length = 3 → j.team = v.g.team →
        j.quartet = v.g.idx / 4 →
        Changes v (exec i s) (depW {} p.dep) (fun t h => Counted v.g h p.dep ∧ mget? t.joints key = none
          ∧ (∃ o', o' ∈ (quad t (quadKey v.tm.core (quadOf v.g))).queue ∧ o'.ins = i ∧ o'.gid = v.is.gid)
          ∧ ∀ e, e ∈ j.members → ∃ o', o' ∈ (quad t e.2.quad).queue ∧ o'.ins = e.2.ins ∧ o'.gid = e.2.gid ∧ o'.regs = e.2.regs)))

/-- R367, R368, R370: TALLOC grants all the blocks of its request or none, and says which in its predicate; TFREE gives them back where no
operation in the arrays targets them; TSTAT reads the blocks held and TBMIN, or the free ones. -/
def Sys2Proof.Stated.TileBlocks : Prop :=
  ∀ (p : LX) (s : State) (v : View), NoWeirs s v →
    let w := wordOf v p.a
    let pd : Written := { p := fun n L => n = p.d ∧ v.exec.getLsbD L = true }
    let fits : Prop := ∀ q, q ∈ (reqOf v.g w).1 → (reqOf v.g w).2.2 ≤ freeBlocks s v.tm.core q
    (Ready s v (uses (.talloc p)) → RequestOk v.g w → (∀ q b, InRequest v.g w q b → blockHeld v.tm q b = false) →
      (fits → Changes v (exec (.talloc p) s) pd (fun t h => (∀ L, v.exec.getLsbD L = true → (pget h p.d).getLsbD L = true)
        ∧ ElseKept s t v.is.gid ∧ (∀ a, readByte t a = readByte s a) ∧ ∃ tt, team? t v.g.team = some tt ∧ BlocksSet v.g v.tm tt w true))
      ∧ (¬ fits → Completes s v (exec (.talloc p) s) pd (fun h => ∀ L, v.exec.getLsbD L = true → (pget h p.d).getLsbD L = false) True))
    ∧ (Ready s v (uses (.tfree p)) → RequestOk v.g w → (∀ q b, InRequest v.g w q b → mget? v.tm.blocks (q * 16 + b) = some true) →
      blocksBusy s v.g.team v.tm.core (reqOf v.g w).1 (reqOf v.g w).2.1 (reqOf v.g w).2.2 = false →
      Changes v (exec (.tfree p) s) {} (fun t _ => ElseKept s t v.is.gid ∧ (∀ a, readByte t a = readByte s a)
        ∧ ∃ tt, team? t v.g.team = some tt ∧ BlocksSet v.g v.tm tt w false))
    ∧ (Ready s v (uses (.tstat p)) → Completes s v (exec (.tstat p) s) { s := (· = p.d) }
        (fun h => (p.b = .imm 0 → (∀ b, b < 16 → (sget h p.d).getLsbD b = blockHeld v.tm (quadOf v.g) b)
            ∧ (v.ln.kern.tbMin < 2 ^ 16 → (sget h p.d).toNat / 2 ^ 16 = v.ln.kern.tbMin))
          ∧ (p.b ≠ .imm 0 → (sget h p.d).toNat = freeBlocks s v.tm.core (quadOf v.g) % 2 ^ 32)) True)

/-- R369, R371 to R375: TZERO, TLD, TST, TREAD, TWRITE and TSCALE with allowed words join the array of their quad; TLD and TWRITE have
captured what they write. -/
def Sys2Proof.Stated.TileWordsIssue : Prop :=
  ∀ (p : LX) (s : State) (v : View), NoWeirs s v →
    let w := wordOf v p.a
    let q := quadOf v.g
    let r := rectOf w
    let off := (bsval v.g p.b).toNat
    let st := wordOf v p.c
    let queued (i : Instr) (a1 a2 : Nat) (more : MatOp → Prop) : Prop := Ready s v (uses i) →
      Changes v (exec i s) (depW {} p.dep) (fun t h => ∃ o, IssuedAs v i o w ∧ o.arg1 = a1 ∧ o.arg2 = a2 ∧ more o ∧ Queued s t v h p.dep o)
    let moved : Prop := rectResv w = false ∧ off + (r.last - r.row) * st + r.ncol * 4 ≤ v.tm.scrBytes ∧ off % 4 = 0 ∧ st % 4 = 0
      ∧ rectBad v.tm q r = false ∧ ∀ y, y ≤ r.last - r.row → lineAbsent v.tm (off + y * st) (r.ncol * 4) = none
    (bitsOf w 13 19 = 0 → bitsOf w 0 8 % 16 = 0 → 1 ≤ bitsOf w 8 5 → bitsOf w 8 5 ≤ 16 → bitsOf w 0 8 + 16 * bitsOf w 8 5 ≤ 256 →
      rowsHeld v.tm q (bitsOf w 0 8) (bitsOf w 0 8 + 16 * bitsOf w 8 5 - 1) = true → queued (.tzero p) 0 0 fun _ => True)
    ∧ (moved → queued (.tld p) off st fun o => ∀ y x, y ≤ r.last - r.row → x < r.ncol →
        (mget o.regs 0 (y * r.ncol + x)).toNat = scrNat v.tm (off + y * st + x * 4) 4)
    ∧ (moved → (r.row < r.last → r.ncol * 4 ≤ st) → queued (.tst p) off st fun _ => True)
    ∧ (bitsOf w 15 17 = 0 → bitsOf w 0 8 + 16 ≤ 256 → bitsOf w 8 7 + 16 ≤ 128 → rowsHeld v.tm q (bitsOf w 0 8) (bitsOf w 0 8 + 15) = true →
      queued (.tread p) 0 0 (fun _ => True)
      ∧ queued (.twrite p) 0 0 fun o => ∀ j L, j < 8 → L < 32 → mget o.regs 0 (j * 32 + L) = vget v.g (p.d + j) L)
    ∧ (rectResv w = false → rectBad v.tm q r = false → (p.cty = .f64 → r.col % 2 = 0 ∧ r.ncol % 2 = 0) →
      queued (.tscale p) off 0 fun _ => True)

/-- R345, R369, R373 to R375: the oldest operation of an array begins and then writes: zeros, a rectangle from the scratchpad, a rectangle
to it, registers from a tile, a tile from registers, or elements scaled by a power of two; nothing else of the tile store changes. -/
def Sys2Proof.Stated.TileOperationsEnd : Prop :=
  ∀ (s : State) (o : MatOp) (tt : Team), Head s o tt → o.jid = 0 →
    let q := o.quad % 4
    let r := rectOf o.word
    let row := bitsOf o.word 0 8
    let col := bitsOf o.word 8 7
    let ends (R : State → Team → Prop) : Prop := ∃ t tt', exec .matrixOpDone s = .next t ∧ team? t o.team = some tt'
      ∧ (∃ rest, (quad s (quadKey s.ev.a s.ev.b)).queue = o :: rest ∧ (quad t (quadKey s.ev.a s.ev.b)).queue = rest) ∧ R t tt'
    (∀ p, o.ins = .tzero p → row + 16 * bitsOf o.word 8 5 ≤ 256 → ends fun _ tt' => TileIs tt tt' q fun y _ =>
        if row / 16 ≤ y / 16 ∧ y / 16 < row / 16 + bitsOf o.word 8 5 then some 0 else none)
    ∧ (∀ p, o.ins = .tld p → r.last < 256 → r.col + r.ncol ≤ 128 → ends fun _ tt' => TileIs tt tt' q fun y x =>
        if r.row ≤ y ∧ y ≤ r.last ∧ r.col ≤ x ∧ x < r.col + r.ncol then some (mget o.regs 0 ((y - r.row) * r.ncol + (x - r.col))) else none)
    ∧ (∀ p, o.ins = .tst p → r.last < 256 → r.col + r.ncol ≤ 128 → (r.row < r.last → r.ncol * 4 ≤ o.arg2) → ends fun _ tt' =>
        TileIs tt tt' q (fun _ _ => none) ∧ ∀ y x, y ≤ r.last - r.row → x < r.ncol →
          scrNat tt' (o.arg1 + y * o.arg2 + x * 4) 4 = (tileGet tt q (r.row + y) (r.col + x)).toNat)
    ∧ (∀ p, o.ins = .tread p → row + 16 ≤ 256 → col + 16 ≤ 128 → (group? s o.gid).isSome = true → ends fun t tt' =>
        TileIs tt tt' q (fun _ _ => none) ∧ ∀ h L j, group? t o.gid = some h → o.exec.getLsbD L = true → j < 8 →
          vget h (p.d + j) L = tileGet tt q (row + L % 16) (col + 8 * (L / 16) + j))
    ∧ (∀ p, o.ins = .twrite p → row + 16 ≤ 256 → col + 16 ≤ 128 → ends fun _ tt' => TileIs tt tt' q fun y x =>
        if row ≤ y ∧ y < row + 16 ∧ col ≤ x ∧ x < col + 16 ∧ o.exec.getLsbD (16 * ((x - col) / 8) + (y - row)) = true
        then some (mget o.regs 0 ((x - col) % 8 * 32 + (16 * ((x - col) / 8) + (y - row)))) else none)
    ∧ (∀ p, o.ins = .tscale p → p.cty = .f32 → r.last < 256 → r.col + r.ncol ≤ 128 → ends fun _ tt' => TileIs tt tt' q fun y x =>
        if r.row ≤ y ∧ y ≤ r.last ∧ r.col ≤ x ∧ x < r.col + r.ncol
        then some (BitVec.ofNat 32 (fScale .f32 .rne (fdec .f32 (tileGet tt q y x).toNat) (BitVec.ofNat 32 o.arg1).toInt).bits) else none)

/-- R345, R352, R353, R357, R360, R363: the array begins its oldest operation; a dense solo .i8 one leaves in each element of its tile the
accumulator plus or minus the sum of the products, modulo 2^32; a floating-point one leaves the element that the summation order gives. -/
def Sys2Proof.Stated.MatrixOperationsEnd : Prop :=
  (∀ (s : State) (o : MatOp) (r : List MatOp), (quad s (quadKey s.ev.a s.ev.b)).queue = o :: r → o.begun = false →
    ∃ t, exec .matrixOpBegin s = .next t ∧ (quad t (quadKey s.ev.a s.ev.b)).queue = { o with begun := true } :: r
      ∧ (∀ id, team? t id = team? s id) ∧ ∀ a, readByte t a = readByte s a)
  ∧ (∀ (s : State) (o : MatOp) (tt : Team) (p : LX) (sh : Nat), Head s o tt → o.jid = 0 → o.ins = .mma p sh false → p.aty = .i8 →
    p.cty = .i32 → p.sp = 0 → Placed o .i32 false false →
    ∃ t tt', exec .matrixOpDone s = .next t ∧ team? t o.team = some tt' ∧ ∀ m n, m < 16 → n < 16 →
      let row := bitsOf o.word 0 8 + m
      let col := bitsOf o.word 8 7 + n
      let sum := (List.range 384).foldl (fun a k => a + i8Elem o.regs 0 m k * i8Elem o.bq 0 n k) (0 : Int)
      let acc : Int := if sh % 2 = 1 then 0 else (tileGet tt (o.quad % 4) row col).toInt
      tileGet tt' (o.quad % 4) row col = BitVec.ofInt 32 (if sh / 2 % 2 = 1 then acc - sum else acc + sum))
  ∧ ∀ (s : State) (o : MatOp) (tt : Team) (x : MPar), Head s o tt → o.jid = 0 → mPar o.ins = some x → x.joint = false →
    x.p.aty ≠ .i8 → x.p.cty ∈ [Ty.f64, .f32, .f16, .bf16] → Placed o x.p.cty false x.r →
    ∃ t tt', exec .matrixOpDone s = .next t ∧ team? t o.team = some tt' ∧ ∀ m n, m < 16 → n < 16 →
      let aty := x.p.aty
      let cty := x.p.cty
      let sp := if x.sparse then x.p.sp else 0
      let row := bitsOf o.word 0 8 + m
      let rrow := bitsOf o.word 16 8 + m
      let col := bitsOf o.word 8 7 + n * tyRegs1 cty
      let a := lineVals aty o.regs (aScaleBase sp) m (if sp = 0 then denseLine aty o.regs 0 m else sparseLine aty sp o.regs m)
      let b := lineVals aty o.bq 48 n (denseLine aty o.bq 0 n)
      let acc : List FV := if x.shape % 2 = 1 then [] else fdec cty (tileElem tt (o.quad % 4) row col cty)
        :: (if x.r then [fdec cty (tileElem tt (o.quad % 4) rrow col cty)] else [])
      let e := mElem aty cty (x.shape / 2 % 2 == 1) x.r a b acc
      tileElem tt' (o.quad % 4) row col cty = e.main % 2 ^ fWidth cty ∧ (x.r = true → tileElem tt' (o.quad % 4) rrow col cty = e.res % 2 ^ fWidth cty)

/-! ### Remote accesses, counters, collectives and layers (R378 to R416) -/

namespace Sys2Proof.Stated

/-- The bytes of the value of type `t` that register `d` begins in a lane. -/
def valueBytes (v : View) (t : Ty) (d L : Nat) : List Nat := (List.range (tyN t)).flatMap fun j => leBytes (cbytes t) (compBits v.g t d L j)

/-- The remote loads and stores: DEP, the type, and for each lane the remote address, the operation and the bytes sent (R398). -/
inductive RemWord (v : View) : Instr → Option Nat → Ty → (Nat → Nat) → RemOp → (Nat → List Nat) → Prop
  | rld (p) : RemWord v (.rld p) p.dep p.ty (eaOf2 v p) .ld (fun _ => [])
  | rst (p) : RemWord v (.rst p) p.dep p.ty (eaOf2 v p) .st (valueBytes v p.ty p.d)
  | rstCnt (p) : RemWord v (.rstCnt p) p.dep p.ty (fun L => ((sget64 v.g p.a).toNat + idxOf v.g p.b L) % 2 ^ 64) (.stCnt (p.off % 256))
      (valueBytes v p.ty p.d)

/-- A request is outstanding for the lanes `m` of a word in flight: to the device of the peer entry that grants the operation at `ea`; it
has been sent, or its answer is already poison because no route leads there (R397, R399). -/
structure Requested (s' t : State) (v : View) (q : Nat) (m : Word) (ea : Nat) (op : RemOp) (width : Nat) (data : List Nat) (cmp : Nat) :
    Prop where
  sent : ∃ r p, mget? t.rems r.id = some r ∧ r.who = .lanes v.is.gid q m ∧ r.addr = ea
    ∧ peerGrants s' v.g.ctx ea (remPerm op) = some p ∧ r.dev = p.dev ∧ r.rclass = p.rclass
    ∧ r.msg = remMsg p ea op width data cmp ∧ (r.ready = none ↔ routeOk s' p.dev p.rclass = true)

/-- The requests of a remote word, and what else its issue does: DEP counts, the lanes of EXEC wait at the word, memory and the rest of
the machine stay. -/
structure RemoteWaits (s t : State) (v : View) (h : Group) (dep : Option Nat) (q : Nat) : Prop extends RestKept s t v.is.gid where
  counted : Counted v.g h dep
  waits : StopsIn v (.park (.remote q)) h

/-- The lanes of EXEC that name the address of lane `L`, ascending (R400). -/
def sameEa (v : View) (ea : Nat → Nat) (L : Nat) : List Nat := (lanesOf v.exec).filter fun M => ea M == ea L

/-- The checks of R397 at the requester pass. -/
def RemPasses (s' : State) (v : View) (t : Ty) (ea : Nat → Nat) (op : RemOp) : Prop :=
  ∀ L, v.exec.getLsbD L = true → isRemote (ea L) = true ∧ ea L % tyAlign t = 0 ∧ (peerGrants s' v.g.ctx (ea L) (remPerm op)).isSome = true

/-- The tables after the entries that the lanes of EXEC name have been read (R394). -/
def peersRead (s : State) (v : View) (ea : Nat → Nat) : State := fillPeers s v ((lanesOf v.exec).map ea)

/-- A counter of the issuing context that can be reached now, at the key `k`, on a page whose translation the core's L1 TLB holds
(R403, R404). -/
structure OwnCounter (s : State) (v : View) (c k : Nat) (need : Need) : Prop where
  range : c ≤ 255
  cen : ∃ a tr host, counterAt s v.g.ctx c = some a ∧ entOf (coreTlb s v.tm.core) v.cx.pasid a = some tr ∧ useTrans tr a need = .ok k host
    ∧ deniedFor s (.fetch v.is.gid v.is.pc) a = false

/-- Each lane of the issue's context that waits on a counter can read it: its core's L1 TLB holds the page, and the counter is not
poisoned (R404). -/
def WaitsRead (s : State) (v : View) : Prop :=
  ∀ e c a, e ∈ s.groups → e.2.ctx = v.g.ctx → c ∈ cwaitsFor e.2 → counterAt s v.g.ctx c = some a →
    ∃ tr k host, entOf (coreTlb s (coreOf s e.2)) v.cx.pasid a = some tr ∧ useTrans tr a .rd = .ok k host ∧ poisoned s k 8 = false

/-- Layer `i` of a launch waits for its transfer: it is queued, or the stream transfers it (R378). -/
def LayerComing (s : State) (launch i : Nat) : Prop :=
  ∃ ln md, launch? s launch = some ln ∧ ln.model = some md ∧ (i ∈ md.rereq ∨ i ∈ md.initial ∨ md.cur.map (·.layer) = some i)

/-- The words of a COLL: the array addresses, COUNT, COMM, OP, TYPE, the bucket bit, SEQ and the root (R410). -/
structure CollWords where
  src : Nat
  dst : Nat
  count : Nat
  comm : Nat
  op : Nat
  ty : Nat
  bucket : Bool
  resv : Nat
  seq : Nat
  root : Nat

/-- The words that scalar `a` begins. -/
def collWords (g : Group) (a : Nat) : CollWords :=
  { src := (sget64 g a).toNat, dst := (sget64 g (a + 2)).toNat, count := (sget g (a + 4)).toNat, comm := bitsOf (sget g (a + 5)).toNat 0 12,
    op := bitsOf (sget g (a + 5)).toNat 12 4, ty := bitsOf (sget g (a + 5)).toNat 16 5, bucket := (sget g (a + 5)).getLsbD 21,
    resv := bitsOf (sget g (a + 5)).toNat 22 10, seq := (sget g (a + 6)).toNat, root := (sget g (a + 7)).toNat }

/-- Element width: a block of a block-scaled array counts 36 bytes (R410, R413). -/
def collWidth (t : Ty) : Nat := if t = .e4m3 ∨ t = .e5m2 then 36 else tyBytes t
/-- Elements, or blocks of 32. -/
def collElems (t : Ty) (count : Nat) : Nat := if t = .e4m3 ∨ t = .e5m2 then count / 32 else count

/-- Bytes that a member reads at SRC and writes at DST (R410). -/
inductive CollSizes (t : Ty) (m rank count : Nat) : Nat → Nat → Nat → Prop
  | allReduce : CollSizes t m rank count 0 (collElems t count * collWidth t) (collElems t count * collWidth t)
  | reduceScatter : CollSizes t m rank count 1 (collElems t count * collWidth t)
      (((rank + 1) * collElems t count / m - rank * collElems t count / m) * collWidth t)
  | allGather : CollSizes t m rank count 2 (collElems t count * collWidth t) (m * (collElems t count * collWidth t))
  | allToAll : CollSizes t m rank count 3 (m * (collElems t count * collWidth t)) (m * (collElems t count * collWidth t))
  | broadcast : CollSizes t m rank count 4 (collElems t count * collWidth t) (collElems t count * collWidth t)

/-- The words of a COLL are allowed for a member of a communicator (R410). -/
structure CollFits (s' : State) (v : View) (c : CollWords) (e : CommEnt) (t : Ty) (ns nd : Nat) : Prop where
  ent : commEnt s' v.g.ctx c.comm = some e
  ty : tyOf c.ty = some t
  sizes : CollSizes t e.m e.rank c.count c.op ns nd
  kind : if c.op ≤ 1 then redType t = true else moveType t = true
  count : c.count ≠ 0 ∧ ((t = .e4m3 ∨ t = .e5m2) → c.count % 32 = 0)
  word : c.resv = 0 ∧ if c.op = 4 then c.root < e.m else c.root = 0
  top : ns ≤ 2 ^ 32 ∧ nd ≤ 2 ^ 32
  apart : nd = 0 ∨ c.src + ns ≤ c.dst ∨ c.dst + nd ≤ c.src ∨ c.op = 0 ∧ c.src = c.dst
  bucket : c.bucket = true → c.op ≤ 1 ∧ 2 ^ 22 ≤ ns ∧ ns ≤ 2 ^ 28
  seq : commNext s' v.g.ctx c.comm ≤ c.seq
  fresh : ∀ e, e ∈ s'.colls → e.2.slot = v.g.ctx → e.2.comm = c.comm → e.2.ended ≠ none
  align : let a := if t = .e4m3 ∨ t = .e5m2 then 4 else tyBytes t; c.src % a = 0 ∧ c.dst % a = 0
  range : c.src + ns ≤ 2 ^ 57 ∧ c.dst + nd ≤ 2 ^ 57
  kinds : ∀ x, x ∈ v.cx.regions → x.kind = 2 ∨ x.kind = 4 → x.limit ≤ c.dst ∨ c.dst + nd ≤ x.base

end Sys2Proof.Stated

/-- R396 to R399: where every lane of EXEC passes the requester's checks, RLD, RST and RST.CNT leave one request for each lane, with its
address, operation and bytes, and the lanes wait at the word; where a check fails, all of them trap: an address that is not remote with
0x04, else a misaligned one with 0x03, else a peer entry that does not grant the operation with 0x04. -/
def Sys2Proof.Stated.RemoteRequests : Prop :=
  ∀ (i : Instr) (dep : Option Nat) (ty : Ty) (ea : Nat → Nat) (op : RemOp) (data : Nat → List Nat) (s : State) (v : View),
    RemWord v i dep ty ea op data → Ready s v (uses i) →
    let s' := peersRead s v ea
    let near (L : Nat) : Prop := isRemote (ea L) = false
    let odd (L : Nat) : Prop := ea L % tyAlign ty ≠ 0
    let deny (L : Nat) : Prop := peerGrants s' v.g.ctx (ea L) (remPerm op) = none
    (RemPasses s' v ty ea op → Plain s v →
      Changes v (exec i s) (depW {} dep) (fun t h => ∃ q, RemoteWaits s t v h dep q
        ∧ ∀ L, v.exec.getLsbD L = true → Requested s' t v q (lbit L) (ea L) op (tyBytes ty) (data L) 0))
    ∧ ((∃ L, v.exec.getLsbD L = true ∧ near L) → FailsBy s s' v i 0x04 ea near)
    ∧ ((∀ L, v.exec.getLsbD L = true → ¬ near L) → (∃ L, v.exec.getLsbD L = true ∧ odd L) → FailsBy s s' v i 0x03 ea odd)
    ∧ ((∀ L, v.exec.getLsbD L = true → ¬ near L ∧ ¬ odd L) → (∃ L, v.exec.getLsbD L = true ∧ deny L) → FailsBy s s' v i 0x04 ea deny)

/-- R400: RATOM leaves one request for each address that the lanes of EXEC name: for ADD, MIN, MAX, AND, OR and XOR with the operands of
those lanes combined in lane order, else with the operand and the compare value of the lowest of them. -/
def Sys2Proof.Stated.RemoteAtomics : Prop :=
  ∀ (p : LT) (fn : AtomFn) (s : State) (v : View), Ready s v (uses (.ratom p fn)) → Plain s v →
    let ea := eaAtom v p
    let s' := peersRead s v ea
    let arg (L : Nat) : Nat := vbits v.g p.ty p.c L
    RemPasses s' v p.ty ea (.atom fn p.ty) →
    Changes v (exec (.ratom p fn) s) (depW {} p.dep) (fun t h => ∃ q, RemoteWaits s t v h p.dep q
      ∧ ∀ L, v.exec.getLsbD L = true → ∃ m, (∀ M, M < 32 → (m.getLsbD M = true ↔ v.exec.getLsbD M = true ∧ ea M = ea L))
        ∧ ∀ L0 r, sameEa v ea L = L0 :: r → Requested s' t v q m (ea L) (.atom fn p.ty) (tyBytes p.ty)
            (leBytes (tyBytes p.ty) (if fn ∈ [AtomFn.add, .min, .max, .and, .or, .xor]
              then r.foldl (fun x M => (atomNew fn p.ty x (arg M) 0).1) (arg L0) else arg L0))
            (if fn = .cas then vbits v.g p.ty p.d L0 else 0))

/-- R402: RFENCE lets its lanes go on where nothing that its group sent is unanswered, and holds them where a store, atomic or note is. -/
def Sys2Proof.Stated.RemoteFence : Prop :=
  ∀ (p : LS) (s : State) (v : View), Ready s v (uses (.rfence p)) → Plain s v →
    ((∀ e g q m, e ∈ s.rems → e.2.who = .lanes g q m → g = v.is.gid → e.2.msg.op = .ld) →
      (∀ e, e ∈ s.ops → e.2.gid = v.is.gid → isRemote e.2.dstAddr = false) →
      Completes s v (exec (.rfence p) s) (depW {} p.dep) (fun h => Counted v.g h p.dep ∧ GoesTo v (fun _ => v.npc) h) True)
    ∧ ∀ e q m, e ∈ s.rems → e.2.who = .lanes v.is.gid q m → q < s.nextId → e.2.msg.op ≠ .ld →
      Completes s v (exec (.rfence p) s) (depW {} p.dep)
        (fun h => Counted v.g h p.dep ∧ StopsIn v (.park (.rfence s.nextId)) h) True

/-- R416: BKNOTE adds to the fill of a posted bucket that has not started, and traps with 0x07 past its payload, which leaves the count as
it is, and with 0x02 where it names no such collective. -/
def Sys2Proof.Stated.BucketNotes : Prop :=
  ∀ (p : LS) (s : State) (v : View), Ready s v (uses (.bknote p)) → NoWeirs s v →
    let here (x : Coll) : Prop := x.slot = v.g.ctx ∧ x.comm = (sget v.g p.a).toNat ∧ x.seq = (bsval v.g p.b).toNat ∧ x.bucket = true
      ∧ x.started = false ∧ x.ended = none
    let n := (sget v.g p.c).toNat
    (∀ id c, mget? s.colls id = some c → here c → (∀ e, e ∈ s.colls → here e.2 → e = (id, c)) →
      (c.fill + n ≤ collPay c.ty c.block c.count → Changes v (exec (.bknote p) s) {} (fun t _ => RestKept s t v.is.gid
        ∧ mget? t.colls id = some { c with fill := c.fill + n } ∧ ∀ j, j ≠ id → mget? t.colls j = mget? s.colls j))
      ∧ (collPay c.ty c.block c.count < c.fill + n → exec (.bknote p) s = .next (trapAll s v 0x07 0)))
    ∧ ((∀ e, e ∈ s.colls → ¬ here e.2) → exec (.bknote p) s = .next (trapAll s v 0x02 0))

/-- R403, R404, R416: CWAIT goes on where its counter has reached the value and waits where it has not; CNOTE adds to a counter of the own
context, 64 bits that wrap, or sends the note to a peer; a counter above 255, or one without CEN, traps with 0x02; BKNOTE adds to the fill
of a bucket. -/
def Obligations.CompletionCounters : Prop :=
  Stated.BucketNotes
  ∧ ∀ (p : LS) (s : State) (v : View),
    let c := (bsval v.g p.b).toNat
    let a := (sget64 v.g p.a).toNat
    let n := (sget v.g p.c).toNat
    (∀ k, Ready s v (uses (.cwait p)) → Plain s v → OwnCounter s v c k .rd → poisoned s k 8 = false →
      (a ≤ readNat s k 8 → Completes s v (exec (.cwait p) s) {} (GoesTo v fun _ => v.npc) True)
      ∧ (readNat s k 8 < a → Completes s v (exec (.cwait p) s) {} (StopsIn v (.park (.cwait c a))) True))
    ∧ (∀ k, Ready s v (uses (.cnote p)) → Plain s v → OwnCounter s v c k .rw → WaitsRead s v → a = 0 →
      Changes v (exec (.cnote p) s) {} (fun t h => GoesTo v (fun _ => v.npc) h ∧ readNat t k 8 = (readNat s k 8 + n) % 2 ^ 64
        ∧ (∀ x, ¬ Covers k 8 x → readByte t x = readByte s x) ∧ t.teams = s.teams ∧ t.launches = s.launches ∧ t.ctxs = s.ctxs
        ∧ ∀ j g, j ≠ v.is.gid → group? s j = some g → ∃ g', group? t j = some g' ∧ RegsKept g g' {}))
    ∧ (Ready s v (uses (.cnote p)) → Plain s v → c ≤ 255 → isRemote a = true → remOff a = 0 →
      let s' := fillPeers s v [a]
      (peerGrants s' v.g.ctx a (remPerm (.note c))).isSome = true →
      Changes v (exec (.cnote p) s) {} (fun t h => ∃ q, RemoteWaits s t v h none q
        ∧ Requested s' t v q v.exec a (.note c) 0 (leBytes 8 n) 0))
    ∧ (∀ i, i ∈ [Instr.cwait p, .cnote p] → Ready s v (uses i) → 255 < c ∨ counterAt s v.g.ctx c = none ∧ (i = .cwait p ∨ a = 0) →
      exec i s = .next (trapAll s v 0x02 0))

/-- R410, R414, R416: COLL posts a collective with the words that it reads, which D's status follows; BKNOTE adds to the fill of a posted
bucket, and traps with 0x07 past its payload. -/
def Sys2Proof.Stated.CollectivesPost : Prop :=
  (∀ (p : LS) (e : CommEnt) (t : Ty) (ns nd : Nat) (s : State) (v : View), Ready s v (uses (.coll p)) → NoWeirs s v → v.ln.owns = [] →
    let c := collWords v.g p.a
    let s' := if (slotRegs s v.g.ctx).commCfg.testBit 0 then tabFill s v.g.ctx 3 c.comm (commKey s v.g.ctx c.comm) 32 else s
    CollFits s' v c e t ns nd →
    (p.c ≠ 0x80 → (sget v.g p.c).toNat ≤ 255 ∧ (slotRegs s v.g.ctx).expCnt.testBit 0 = true) →
    Changes v (exec (.coll p) s) (depW {} p.dep) (fun t' h => Counted v.g h p.dep ∧ RestKept s t' v.is.gid
      ∧ ∃ x : Coll, mget? t'.colls x.id = some x ∧ x.slot = v.g.ctx ∧ x.comm = c.comm ∧ x.cid = e.cid ∧ x.seq = c.seq ∧ x.m = e.m ∧ x.rank = e.rank
        ∧ x.src = c.src ∧ x.dst = c.dst ∧ x.count = c.count ∧ x.op = c.op ∧ x.ty = t ∧ x.bucket = c.bucket ∧ x.root = c.root
        ∧ x.members = e.members ∧ x.rclass = e.rclass
        ∧ x.counter = (if p.c = 0x80 then none else some (sget v.g p.c).toNat) ∧ x.dreg = p.d ∧ x.fill = 0 ∧ x.started = false
        ∧ x.ended = (if s.dev.linkDown = 0 then none else some 1)
        ∧ ∃ f, f ∈ h.fly ∧ f.seq = x.fly ∧ f.unit = true ∧ f.regs = [.s p.d]))
  ∧ BucketNotes

/-- R384, R388 to R390: LREQ returns a layer's state, clears a failure, and asks for a layer that is absent; LWAIT takes a hold of a
resident layer, traps with 0x09 at a failed one and with 0x0D at a poisoned flag word, and waits for another, which it asks for unless it
is arriving; LREL gives the hold back; LSTAT reads the state, the hold, the queue
and GEN. An index outside the table traps with 0x02. -/
def Sys2Proof.Stated.LayerInstructions : Prop :=
  ∀ (p : LS) (s : State) (v : View),
    let i := (bsval v.g p.b).toNat
    (∀ x, x ∈ [Instr.lreq p, .lwait p, .lrel p, .lstat p] → Ready s v (uses x) → layer? s v.g.launch i = none →
      exec x s = .next (trapAll s v 0x02 0))
    ∧ ∀ ly, layer? s v.g.launch i = some ly → NoWeirs s v →
      (Ready s v (uses (.lreq p)) → Changes v (exec (.lreq p) s) { s := (· = p.d) } (fun t h => sget h p.d = BitVec.ofNat 32 ly.state
        ∧ t.teams = s.teams ∧ (∀ id, id ≠ v.is.gid → group? t id = group? s id)
        ∧ (ly.state ≠ 3 → ∀ a, readByte t a = readByte s a)
        ∧ (∃ ly', layer? t v.g.launch i = some ly' ∧ ly'.state = (if ly.state = 3 then 0 else ly.state) ∧ ly'.gen = ly.gen)
        ∧ (ly.state = 0 ∨ ly.state = 3 ∨ ly.state = 4 → LayerComing t v.g.launch i)))
      ∧ (Ready s v (uses (.lwait p)) → Plain s v →
        (layerState s v.cx ly = 2 → Changes v (exec (.lwait p) s) {} (fun t h => GoesTo v (fun _ => v.npc) h ∧ ElseKept s t v.is.gid
          ∧ (∀ a, readByte t a = readByte s a) ∧ ∃ tt, team? t v.g.team = some tt ∧ i ∈ tt.holds ∧ (∀ j, j ∈ v.tm.holds → j ∈ tt.holds)
            ∧ { tt with holds := v.tm.holds } = v.tm))
        ∧ (layerState s v.cx ly = 3 →
          exec (.lwait p) s = .next (trapIssue s v { v.tr 0x09 v.exec with detail := i, lyr := some (v.g.launch, i) }))
        ∧ (layerState s v.cx ly = 8 → exec (.lwait p) s = .next (trapAll s v 0x0D 0))
        ∧ (layerState s v.cx ly ≠ 2 → layerState s v.cx ly ≠ 3 → layerState s v.cx ly ≠ 8 →
          Changes v (exec (.lwait p) s) {} (fun t h => StopsIn v (.park (.layer i)) h ∧ (∀ a, readByte t a = readByte s a) ∧ t.teams = s.teams
            ∧ (layerState s v.cx ly ≠ 1 → layerNow s v.g.launch ly = layerState s v.cx ly → LayerComing t v.g.launch i))))
      ∧ (Ready s v (uses (.lrel p)) → Changes v (exec (.lrel p) s) {} (fun t _ => (∀ a, readByte t a = readByte s a)
          ∧ (∀ tt, team? t v.g.team = some tt → { tt with holds := v.tm.holds } = v.tm ∧ ∀ j, j ∈ tt.holds ↔ j ∈ v.tm.holds ∧ j ≠ i)
          ∧ (i ∈ v.tm.holds → mord s.teams = true → (∀ e, e ∈ s.teams → e.1 ≠ v.g.team → e.2.launch = v.g.launch → i ∉ e.2.holds) →
            ∃ ly', layer? t v.g.launch i = some ly' ∧ ly'.release = some s.now)))
      ∧ (Ready s v (uses (.lstat p)) → Completes s v (exec (.lstat p) s) { s := fun r => r = p.d ∨ r = p.d + 1 }
        (fun h => (ly.state < 8 → (sget h p.d).toNat % 8 = ly.state
            ∧ ((sget h p.d).getLsbD 3 = true ↔ i ∈ v.tm.holds) ∧ ((sget h p.d).getLsbD 4 = true ↔ layerQueued s v.g.launch i = true))
          ∧ (ly.state = 3 → ly.fcause < 256 → (sget h p.d).toNat / 2 ^ 8 = ly.fcause) ∧ sget h (p.d + 1) = BitVec.ofNat 32 ly.gen) True)

/-! ### Traps, system instructions, weirs and inspection (R417 to R474) -/

namespace Sys2Proof.Stated

/-- The group may enter its handler at once: its kernel has one, its context is not halted and has the lowest free frame `f`, which its
core can write at the key `k` on a page whose translation its L1 TLB holds, no handler runs, and no earlier word has registers to write
(R418, R419). What the L1 holds of the frame apart from memory is of private lines. -/
structure CanTrap (s : State) (v : View) (f k : Nat) : Prop where
  halt : v.cx.halt = none
  entry : v.ln.kern.trapEntry ≠ 0
  idle : v.g.hnd = none ∧ v.g.trap = none ∧ handLanes v.g = 0
  free : f < v.cx.trapSize / 1024 ∧ mget? v.cx.frames f = none ∧ ∀ j, j < f → (mget? v.cx.frames j).isSome = true
  fly : ∀ x, x ∈ v.g.fly → x.regs = []
  near : v.cx.trapArea + f * 0x400 < 2 ^ 57
  page : ∃ tr host, entOf (coreTlb s v.tm.core) v.cx.pasid (v.cx.trapArea + f * 0x400) = some tr
    ∧ useTrans tr (v.cx.trapArea + f * 0x400) .wr = .ok k host
  one : LinesWhole s ∧ ∀ b, b < 0x400 → regionKind v.cx (v.cx.trapArea + f * 0x400 + b) ≠ 1 → l1Data s v.tm.core v.cx.pasid (k + b) = none
  asked : deniedFor s (.frame v.is.gid) (v.cx.trapArea + f * 0x400) = false

/-- The frame of a trap at the key `k`, as the core sees it (R420, R421): its control words, the lanes as they stood at the word, and the
registers of `g`. -/
structure FrameAt (t : State) (v : View) (g : Group) (tr : TrapRec) (k : Nat) : Prop where
  pc : seenNat t v k 8 = tr.pc.toNat
  npc : seenNat t v (k + 0x8) 8 = tr.npc.toNat
  cause : seenNat t v (k + 0x10) 1 = tr.cause ∧ seenNat t v (k + 0x11) 1 = tr.reason
  flags : seenNat t v (k + 0x12) 2 = (if tr.w1.isSome then 2 else 0) + (if tr.eng then 4 else 0)
  lanes : seenNat t v (k + 0x14) 4 = tr.tlanes.toNat ∧ seenNat t v (k + 0x18) 4 = tr.exec.toNat ∧ seenNat t v (k + 0x1C) 4 = (liveLanes v.g).toNat
  words : seenNat t v (k + 0x20) 4 = tr.w0.toNat ∧ seenNat t v (k + 0x24) 4 = (tr.w1.getD 0).toNat
  detail : seenNat t v (k + 0x28) 8 = tr.detail % 2 ^ 64 ∧ seenNat t v (k + 0x30) 8 = tr.faddr.toNat
  classes : ∀ L, L < 32 → seenNat t v (k + 0x38 + L) 1 = mget tr.fpcls 0 L % 64
  preds : ∀ i, i < 24 → seenNat t v (k + 0x58 + 4 * i) 4 = (pget g i).toNat
  masks : ∀ i, i < 12 → seenNat t v (k + 0xB8 + 4 * i) 4 = (kget g i).toNat
  counts : ∀ i, i < 8 → seenNat t v (k + 0xE8 + i) 1 = dget g i % 256
  loops : ∀ i, i < 3 → seenNat t v (k + 0xF0 + 4 * i) 4 = (lcget g i).toNat
  modes : seenNat t v (k + 0xFC) 1 = g.gsplit % 256 ∧ seenNat t v (k + 0xFD) 1 = (if g.steprnd then 1 else 0) ∧ seenNat t v (k + 0xFE) 2 = 0
  pcs : ∀ L, L < 32 → seenNat t v (k + 0x100 + 8 * L) 8 =
    if tr.tlanes.getLsbD L then (if tr.eng then tr.npc else tr.pc).toNat % 2 ^ 57 + 5 * 2 ^ 57
    else (laneGet v.g L).pc.toNat % 2 ^ 57 + stateCode (laneGet v.g L) * 2 ^ 57
  regs : ∀ i L r, L < 32 → (i, r) ∈ [(0, bitsOf tr.w0.toNat 17 8), (1, bitsOf tr.w0.toNat 9 8), (2, bitsOf tr.w0.toNat 1 8),
      (3, bitsOf (tr.w1.getD 0).toNat 24 8)] → r < v.ln.kern.vregs →
    seenNat t v (k + 0x200 + 0x80 * i + 4 * L) 4 = (vget g r L).toNat

/-- The lanes of a trap run at TRAPENTRY, and its frame is taken and written, with the registers of `g`; nothing else of memory and nothing
of the other groups has changed (R418 to R421). -/
structure TookFrame (s t : State) (v : View) (g : Group) (tr : TrapRec) (f k : Nat) (h : Group) : Prop where
  here : ∀ L, L < 32 → tr.tlanes.getLsbD L = true → Stands h L v.ln.kern.trapEntry .run ∧ (laneGet h L).hand = true
  taken : ∃ c, ctx? t v.g.ctx = some c ∧ mget? c.frames f = some v.is.gid ∧ c.halt = none
  hnd : ∃ x, h.hnd = some x ∧ x.frame = f ∧ x.tlanes = tr.tlanes ∧ x.cause = tr.cause
  frame : FrameAt t v g tr k
  mem : ∀ a, ¬ Covers k 0x400 a → readByte t a = readByte s a
  teams : t.teams = s.teams
  launches : t.launches = s.launches
  groups : ∀ id, id ≠ v.is.gid → group? t id = group? s id

/-- A group has entered its handler for a trap that a word takes in place of its effect: the frame holds the registers as they were, and the
other lanes stand as they did. -/
structure Entered (s t : State) (v : View) (tr : TrapRec) (f k : Nat) (h : Group) : Prop extends TookFrame s t v v.g tr f k h where
  regs : RegsKept v.g h {}
  there : ∀ L, L < 32 → tr.tlanes.getLsbD L = false → laneGet h L = laneGet v.g L

/-- What the record of a trap that follows the effect of a word says: the cause, the lanes, the word, and the word after it (R418, R420). -/
structure AtWord (v : View) (tr : TrapRec) (cause : Nat) (lanes : Word) : Prop where
  cause : tr.cause = cause ∧ tr.reason = 0 ∧ tr.eng = false
  lanes : tr.tlanes = lanes ∧ tr.exec = v.exec
  pcs : tr.pc = v.is.pc ∧ tr.npc = v.npc
  words : tr.w0 = v.w0 ∧ tr.w1 = v.w1

/-- The lanes of EXEC whose target is not 4-byte aligned (R179). -/
def badTargets (v : View) (b : Src) : Word := maskOf fun L => v.exec.getLsbD L && bbits v.g .n64 b L % 4 != 0

/-- The context of the issue halts with a cause. -/
def HaltsWith (t : State) (v : View) (cause : Nat) : Prop := ∃ c, ctx? t v.g.ctx = some c ∧ c.halt.map (·.cause) = some cause

/-- The privileged instructions, and whether only lanes in a handler may issue them (R423, R437, R443, R463). -/
inductive Privileged : Instr → Bool → Prop
  | tret : Privileged .tret true
  | frmrd (p) : Privileged (.frmrd p) true
  | srdp (p) : Privileged (.srdp p) false
  | swrp (p) : Privileged (.swrp p) false
  | illrd (p) : Privileged (.illrd p) false
  | hrd (p) : Privileged (.hrd p) false
  | hwr (p) : Privileged (.hwr p) false
  | hprd (p) : Privileged (.hprd p) false
  | hfront (p) : Privileged (.hfront p) false
  | hscb (p) : Privileged (.hscb p) false
  | hstep (p) : Privileged (.hstep p) false
  | hresume (p) : Privileged (.hresume p) false

/-- The issue may run a privileged word: its lanes are in a handler, or, unless the word is for handlers only, its group is an
inspector's. -/
def Allowed (s : State) (v : View) (handlerOnly : Bool) : Prop :=
  (handlerOnly = false ∧ isInspector s v.g.ctx = true)
    ∨ (v.is.lanes ≠ 0 ∧ ∀ L, v.is.lanes.getLsbD L = true → (laneGet v.g L).hand = true ∧ (laneGet v.g L).st ≠ .dead)

/-- The privileged registers and their values (R440). -/
def privTable (s : State) (v : View) : List (Nat × Nat) :=
  [(0x00, v.g.fptrap), (0x01, v.g.ctx), (0x02, v.cx.pasid), (0x03, if v.cx.start then 1 else 0), (0x04, v.cx.wdlog),
   (0x05, (coreAt s v.tm.core).budget), (0x06, match v.g.hnd with | some x => x.tlanes.toNat | none => 0)]

/-- Bits 63 (VALID) and 62 (OVF) of a 256-bit log are cleared, the others stay (R114). -/
def LogCleared (x y : Nat) : Prop := ∀ n, y.testBit n = (x.testBit n && decide (n ≠ 62 ∧ n ≠ 63))

/-- A scalar octet holds a 256-bit value, lowest word first. -/
def Octet (h : Group) (d x : Nat) : Prop := ∀ i, i < 8 → sget h (d + i) = BitVec.ofNat 32 (x / 2 ^ (32 * i))

/-- The 24 bytes of a host-call record after its SEQ (R439). -/
def hcallRec (v : View) (p : SI) : List Nat :=
  leBytes 2 p.imm ++ leBytes 2 v.g.ctx ++ leBytes 4 v.tm.t ++ leBytes 8 v.is.pc.toNat ++ leBytes 8 (sget64 v.g p.d).toNat

/-- The fields of CTL (R447). -/
structure WeirCtl where
  action : Nat
  chain : Bool
  pre : Bool
  kind : Nat
  acc : Nat
  fpc : Nat
  space : Nat

/-- CTL taken apart. -/
def weirCtl (c : Nat) : WeirCtl :=
  { action := bitsOf c 60 3, chain := c.testBit 59, pre := c.testBit 58, kind := bitsOf c 56 2, acc := bitsOf c 52 4, fpc := bitsOf c 46 6,
    space := bitsOf c 32 2 }

/-- The words of weir `n` are allowed (R445 to R447, R453, R459). -/
structure WeirFits (n : Nat) (w : WeirCfg) : Prop where
  resv : w.qual % 2 ^ 8 = 0 ∧ (weirCtl w.ctl).action ≤ 6 ∧ (weirCtl w.ctl).space ≤ 1
  offsets : (weirCtl w.ctl).kind = 0 → (weirCtl w.ctl).space = 1 → w.cmp0 < 2 ^ 32 ∧ w.cmp1 < 2 ^ 32
  range : (weirCtl w.ctl).kind = 0 ∨ (weirCtl w.ctl).kind = 3 → w.cmp0 < w.cmp1
  aligned : (weirCtl w.ctl).kind = 3 → w.cmp0 % 4 = 0
  fp : if (weirCtl w.ctl).kind = 2 then (weirCtl w.ctl).fpc ≠ 0 ∧ w.cmp0 = 0 ∧ w.cmp1 = 0 else (weirCtl w.ctl).fpc = 0
  acc : if (weirCtl w.ctl).kind < 2 then (weirCtl w.ctl).acc ≠ 0 else (weirCtl w.ctl).acc = 0
  value : (weirCtl w.ctl).kind = 1 → (weirCtl w.ctl).acc.testBit 3 = false
  space : (weirCtl w.ctl).kind ≠ 0 → (weirCtl w.ctl).space = 0
  pre : (weirCtl w.ctl).pre = true → (weirCtl w.ctl).kind = 0 ∧ (weirCtl w.ctl).acc = 2 ∧ 2 ≤ (weirCtl w.ctl).action
  chain : n = 31 → (weirCtl w.ctl).chain = false

/-- What a selector of WEIRRD reads of a weir (R458). -/
inductive WeirReads (w : Weir) (cx : Nat) : Nat → Nat → Prop
  | cmp0 : w.st ≠ 0 → w.owner = cx → WeirReads w cx 0 w.cfg.cmp0
  | cmp1 : w.st ≠ 0 → w.owner = cx → WeirReads w cx 1 w.cfg.cmp1
  | qual : w.st ≠ 0 → w.owner = cx → WeirReads w cx 2 w.cfg.qual
  | ctl : w.st ≠ 0 → w.owner = cx → WeirReads w cx 3 w.cfg.ctl
  | count : w.st ≠ 0 → w.owner = cx → WeirReads w cx 4 w.count
  | free (n) : w.st = 0 → n ≤ 5 → WeirReads w cx n 0
  | other (n) : w.st ≠ 0 → w.owner ≠ cx → n ≤ 4 → WeirReads w cx n 0
  | state : w.st ≠ 0 → w.owner = cx → WeirReads w cx 5 w.st
  | taken : w.st ≠ 0 → w.owner ≠ cx → WeirReads w cx 5 3

/-- The counters that CNTRD reads: the cycle count, a core's leaf counters, and the fields of the die's monitor units (R473, R474). -/
inductive CounterReads (s : State) (cr : Nat) : Nat → Nat → Prop
  | cycles : CounterReads s cr 0 s.now
  | leaf (n) : 1 ≤ n → n ≤ 0x12 → n ≠ 0x10 → CounterReads s cr n (mget (coreAt s cr).leaf 0 n)
  | min (u) : u < 64 → CounterReads s cr (0x400 + 0x20 * u) (mget s.mons {} (cr / 96 * 64 + u)).min
  | max (u) : u < 64 → CounterReads s cr (0x400 + 0x20 * u + 1) (mget s.mons {} (cr / 96 * 64 + u)).max
  | count (u) : u < 64 → CounterReads s cr (0x400 + 0x20 * u + 2) (mget s.mons {} (cr / 96 * 64 + u)).count
  | sum (u) : u < 64 → CounterReads s cr (0x400 + 0x20 * u + 3) (mget s.mons {} (cr / 96 * 64 + u)).sum
  | bucket (u b) : u < 64 → b < 16 → CounterReads s cr (0x400 + 0x20 * u + 4 + b) (mget (mget s.mons {} (cr / 96 * 64 + u)).buckets 0 b)
  | cfg (u) : u < 64 → CounterReads s cr (0x400 + 0x20 * u + 20) (mget s.mons {} (cr / 96 * 64 + u)).cfg

/-- `e` is a group that the word `w` names: not the issuer's, on its core, of the context that it may inspect, resident or saved by the
halt line (R461, R462). -/
structure NamedBy (s : State) (v : View) (w : Nat) (e : Nat × Group) : Prop where
  other : e.1 ≠ v.is.gid
  live : e.2.ended = false
  ctx : e.2.ctx = if isInspector s v.g.ctx then (part s v.cx.part).tctx else v.g.ctx
  core : coreOf s e.2 = v.tm.core
  slice : e.2.slice = bitsOf w 0 4
  slot : e.2.slot = bitsOf w 12 4
  here : (∃ c, ctx? s e.2.ctx = some c ∧ c.halt.isSome = true) ∨ 
    ∃ tt, team? s e.2.team = some tt ∧ tt.st = .resident ∧ ctxHere s tt.ctx = true

/-- The value of a named register (R461). -/
inductive NamedValue (t : Target) : Nat → Prop
  | v : t.rkind = 0 → NamedValue t (vget t.g t.reg t.lane).toNat
  | s : t.rkind = 1 → t.reg < 0x80 → NamedValue t (sget t.g t.reg).toNat
  | gsplit : t.rkind = 1 → t.reg = 0x80 → NamedValue t t.g.gsplit
  | steprnd : t.rkind = 1 → t.reg = 0x81 → NamedValue t (if t.g.steprnd then 1 else 0)
  | fptrap : t.rkind = 1 → t.reg = 0x82 → NamedValue t t.g.fptrap
  | p : t.rkind = 2 → NamedValue t (if (pget t.g t.reg).getLsbD t.lane then 1 else 0)
  | k : t.rkind = 3 → NamedValue t (kget t.g t.reg).toNat
  | d : t.rkind = 4 → NamedValue t (dget t.g t.reg)
  | lc : t.rkind = 5 → NamedValue t (lcget t.g t.reg).toNat
  | fstat : t.rkind = 6 → NamedValue t t.g.fstat
  | pc : t.rkind = 7 → NamedValue t (laneGet t.g t.lane).pc.toNat

/-- What a write of `x` by HWR leaves of the target group: the named register, and nothing else of its registers (R463). -/
inductive WrittenBy (t : Target) (x : Nat) (h : Group) : Prop
  | v : t.rkind = 0 → RegsKept t.g h { v := fun r L => r = t.reg ∧ L = t.lane } → vget h t.reg t.lane = BitVec.ofNat 32 x → WrittenBy t x h
  | s : t.rkind = 1 → t.reg < 0x80 → RegsKept t.g h { s := (· = t.reg) } → sget h t.reg = BitVec.ofNat 32 x → WrittenBy t x h
  | gsplit : t.rkind = 1 → t.reg = 0x80 → RegsKept t.g h { gsplit := True } → h.gsplit = x % 2 ^ 32 → WrittenBy t x h
  | steprnd : t.rkind = 1 → t.reg = 0x81 → RegsKept t.g h { steprnd := True } → h.steprnd = decide (x % 2 = 1) → WrittenBy t x h
  | fptrap : t.rkind = 1 → t.reg = 0x82 → RegsKept t.g h { fptrap := True } → h.fptrap = x % 64 → WrittenBy t x h
  | p : t.rkind = 2 → RegsKept t.g h { p := fun n L => n = t.reg ∧ L = t.lane } → (pget h t.reg).getLsbD t.lane = decide (x % 2 = 1) →
      WrittenBy t x h
  | k : t.rkind = 3 → RegsKept t.g h { k := (· = t.reg) } → kget h t.reg = BitVec.ofNat 32 x → WrittenBy t x h
  | lc : t.rkind = 5 → RegsKept t.g h { lc := (· = t.reg) } → lcget h t.reg = BitVec.ofNat 32 x → WrittenBy t x h
  | fstat : t.rkind = 6 → RegsKept t.g h { fstat := True } → h.fstat = x % 64 → WrittenBy t x h
  | pc : t.rkind = 7 → RegsKept t.g h {} → (laneGet h t.lane).pc = BitVec.ofNat 64 x → WrittenBy t x h

/-- The scalar quad of HFRONT and HSCB. -/
def Quad4 (h : Group) (d pc w2 w3 : Nat) : Prop :=
  sget64 h d = BitVec.ofNat 64 pc ∧ sget h (d + 2) = BitVec.ofNat 32 w2 ∧ sget h (d + 3) = BitVec.ofNat 32 w3

/-- A lane goes on from a halt: a halted lane runs where it stands, a waiting one keeps its wait (R468). -/
def Resumed (l m : Lane) : Prop := m.pc = l.pc ∧ m.haltPend = (if l.st = .halted then l.haltPend else false)
  ∧ m.st = if l.st = .halted then .run else l.st

end Sys2Proof.Stated

/-- R418 to R422, R438, R186: a trap that a word takes enters the handler with its frame written; TRAP and BKPT take 0x0E in every lane
of EXEC, with the code in DETAIL and bit 16 for BKPT. -/
def Sys2Proof.Stated.TrapsEnter : Prop :=
  (∀ (s : State) (v : View) (tr : TrapRec) (f k : Nat), view s = some v → v.is.step = none → CanTrap s v f k → tr.cause ≤ 0x0F →
    tr.cause ∉ [0x05, 0x08, 0x09, 0x0D, 0x0F] → tr.reason < 256 → tr.tlanes ≠ 0 →
    (∀ L, L < 32 → tr.tlanes.getLsbD L = true → (laneGet v.g L).st ≠ .dead) →
    ∃ h, group? (trapIssue s v tr) v.is.gid = some h ∧ Entered s (trapIssue s v tr) v tr f k h)
  ∧ ∀ (i : Instr) (imm f k : Nat) (s : State) (v : View), i = .trap imm ∨ i = .bkpt imm → Ready s v (uses i) → CanTrap s v f k →
    (∀ L, v.exec.getLsbD L = true → (laneGet v.g L).st ≠ .dead) →
    ∃ t h tr, exec i s = .next t ∧ group? t v.is.gid = some h ∧ Entered s t v tr f k h ∧ tr.cause = 0x0E ∧ tr.tlanes = v.exec
      ∧ tr.pc = v.is.pc ∧ tr.npc = v.npc ∧ tr.w0 = v.w0 ∧ tr.faddr = 0 ∧ tr.detail = imm + (if i = .bkpt imm then 2 ^ 16 else 0)

/-- R417, R419, R424: a trap whose cause halts, of a kernel without a handler, of a lane in a handler, or without a free frame raises the
halt line of its context: no group of the context runs a lane, and memory stays. -/
def Sys2Proof.Stated.TrapsHalt : Prop :=
  ∀ (s : State) (v : View) (tr : TrapRec), view s = some v → v.is.step = none → v.cx.halt = none → v.g.ended = false →
    (∃ L, L < 32 ∧ tr.tlanes.getLsbD L = true ∧ (laneGet v.g L).st ≠ .dead) →
    let fixed : Bool := decide (tr.cause ∈ [0x05, 0x08, 0x0D, 0x0F]) || v.ln.kern.trapEntry == 0
    let hand : Prop := ∃ L, L < 32 ∧ tr.tlanes.getLsbD L = true ∧ (laneGet v.g L).hand = true ∧ (laneGet v.g L).st ≠ .dead
    let full : Prop := v.g.hnd = none ∧ v.g.trap = none ∧ ∀ f, f < v.cx.trapSize / 1024 → (mget? v.cx.frames f).isSome = true
    fixed = true ∨ hand ∨ full →
    let t := trapIssue s v tr
    (∀ a, readByte t a = readByte s a) ∧ t.teams = s.teams
      ∧ (∃ c x, ctx? t v.g.ctx = some c ∧ c.halt = some x ∧ x.cause = (if fixed then tr.cause else 0x0F) ∧ x.pc = tr.pc ∧ x.at_ = s.now
        ∧ x.gid = some v.is.gid)
      ∧ ∀ id g L, group? t id = some g → g.ctx = v.g.ctx → g.ended = false → L < 32 → (laneGet g L).st ≠ .run

/-- R179 and R180: the lanes of BRX, RET and CALLX whose target is misaligned take trap 0x03, while the others go to their targets, CALLX
with its link written: in a kernel with a handler they enter it, their frame's NPC the header after the clause; without one the context
halts. A CALL or CALLX of a member of an active loop traps with 0x02. -/
def Sys2Proof.Stated.TransferTraps : Prop :=
  (∀ (i : Instr) (b : Src) (s : State) (v : View), i ∈ [Instr.brx b, .ret b] → Ready s v (uses i) →
    Completes s v (exec i s) {} (fun _ => True) False)
  ∧ (∀ (d : Nat) (b : Src) (s : State) (v : View), Ready s v (uses (.callx d b)) → NoLoops v.g →
    Completes s v (exec (.callx d b) s)
      { v := fun r L => (v.exec.getLsbD L = true ∧ bbits v.g .n64 b L % 4 = 0) ∧ d ≤ r ∧ r < d + 2 } (fun _ => True) False)
  ∧ (∀ (i : Instr) (b : Src) (link : Option Nat) (s : State) (v : View),
    (link = none ∧ i ∈ [Instr.brx b, .ret b]) ∨ (∃ d, link = some d ∧ i = .callx d b) → Ready s v (uses i) → Plain s v →
    let bad := badTargets v b
    bad ≠ 0 → (∀ L, v.exec.getLsbD L = true → (laneGet v.g L).st ≠ .dead) →
    (v.cx.halt = none → v.ln.kern.trapEntry = 0 → ∃ t, exec i s = .next t ∧ HaltsWith t v 0x03)
    ∧ ∀ f k L0, CanTrap s v f k → LowestIn bad L0 → ∃ t h tr, exec i s = .next t ∧ group? t v.is.gid = some h ∧ TookFrame s t v h tr f k h
      ∧ AtWord v tr 0x03 bad ∧ tr.detail = bad.toNat ∧ tr.faddr = BitVec.ofNat 64 (bbits v.g .n64 b L0)
      ∧ RegsKept v.g h { v := fun r L => ∃ d, link = some d ∧ v.exec.getLsbD L = true ∧ bad.getLsbD L = false ∧ d ≤ r ∧ r < d + 2 }
      ∧ ∀ L, v.is.lanes.getLsbD L = true → bad.getLsbD L = false →
        Stands h L (if v.exec.getLsbD L then BitVec.ofNat 64 (bbits v.g .n64 b L) else v.npc) .run
        ∧ ∀ d, link = some d → v.exec.getLsbD L = true → vget64 h d L = v.is.pc + 4)
  ∧ ∀ (i : Instr) (s : State) (v : View) (n : Nat), (∃ d off, i = .call d off) ∨ (∃ d b, i = .callx d b) → Ready s v (uses i) →
    n < 3 → (loopGet v.g n).active = true → (loopGet v.g n).members &&& v.exec ≠ 0 → exec i s = .next (trapAll s v 0x02 0)

/-- R163: where lanes raise an exception which is enabled, the instruction completes in every lane of EXEC, with its results and flags
written; then those lanes take trap 0x0A at the following word. In a kernel with a handler they enter it (R418), with the classes that each
raised in the frame (R420); without one the context halts. -/
def Sys2Proof.Stated.FloatTraps : Prop :=
  ∀ (i : Instr) (t : Ty) (d : Nat) (f : Nat → FOut) (s : State) (v : View), FloatLone v i t d f → Ready s v (uses i) → NoWeirs s v →
    let up : Word := maskOf fun L => v.exec.getLsbD L && Nat.land (f L).fl v.g.fptrap != 0
    let done (h : Group) : Prop := RegsKept v.g h (flagW v d (tyRegs1 t))
      ∧ (∀ L, v.exec.getLsbD L = true → vbits h t d L = (f L).bits % 2 ^ (32 * tyRegs1 t)) ∧ h.fstat = laneOr v.exec (fun L => (f L).fl) v.g.fstat
    up ≠ 0 → (∀ L, v.exec.getLsbD L = true → (laneGet v.g L).st ≠ .dead) →
    (v.cx.halt = none → v.ln.kern.trapEntry = 0 →
      ∃ t' h, exec i s = .next t' ∧ HaltsWith t' v 0x0A ∧ group? t' v.is.gid = some h ∧ done h)
    ∧ ∀ n k, Plain s v → CanTrap s v n k → ∃ t' h tr, exec i s = .next t' ∧ group? t' v.is.gid = some h ∧ TookFrame s t' v h tr n k h
      ∧ done h ∧ AtWord v tr 0x0A up ∧ tr.detail = 0 ∧ tr.faddr = 0 ∧ (∀ L, v.exec.getLsbD L = true → mget tr.fpcls 0 L = (f L).fl)
      ∧ ∀ L, v.is.lanes.getLsbD L = true → up.getLsbD L = false → Stands h L v.npc .run

/-- R423: TRET of the last lanes in a handler ends it: every live lane that the frame's TLANES names resumes at the frame's NPC, the
register that WORD0 names takes the frame's VD in those lanes where FFLAGS asks for it, the frame is free again, and every other register
stays. Before that, the lanes wait in the handler. -/
def Obligations.TretReturns : Prop :=
  ∀ (s : State) (v : View) (x : Hnd) (k : Nat), Ready s v (uses .tret) → Allowed s v true → Plain s v → v.g.hnd = some x → v.g.held = [] →
    let n := seenNat s v (k + 0x8) 8
    let wb := (seenNat s v (k + 0x12) 2).testBit 0
    let r := bitsOf (seenNat s v (k + 0x20) 4) 17 8
    let m : Word := BitVec.ofNat 32 (seenNat s v (k + 0x14) 4) &&& liveLanes v.g
    let addr := v.cx.trapArea + x.frame * 0x400
    let others : Prop := ∃ L, L < 32 ∧ v.exec.getLsbD L = false ∧ (laneGet v.g L).st ≠ .dead ∧ (laneGet v.g L).hand = true
      ∧ (laneGet v.g L).tret = false
    (others → Completes s v (exec .tret s) {} (fun h => h.hnd = some x ∧ ∀ L, v.exec.getLsbD L = true →
        Stands h L v.is.pc .run ∧ (laneGet h L).hand = true ∧ (laneGet h L).tret = true) True)
    ∧ (¬ others → addr < 2 ^ 57 → deniedFor s (.frame v.is.gid) addr = false →
      (∃ host, translate s (some v.tm.core) v.cx.pasid addr .rw = .ok k host) → seenPois s v k 0x400 = false →
      (x.cause = 0x09 → stillFailed s v.cx x.lyr = false) → n % 4 = 0 → (wb = true → r < v.ln.kern.vregs) →
      Changes v (exec .tret s) { v := fun q L => wb = true ∧ q = r ∧ m.getLsbD L = true } (fun t h =>
        (∀ L, L < 32 → m.getLsbD L = true → Stands h L (BitVec.ofNat 64 n) .run) ∧ (∀ L, L < 32 → (laneGet h L).hand = false) ∧ h.hnd = none
        ∧ (∀ L, m.getLsbD L = true → wb = true → vget h r L = BitVec.ofNat 32 (seenNat s v (k + 0x200 + 4 * L) 4))
        ∧ (∃ c, ctx? t v.g.ctx = some c ∧ mget? c.frames x.frame = none)
        ∧ (∀ a, readByte t a = readByte s a) ∧ t.teams = s.teams ∧ t.launches = s.launches ∧ ∀ id, id ≠ v.is.gid → group? t id = group? s id))

/-- R437: a privileged word of a group that may not issue it is an illegal instruction of REASON 0x0E. -/
def Sys2Proof.Stated.PrivilegeTraps : Prop :=
  ∀ (i : Instr) (b : Bool) (s : State) (v : View), Privileged i b → view s = some v → ¬ Allowed s v b →
    exec i s = .next (trapIllegal s v .priv)

/-- R114, R440, R442, R443: SRDP reads a privileged register, SWRP writes %fptrap, ILLRD reads ILLOG and clears its VALID and OVF, and
FRMRD reads the address of the group's frame. -/
def Sys2Proof.Stated.PrivilegedRegisters : Prop :=
  ∀ (p : LS) (s : State) (v : View),
    (Ready s v (uses (.srdp p)) → Allowed s v false →
      Completes s v (exec (.srdp p) s) { s := (· = p.d) } (fun h => ∀ x, (p.a, x) ∈ privTable s v → sget h p.d = BitVec.ofNat 32 x) (NoWeirs s v))
    ∧ (Ready s v (uses (.swrp p)) → Allowed s v false →
      Completes s v (exec (.swrp p) s) { fptrap := True } (fun h => h.fptrap = (sget v.g p.a).toNat % 64) (NoWeirs s v))
    ∧ (Ready s v (uses (.illrd p)) → Allowed s v false → NoWeirs s v →
      Changes v (exec (.illrd p) s) { s := fun r => p.d ≤ r ∧ r < p.d + 8 } (fun t h => RestKept s t v.is.gid
        ∧ Octet h p.d (coreAt s v.tm.core).illog ∧ LogCleared (coreAt s v.tm.core).illog (coreAt t v.tm.core).illog))
    ∧ ∀ x, Ready s v (uses (.frmrd p)) → Allowed s v true → v.g.hnd = some x →
      Completes s v (exec (.frmrd p) s) { s := fun r => r = p.d ∨ r = p.d + 1 }
        (fun h => sget64 h p.d = BitVec.ofNat 64 (v.cx.trapArea + x.frame * 0x400)) (NoWeirs s v)

/-- R439: HCALL appends a record that holds the code, the context, the team, the PC and the argument; it counts a dropped record where the
ring is not enabled, or full. -/
def Sys2Proof.Stated.HostCalls : Prop :=
  ∀ (p : SI) (s : State) (v : View), Ready s v (uses (.hcall p)) → NoWeirs s v →
    let full : Prop := (s.dev.hcProd + 2 ^ 64 - s.dev.hcCons) % 2 ^ 64 = 64 * 2 ^ s.dev.hcLogn
    Changes v (exec (.hcall p) s) {} (fun t _ => RestKept s t v.is.gid ∧ t.dev.hcProd = s.dev.hcProd ∧ t.dev.hcCons = s.dev.hcCons
      ∧ (s.dev.hcEn = false ∨ s.dev.hcPend = [] ∧ full →
        t.dev.hcDrop = s.dev.hcDrop + 1 ∧ t.dev.hcPend = s.dev.hcPend ∧ t.out = s.out)
      ∧ (s.dev.hcEn = true → s.dev.hcPend ≠ [] ∨ ¬ full → t.dev.hcDrop = s.dev.hcDrop ∧ t.dev.hcPend = s.dev.hcPend ++ [hcallRec v p]
        ∧ (s.dev.hcPend = [] → t.out = s.out ++ [.hcall (leBytes 8 (s.dev.hcProd + 1) ++ hcallRec v p)])))

/-- R441: CTXYIELD has no effect where no other context of the partition has work; else the exchange begins: the issuing context leaves
its partition for the next one. The registers stay. -/
def Sys2Proof.Stated.ContextYields : Prop :=
  ∀ (p : LS) (s : State) (v : View), Ready s v (uses (.ctxyield p)) → Plain s v → (part s v.cx.part).exch = none →
    (part s v.cx.part).turn = some v.g.ctx →
    (nextWorker s v.cx.part = none ∨ nextWorker s v.cx.part = some v.g.ctx →
      Completes s v (exec (.ctxyield p) s) {} (GoesTo v fun _ => v.npc) True)
    ∧ ∀ n, nextWorker s v.cx.part = some n → n ≠ v.g.ctx → v.cx.onPart = true → v.cx.part < 16 →
      Changes v (exec (.ctxyield p) s) {} (fun t _ => (∀ a, readByte t a = readByte s a) ∧ t.teams = s.teams ∧ t.launches = s.launches
        ∧ (part t v.cx.part).exch = some { out := some v.g.ctx, inn := some n } ∧ ∃ c, ctx? t v.g.ctx = some c ∧ c.onPart = false)

/-- R444, R458, R459: WEIRSET sets a weir that is free or the context's own to allowed words with a count of 0, WEIRCLR frees it, and
WEIRRD reads it, or with selector 8 the hit log; a number of 32 or more, a weir that is loaded or another's, and words that are not allowed
trap with 0x02. -/
def Obligations.WeirInstructions : Prop :=
  ∀ (p : LS) (s : State) (v : View),
    let n := (bsval v.g p.b).toNat
    let w := mget (coreAt s v.tm.core).weirs {} n
    let c : WeirCfg := { cmp0 := (sget64 v.g p.a).toNat, cmp1 := (sget64 v.g (p.a + 2)).toNat, qual := (sget64 v.g (p.a + 4)).toNat,
                         ctl := (sget64 v.g (p.a + 6)).toNat }
    let taken : Prop := w.st = 1 ∨ w.st = 2 ∧ w.owner ≠ v.g.ctx
    let log := (coreAt s v.tm.core).weirLog
    (Ready s v (uses (.weirset p)) →
      (n < 32 → ¬ taken → WeirFits n c → Changes v (exec (.weirset p) s) {} (fun t _ => (NoWeirs s v → RestKept s t v.is.gid)
        ∧ mget (coreAt t v.tm.core).weirs {} n = { st := 2, owner := v.g.ctx, launches := [v.g.launch], cfg := c, count := 0 }))
      ∧ (32 ≤ n ∨ taken ∨ ¬ WeirFits n c → exec (.weirset p) s = .next (trapAll s v 0x02 0)))
    ∧ (Ready s v (uses (.weirclr p)) →
      (n < 32 → ¬ taken → Changes v (exec (.weirclr p) s) {} (fun t _ => (NoWeirs s v → RestKept s t v.is.gid)
        ∧ mget (coreAt t v.tm.core).weirs {} n = {}))
      ∧ (32 ≤ n ∨ taken → exec (.weirclr p) s = .next (trapAll s v 0x02 0)))
    ∧ (Ready s v (uses (.weirrd p)) → p.c ≤ 5 →
      (∀ x, n < 32 → WeirReads w v.g.ctx p.c x →
        Completes s v (exec (.weirrd p) s) { s := fun r => r = p.d ∨ r = p.d + 1 } (fun h => sget64 h p.d = BitVec.ofNat 64 x) (NoWeirs s v))
      ∧ (32 ≤ n → exec (.weirrd p) s = .next (trapAll s v 0x02 0)))
    ∧ (Ready s v (uses (.weirrd p)) → p.c = 8 → NoWeirs s v →
      Changes v (exec (.weirrd p) s) { s := fun r => p.d ≤ r ∧ r < p.d + 8 } (fun t h => RestKept s t v.is.gid
        ∧ if bitsOf log 87 9 = v.g.ctx then Octet h p.d log ∧ LogCleared log (coreAt t v.tm.core).weirLog
          else Octet h p.d 0 ∧ (coreAt t v.tm.core).weirLog = log))

/-- R472 to R474: TRCMARK changes no register, and its mark stands in the Plume where that records the core; CNTRD reads a counter, and
traps with 0x02 at a number that names none. -/
def Sys2Proof.Stated.MarksAndCounters : Prop :=
  ∀ (p : LS) (s : State) (v : View),
    let pl := mget s.plume {} (v.tm.core / 96)
    let key := pl.head * 16 + v.g.slice
    let n := (bsval v.g p.b).toNat
    (Ready s v (uses (.trcmark p)) → Plain s v → Changes v (exec (.trcmark p) s) {} (fun t h => GoesTo v (fun _ => v.npc) h ∧ RestKept s t v.is.gid
      ∧ (pl.recording = true → pl.wrapped = false ∨ pl.wrap = true → pl.core = v.tm.core % 96 → mget? pl.recs key = none →
        mget? (mget t.plume {} (v.tm.core / 96)).recs key = some (3 * 2 ^ 46 + v.g.slot % 16 * 2 ^ 42 + p.c * 2 ^ 34 + n * 4))))
    ∧ (Ready s v (uses (.cntrd p)) →
      (∀ x, CounterReads s v.tm.core n x →
        Completes s v (exec (.cntrd p) s) { s := fun r => r = p.d ∨ r = p.d + 1 } (fun h => sget64 h p.d = BitVec.ofNat 64 x) (NoWeirs s v))
      ∧ (n = 0x10 → Completes s v (exec (.cntrd p) s) { s := fun r => r = p.d ∨ r = p.d + 1 } (fun h => sget64 h p.d = BitVec.ofNat 64 (
          16 * s.now + setBits (coreAt s v.tm.core).did - ((coreAt s v.tm.core).leaf.map Prod.snd).sum)) (NoWeirs s v))
      ∧ (0x12 < n → n < 0x400 ∨ 0xC00 ≤ n ∨ 20 < n % 0x20 → exec (.cntrd p) s = .next (trapAll s v 0x02 0)))

/-- R461 to R464: HRD reads and HWR writes the named register of a target that stands still, HPRD reads a lane's predicates and its state
code; a word that names no group, and a target that is not still, trap with 0x02. -/
def Sys2Proof.Stated.InspectionAccess : Prop :=
  ∀ (p : LS) (s : State) (v : View), Allowed s v false →
    let w := (sget v.g p.a).toNat
    (∀ i, i ∈ [Instr.hrd p, .hwr p, .hprd p, .hfront p, .hscb p, .hstep p, .hresume p] → Ready s v (uses i) →
      bitsOf w 4 8 ≠ 0 ∨ (∀ e, e ∈ s.groups → ¬ NamedBy s v w e) → exec i s = .next (trapAll s v 0x02 0))
    ∧ (∀ e, e ∈ s.groups → bitsOf w 4 8 = 0 → NamedBy s v w e → (∀ e', e' ∈ s.groups → NamedBy s v w e' → e' = e) →
      ∃ t, target? s v w = some t ∧ t.gid = e.1 ∧ t.g = e.2 ∧ t.rkind = bitsOf w 21 3 ∧ t.reg = bitsOf w 24 8 ∧ t.lane = bitsOf w 16 5)
    ∧ ∀ t, target? s v w = some t →
      let still (lane : Bool) : Prop := t.dead = true ∨ t.g.frozen = true
        ∨ (if lane then (laneGet t.g t.lane).st = .halted else ∃ L, L < 32 ∧ (laneGet t.g L).st = .halted)
      let lane : Bool := t.rkind == 0 || t.rkind == 2 || t.rkind == 7
      (∀ x, Ready s v (uses (.hrd p)) → t.regOk = true → still lane → t.g.fly = [] → NamedValue t x →
        Completes s v (exec (.hrd p) s) { s := fun r => r = p.d ∨ r = p.d + 1 } (fun h => sget64 h p.d = BitVec.ofNat 64 x) (NoWeirs s v))
      ∧ (∀ r, Ready s v (uses (.hwr p)) → NoWeirs s v → p.b = .scal r ∨ p.b = .reg r → t.regOk = true → still lane → t.g.fly = [] →
        let x := (sget64 v.g r).toNat
        t.rkind ≠ 4 → (t.rkind = 1 → t.reg = 0x80 → x % 2 ^ 32 ∈ [2, 4, 8, 16, 32]) → (t.rkind = 7 → x % 4 = 0) → NoLoops t.g →
        Changes v (exec (.hwr p) s) {} (fun u _ => (∃ h, group? u t.gid = some h ∧ WrittenBy t x h) ∧ (∀ a, readByte u a = readByte s a)
          ∧ u.teams = s.teams ∧ u.ctxs = s.ctxs ∧ ∀ id, id ≠ t.gid → id ≠ v.is.gid → group? u id = group? s id))
      ∧ (Ready s v (uses (.hprd p)) → still true → t.g.fly = [] →
        Completes s v (exec (.hprd p) s) { s := (· = p.d) } (fun h => (∀ i, i < 24 → (sget h p.d).getLsbD i = (pget t.g i).getLsbD t.lane)
          ∧ (sget h p.d).toNat / 2 ^ 24 = stateCode (laneGet t.g t.lane)) (NoWeirs s v))
      ∧ (∀ i, (i = .hrd p ∧ ¬ still lane) ∨ (i = .hwr p ∧ ¬ still lane) ∨ (i = .hprd p ∧ ¬ still true) → Ready s v (uses i) →
        exec i s = .next (trapAll s v 0x02 0))

/-- R465, R466: HFRONT reads an entry of the target's held frontier, HSCB a pending register write; past the last, only the count. -/
def Sys2Proof.Stated.InspectionLists : Prop :=
  ∀ (p : LS) (t : Target) (s : State) (v : View), Allowed s v false → target? s v (sget v.g p.a).toNat = some t →
    let i := (bsval v.g p.b).toNat
    let w : Written := { s := fun r => p.d ≤ r ∧ r < p.d + 4 }
    let fr := heldFrontier t.g
    let ws := t.g.fly.flatMap fun f => f.regs.map fun r => (f, r)
    let pri (e : Entry) : Nat := match e.cl with | some c => (hdrOf c).pri | none => 0
    (Ready s v (uses (.hfront p)) → Completes s v (exec (.hfront p) s) w (fun h =>
        (∀ e hlt, fr[i]? = some (e, hlt) → Quad4 h p.d e.pc.toNat e.lanes.toNat
          (pri e + min (entrySkip t.g e) 127 * 2 ^ 8 + fr.length * 2 ^ 16 + if hlt then 2 ^ 31 else 0))
        ∧ (fr.length ≤ i → Quad4 h p.d 0 0 (fr.length * 2 ^ 16))) (NoWeirs s v))
    ∧ (Ready s v (uses (.hscb p)) → Completes s v (exec (.hscb p) s) w (fun h =>
        (∀ f r, ws[i]? = some (f, r) → Quad4 h p.d f.pc.toNat
          ((refCode r).2 + (refCode r).1 * 2 ^ 8 + (match f.dep with | some n => n * 2 ^ 12 + 2 ^ 15 | none => 0) + min ws.length 255 * 2 ^ 16)
          (if f.left = 0 then f.lanes else f.left).toNat)
        ∧ (ws.length ≤ i → Quad4 h p.d 0 (min ws.length 255 * 2 ^ 16) 0)) (NoWeirs s v))

/-- R467: HSTEP chooses the halted lane's word as the next issue, with that lane alone, or reports a pending trap instead; a NOP that is
stepped leaves the lane halted at the next word and gives the stepper the status 0. -/
def Sys2Proof.Stated.StepsIssue : Prop :=
  (∀ (p : LS) (t : Target) (s : State) (v : View), Ready s v (uses (.hstep p)) → Plain s v → Allowed s v false →
    target? s v (sget v.g p.a).toNat = some t →
    let l := laneGet t.g t.lane
    (l.st ≠ .halted ∨ t.dead = true → exec (.hstep p) s = .next (trapAll s v 0x02 0))
    ∧ (∀ tr, l.st = .halted → t.dead = false → mget? t.g.fpPend t.lane = some tr →
      Completes s v (exec (.hstep p) s) { s := (· = p.d) } (fun h => sget h p.d = BitVec.ofNat 32 tr.cause) False)
    ∧ ∀ c, l.st = .halted → t.dead = false → mget? t.g.fpPend t.lane = none → l.cl = some c →
      (l.waited = true ∨ ∀ n, n < 8 → (hdrOf c).wait.testBit n = true → dget t.g n = 0) → l.pc ≠ c.addr → t.g.fly = [] →
      Changes v (exec (.hstep p) s) {} (fun u h => GoesTo v (fun _ => v.npc) h
        ∧ u.sel = some { gid := t.gid, pc := l.pc, cl := c, lanes := lbit t.lane, step := some (v.is.gid, p.d) }))
  ∧ ∀ (s : State) (v : View) (j d L : Nat) (x : Group), view s = some v → v.is.step = some (j, d) → v.is.lanes = lbit L → L < 32 → Plain s v →
    j ≠ v.is.gid → group? s j = some x → (laneGet v.g L).st = .halted → (∀ M n, M < 32 → (laneGet v.g M).st ≠ .waitK n) →
    ∃ t h y, exec .nop s = .next t ∧ group? t v.is.gid = some h ∧ Stands h L v.npc .halted ∧ RegsKept v.g h {}
      ∧ group? t j = some y ∧ sget y d = 0 ∧ RegsKept x y { s := (· = d) }

/-- R468: HRESUME resumes the target lane, every lane of the target group, or the frozen groups of the target's slice; a mode of 3 or
more, and a lane that is neither halted nor about to be, trap with 0x02. -/
def Sys2Proof.Stated.ResumesRun : Prop :=
  ∀ (p : LS) (t : Target) (s : State) (v : View), Ready s v (uses (.hresume p)) → Plain s v → Allowed s v false →
    target? s v (sget v.g p.a).toNat = some t → t.dead = false → group? s t.gid = some t.g →
    let mode := (bsval v.g p.b).toNat
    let l := laneGet t.g t.lane
    (3 ≤ mode ∨ mode = 0 ∧ l.st ≠ .halted ∧ l.haltPend = false → exec (.hresume p) s = .next (trapAll s v 0x02 0))
    ∧ (mode = 0 → l.st = .halted ∨ l.haltPend = true → Changes v (exec (.hresume p) s) {} (fun u h => GoesTo v (fun _ => v.npc) h
      ∧ ∃ g, group? u t.gid = some g ∧ RegsKept t.g g {} ∧ ∀ L, L < 32 → if L = t.lane then Resumed (laneGet t.g L) (laneGet g L)
        else laneGet g L = laneGet t.g L))
    ∧ (mode = 1 → Changes v (exec (.hresume p) s) {} (fun u h => GoesTo v (fun _ => v.npc) h
      ∧ ∃ g, group? u t.gid = some g ∧ RegsKept t.g g {} ∧ ∀ L, L < 32 → Resumed (laneGet t.g L) (laneGet g L)))
    ∧ (mode = 2 → Changes v (exec (.hresume p) s) {} (fun u _ => ∀ id g, id ≠ v.is.gid → group? s id = some g →
      ∃ g', group? u id = some g' ∧ RegsKept g g' {}
        ∧ (g.ctx = t.g.ctx → g.slice = t.g.slice → g.frozen = true → g.ended = false → coreOf s g = v.tm.core →
          g'.frozen = false ∧ ∀ L, L < 32 → Resumed (laneGet g L) (laneGet g' L))
        ∧ (g.ctx ≠ t.g.ctx ∨ g.slice ≠ t.g.slice ∨ g.frozen = false ∨ coreOf s g ≠ v.tm.core → g' = g)))

/-! ### The device's registers, contexts and chains (R15, R44 to R63) -/

namespace Sys2Proof.Stated

/-- BAR0 accepts writes outside the mailbox: DEVSTAT.STATE is neither 0 nor 2 (R487). -/
def Accepts (s : State) : Prop := s.dev.state ≠ 0 ∧ s.dev.state ≠ 2

/-- The state after a register of the device has been changed. -/
def withDev (s : State) (d : Dev) : State := { s with dev := d }

/-- A write of the 64-bit value `w` to a register at an offset of BAR0 gives the state, by the register's field map. -/
inductive RegSets (s : State) : Nat → Nat → State → Prop
  /-- CTXBASE (R48) -/
  | ctxbase (w) : RegSets s 0x1000 w (withDev s { s.dev with ctxBase := w / 4096 * 4096 })
  /-- ROUTECTL (R407) -/
  | routectl (w) : RegSets s 0x3300 w (withDev s { s.dev with rtBase := bitsOf w 17 23, devnum := bitsOf w 2 15, routeEn := w.testBit 0,
                                                              reload := s.dev.reload || w.testBit 1 })
  /-- HCALLRING and HCALLCONS (R439) -/
  | hcallring (w) : RegSets s 0x3600 w (withDev s { s.dev with hcBase := w / 4096 * 4096, hcLogn := bitsOf w 1 3, hcEn := w.testBit 0 })
  | hcallcons (w) : RegSets s 0x3610 w (withDev s { s.dev with hcCons := w })
  /-- HCALLPROD and HCALLDROP are read-only (R439) -/
  | hcallprod (w) : RegSets s 0x3608 w s
  | hcalldrop (w) : RegSets s 0x3618 w s
  /-- ERRSTAT: a one clears its bit (R480) -/
  | errstat (w x) : (∀ k, x.testBit k = (s.dev.errStat.testBit k && !w.testBit k)) → RegSets s 0x3900 w (withDev s { s.dev with errStat := x })
  /-- ERREN, which sends vector 0 where ERRSTAT & ERREN becomes non-zero (R480) -/
  | erren (w) : ¬ (Nat.land s.dev.errStat s.dev.errEn = 0 ∧ Nat.land s.dev.errStat (w % 256) ≠ 0) →
      RegSets s 0x3908 w (withDev s { s.dev with errEn := w % 256 })
  | errenSends (w) : Nat.land s.dev.errStat s.dev.errEn = 0 → Nat.land s.dev.errStat (w % 256) ≠ 0 →
      RegSets s 0x3908 w (emit (withDev s { s.dev with errEn := w % 256 }) (.msix 0))
  /-- PLIMIT: a limit outside 600 to 2400 is ignored (R483) -/
  | plimit (w) : 600 ≤ w % 65536 → w % 65536 ≤ 2400 → RegSets s 0x3A00 w (withDev s { s.dev with limitW := w % 65536 })
  | plimitBad (w) : w % 65536 < 600 ∨ 2400 < w % 65536 → RegSets s 0x3A00 w s
  /-- PAVG is read-only (R483) -/
  | pavg (w) : RegSets s 0x3A08 w s
  /-- CHBASE and CHCOMP of a chain: only in STATE 0 (R51) -/
  | chbase (c w) : c < 256 → (chain s c).state = 0 → RegSets s (0x100000 + 64 * c) w (modChain s c fun ch => { ch with base := w })
  | chcomp (c w) : c < 256 → (chain s c).state = 0 → RegSets s (0x100008 + 64 * c) w (modChain s c fun ch => { ch with comp := w })
  | chbaseOn (c w) : c < 256 → (chain s c).state ≠ 0 → RegSets s (0x100000 + 64 * c) w s
  | chcompOn (c w) : c < 256 → (chain s c).state ≠ 0 → RegSets s (0x100008 + 64 * c) w s
  /-- the Runnel registers of a slot: ignored while its context is loaded (R393) -/
  | slotOn (n w o) : n < 512 → o < 4 → (ctx? s n).isSome = true → RegSets s (0x4000 + 32 * n + 8 * o) w s
  | peercfg (n w) : n < 512 → ctx? s n = none → RegSets s (0x4000 + 32 * n) w
      (modSlot s n fun r => { r with peerCfg := bitsOf w 14 26 * 2 ^ 14 + w % 2 })
  | expcfg (n w) : n < 512 → ctx? s n = none → RegSets s (0x4008 + 32 * n) w
      (modSlot s n fun r => { r with expCfg := bitsOf w 10 30 * 2 ^ 10 + w % 2 })
  | expcnt (n w) : n < 512 → ctx? s n = none → RegSets s (0x4010 + 32 * n) w
      (modSlot s n fun r => { r with expCnt := bitsOf w 11 46 * 2 ^ 11 + w % 2 })
  | commcfg (n w) : n < 512 → ctx? s n = none → RegSets s (0x4018 + 32 * n) w
      (modSlot s n fun r => { r with commCfg := bitsOf w 17 23 * 2 ^ 17 + w % 2 })
  /-- PLUMEDADDR and PLUMEDCTX (R471) -/
  | daddr (d w) : d < 4 → RegSets s (0x3808 + 64 * d) w (modPlume s d fun p => { p with daddr := w })
  | dctx (d w) : d < 4 → RegSets s (0x3810 + 64 * d) w (modPlume s d fun p => { p with dctx := w % 512 })

/-- Another partition holds a granule of a set, or a context of the partition is loaded: GRANULES keeps its value (R46). -/
def GranulesKept (s : State) (p gr : Nat) : Prop :=
  (∃ q, q < 8 ∧ q ≠ p ∧ Nat.land (part s q).granules gr ≠ 0) ∨ ∃ e, e ∈ s.ctxs ∧ e.2.part = p

/-- A write of BASINCFG that is ignored: a context is loaded, or EN is set with LOGN or BASE out of their rules (R281). -/
def BasinIgnored (s : State) (w : Nat) : Prop :=
  s.ctxs ≠ [] ∨ (w.testBit 0 = true ∧ (bitsOf w 4 5 < 16 ∨ 24 < bitsOf w 4 5 ∨ bitsOf w 12 28 * 4096 % (16 * 2 ^ bitsOf w 4 5) ≠ 0))

end Sys2Proof.Stated

open Sys2Proof.Stated

/-- R15, R46, R281, R379, R460, R487: what a host write to a register of BAR0 leaves. A write changes the bytes that it names (shown on
CTXBASE); while DEVSTAT.STATE is 0 or 2 a write outside the mailbox changes nothing. -/
def Obligations.RegistersWritten : Prop :=
  (∀ (s t : State) (o w : Nat), Accepts s → RegSets s o w t → w < 2 ^ 64 → regRead s o < 2 ^ 64 → s.ev.a = o → s.ev.b = 8 → s.ev.c = w →
    exec .registerWrite s = .next t)
  ∧ (∀ (s : State) (i n : Nat), Accepts s → 0 < n → i + n ≤ 8 → s.ev.a = 0x1000 + i → s.ev.b = n →
    ∃ x, exec .registerWrite s = .next (withDev s { s.dev with ctxBase := x }) ∧ ∀ k, k < 64 →
      x.testBit k = (decide (12 ≤ k) && if 8 * i ≤ k ∧ k < 8 * (i + n) then s.ev.c.testBit (k - 8 * i) else s.dev.ctxBase.testBit k))
  ∧ (∀ s : State, ¬ Accepts s → s.ev.b ≤ 8 → s.ev.a + s.ev.b ≤ 0x200 ∨ 0x1000 ≤ s.ev.a → exec .registerWrite s = .next s)
  ∧ (∀ s : State, Accepts s → let p := s.ev.a % 8; let w := s.ev.c
    (GranulesKept s p (bitsOf w 0 8) → exec .partcfgWrite s = .next (modPart s p fun x => { x with slicep := bitsOf w 8 16 }))
    ∧ (¬ GranulesKept s p (bitsOf w 0 8) →
      exec .partcfgWrite s = .next (modPart s p fun x => { x with slicep := bitsOf w 8 16, granules := bitsOf w 0 8 })))
  ∧ (∀ s : State, Accepts s → let w := s.ev.c
    (BasinIgnored s w → exec .basincfgWrite s = .next s)
    ∧ (¬ BasinIgnored s w → exec .basincfgWrite s = .next
      { s with dev := { s.dev with basinBase := bitsOf w 12 28, basinLogn := bitsOf w 4 5, basinEn := w.testBit 0 }
               basin := if w.testBit 0 then [] else s.basin }))
  ∧ (∀ s : State, Accepts s → exec .sluicepoolWrite s = .next (modPart s (s.ev.a % 8) fun x => { x with pool := bitsOf s.ev.c 0 20 }))
  ∧ ∀ s : State, Accepts s → let p := s.ev.a % 8; let t := bitsOf s.ev.c 11 9; let i := bitsOf s.ev.c 2 9
    let ok := i ≠ t ∧ (∃ c, ctx? s i = some c ∧ c.part = p) ∧ (∃ c, ctx? s t = some c ∧ c.part = p) ∧ (part s p).insp = false
    (s.ev.c.testBit 0 = true → ¬ ok → exec .inspcfgWrite s = .next s)
    ∧ (s.ev.c.testBit 0 = true → ok → ∃ u, exec .inspcfgWrite s = .next u ∧ part u p = { part s p with tctx := t, ictx := i, insp := true }
      ∧ (∀ q, q ≠ p → part u q = part s q) ∧ u.ctxs = s.ctxs ∧ u.mem = s.mem ∧ u.dev = s.dev)
    ∧ (s.ev.c.testBit 0 = false → ∃ u, exec .inspcfgWrite s = .next u ∧ part u p = { part s p with tctx := t, ictx := i, insp := false }
      ∧ (∀ q, q ≠ p → part u q = part s q) ∧ u.ctxs = s.ctxs ∧ u.mem = s.mem ∧ u.dev = s.dev)

namespace Sys2Proof.Stated

/-- The CTXCMD in progress ends with a RESULT (R49). -/
def cmdEnds (s : State) (r : Nat) : State :=
  { s with waits := s.waits.filter fun p => p.who != .ctxLoad, dev := { s.dev with ctxBusy := false, ctxResult := r } }

/-- The 128 bytes of a slot's context descriptor. -/
def descOf (s : State) (slot : Nat) : List Nat := readBytes s (ridKey s ((s.dev.ctxBase + slot * 128) % 2 ^ 64)) 128

/-- The limits of R48 on a context descriptor. -/
structure DescGood (b : List Nat) : Prop where
  magic : fieldAt b 0 4 = 0x43580001
  crc : fieldAt b 0x7C 4 = crc32c (b.take 0x7C)
  pasid : 1 ≤ fieldAt b 4 4 ∧ fieldAt b 4 4 < 2 ^ 20
  part : fieldAt b 8 1 < 8
  start : fieldAt b 9 1 < 2
  wdlog : fieldAt b 0xA 1 = 0 ∨ (20 ≤ fieldAt b 0xA 1 ∧ fieldAt b 0xA 1 ≤ 40)
  fptrap : fieldAt b 0xB 1 < 64
  zeros : fieldAt b 0xC 4 = 0 ∧ ∀ i, 0x24 ≤ i → i < 0x7C → fieldAt b i 1 = 0
  table : fieldAt b 0x10 8 % 64 = 0
  area : fieldAt b 0x18 8 % 1024 = 0
  size : fieldAt b 0x20 4 ≠ 0 ∧ fieldAt b 0x20 4 % 1024 = 0

/-- The context that a descriptor asks for. -/
def ctxOfDesc (b : List Nat) (rs : List Region) : Ctx :=
  { pasid := fieldAt b 4 4, part := fieldAt b 8 1, start := fieldAt b 9 1 == 1, wdlog := if fieldAt b 0xA 1 = 0 then 26 else fieldAt b 0xA 1,
    fptrap := fieldAt b 0xB 1, trapArea := fieldAt b 0x18 8, trapSize := fieldAt b 0x20 4, regions := rs }

/-- Every running lane of a group becomes halted and will honour its clause's WAIT again, the others stay, and no register changes (R97,
R424). -/
def Stopped (g h : Group) : Prop :=
  RegsKept g h {} ∧ h.ended = g.ended
    ∧ ∀ L, L < 32 → laneGet h L = if (laneGet g L).st = .run then { laneGet g L with st := .halted, waited := false } else laneGet g L

/-- The halt line of a context is raised: the halt stands, and its groups are stopped (R424). -/
def HaltRaised (s t : State) (cx : Nat) (c : Ctx) (h : Halt) : Prop :=
  ctx? t cx = some { c with halt := some h } ∧ h.done = false
    ∧ ∀ id g, group? s id = some g → g.ctx = cx → g.ended = false → ∃ g', group? t id = some g' ∧ Stopped g g'

end Sys2Proof.Stated

/-- R48, R49: CTXCMD. A command while BUSY is set is ignored; a load ends with RESULT 2 in a used slot, 1 for a bad descriptor, 3 for a PASID
in use, 4 for a partition without a granule, and else with the context as its descriptor gives it (in STATE 3 one in progress ends with
RESULT 1: DESIGN CHOICE, log entry 37); an unload of an empty slot ends with
RESULT 2, that of a context raises its halt line, and ends, once its units have stopped, with nothing of the context left. -/
def Sys2Proof.Stated.ContextCommands : Prop :=
  (∀ (s : State) (i : Instr), i = .ctxLoad ∨ i = .ctxUnload → s.dev.ctxBusy = true → exec i s = .next s)
  ∧ (∀ s : State, s.dev.state = 1 → s.dev.ctxBusy = false →
    exec .ctxLoad s = .next (withDev s { s.dev with ctxBusy := true, ctxOp := 1, ctxResult := 0, ctxSlot := s.ev.a % 512 }))
  ∧ (∀ s : State, Accepts s → s.dev.ctxBusy = false → ctx? s (s.ev.a % 512) = none →
    exec .ctxUnload s = .next (withDev s { s.dev with ctxBusy := true, ctxOp := 2, ctxResult := 0, ctxSlot := s.ev.a % 512 }))
  ∧ (∀ (s : State) (c : Ctx), Accepts s → s.dev.ctxBusy = false → ctx? s (s.ev.a % 512) = some c → c.halt = none →
    ∃ t h, exec .ctxUnload s = .next t ∧ t.dev = { s.dev with ctxBusy := true, ctxOp := 2, ctxResult := 0, ctxSlot := s.ev.a % 512 }
      ∧ HaltRaised s t (s.ev.a % 512) { c with unloading := true } h ∧ h.unload = true ∧ t.mem = s.mem)
  ∧ (∀ s : State, s.dev.ctxBusy = false → exec .ctxcmdDone s = .next s)
  ∧ (∀ s : State, s.dev.ctxBusy = true → s.dev.ctxOp = 1 → waiting s .ctxLoad = false → s.dev.state = 3 →
    exec .ctxcmdDone s = .next (cmdEnds s 1))
  ∧ (∀ s : State, s.dev.ctxBusy = true → s.dev.ctxOp = 1 → waiting s .ctxLoad = false → s.dev.state ≠ 3 →
    let n := s.dev.ctxSlot; let b := descOf s n
    let poor := ridBad s ((s.dev.ctxBase + n * 128) % 2 ^ 64) 128 = true ∨ ¬ DescGood b
    ((ctx? s n).isSome = true → exec .ctxcmdDone s = .next (cmdEnds s 2))
    ∧ (ctx? s n = none → poor → exec .ctxcmdDone s = .next (cmdEnds s 1))
    ∧ (ctx? s n = none → ¬ poor → (∃ e, e ∈ s.ctxs ∧ e.2.pasid = fieldAt b 4 4) → exec .ctxcmdDone s = .next (cmdEnds s 3))
    ∧ (ctx? s n = none → ¬ poor → (∀ e, e ∈ s.ctxs → e.2.pasid ≠ fieldAt b 4 4) →
      ((part s (fieldAt b 8 1)).granules = 0 → exec .ctxcmdDone s = .next (cmdEnds s 4))
      ∧ ((part s (fieldAt b 8 1)).granules ≠ 0 →
        (∀ rs, readRegions s n (fieldAt b 4 4) (fieldAt b 0x10 8) = .ok rs →
          exec .ctxcmdDone s = .next (cmdEnds { s with ctxs := mput s.ctxs n (ctxOfDesc b rs) } 0))
        ∧ ∀ k, readRegions s n (fieldAt b 4 4) (fieldAt b 0x10 8) = .error (.bad k) → exec .ctxcmdDone s = .next (cmdEnds s 1))))
  ∧ (∀ s : State, s.dev.ctxBusy = true → s.dev.ctxOp = 2 → ctx? s s.dev.ctxSlot = none → exec .ctxcmdDone s = .next (cmdEnds s 2))
  ∧ ∀ (s : State) (c : Ctx) (h : Halt), s.dev.ctxBusy = true → s.dev.ctxOp = 2 → ctx? s s.dev.ctxSlot = some c → c.halt = some h → h.done = true →
    ∃ t, exec .ctxcmdDone s = .next t ∧ t.dev.ctxBusy = false ∧ t.dev.ctxResult = 0 ∧ ctx? t s.dev.ctxSlot = none
      ∧ (∀ e, e ∈ t.launches → e.2.ctx ≠ s.dev.ctxSlot) ∧ (∀ e, e ∈ t.teams → e.2.ctx ≠ s.dev.ctxSlot)
      ∧ ∀ e, e ∈ t.groups → e.2.ctx ≠ s.dev.ctxSlot

/-- R424 to R428, R435: the barrier watchdog of a group whose oldest watched wait has lasted the context's period raises the halt line with
cause 0x08; once the begun matrix operations of a halted context are complete, the halt completes: the context leaves its partition, its
launches end with status 0x0003, and the halt summary goes to the partition's buffer where that is enabled and free. -/
def Sys2Proof.Stated.HaltsComplete : Prop :=
  (∀ (s : State) (g : Group) (tm : Team) (c : Ctx) (w : Watch), group? s s.ev.a = some g → g.wdFor = some w →
    team? s g.team = some tm → ctx? s g.ctx = some c → c.halt = none → c.suspended = false → ctxHere s g.ctx = true →
    (∀ e L, e ∈ s.groups → e.2.ctx = g.ctx → L < 32 → (laneGet e.2 L).st ≠ .halted) →
    (2 ^ c.wdlog ≤ g.wd → ∃ t h, exec .watchdogExpiry s = .next t ∧ HaltRaised s t g.ctx c h ∧ h.cause = 0x08 ∧ h.kind = w.kind
      ∧ h.gid = some s.ev.a ∧ h.core = tm.core ∧ h.slice = g.slice ∧ h.slot = g.slot ∧ h.team = tm.t ∧ h.at_ = s.now
      ∧ t.mem = s.mem ∧ t.dev = s.dev)
    ∧ (g.wd < 2 ^ c.wdlog → exec .watchdogExpiry s = .next s))
  ∧ ∀ (s : State) (c : Ctx) (h : Halt), ctx? s s.ev.a = some c → c.halt = some h →
    (h.done = true → c.unloading = false → exec .haltComplete s = .next s)
    ∧ (h.done = false → h.unload = false → c.unloading = false → ctxMats s s.ev.a = false → ∃ t, exec .haltComplete s = .next t
      ∧ ctx? t s.ev.a = some { c with onPart := false, halt := some { h with done := true } }
      ∧ (∀ e, e ∈ t.ops → e.2.ctx ≠ s.ev.a)
      ∧ (∀ id ln, launch? s id = some ln → ln.ctx = s.ev.a → ln.status = none → ∃ ln', launch? t id = some ln' ∧ ln'.status = some 3)
      ∧ let x := part s c.part
        ((∀ e, e ∈ s.launches → e.2.ctx ≠ s.ev.a) → (∀ e, e ∈ s.colls → e.2.slot ≠ s.ev.a) → s.l1 = [] →
          (∀ e, e ∈ s.groups → e.2.ctx = s.ev.a → e.2.trap = none) → x.haltEn = true → x.haltValid = false → x.haltBase * 2 ^ 16 + 2 ^ 16 ≤ hbmSize →
          (part t c.part).haltValid = true ∧ readNat t (x.haltBase * 2 ^ 16) 1 = h.cause % 256
            ∧ readNat t (x.haltBase * 2 ^ 16 + 1) 1 = h.kind % 256 ∧ readNat t (x.haltBase * 2 ^ 16 + 2) 2 = s.ev.a % 2 ^ 16
            ∧ readNat t (x.haltBase * 2 ^ 16 + 4) 2 = h.core % 2 ^ 16 ∧ readNat t (x.haltBase * 2 ^ 16 + 6) 1 = h.slice % 256
            ∧ readNat t (x.haltBase * 2 ^ 16 + 7) 1 = h.slot % 256 ∧ readNat t (x.haltBase * 2 ^ 16 + 8) 8 = h.pc.toNat
            ∧ readNat t (x.haltBase * 2 ^ 16 + 0x10) 4 = h.team % 2 ^ 32))

namespace Sys2Proof.Stated

/-- A context of a partition with work (R47). -/
def Works (s : State) (p n : Nat) : Prop := (∃ c, ctx? s n = some c ∧ c.part = p) ∧ hasWork s n = true

/-- The next context with work in slot order after `h`, wrapping (R47). -/
def NextAfter (s : State) (p : Nat) (h : Option Nat) (n : Nat) : Prop :=
  Works s p n ∧ match h with
    | none => ∀ m, Works s p m → n ≤ m
    | some h => (h < n ∧ ∀ m, Works s p m → h < m → n ≤ m) ∨ ((∀ m, Works s p m → m ≤ h) ∧ ∀ m, Works s p m → n ≤ m)

/-- An exchange is under way on a partition, and nothing else of the partition has changed (R433). -/
def ExchBegun (s t : State) (p : Nat) (e : Exch) : Prop :=
  part t p = { part s p with exch := some e } ∧ (∀ q, q ≠ p → part t q = part s q) ∧ t.mem = s.mem ∧ t.dev = s.dev
    ∧ ∀ o c, e.out = some o → ctx? s o = some c → ctx? t o = some { c with onPart := false }

/-- XCHGCMD as it stands after a command (R432). -/
def xchgRegs (s : State) (slot res : Nat) (busy : Bool) : Dev := { s.dev with xSlot := slot, xResult := res, xBusy := busy }

end Sys2Proof.Stated

/-- R46, R47, R432, R433: turns and whole-context exchanges. The turn passes when the SLICEP period of its holder is over while another
context has work, and when its holder has no work; XCHGCMD refuses an empty slot, a suspend of a suspended context, a resume of one that is
not, and a halted context; the exchange ends with the incoming context holding the turn. -/
def Obligations.TurnsPass : Prop :=
  (∀ (s : State) (h n : Nat), mord s.ctxs = true → let x := part s s.ev.a
    x.exch = none → x.turn = some h → hasWork s h = true → NextAfter s s.ev.a (some h) n → n ≠ h →
    (x.turnAt + max 1 x.slicep * 240000 ≤ s.now → ∃ t, exec .timeSliceExpiry s = .next t
      ∧ ExchBegun s t s.ev.a { out := some h, inn := some n, cmd := false })
    ∧ (s.now < x.turnAt + max 1 x.slicep * 240000 → exec .timeSliceExpiry s = .next s)
    ∧ exec .turnPass s = .next s)
  ∧ (∀ (s : State) (n : Nat), mord s.ctxs = true → let x := part s s.ev.a
    x.exch = none → (∀ h, x.turn = some h → hasWork s h = false) →
    NextAfter s s.ev.a (if x.turn.isSome then x.turn else x.lastCtx) n →
    ∃ t, exec .turnPass s = .next t ∧ ExchBegun s t s.ev.a { out := x.turn, inn := some n, cmd := false })
  ∧ (∀ s : State, (part s s.ev.a).exch = none → exec .exchangeDone s = .next s)
  ∧ (∀ (s : State) (e : Exch) (n : Nat) (c : Ctx), let x := part s s.ev.a
    x.exch = some e → (∀ o, e.out = some o → ctxMats s o = false) → e.inn = some n → ctx? s n = some c → c.part = s.ev.a → c.halt = none →
    c.suspended = false → c.unloading = false →
    ∃ t, exec .exchangeDone s = .next t ∧ t.mem = s.mem ∧ t.dev = { s.dev with xBusy := if e.cmd then false else s.dev.xBusy }
      ∧ part t s.ev.a = { x with exch := none, turn := some n, turnAt := s.now, lastCtx := if x.turn.isSome then x.turn else x.lastCtx }
      ∧ ctx? t n = some { c with onPart := true } ∧ ∀ m, m ≠ n → ctx? t m = ctx? s m)
  ∧ (∀ (s : State) (i : Instr), i = .xchgOutIn ∨ i = .xchgSuspend ∨ i = .xchgResume → s.dev.xBusy = true → exec i s = .next s)
  ∧ (∀ (s : State) (i : Instr), Accepts s → s.dev.xBusy = false → let n := s.ev.a % 512
    (i = .xchgOutIn ∨ i = .xchgSuspend ∨ i = .xchgResume → ctx? s n = none → exec i s = .next (withDev s (xchgRegs s n 1 false)))
    ∧ ∀ c, ctx? s n = some c →
      (i = .xchgOutIn ∨ i = .xchgSuspend ∨ i = .xchgResume → c.halt.isSome = true → exec i s = .next (withDev s (xchgRegs s n 3 false)))
      ∧ (c.halt = none → i = .xchgSuspend ∧ c.suspended = true ∨ i = .xchgResume ∧ c.suspended = false →
        exec i s = .next (withDev s (xchgRegs s n 2 false)))
      ∧ (c.halt = none → i = .xchgResume → c.suspended = true → exec i s = .next
        { s with dev := xchgRegs s n 0 false, ctxs := mput s.ctxs n { c with suspended := false } })
      ∧ (c.halt = none → i = .xchgSuspend → c.suspended = false → (part s c.part).exch = none → (part s c.part).turn ≠ some n → exec i s = .next
        { s with dev := xchgRegs s n 0 false, ctxs := mput s.ctxs n { c with suspended := true } })
      ∧ (c.halt = none → i = .xchgOutIn → (part s c.part).exch = none → (part s c.part).turn = some n → c.onPart = true →
        ∃ t, exec i s = .next t ∧ t.dev = xchgRegs s n 0 true ∧ ctx? t n = some { c with onPart := false }
          ∧ (part t c.part).exch = some { out := some n, inn := some n, cmd := true })
      ∧ (c.halt = none → i = .xchgSuspend → c.suspended = false → (part s c.part).exch = none → (part s c.part).turn = some n → c.onPart = true →
        ∃ t inn, exec i s = .next t ∧ t.dev = xchgRegs s n 0 true ∧ ctx? t n = some { c with onPart := false, suspended := true }
          ∧ (part t c.part).exch = some { out := some n, inn := inn, cmd := true } ∧ inn ≠ some n))

namespace Sys2Proof.Stated

/-- One chain changes, and nothing else of the machine. -/
def ChainIs (s t : State) (c : Nat) (ch : Chain) : Prop :=
  t = { s with chains := t.chains } ∧ ∀ j, chain t j = if j = c then ch else chain s j

/-- The NEXT word of a chain's segment is read where a record waits behind slot 30: a valid one is followed, else LINKERR is set (R53). -/
def NextRead (s : State) (ch ch' : Chain) : Prop :=
  let due := ch.en = true ∧ ch.state = 1 ∧ ch.needNext = true ∧ ch.head < ch.tail
  let k := ridKey s (ch.seg + 0xF80)
  let good := readNat s k 8 ≠ 0 ∧ readNat s k 8 % 4096 = 0 ∧ ridBad s (ch.seg + 0xF80) 8 = false
  (¬ due → ch' = ch) ∧ (due → good → ch' = { ch with seg := readNat s k 8, needNext := false })
    ∧ (due → ¬ good → ch' = { ch with linkErr := true, stuck := true })

/-- No launch of a chain is in flight. -/
def NoneInFlight (s : State) (c : Nat) : Prop := ∀ e, e ∈ s.launches → e.2.chain = c → e.2.status.isSome = true

/-- `n` is the length of the unbroken run of completed records of a chain from record `k` on. -/
def RunOf (ch : Chain) (k n : Nat) : Prop := (∀ j, j < n → (mget? ch.recs (k + j)).isSome = true) ∧ mget? ch.recs (k + n) = none

end Sys2Proof.Stated

/-- R50, R52, R53, R62, R63: doorbells and commands of the 256 chains; there are no others. A doorbell above TAIL moves it, one below sets TAILERR, an equal one changes nothing;
EN set on an idle chain starts it with S read from its completion word, EN cleared keeps it from taking records and stops it once nothing is
in flight; RESUME moves the completion word over every completed record and lets the chain run; ABORT cancels what has not been admitted and
stops the chain. -/
def Obligations.ChainsObey : Prop :=
  (∀ s : State, s.ev.a < 256 → let c := s.ev.a; let v := s.ev.c; let ch := chain s c
    (ch.tail < v → ∃ t ch', exec .doorbellWrite s = .next t ∧ ChainIs s t c ch' ∧ NextRead s { ch with tail := v, stuck := false } ch')
    ∧ (v < ch.tail → ∃ t, exec .doorbellWrite s = .next t ∧ ChainIs s t c { ch with tailErr := true })
    ∧ (v = ch.tail → exec .doorbellWrite s = .next s))
  ∧ (∀ s : State, ¬ Accepts s → ∀ i, i = .chainEnable ∨ i = .chainDisable ∨ i = .chainResume ∨ i = .chainAbort ∨ i = .chstatLinkerrClear →
    exec i s = .next s)
  ∧ (∀ s : State, 256 ≤ s.ev.a →
    ∀ i, i ∈ [Instr.doorbellWrite, .chainEnable, .chainDisable, .chainResume, .chainAbort, .chstatLinkerrClear] → exec i s = .next s)
  ∧ (∀ s : State, Accepts s → s.ev.a < 256 → let c := s.ev.a; let ch := chain s c
    (ch.state = 0 → let w := leNat (ridRead s ch.comp 8)
      ∃ t, exec .chainEnable s = .next t ∧ ChainIs s t c
        { ch with en := true, state := 1, head := 0, tail := 0, s0 := w, word := w, seg := ch.base, needNext := false, stuck := false, recs := [] })
    ∧ (ch.state ≠ 0 → ∃ t, exec .chainEnable s = .next t ∧ ChainIs s t c { ch with en := true })
    ∧ (¬ NoneInFlight s c → ∃ t, exec .chainDisable s = .next t ∧ ChainIs s t c { ch with en := false })
    ∧ (NoneInFlight s c → ch.state = 1 ∨ ch.state = 2 →
      ∃ t, exec .chainDisable s = .next t ∧ ChainIs s t c { ch with en := false, state := 0, recs := [] })
    ∧ (ch.state ≠ 2 → exec .chainResume s = .next s)
    ∧ (∀ n, ch.state = 2 → RunOf ch ((ch.word + 2 ^ 64 - ch.s0) % 2 ^ 64) n → ∃ t, exec .chainResume s = .next t ∧ (chain t c).state = 1
      ∧ (chain t c).word = (ch.s0 + ((ch.word + 2 ^ 64 - ch.s0) % 2 ^ 64 + n)) % 2 ^ 64
      ∧ ((chain t c).word ≠ ch.word → readNat t (ridKey s ch.comp) 8 = (chain t c).word) ∧ t.launches = s.launches)
    ∧ (ch.state ≠ 1 → ch.state ≠ 2 → exec .chainAbort s = .next s)
    ∧ (ch.state = 1 ∨ ch.state = 2 → NoneInFlight s c → ∃ t, exec .chainAbort s = .next t
      ∧ chain t c = { ch with en := false, state := 0, recs := [], word := (ch.s0 + ch.head) % 2 ^ 64 } ∧ t.launches = s.launches)
    ∧ (ch.state = 1 ∨ ch.state = 2 → mord s.launches = true → ∃ t, exec .chainAbort s = .next t
      ∧ ∀ id ln, launch? s id = some ln → ln.chain = c → ln.status = none →
        (ln.nextClu = 0 → launch? t id = none) ∧ (ln.nextClu ≠ 0 → launch? t id = some { ln with cancelled := ln.model.isSome }))
    ∧ ∃ t ch', exec .chstatLinkerrClear s = .next t ∧ ChainIs s t c ch' ∧ NextRead s { ch with linkErr := false, stuck := false } ch')

/-! ### Launches and placement (R54 to R82) -/

namespace Sys2Proof.Stated

/-- The key ranges `[a, a + n)` and `[b, b + m)` share no byte. -/
def Apart (a n b m : Nat) : Prop := a + n ≤ b ∨ b + m ≤ a

/-- A launch is gone, with its teams and groups. -/
def LaunchGone (t : State) (id : Nat) : Prop :=
  launch? t id = none ∧ (∀ e, e ∈ t.teams → e.2.launch ≠ id) ∧ ∀ e, e ∈ t.groups → e.2.launch ≠ id

/-- The completion record of a launch stands at its address, where there is one (R59). -/
def CrIs (s t : State) (a seq status cause kidx chain ctx cycles : Nat) : Prop :=
  a ≠ 0 → readBytes t (ridKey s a) 32 =
    leBytes 8 seq ++ leBytes 2 status ++ [cause, kidx] ++ leBytes 2 chain ++ leBytes 2 ctx ++ leBytes 8 0 ++ leBytes 8 cycles

/-- Cycles since the first admission of a launch, 0 where there was none (R59). -/
def cyclesOf (s : State) (ln : Launch) : Nat := match ln.firstAdmit with | some a => s.now - a | none => 0

/-- The record of chain `c` is taken, and completes at once with a failure: the completion record is written, the chain stops and its
completion word stays (R57, R59, R61). -/
structure FailedTake (s t : State) (c : Nat) (ch : Chain) (r : LRec) (status cause : Nat) : Prop where
  stops : (chain t c).state = 2 ∧ (chain t c).head = ch.head + 1 ∧ mget? (chain t c).recs ch.head = some status
  word : ch.word < 2 ^ 64 → ch.s0 < 2 ^ 64 → mget? ch.recs ((ch.word + 2 ^ 64 - ch.s0) % 2 ^ 64) = none →
    (chain t c).word = ch.word ∧ CrIs s t (r.f 0x30 8) (r.f 8 8) status cause 0 c (r.f 6 2) 0
  turn : mget? t.rrChain ch.prio = some c
  others : (∀ d, d ≠ c → chain t d = chain s d) ∧ ∀ j, j ≠ s.nextId → launch? t j = launch? s j

/-- A taken launch, as its record and its checks give it (R57). -/
structure TakenAs (s t : State) (c : Nat) (ch : Chain) (r : LRec) (ln : Launch) : Prop where
  fields : ln.chain = c ∧ ln.record = ch.head ∧ ln.seq = r.f 8 8 ∧ ln.ctx = r.f 6 2 ∧ ln.prio = ch.prio ∧ ln.crAddr = r.f 0x30 8
    ∧ ln.nextClu = 0 ∧ ln.status = none
  goesOn : (chain t c).head = ch.head + 1 ∧ (chain t c).state = ch.state ∧ mget? t.rrChain ch.prio = some c
  lines : ∀ x e, ctx? s (r.f 6 2) = some x → e ∈ t.ilines → e.1 / 2 ^ 50 % 2 ^ 20 = x.pasid →
    (part s x.part).granules.testBit (granOf (e.1 / 2 ^ 70)) = false
  others : ∀ j, j ≠ s.nextId → launch? t j = launch? s j

/-- The flag of layer `i`, on the page of HBM at the key `k` apart from every other flag, holds its state and GEN (R34). -/
def FlagOpened (s t : State) (pasid : Nat) (m : Model) (i : Nat) (ly : Layer) (k : Nat) : Prop :=
  translate s none pasid ly.flag .wr = .ok k false →
  (∀ j y k' host, j ≠ i → m.layers[j]? = some y → translate s none pasid y.flag .wr = .ok k' host → Apart k 8 k' 8) →
  (∀ p, p ∈ s.waits → p.who ≠ .stream s.nextId) → readNat t k 8 = (ly.state + ly.gen % 2 ^ 32 * 2 ^ 32) % 2 ^ 64

end Sys2Proof.Stated

/-- R54 to R63, R377, R476: the front-end takes the record that R56 chooses, the next in turn of the highest PRIO: a record that breaks R55
stops its chain and writes its completion record; one of a halted context, or whose descriptor or header fails, is taken and completes at
once with 0x0003 or 0x0001; a good one becomes a launch and its chain goes on to the next record, and a model's flags are written. A stream
opens where fewer than 8 are open; the next kernel of a model launch begins once its descriptor has been checked, and one that fails
completes the launch with 0x0001; a launch whose last kernel is over writes its completion record and moves its chain's completion word, and
a cancelled one with kernels left completes with 0x0004. -/
def Obligations.LaunchesRun : Prop :=
  (∀ (s : State) (c : Nat), mord s.chains = true → pickChain s = some c →
    recReady s c (chain s c) = true ∧ (∀ d, recReady s d (chain s d) = true → mget? s.chains d ≠ none → (chain s d).prio ≤ (chain s c).prio)
    ∧ let turn (d : Nat) : Prop := recReady s d (chain s d) = true ∧ mget? s.chains d ≠ none ∧ (chain s d).prio = (chain s c).prio
      match mget? s.rrChain (chain s c).prio with
      | none => ∀ d, turn d → c ≤ d
      | some last => (last < c ∧ ∀ d, turn d → last < d → c ≤ d) ∨ ((∀ d, turn d → d ≤ last) ∧ ∀ d, turn d → c ≤ d))
  ∧ (∀ s : State, s.feChain = none → pickChain s = none → exec .launchTake s = .next s)
  ∧ (∀ (s : State) (c : Nat), mord s.chains = true → s.feChain = none → pickChain s = some c → let ch := chain s c; let r := recordOf s ch
    let runs : Prop := recBad s ch r = false ∧ ∀ x, ctx? s (r.f 6 2) = some x → x.halt = none
    (recBad s ch r = true ∨ runs ∧ checkTake s c ch r = .error (.bad 2) →
      ∃ t, exec .launchTake s = .next t ∧ chain t c = { ch with state := 2 } ∧ t.launches = s.launches
      ∧ (∀ d, d ≠ c → chain t d = chain s d)
      ∧ (r.f 0x30 8 ≠ 0 → r.f 0x30 8 % 32 = 0 →
        readBytes t (ridKey s (r.f 0x30 8)) 32 = leBytes 8 (r.f 8 8) ++ [2, 0, 0, 0] ++ leBytes 2 c ++ leBytes 2 (r.f 6 2) ++ leBytes 16 0))
    ∧ (runs → checkTake s c ch r = .error (.bad 1) →
      ∃ t, exec .launchTake s = .next t ∧ launch? t s.nextId = none ∧ FailedTake s t c ch r 1 0)
    ∧ (∀ x h, recBad s ch r = false → ctx? s (r.f 6 2) = some x → x.halt = some h → h.cause < 256 →
      ∃ t, exec .launchTake s = .next t ∧ FailedTake s t c ch r (if h.unload then 5 else 3) (if h.unload then 0 else h.cause))
    ∧ (∀ ln, runs → checkTake s c ch r = .ok ln → ln.model = none →
      ∃ t, exec .launchTake s = .next t ∧ launch? t s.nextId = some { ln with order := s.nextId } ∧ TakenAs s t c ch r ln ∧ t.mem = s.mem)
    ∧ ∀ ln m, runs → checkTake s c ch r = .ok ln → ln.model = some m → mord s.launches = true → (∀ e, e ∈ s.launches → e.1 < s.nextId) →
      ∃ t m', exec .launchTake s = .next t ∧ launch? t s.nextId = some { ln with order := s.nextId, model := some m' } ∧ TakenAs s t c ch r ln
        ∧ ln.needKern = true ∧ ln.kidx = 0 ∧ m'.layers = m.layers ∧ m'.klist = m.klist ∧ m'.margSize = m.margSize ∧ m'.mpri = m.mpri
        ∧ (m'.open_ = true ↔ openStreams s < 8 ∧ nextStream s = none)
        ∧ ∀ x i ly k, ctx? s (r.f 6 2) = some x → m.layers[i]? = some ly → FlagOpened s t x.pasid m i ly k)
  ∧ (∀ (s : State) (ln : Launch) (m : Model), launch? s s.ev.a = some ln → ln.model = some m →
    (openStreams s < 8 → nextStream s = some s.ev.a → exec .streamOpen s =
      .next { s with launches := mput s.launches s.ev.a { ln with model := some { m with open_ := true } } })
    ∧ (8 ≤ openStreams s ∨ nextStream s ≠ some s.ev.a → exec .streamOpen s = .next s))
  ∧ (∀ (s : State) (ln : Launch) (m : Model) (c : Ctx), launch? s s.ev.a = some ln → ln.model = some m → ln.status = none →
    ctx? s ln.ctx = some c → c.halt = none →
    (∀ k, ln.needKern = true → waiting s (.kern s.ev.a) = false →
      readKern s (.kern s.ev.a) ln.ctx c.part (m.klist.getD ln.kidx 0) (0, 0, 0) (some m.margSize) = .ok k →
      ∃ t ln', exec .modelNextKernel s = .next t ∧ launch? t s.ev.a = some ln' ∧ ln'.kern = k.kern ∧ ln'.owns = k.owns
        ∧ (ln'.gridX, ln'.gridY, ln'.gridZ) = k.grid ∧ ln'.needKern = false ∧ ln'.nextClu = 0 ∧ ln'.kidx = ln.kidx ∧ t.mem = s.mem)
    ∧ (ln.needKern = true → waiting s (.kern s.ev.a) = false → ln.kidx < 256 →
      readKern s (.kern s.ev.a) ln.ctx c.part (m.klist.getD ln.kidx 0) (0, 0, 0) (some m.margSize) = .error (.bad 1) →
      ∃ t, exec .modelNextKernel s = .next t ∧ LaunchGone t s.ev.a
        ∧ (Apart (ridKey s ln.crAddr) 32 (ridKey s (chain s ln.chain).comp) 8 →
          CrIs s t ln.crAddr ln.seq 1 0 ln.kidx ln.chain ln.ctx (cyclesOf s ln)))
    ∧ (ln.needKern = false → kernelOver s s.ev.a ln = true → ln.kidx + 1 < m.klist.length → ln.cancelled = false →
      ∃ t, exec .modelNextKernel s = .next t ∧ (∀ e, e ∈ t.teams → e.2.launch ≠ s.ev.a) ∧ (∀ e, e ∈ t.groups → e.2.launch ≠ s.ev.a)
        ∧ ∀ ln', launch? t s.ev.a = some ln' → ln'.kidx = ln.kidx + 1 ∧ ln'.status = none ∧ ln'.nextClu = 0)
    ∧ (ln.needKern = false → kernelOver s s.ev.a ln = false → exec .modelNextKernel s = .next s))
  ∧ ∀ (s : State) (ln : Launch), launch? s s.ev.a = some ln →
    (kernelOver s s.ev.a ln = false → exec .launchComplete s = .next s)
    ∧ (kernelOver s s.ev.a ln = true → ln.model = none → let ch := chain s ln.chain
      ch.state = 1 → ch.s0 < 2 ^ 64 → (ch.word + 2 ^ 64 - ch.s0) % 2 ^ 64 = ln.record → mget? ch.recs (ln.record + 1) = none →
      ∃ t, exec .launchComplete s = .next t ∧ LaunchGone t s.ev.a
        ∧ (chain t ln.chain).word = (ch.s0 + (ln.record + 1)) % 2 ^ 64 ∧ readNat t (ridKey s ch.comp) 8 = (chain t ln.chain).word
        ∧ (Apart (ridKey s ln.crAddr) 32 (ridKey s ch.comp) 8 → CrIs s t ln.crAddr ln.seq 0 0 0 ln.chain ln.ctx (cyclesOf s ln)))
    ∧ (kernelOver s s.ev.a ln = true → xfersAsked ln = false →
      (moreKernels ln = true → ln.cancelled = false → exec .launchComplete s = .next s)
      ∧ ∀ st k, moreKernels ln = false ∧ st = 0 ∧ k = 0 ∨ moreKernels ln = true ∧ ln.cancelled = true ∧ st = 4 ∧ k = ln.kidx + 1 → k < 256 →
        ∃ t, exec .launchComplete s = .next t ∧ LaunchGone t s.ev.a
          ∧ (Apart (ridKey s ln.crAddr) 32 (ridKey s (chain s ln.chain).comp) 8 →
            CrIs s t ln.crAddr ln.seq st 0 k ln.chain ln.ctx (cyclesOf s ln)))

namespace Sys2Proof.Stated

/-- A group as it starts: every register 0, every lane running at the kernel's entry (R65, R127, R148). -/
structure Started (ln : Launch) (g : Group) (tid i : Nat) : Prop where
  own : g.team = tid ∧ g.ctx = ln.ctx ∧ g.idx = i
  regs : (∀ r L, L < 32 → vget g r L = 0) ∧ (∀ r, sget g r = 0) ∧ (∀ n, pget g n = 0) ∧ (∀ n, kget g n = 0) ∧ (∀ n, dget g n = 0)
    ∧ ∀ n, lcget g n = 0
  ctl : g.gsplit = 32 ∧ g.fstat = 0 ∧ g.steprnd = ln.kern.steprnd ∧ g.ended = false
  lanes : ∀ L, L < 32 → Stands g L ln.kern.entry .run ∧ (laneGet g L).cl = none

/-- A team stands admitted on a core, with the grant and base of `r` and all its groups started (R64 to R70). -/
def Admitted (t : State) (launch : Nat) (ln : Launch) (clu rank cr : Nat) (r : Room) : Prop :=
  ∃ tid tm, team? t tid = some tm ∧ tm.launch = launch ∧ tm.ctx = ln.ctx ∧ tm.t = teamIndex ln clu rank ∧ tm.cluster = clu ∧ tm.crank = rank
    ∧ tm.core = cr ∧ tm.base = r.base ∧ tm.scrBase = r.scrBase ∧ tm.scrBytes = r.scrBytes ∧ tm.st = .resident ∧ tm.groups.length = ln.kern.groups
    ∧ ∀ i gid, tm.groups[i]? = some gid → ∃ g, group? t gid = some g ∧ Started ln g tid i ∧ g.slice = (r.base + i) % 16

/-- The groups of a team are out of their slices, with their registers as they were (R431, R433). -/
def SavedOut (s t : State) (tm : Team) : Prop :=
  ∀ gid, gid ∈ tm.groups → ∀ g, group? s gid = some g → ∃ h, group? t gid = some h ∧ RegsKept g h {} ∧ (g.ended = false → h.active = false)

/-- Logical cores of a launch move in this order, each to the core of `cs` that hosts the fewest at that moment, the lowest of those (R80). -/
inductive Moves (cs : List Nat) : List Nat → Launch → Launch → Prop
  | done (ln : Launch) : Moves cs [] ln ln
  | next (l d : Nat) (r : List Nat) (ln ln' : Launch) : d ∈ cs →
      (∀ e, e ∈ cs → hostLoad ln d < hostLoad ln e ∨ hostLoad ln d = hostLoad ln e ∧ d ≤ e) →
      Moves cs r { ln with remap := mput ln.remap l d } ln' → Moves cs (l :: r) ln ln'

/-- `l` is the one virtual-grid launch in progress, and the core `cr` fails (R80, R481). -/
structure MovesFrom (s : State) (cr l : Nat) (ln : Launch) (c : Ctx) : Prop where
  fails : s.ev.flag = true ∧ s.ev.a = cr ∧ cr < 384 ∧ (coreAt s cr).marked = false
  one : mord s.launches = true ∧ mord s.teams = true ∧ launch? s l = some ln ∧ ln.status = none ∧ ln.kern.vgrid ≠ 0
    ∧ ∀ e, e ∈ s.launches → e.2.status = none → e.2.kern.vgrid ≠ 0 → e.1 = l
  ctx : ctx? s ln.ctx = some c

end Sys2Proof.Stated

/-- R64 to R82, R431, R481: placement. The first cluster that fits is admitted as a unit; a launch passed over for 1,048,576 cycles alone
may admit; a team whose groups have ended retires with everything that it holds; an evicted team leaves its core and comes back to its own
place; a hosting core changes turns when the quantum is over or the team blocks, and a quantum begins again where no other is ready; a location
that fails again marks its core, from which the logical cores of a virtual grid move away, and which is fenced once no team is on it. -/
def Obligations.TeamsArePlaced : Prop :=
  (∀ (s : State) (l : Nat) (ln : Launch) (an : Option Nat) (cs : List (Nat × Room)), mord s.launches = true → readmitsIn s s.ev.a = false →
    firstFit s s.ev.a (admCands s s.ev.a) = some (l, ln, .place an cs) →
    ∃ t ln', exec .clusterAdmit s = .next t ∧ launch? t l = some ln' ∧ ln'.nextClu = ln.nextClu + 1 ∧ ln'.firstAdmit.isSome = true
      ∧ t.mem = s.mem ∧ ∀ i cr r, cs[i]? = some (cr, r) → Admitted t l ln ln.nextClu i cr r)
  ∧ (∀ s : State, readmitsIn s s.ev.a = true ∨ firstFit s s.ev.a (admCands s s.ev.a) = none → exec .clusterAdmit s = .next s)
  ∧ (∀ (s : State) (l : Nat) (ln : Launch) (r : List (Nat × Launch)) (a : Nat), admQueue s s.ev.a = (l, ln) :: r → ln.passed = some a →
    (a + 1048576 ≤ s.now → (part s s.ev.a).starved ≠ some l →
      exec .admissionStarvationLimit s = .next (modPart s s.ev.a fun x => { x with starved := some l }))
    ∧ (s.now < a + 1048576 → exec .admissionStarvationLimit s = .next s))
  ∧ (∀ (s : State) (tm : Team), team? s s.ev.a = some tm →
    (canRetire s s.ev.a tm = false → exec .teamRetire s = .next s)
    ∧ (∀ ln, canRetire s s.ev.a tm = true → launch? s tm.launch = some ln → ∃ t tm' ln', exec .teamRetire s = .next t ∧ team? t s.ev.a = some tm'
      ∧ tm'.st = .retired ∧ tm'.blocks = [] ∧ tm'.tile = [] ∧ tm'.scr = [] ∧ tm'.holds = [] ∧ tm'.bars = []
      ∧ launch? t tm.launch = some ln' ∧ ln'.retired = ln.retired ++ [tm.t]))
  ∧ (∀ (s : State) (l v : Nat) (ln : Launch) (tm : Team) (q : List (Nat × Launch)) (r : List Nat), admQueue s s.ev.a = (l, ln) :: q →
    admitAt s s.ev.a l ln = .no → victims s s.ev.a ln.prio = v :: r → team? s v = some tm →
    admitAt (saveTeam s v .evicted) s.ev.a l ln ≠ .no →
    ∃ t, exec .teamEvict s = .next t ∧ team? t v = some { tm with st := .evicted, turn := 0 } ∧ (∀ j, j ≠ v → team? t j = team? s j)
      ∧ SavedOut s t tm ∧ t.mem = s.mem)
  ∧ (∀ s : State, evictFor s s.ev.a = none → exec .teamEvict s = .next s)
  ∧ (∀ (s : State) (tm : Team), team? s s.ev.a = some tm →
    (canReadmit s tm = false → exec .teamReadmit s = .next s)
    ∧ (canReadmit s tm = true → evictedMates s tm = [(s.ev.a, tm)] → ∃ t, exec .teamReadmit s = .next t
      ∧ team? t s.ev.a = some { tm with st := .resident, turn := 0 } ∧ (∀ j, j ≠ s.ev.a → team? t j = team? s j) ∧ t.mem = s.mem))
  ∧ (∀ (s u : State) (l tid : Nat) (ln : Launch) (tm : Team), mord s.teams = true → (∀ e, e ∈ s.teams → e.1 < s.nextId) →
    hostingLaunches s s.ev.a = [(l, ln)] → residentOf s l s.ev.a = some (tid, tm) → teamMats s tid = false →
    (∃ x, x ∈ turnOrder ln s.ev.a (some tm.t) ∧ hostedReady s l ln x = true) →
    nextTurn (saveTeam s tid .held) l ln s.ev.a (some tm.t) = some u →
    (1048576 ≤ tm.turn → exec .vgridQuantumExpiry s = .next u)
    ∧ (tm.turn < 1048576 → exec .vgridQuantumExpiry s = .next s)
    ∧ (preemptible s tid tm = true → exec .vgridTurnEnd s = .next u)
    ∧ (preemptible s tid tm = false → exec .vgridTurnEnd s = .next s)
    ∧ ∃ tm', team? u tid = some tm' ∧ tm'.st = .held)
  ∧ (∀ (s : State) (l tid : Nat) (ln : Launch) (tm : Team), hostingLaunches s s.ev.a = [(l, ln)] → residentOf s l s.ev.a = some (tid, tm) →
    (∀ x, x ∈ turnOrder ln s.ev.a (some tm.t) → hostedReady s l ln x = false) →
    exec .vgridTurnEnd s = .next s
    ∧ exec .vgridQuantumExpiry s = .next (if 1048576 ≤ tm.turn then modTeam s tid fun x => { x with turn := 0 } else s))
  ∧ (∀ (s : State) (cr l : Nat) (ln : Launch) (c : Ctx), MovesFrom s cr l ln c →
    let cs := (partCores s c.part).filter fun d => d != cr && !(coreAt s d).marked
    ((∃ e, e ∈ hostedTeams s l cr ∧ teamMats s e.1 = true) → ∃ t, exec .dyxihanScrub s = .next t ∧ launch? t l = some ln ∧ t.teams = s.teams)
    ∧ ((∀ e, e ∈ hostedTeams s l cr → teamMats s e.1 = false) → cs ≠ [] → ∃ t ln', exec .dyxihanScrub s = .next t ∧ launch? t l = some ln'
      ∧ Moves cs (hostedCores ln cr) ln ln'
      ∧ (∀ tid tm, team? s tid = some tm → tm.launch = l → tm.core = cr → tm.st ≠ .retired → tm.t ∈ hostedCores ln cr →
        (∀ e, e ∈ s.teams → e.2.launch = l → e.2.t = tm.t → e.1 = tid) →
        team? t tid = some { tm with st := .held, turn := 0, core := remapOf ln' tm.t } ∧ SavedOut s t tm)
      ∧ ∀ tid tm, team? s tid = some tm → tm.launch ≠ l ∨ tm.st = .retired → team? t tid = some tm))
  ∧ (∀ s : State, s.ev.flag = false ∨ 384 ≤ s.ev.a ∨ (coreAt s s.ev.a).marked = true → exec .dyxihanScrub s = .next s)
  ∧ ∀ s : State, s.ev.flag = true → s.ev.a < 384 → (coreAt s s.ev.a).marked = false → ∃ t, exec .dyxihanScrub s = .next t
    ∧ (coreAt t s.ev.a).marked = true
    ∧ ((∀ e, e ∈ s.launches → e.2.kern.vgrid = 0) → (∀ e, e ∈ s.teams → e.2.core ≠ s.ev.a) → s.dev.coresav.testBit s.ev.a = true →
      (∀ k, t.dev.coresav.testBit k = (s.dev.coresav.testBit k && decide (k ≠ s.ev.a))) ∧ t.dev.errStat.testBit 5 = true)

/-! ### The fabric, collectives, Sluice and translation as they go on by themselves (R278 to R284, R377 to R415, R439) -/

namespace Sys2Proof.Stated

/-- Layer `i` of a launch has failed with an FCAUSE, and its stream transfers nothing (R381). -/
def LayerFailed (s t : State) (l i fc : Nat) : Prop :=
  xferOf t l = none ∧ ∀ ly, layer? s l i = some ly →
    ∃ ly', layer? t l i = some ly' ∧ ly'.state = 3 ∧ ly'.fcause = fc ∧ ly'.counted = false ∧ ly'.gen = ly.gen

/-- The target's tables after the window entry that a request names has been read (R394, R397). -/
def windowRead (s : State) (m : RemMsg) : State :=
  tabFill { s with nextId := s.nextId + 1 } m.ectx 2 m.win (windowKey s m.ectx m.win) 16

/-- The request is that of a stream's transfer, whose layer is `i` (R385). -/
def StreamReq (s : State) (r : Rem) (l i : Nat) : Prop :=
  r.who = .stream l ∧ (launch? s l).isSome = true ∧ ∃ x, xferOf s l = some x ∧ x.req = some r.id ∧ x.layer = i

end Sys2Proof.Stated

/-- R394, R397, R399, R407, R408: Runnel. RMTINV drops the entries of its table and slot; a reload brings the route table and DEVNUM into
force and clears LINKDOWN; a link's failure sets LINKDOWN and RUNNEL, answers the requests on the link with poison and ends every
collective; a request that arrives is performed at its target, in the one or two pages that it lies in, and answered, or answered with
poison, or waits for a page with its address as checked; an answer reaches the register of the
lane that waits, and a request without an answer for 1 ms ends as a poisoned one. -/
def Obligations.RunnelGoesOn : Prop :=
  (∀ (s : State) (i : Instr), i = .rmtinvPeer ∨ i = .rmtinvWindow ∨ i = .rmtinvComm → s.dev.rmtBusy = true → exec i s = .next s)
  ∧ (∀ (s : State) (i : Instr) (op : Nat), Accepts s → s.dev.rmtBusy = false → (i, op) ∈ [(.rmtinvPeer, 1), (.rmtinvWindow, 2), (.rmtinvComm, 3)] →
    let n := s.ev.a % 512
    ∃ t, exec i s = .next t ∧ t.dev = { s.dev with rmtSlot := n, rmtBusy := true } ∧ t.mem = s.mem
      ∧ (∀ k, mget? t.tabs k = if k / 4096 = n * 4 + op then none else mget? s.tabs k)
      ∧ (op ≠ 3 → t.colls = s.colls)
      ∧ (op = 3 → ∀ id c, coll? s id = some c → c.slot = n → c.ended = none → ∃ c', coll? t id = some c' ∧ c'.ended = some 4))
  ∧ (∀ s : State, exec .rmtinvDone s = .next (withDev s { s.dev with rmtBusy := false }))
  ∧ (∀ s : State, Accepts s → exec .routeReload s = .next (withDev s { s.dev with reload := true }))
  ∧ (∀ s : State, s.dev.reload = false → exec .routeReloadDone s = .next s)
  ∧ (∀ s : State, s.dev.reload = true → ∃ r, exec .routeReloadDone s =
      .next (withDev s { s.dev with reload := false, linkDown := 0, devNow := s.dev.devnum, route := r })
    ∧ ∀ i, i < 131072 → let b := (readByte s (s.dev.rtBase * 2 ^ 17 + i)).toNat % 32; mget? r i = if b ≤ 17 then some b else none)
  ∧ (∀ s : State, let l := s.ev.a % 18
    ∃ t, exec .linkFailure s = .next t ∧ (∀ k, t.dev.linkDown.testBit k = (s.dev.linkDown.testBit k || decide (k = l)))
      ∧ t.dev.errStat.testBit 3 = true ∧ t.mem = s.mem
      ∧ (∀ id c, coll? s id = some c → c.ended = none → ∃ c', coll? t id = some c' ∧ c'.ended = some 1)
      ∧ ∀ id r, mget? s.rems id = some r → mget? t.rems id = some (if usesLink s r l then { r with ready := some .poison } else r))
  ∧ (∀ (s : State) (m : RemMsg), s.ev.a = 0 → s.ev.msg = some m → let s1 := windowRead s m
    (ctx? s m.ectx = none ∨ targetAddr s1 m = none →
      ∃ t, exec .remoteRequestArrive s = .next t ∧ t.out = s.out ++ [.remoteAnswer .poison] ∧ t.mem = s.mem)
    ∧ (∀ a cx, ctx? s m.ectx = some cx → targetAddr s1 m = some a → targetReady s1 cx (.target s.nextId) m a = .poison →
      ∃ t, exec .remoteRequestArrive s = .next t ∧ t.out = s.out ++ [.remoteAnswer .poison] ∧ t.mem = s.mem)
    ∧ (∀ a cx x n, ctx? s m.ectx = some cx → targetAddr s1 m = some a → targetReady s1 cx (.target s.nextId) m a = .page x n →
      ∃ t, exec .remoteRequestArrive s = .next t ∧ t.mem = s.mem
        ∧ mget? t.treqs s.nextId = some { id := s.nextId, msg := m, loop := 0, addr := some a })
    ∧ (∀ a cx ps, ctx? s m.ectx = some cx → targetAddr s1 m = some a → targetReady s1 cx (.target s.nextId) m a = .go ps →
      let old := ps.flatMap fun e => readBytes s e.1 e.2
      let elsewhere (t : State) : Prop := ∀ x, (∀ e, e ∈ ps → ¬ Covers e.1 e.2 x) → readByte t x = readByte s x
      (m.op = .ld → ∃ t, exec .remoteRequestArrive s = .next t ∧ t.out = s.out ++ [.remoteAnswer (.data old)] ∧ t.mem = s.mem)
      ∧ (m.op = .st → m.poison = false → m.data.length = m.width → (∀ b, b ∈ m.data → b < 256) →
        (ps.Pairwise fun e f => Apart e.1 e.2 f.1 f.2) →
        ∃ t, exec .remoteRequestArrive s = .next t ∧ t.out = s.out ++ [.remoteAnswer .ack]
          ∧ (ps.flatMap fun e => readBytes t e.1 e.2) = m.data ∧ elsewhere t)
      ∧ (∀ fn ty, m.op = .atom fn ty → (ps.Pairwise fun e f => Apart e.1 e.2 f.1 f.2) → ∃ t, exec .remoteRequestArrive s = .next t
        ∧ t.out = s.out ++ [.remoteAnswer (.data (leBytes m.width (leNat old)))]
        ∧ leNat (ps.flatMap fun e => readBytes t e.1 e.2) = (atomNew fn ty (leNat old) (leNat m.data) m.cmp).1 % 2 ^ (8 * m.width)
        ∧ elsewhere t)
      ∧ ∀ c x k host, m.op = .note c → counterAt s1 m.ectx c = some x → translate s1 none cx.pasid x .rw = .ok k host →
        (∀ e, e ∈ s.groups → e.2.ctx = m.ectx → cwaitsFor e.2 = []) →
        ∃ t, exec .remoteRequestArrive s = .next t ∧ t.out = s.out ++ [.remoteAnswer .ack]
          ∧ readNat t k 8 = (readNat s k 8 + leNat m.data) % 2 ^ 64 ∧ ∀ y, ¬ Covers k 8 y → readByte t y = readByte s y))
  ∧ (∀ s : State, s.ev.a ≠ 0 → canLoop s s.ev.a = false → exec .remoteRequestArrive s = .next s)
  ∧ (∀ s : State, mget? s.rems s.ev.a = none → exec .remoteAnswer s = .next s ∧ exec .remoteTimeout s = .next s)
  ∧ ∀ (s : State) (r : Rem), mget? s.rems s.ev.a = some r → r.id = s.ev.a →
    (∀ gid q L f g p bs, r.who = .lanes gid q (lbit L) → L < 32 → r.msg.op = .ld → r.ready = some (.data bs) → group? s gid = some g →
      flyOf g q = some f → f.ins = .rld p → p.ty = .n32 →
      ∃ t h, exec .remoteAnswer s = .next t ∧ mget? t.rems s.ev.a = none ∧ group? t gid = some h
        ∧ vget h p.d L = BitVec.ofNat 32 (fieldAt bs 0 4) ∧ ∀ x M, M < 32 → (x ≠ p.d ∨ M ≠ L) → vget h x M = vget g x M)
    ∧ (∀ l i, r.ready = some .poison → StreamReq s r l i → ∃ t, exec .remoteAnswer s = .next t ∧ mget? t.rems s.ev.a = none ∧ LayerFailed s t l i 3)
    ∧ (s.now < r.since + 2400000 → exec .remoteTimeout s = .next s)
    ∧ (∀ l i, r.since + 2400000 ≤ s.now → StreamReq s r l i →
      ∃ t, exec .remoteTimeout s = .next t ∧ mget? t.rems s.ev.a = none ∧ LayerFailed s t l i 3)
    ∧ (∀ gid q m f g, r.since + 2400000 ≤ s.now → r.who = .lanes gid q m → group? s gid = some g → flyOf g q = some f → f.left &&& ~~~m ≠ 0 →
      ∃ t h f', exec .remoteTimeout s = .next t ∧ mget? t.rems s.ev.a = none ∧ group? t gid = some h ∧ flyOf h q = some f'
        ∧ f'.poison = f.poison ||| m ∧ RegsKept g h {})

namespace Sys2Proof.Stated

/-- Bytes that a member reads when its collective starts: none where it receives a broadcast (R410). -/
def collReads (c : Coll) : Nat := if c.op = 4 ∧ c.rank ≠ c.root then 0 else collSrcLen c.op c.m (collPay c.ty c.block c.count)

end Sys2Proof.Stated

/-- R409 to R415: a posted collective starts once its SEQ is next, its contribution is read and sent to the devices of the other members, and
the next expected SEQ is the lowest not started; contributions arrive once for each rank; a collective whose contributions are all here
writes its result and then the status 0 to D, one that has ended writes its status; an end here, or the notice of another member's end, ends
the SEQ that it names, posted or not, and every started one above it. A sum of two ranks is rank 0's element plus rank 1's. -/
def Sys2Proof.Stated.CollectivesRun : Prop :=
  (∀ s : State, collOf s s.ev.a s.ev.b s.ev.c = none → exec .collStart s = .next s ∧ exec .collComplete s = .next s)
  ∧ (∀ (s : State) (c : Coll), collOf s s.ev.a s.ev.b s.ev.c = some c → coll? s c.id = some c →
    (canStart s c = false → exec .collStart s = .next s)
    ∧ (∀ cx bs po, canStart s c = true → ctx? s c.slot = some cx → vaReady s (.coll c.id) c.slot c.src (collReads c) false = .ok →
      vaRead s (some c.core) cx.pasid c.src (collReads c) = (bs, po) → ∃ t, exec .collStart s = .next t
        ∧ coll? t c.id = some { c with started := true, mine := bs, minePois := po }
        ∧ (∀ q, (commAt t c.slot c.comm).has q = true ↔ (commAt s c.slot c.comm).has q = true ∨ q = c.seq)
        ∧ (commAt t c.slot c.comm).has (commNext t c.slot c.comm) = false
        ∧ t.out = (if collReads c = 0 then s.out else s.out ++ [.coll c.cid c.seq c.rank
            (((List.range c.m).filter (· != c.rank)).map fun r => readNat s (c.members + 2 * r) 2) c.rclass bs po]) ∧ t.mem = s.mem)
    ∧ (canStart s c = true → vaReady s (.coll c.id) c.slot c.src (collReads c) false = .denied →
      ∃ t, exec .collStart s = .next t ∧ ∀ id x, coll? s id = some x → x.slot = c.slot → x.comm = c.comm → x.ended = none →
        x.seq = c.seq ∨ c.seq < x.seq ∧ x.started = true → ∃ x', coll? t id = some x' ∧ x'.ended = some 3)
    ∧ (canFinish s c = false → exec .collComplete s = .next s)
    ∧ (∀ st g, canFinish s c = true → c.counter = none → c.ended = some st → group? s c.gid = some g → g.exited = false →
      ∃ t h, exec .collComplete s = .next t ∧ coll? t c.id = none ∧ group? t c.gid = some h ∧ sget h c.dreg = BitVec.ofNat 32 st
        ∧ RegsKept g h { s := (· = c.dreg) })
    ∧ (∀ g cx k host bs, canFinish s c = true → c.counter = none → c.ended = none → c.op ≤ 1 → (∀ cr, (coreAt s cr).weirs = []) →
      (∀ r, r < c.m → ∃ b, contrib s c r = some (b, false)) → group? s c.gid = some g → g.exited = false → ctx? s c.slot = some cx →
      vaReady s (.coll c.id) c.slot c.dst (collDstLen c.op c.m c.rank (collUnits c.count c.block) (collPay c.ty c.block c.count)
        (collUnit c.ty c.block)) true = .ok →
      collResult s c = [(bs, false)] → c.dst % 4096 + bs.length ≤ 4096 → (∀ b, b ∈ bs → b < 256) → translate s none cx.pasid c.dst .wr = .ok k host →
      ∃ t h, exec .collComplete s = .next t ∧ coll? t c.id = none ∧ group? t c.gid = some h ∧ sget h c.dreg = 0
        ∧ RegsKept g h { s := (· = c.dreg) }
        ∧ (regionKind cx c.dst ≠ 1 → readBytes t k bs.length = bs ∧ ∀ x, ¬ Covers k bs.length x → readByte t x = readByte s x)
        ∧ (regionKind cx c.dst = 1 → LinesWhole s → ∀ i b, bs[i]? = some b → coreByte t c.core cx.pasid (k + i) = b)))
  ∧ (∀ (s : State) (c : Coll) (a b : List Nat), c.ty = .f32 → c.op = 0 → c.block = false → c.m = 2 → contrib s c 0 = some (a, false) →
    contrib s c 1 = some (b, false) → collResult s c = [((List.range c.count).flatMap fun e =>
      leBytes 4 (fAdd .f32 .rne 0 (fdec .f32 (leNat (slice a (e * 4) 4))) (fdec .f32 (leNat (slice b (e * 4) 4)))).bits, false)])
  ∧ (∀ s : State, cidHome s s.ev.a = none → exec .collMessage s = .next s ∧ exec .collEndNoticeReceive s = .next s)
  ∧ ∀ (s : State) (n i : Nat), cidHome s s.ev.a = some (n, i) →
    let m : CMsg := { slot := n, comm := i, seq := s.ev.b, rank := s.ev.c, bytes := s.ev.data, poison := s.ev.flag }
    let twice := ∃ x, x ∈ s.cmsgs ∧ x.slot = n ∧ x.comm = i ∧ x.seq = s.ev.b ∧ x.rank = s.ev.c
    (twice → exec .collMessage s = .next s) ∧ (¬ twice → exec .collMessage s = .next { s with cmsgs := s.cmsgs ++ [m] })
    ∧ (mord s.colls = true → ∃ t, exec .collEndNoticeReceive s = .next t
      ∧ ∀ id c, coll? s id = some c → c.slot = n → c.comm = i → c.ended = none →
        (c.seq = s.ev.b ∨ s.ev.b < c.seq ∧ c.started = true → ∃ c', coll? t id = some c' ∧ c'.ended = some s.ev.c)
        ∧ (c.seq < s.ev.b ∨ s.ev.b < c.seq ∧ c.started = false → coll? t id = some c))

/-- R34, R377 to R385, R439: Sluice and the host-call ring. A transfer starts where the pool has room (the layer is arriving, its GEN
advances and its bytes count), fails where the layer is larger than the pool, and else evicts the first candidate; a beat moves up to 4,096
bytes to the layer's destination; a transfer of every byte leaves the layer resident, an eviction leaves it absent once the accesses that
found it resident are over; a poisoned or denied source fails the layer. A host-call record goes to its slot of the ring with the next SEQ. -/
def Sys2Proof.Stated.SluiceRuns : Prop :=
  (∀ (s : State) (ln : Launch) (m : Model) (c : Ctx) (i : Nat) (asked : Bool) (ly : Layer), launch? s s.ev.a = some ln → ln.model = some m →
    ctx? s ln.ctx = some c → streamLive s ln = true → m.cur = none → streamHead m = some (i, asked) → m.layers[i]? = some ly →
    let pool := poolSize s c.part; let used := poolUsed s c.part; let need := if ly.counted then 0 else ly.bytes
    (ly.state = 4 → exec .layerTransferStart s = .next s)
    ∧ (ly.state ≠ 4 → pool ≠ 0 → pool < ly.bytes → ∃ t, exec .layerTransferStart s = .next t ∧ LayerFailed s t s.ev.a i 5)
    ∧ (ly.state ≠ 4 → pool = 0 ∨ ly.bytes ≤ pool ∧ used + need ≤ pool → ∃ t ly', exec .layerTransferStart s = .next t ∧ layer? t s.ev.a i = some ly'
      ∧ ly'.state = 1 ∧ ly'.gen = (ly.gen + 1) % 2 ^ 32 ∧ ly'.counted = true ∧ ly'.fcause = 0
      ∧ xferOf t s.ev.a = some { layer := i, asked := asked })
    ∧ (∀ l k x r, ly.state ≠ 4 → pool ≠ 0 → ly.bytes ≤ pool → pool < used + need → evictingIn s c.part = false →
      evictCands s c.part = (l, k, x) :: r → used + need ≤ pool + (evictCands s c.part).foldl (fun a e => a + e.2.2.bytes) 0 →
      (layer? s l k).isSome = true → ∃ t y, exec .layerTransferStart s = .next t ∧ layer? t l k = some y ∧ y.state = 4 ∧ isEvicting t l k = true))
  ∧ (∀ s : State, launch? s s.ev.a = none → exec .layerTransferStart s = .next s ∧ exec .layerTransferDone s = .next s
    ∧ exec .layerEvictDone s = .next s)
  ∧ (∀ (s : State) (x : Xfer) (ly : Layer), xferOf s s.ev.a = some x → layer? s s.ev.a x.layer = some ly →
    (x.done < ly.bytes → exec .layerTransferDone s = .next s)
    ∧ (ly.bytes ≤ x.done → ∃ t ly', exec .layerTransferDone s = .next t ∧ xferOf t s.ev.a = none ∧ layer? t s.ev.a x.layer = some ly'
      ∧ ly'.state = 2 ∧ ly'.gen = ly.gen ∧ ly'.counted = ly.counted
      ∧ ((∃ e, e ∈ s.teams ∧ e.2.launch = s.ev.a ∧ x.layer ∈ e.2.holds) → ly'.release = none)
      ∧ ((∀ e, e ∈ s.teams → e.2.launch = s.ev.a → x.layer ∉ e.2.holds) → ly'.release = if ly.heldOnce then ly.release else some s.now)))
  ∧ (∀ (s : State) (ly : Layer), layer? s s.ev.a s.ev.b = some ly →
    (canEvict s s.ev.a s.ev.b = false → exec .layerEvictDone s = .next s)
    ∧ (canEvict s s.ev.a s.ev.b = true → ∃ t ly', exec .layerEvictDone s = .next t ∧ layer? t s.ev.a s.ev.b = some ly' ∧ ly'.state = 0
      ∧ ly'.counted = false ∧ isEvicting t s.ev.a s.ev.b = false))
  ∧ (∀ s : State, (∀ e, e ∈ s.launches → canBeat s e.1 e.2 = false) → exec .sluiceBeat s = .next s)
  ∧ (∀ (s : State) (id : Nat) (ln : Launch) (x : Xfer) (ly : Layer) (c : Ctx) (bs : List Nat) (po : Bool),
    (s.launches.filter fun e => canBeat s e.1 e.2) = [(id, ln)] → launch? s id = some ln → xferOf s id = some x → layer? s id x.layer = some ly →
    ctx? s ln.ctx = some c → ly.kind ≠ 1 → ly.src + ly.bytes ≤ 2 ^ 57 → let n := min 4096 (ly.bytes - x.done)
    vaReady s (.stream id) ln.ctx (ly.dst + x.done) n true = .ok →
    (vaReady s (.stream id) ln.ctx (ly.src + x.done) n false = .denied → ∃ t, exec .sluiceBeat s = .next t ∧ LayerFailed s t id x.layer 1)
    ∧ (vaReady s (.stream id) ln.ctx (ly.src + x.done) n false = .ok → vaRead s none c.pasid (ly.src + x.done) n = (bs, po) →
      (po = true → ∃ t, exec .sluiceBeat s = .next t ∧ LayerFailed s t id x.layer 2)
      ∧ (po = false → ∃ t, exec .sluiceBeat s = .next t ∧ xferOf t id = some { x with done := x.done + n, req := none }
        ∧ ∀ k host, (ly.dst + x.done) % 4096 + n ≤ 4096 → translate s none c.pasid (ly.dst + x.done) .wr = .ok k host → Unheld s k n →
          readBytes t k n = bs ∧ ∀ y, ¬ Covers k n y → readByte t y = readByte s y)))
  ∧ (∀ s : State, s.dev.hcPend = [] → exec .hcallWriteDone s = .next s)
  ∧ ∀ (s : State) (r : List Nat) (q : List (List Nat)), s.dev.hcPend = r :: q → r.length = 24 → (∀ b, b ∈ r → b < 256) →
    let k := ridKey s (s.dev.hcBase + s.dev.hcProd % (64 * 2 ^ s.dev.hcLogn) * 32)
    (s.ev.flag = true → ∃ t, exec .hcallWriteDone s = .next t ∧ t.dev.hcProd = s.dev.hcProd + 1
      ∧ readBytes t k 32 = leBytes 8 (s.dev.hcProd + 1) ++ r ∧ ∀ x, ¬ Covers k 32 x → readByte t x = readByte s x)
    ∧ (s.ev.flag = false → ∃ t, exec .hcallWriteDone s = .next t ∧ t.dev.hcProd = s.dev.hcProd ∧ s.dev.hcDrop < t.dev.hcDrop ∧ t.mem = s.mem)

namespace Sys2Proof.Stated

/-- The waits that an ATS answer for a page of a PASID concerns (R279). -/
def AtsWait (s : State) (pasid page : Nat) (p : PWait) : Prop :=
  p ∈ s.waits ∧ p.pasid = pasid ∧ p.page = page ∧ (p.stage = .ats ∨ p.stage = .again)

/-- No fault is stalled for want of a page request group or a replay entry (R283). -/
def NoneStalled (s : State) : Prop := ∀ p, p ∈ s.waits → p.stage ≠ .stalled

/-- The translation that an ATS answer grants to a page, as it is held: at 4 KiB, 64 KiB, 2 MiB or 1 GiB (R279). -/
def granted (pasid page pa size : Nat) (host r w x : Bool) : Trans :=
  let n := heldSize size
  { pasid := pasid, va := page / n * n, size := n, pa := pa - (page - page / n * n), host := host, r := r, w := w, x := x }

/-- A grant names memory of the host, or of HBM outside the areas that no context reaches (R278). -/
def Grantable (s : State) (t : Trans) : Prop := t.host = true ∨ t.pa + t.size ≤ hbmSize ∧ kept s.dev t.pa t.size = false

/-- The ATS answer of the event leaves a wait without a translation that permits its access (R279). -/
def PageAbsent (s : State) (p : PWait) : Prop :=
  s.ev.ats = .absent ∨ ∃ pa size host r w x, s.ev.ats = .grant pa size host r w x ∧ Grantable s (granted p.pasid p.page pa size host r w x)
    ∧ ¬ ((p.r = true → r = true) ∧ (p.w = true → w = true) ∧ (p.x = true → x = true))

/-- A translation is of a PASID and meets a range. -/
def HitBy (u : Trans) (pasid a n : Nat) : Prop := u.pasid = pasid ∧ u.va < a + n ∧ a < u.va + u.size

/-- The wait of an access of lanes whose team stands on its core, the only one of its number. -/
def OneWait (s : State) (p : PWait) (gid seq : Nat) (g : Group) : Prop :=
  p.who = .lanes gid seq ∧ group? s gid = some g ∧ (∃ tm, team? s g.team = some tm ∧ teamHere s tm = true) ∧ (∀ q, q ∈ s.waits → q.id = p.id → q = p)

/-- One group changes, and nothing else of the machine. -/
def GroupIs (s t : State) (gid : Nat) (h : Group) : Prop :=
  t = { s with groups := t.groups } ∧ ∀ j, group? t j = if j = gid then some h else group? s j

/-- A wait of lanes of a group whose context stands unhalted. -/
def LaneWait (s : State) (p : PWait) (gid seq : Nat) (g : Group) (c : Ctx) : Prop :=
  p.who = .lanes gid seq ∧ group? s gid = some g ∧ ctx? s g.ctx = some c ∧ c.halt = none

/-- The context halts with cause 0x05, an unrecoverable translation (R45, R280). -/
def LostPage (t : State) (gid : Nat) (g : Group) (c : Ctx) : Prop :=
  ∃ h, ctx? t g.ctx = some { c with halt := some h } ∧ h.cause = 0x05 ∧ h.gid = some gid

end Sys2Proof.Stated

/-- R45, R278 to R284: translation. A granted ATS response enters the waiting core's L1 TLB, and Basin where it is enabled, and ends the wait;
a unit outside the cores keeps it (log entry 63). An absent page, or a grant that does not permit the access, stalls the group and sends a
page request once a replay entry of its slice and a page request group of its context are free, and denies the access where the page has
been asked for before; an error, a grant of memory that no context may reach, a response code of failure and a request past its bound (1 ms
for ATS, 500 ms for PRI) halt the context with 0x05; a Success is translated again; an invalidation drops what it meets and is answered; a stall of 50 µs is a blocking point; lanes whose pages have come perform their
accesses, and the stall ends when nothing is waited for. -/
def Sys2Proof.Stated.PagesArrive : Prop :=
  (∀ (s : State) (pa size : Nat) (host r w x : Bool), s.ev.ats = .grant pa size host r w x → NoneStalled s →
    let u := granted s.ev.a s.ev.c pa size host r w x
    (∃ p, AtsWait s s.ev.a s.ev.c p) →
    (∀ p, AtsWait s s.ev.a s.ev.c p →
      (∃ cr tm, waiterTeam s p.who = some (cr, tm)) ∧ (p.r = true → r = true) ∧ (p.w = true → w = true) ∧ (p.x = true → x = true)) →
    Grantable s u →
    ∃ t, exec .atsResponse s = .next t ∧ (s.dev.basinEn = true → entOf t.basin s.ev.a s.ev.c = some u) ∧ (s.dev.basinEn = false → t.basin = s.basin)
      ∧ ∀ p cr tm, AtsWait s s.ev.a s.ev.c p → waiterTeam s p.who = some (cr, tm) →
        entOf (coreTlb t cr) s.ev.a s.ev.c = some u ∧ { p with stage := .ok, tr := some u } ∈ t.waits)
  ∧ (∀ (s : State) (p : PWait) (pa size : Nat) (host r w x : Bool), s.ev.ats = .grant pa size host r w x → NoneStalled s →
    (s.waits.filter fun q => q.pasid == s.ev.a && q.page == s.ev.c && (q.stage == .ats || q.stage == .again)) = [p] →
    waiterTeam s p.who = none → (p.r = true → r = true) ∧ (p.w = true → w = true) ∧ (p.x = true → x = true) →
    Grantable s (granted s.ev.a s.ev.c pa size host r w x) →
    ∃ t, exec .atsResponse s = .next t ∧ transOf t none s.ev.a s.ev.c = some (granted s.ev.a s.ev.c pa size host r w x))
  ∧ (∀ (s : State) (p : PWait), (s.waits.filter fun q => q.pasid == s.ev.a && q.page == s.ev.c && (q.stage == .ats || q.stage == .again)) = [p] →
    (∀ gid seq g, OneWait s p gid seq g → PageAbsent s p → p.stage = .ats → NoneStalled s →
      (∃ t h, exec .atsResponse s = .next t ∧ group? t gid = some h ∧ h.stallAt = some (g.stallAt.getD s.now))
      ∧ (p.asked = true ∨ replayUsed s (coreOf s g, g.slice) < 64 → priCount s p.ctx < 512 →
        ∃ t, exec .atsResponse s = .next t ∧ { p with stage := .pri, since := s.now, asked := true } ∈ t.waits ∧ .pri p.pasid p.page p.w p.x ∈ t.out)
      ∧ (512 ≤ priCount s p.ctx → ∃ t q, exec .atsResponse s = .next t ∧ q ∈ t.waits ∧ q.id = p.id ∧ q.stage = .stalled ∧ t.out = s.out))
    ∧ (∀ gid seq g, OneWait s p gid seq g → PageAbsent s p → p.stage = .again → NoneStalled s →
      ∃ t, exec .atsResponse s = .next t ∧ { p with stage := .deny, tr := none } ∈ t.waits)
    ∧ (∀ gid seq g c, LaneWait s p gid seq g c → s.ev.ats = .error → ∃ t, exec .atsResponse s = .next t ∧ LostPage t gid g c)
    ∧ (∀ gid seq g c pa size host r w x, LaneWait s p gid seq g c → s.ev.ats = .grant pa size host r w x →
      ¬ Grantable s (granted p.pasid p.page pa size host r w x) → ∃ t, exec .atsResponse s = .next t ∧ LostPage t gid g c)
    ∧ (∀ gid seq g c, LaneWait s p gid seq g c → p.since + 2400000 ≤ s.now → ∃ t, exec .atsTimeout s = .next t ∧ LostPage t gid g c)
    ∧ (s.now < p.since + 2400000 → NoneStalled s → exec .atsTimeout s = .next s))
  ∧ (∀ (s : State) (p : PWait), (s.waits.filter fun q => q.pasid == s.ev.a && q.page == s.ev.c && q.stage == .pri) = [p] →
    (s.ev.pri = .success → NoneStalled s → ∃ t, exec .priResponse s = .next t ∧ { p with stage := .again, since := s.now } ∈ t.waits
      ∧ t.out = s.out ++ [.ats p.pasid p.page p.w p.x])
    ∧ (∀ gid seq g c, LaneWait s p gid seq g c → s.ev.pri ≠ .success → ∃ t, exec .priResponse s = .next t ∧ LostPage t gid g c)
    ∧ (∀ gid seq g c, LaneWait s p gid seq g c → p.since + 1200000000 ≤ s.now → ∃ t, exec .priTimeout s = .next t ∧ LostPage t gid g c)
    ∧ (s.now < p.since + 1200000000 → NoneStalled s → exec .priTimeout s = .next s))
  ∧ (∀ s : State, let n := max 4096 s.ev.b
    ∃ t, exec .atsInvalidation s = .next t
    ∧ t = { s with ctlb := t.ctlb, basin := t.basin, tlb := t.tlb, waits := t.waits, ilines := t.ilines, invs := s.invs ++ [(s.ev.a, s.ev.c)] }
    ∧ (∀ e, e ∈ t.ilines ↔ e ∈ s.ilines ∧ ¬ (e.1 / 2 ^ 50 % 2 ^ 20 = s.ev.a ∧ e.1 % 2 ^ 50 * 128 < s.ev.c + n ∧ s.ev.c < e.1 % 2 ^ 50 * 128 + 128))
    ∧ (∀ u, u ∈ t.tlb ↔ u ∈ s.tlb ∧ ¬ HitBy u s.ev.a s.ev.c n) ∧ (∀ e, e ∈ t.basin ↔ e ∈ s.basin ∧ ¬ HitBy e.tr s.ev.a s.ev.c n)
    ∧ (∀ cr e, e ∈ coreTlb t cr ↔ e ∈ coreTlb s cr ∧ ¬ HitBy e.tr s.ev.a s.ev.c n)
    ∧ t.waits.length = s.waits.length ∧ ∀ (i : Nat) (p : PWait), s.waits[i]? = some p →
      ((∃ u, p.tr = some u ∧ HitBy u s.ev.a s.ev.c n) → t.waits[i]? = some { p with tr := none })
      ∧ ((∀ u, p.tr = some u → ¬ HitBy u s.ev.a s.ev.c n) → t.waits[i]? = some p))
  ∧ (∀ s : State, ((s.ev.a, s.ev.c) ∈ s.invs → exec .atsInvalidationDone s =
      .next { s with invs := s.invs.erase (s.ev.a, s.ev.c), out := s.out ++ [.invDone s.ev.a s.ev.c] })
    ∧ ((s.ev.a, s.ev.c) ∉ s.invs → exec .atsInvalidationDone s = .next s))
  ∧ (∀ (s : State) (g : Group) (a : Nat), group? s s.ev.a = some g → g.stallAt = some a →
    ∃ t, exec .faultStallBlocking s = .next t ∧ GroupIs s t s.ev.a (if a + 120000 ≤ s.now then { g with stallLong := true } else g))
  ∧ ∀ (s : State) (g : Group), group? s s.ev.a = some g →
    (groupLive s g = false → exec .faultReplay s = .next s)
    ∧ (groupLive s g = true → g.trap = none → g.hnd = none →
      (answeredWaits s s.ev.a = [] → pageStalled s s.ev.a = false →
        ∃ t, exec .faultReplay s = .next t ∧ GroupIs s t s.ev.a { g with stallAt := none, stallLong := false })
      ∧ ∀ (p : PWait) (q L r ea k : Nat) (a : Acc) (tm : Team) (ln : Launch) (c : Ctx) (host : Bool), s.waits = [p] → p.who = .lanes s.ev.a q →
        p.stage = .ok → p.lanes = lbit L → L < 32 → g.accs = [a] → a.seq = q → a.lane = L → a.shared = 0 → a.op = .load → a.ty = .n32 →
        a.space = .global → a.comps = [(ea, 4)] → a.dst = some (.v r) → a.obj = none → team? s g.team = some tm → launch? s a.launch = some ln →
        ctx? s a.ctx = some c → ln.owns = [] → regionKind c ea ≠ 4 → translateFor s (some tm.core) (.lanes s.ev.a q) c.pasid ea .rd = .ok k host →
        corePois s tm.core c.pasid k 4 = false → (∀ f, f ∈ g.fly → f.fl = [] ∧ f.cnt = []) → (coreAt s tm.core).weirs = [] →
        ∃ t h, exec .faultReplay s = .next t ∧ group? t s.ev.a = some h ∧ vget h r L = BitVec.ofNat 32 (coreNat s tm.core c.pasid k 4)
          ∧ RegsKept g h { v := fun x M => x = r ∧ M = L, fstat := True } ∧ t.waits = [] ∧ ∀ x, readByte t x = readByte s x)

/-! ### Traces, errors and management (R44, R278, R391, R469 to R488) -/

namespace Sys2Proof.Stated

/-- A bit of ERRSTAT is set and the others stay; vector 0 leaves when ERRSTAT & ERREN becomes non-zero (R480). -/
def ErrSet (s t : State) (bit : Nat) : Prop :=
  (∀ k, t.dev.errStat.testBit k = (s.dev.errStat.testBit k || decide (k = bit)))
    ∧ t.out = if Nat.land s.dev.errStat s.dev.errEn = 0 ∧ Nat.land t.dev.errStat s.dev.errEn ≠ 0 then s.out ++ [.msix 0] else s.out

/-- An error counter has risen by one, saturating, and the others stay (R479). -/
def Counted1 (s t : State) (n : Nat) : Prop :=
  ∀ k, mget t.dev.soft 0 k = if k = n then min (2 ^ 64 - 1) (mget s.dev.soft 0 k + 1) else mget s.dev.soft 0 k

/-- One Plume changes, and nothing else of the machine. -/
def PlumeIs (s t : State) (d : Nat) (p : Plume) : Prop :=
  t = { s with plume := t.plume } ∧ ∀ j, plumeOf t j = if j = d then p else plumeOf s j

/-- Bytes of a dump: 96 for each cycle recorded (R471). -/
def dumpLen (p : Plume) : Nat := (if p.wrapped then 65536 else p.head) * 96

/-- Byte `o` of a dump: of the cycles oldest first, 6 bytes for each slice (R470, R471). -/
def dumpByte (p : Plume) (o : Nat) : Nat :=
  recAt p (((if p.wrapped then p.head else 0) + o / 96) % 65536) (o % 96 / 6) / 256 ^ (o % 6) % 256

/-- The dump of Plume `d` can go on in the space of `c`, where its first `n` pages lie at the keys `key`, apart; none of its records is
poisoned. -/
structure DumpsTo (s : State) (d : Nat) (p : Plume) (c : Ctx) (n : Nat) (key : Nat → Nat) : Prop where
  busy : p.busy = true ∧ waiting s (.dump d) = false ∧ ctx? s (p.dctx % 512) = some c
  clean : ∀ e, e ∈ p.recs → e.2.testBit 48 = false
  pages : ∀ j, j < n → ∃ host, translate s none c.pasid (p.daddr / 4096 * 4096 + j * 4096) .wr = .ok (key j) host
  apart : ∀ i j, i < n → j < n → i ≠ j → Apart (key i) 4096 (key j) 4096

/-- The first `m` bytes of a dump are written, in the pages at `key`, and no byte outside those pages (R471). -/
def Dumped (s t : State) (p : Plume) (n m : Nat) (key : Nat → Nat) : Prop :=
  (∀ o, o < m → (readByte t (key (o / 4096) + o % 4096)).toNat = dumpByte p o)
    ∧ ∀ x, (∀ j, j < n → ¬ Covers (key j) 4096 x) → readByte t x = readByte s x

/-- A byte of HBM that BAR4 does not reach: Basin's area, that of saved teams, and beyond HBM (R278). -/
def BarHides (d : Dev) (a : Nat) : Prop :=
  (d.basinEn = true ∧ d.basinBase * 4096 ≤ a ∧ a < d.basinBase * 4096 + 16 * 2 ^ d.basinLogn)
    ∨ (Config.savedArea.1 ≤ a ∧ a < Config.savedArea.1 + Config.savedArea.2) ∨ 576 * 2 ^ 30 ≤ a

end Sys2Proof.Stated

/-- R469 to R471, R475: Plume and the monitors. START begins a recording unless contents are held, STOP ends it after the current cycle, a
full window that does not wrap ends it, DISCARD releases what is held; a dump writes 6 bytes for each slice of each cycle, oldest first, in as
many pages as it takes; the first page that is not there or denied stops it: the contents stay held, and TRUNCOFF is the first byte not
written; MON_CLEAR sets a unit's values to those of reset. -/
def Sys2Proof.Stated.TracesRecord : Prop :=
  (∀ s : State, Accepts s → let d := s.ev.a % 4; let p := plumeOf s d
    (p.held = true → exec .plumeStart s = .next s)
    ∧ (p.held = false → ∃ t, exec .plumeStart s = .next t
      ∧ PlumeIs s t d { p with head := 0, wrapped := false, recording := true, t0 := s.now, recs := [], stopNow := false })
    ∧ (p.recording = false → exec .plumeStop s = .next s)
    ∧ (p.recording = true → ∃ t, exec .plumeStop s = .next t
      ∧ (plumeOf t d).head = (if p.wrapped = true ∧ p.wrap = false then p.head else (p.head + 1) % 65536)
      ∧ (plumeOf t d).recording = false ∧ (plumeOf t d).held = true ∧ t = { s with plume := t.plume } ∧ ∀ j, j ≠ d → plumeOf t j = plumeOf s j)
    ∧ (p.held = true → p.busy = false → ∃ t, exec .plumeDump s = .next t ∧ PlumeIs s t d { p with busy := true })
    ∧ (p.held = false ∨ p.busy = true → exec .plumeDump s = .next s)
    ∧ (p.held = true → ∃ t, exec .plumeDiscard s = .next t ∧ PlumeIs s t d { p with held := false, recs := [] })
    ∧ (p.held = false → exec .plumeDiscard s = .next s)
    ∧ ∃ t, exec .monClear s = .next t ∧ t = { s with mons := t.mons }
      ∧ monOf t d (s.ev.b % 64) = { cfg := (monOf s d (s.ev.b % 64)).cfg, min := 2 ^ 64 - 1, max := 0, count := 0, sum := 0, buckets := [] }
      ∧ ∀ k, k ≠ d * 64 + s.ev.b % 64 → mget? t.mons k = mget? s.mons k)
  ∧ ∀ s : State, let d := s.ev.a % 4; let p := plumeOf s d
    (p.recording = true ∧ p.wrapped = true ∧ p.wrap = false → ∃ t, exec .plumeWindowFull s = .next t
      ∧ PlumeIs s t d { p with recording := false, held := true, stopNow := false })
    ∧ (p.recording = false ∨ p.wrapped = false ∨ p.wrap = true → exec .plumeWindowFull s = .next s)
    ∧ (p.busy = false → exec .plumeDumpDone s = .next s)
    ∧ (p.busy = true → waiting s (.dump d) = false → ctx? s (p.dctx % 512) = none → ∃ t, exec .plumeDumpDone s = .next t ∧ t.mem = s.mem
      ∧ plumeOf t d = { p with busy := false, done := false, trunc := true, truncOff := 0 })
    ∧ ∀ c n key, DumpsTo s d p c n key → let a := p.daddr / 4096 * 4096 + n * 4096
      (dumpLen p ≤ n * 4096 → n * 4096 < dumpLen p + 4096 → ∃ t, exec .plumeDumpDone s = .next t
        ∧ plumeOf t d = { p with busy := false, done := true, trunc := false, held := false } ∧ Dumped s t p n (dumpLen p) key)
      ∧ (n * 4096 < dumpLen p →
        translate s none c.pasid a .wr = .deny ∨ translate s none c.pasid a .wr = .miss ∧ (deniedFor s (.dump d) a = true ∨ 2 ^ 57 ≤ a) →
        ∃ t, exec .plumeDumpDone s = .next t
          ∧ plumeOf t d = { p with busy := false, done := false, trunc := true, truncOff := n * 4096 } ∧ Dumped s t p n (n * 4096) key)
      ∧ (n * 4096 < dumpLen p → translate s none c.pasid a .wr = .miss → deniedFor s (.dump d) a = false → a < 2 ^ 57 →
        ∃ t, exec .plumeDumpDone s = .next t ∧ t.plume = s.plume ∧ t.mem = s.mem ∧ waiting t (.dump d) = true)

/-- R44, R278, R391, R477 to R480: errors and BAR4. Reading a counter of errors clears it and reading ERRLOG opens it; a corrected error
counts and sets CE; an uncorrectable one poisons its granule, counts, sets UE and is logged where the log is open, else sets OVF, and one of
HBM in the destination of a layer that arrives fails the layer with FCAUSE 4; a RILL flit that fails counts, and one that cannot be delivered
also sets UE and RILL; BAR4 reads and writes HBM within its size but for the areas that it hides. -/
def Obligations.ErrorsShow : Prop :=
  (∀ s : State, let n := s.ev.a % 7
    exec .softCounterRead s = .next { s with dev := { s.dev with soft := mdel s.dev.soft n },
                                              out := s.out ++ [.read (leBytes 8 (mget s.dev.soft 0 n)) false] })
  ∧ (∀ s : State, ∃ x, exec .errlogRead s = .next { s with dev := { s.dev with errLog := x }, out := s.out ++ [.read (leBytes 32 s.dev.errLog) false] }
    ∧ ∀ k, x.testBit k = (s.dev.errLog.testBit k && decide (k ≠ 6 ∧ k ≠ 7)))
  ∧ (∀ s : State, (s.ev.a = 0 ∨ 6 < s.ev.a → exec .eccCorrected s = .next s ∧ exec .eccUncorrectable s = .next s)
    ∧ (1 ≤ s.ev.a → s.ev.a ≤ 6 → ∃ t, exec .eccCorrected s = .next t ∧ Counted1 s t (s.ev.a - 1) ∧ ErrSet s t 0 ∧ t.mem = s.mem ∧ t.pois = s.pois)
    ∧ (1 ≤ s.ev.a → s.ev.a ≤ 6 → ∃ t, exec .eccUncorrectable s = .next t ∧ Counted1 s t 6 ∧ t.dev.errStat.testBit 1 = true
      ∧ (s.dev.errLog.testBit 7 = true → ∀ k, t.dev.errLog.testBit k = (s.dev.errLog.testBit k || decide (k = 6)))
      ∧ (s.dev.errLog.testBit 7 = false → bitsOf t.dev.errLog 0 8 = 2 ^ 7 ∧ bitsOf t.dev.errLog 8 8 = s.ev.a
        ∧ bitsOf t.dev.errLog 16 16 = s.ev.b % 65536 ∧ bitsOf t.dev.errLog 32 16 = s.ev.d % 65536
        ∧ bitsOf t.dev.errLog 64 64 = (if s.ev.a = 2 ∨ s.ev.a = 4 ∨ s.ev.a = 5 then s.ev.c / 16 * 16 % 2 ^ 64 else 0)))
    ∧ (s.ev.a = 2 ∨ s.ev.a = 5 ∨ s.ev.a = 4 ∧ (∀ e, e ∈ s.launches → xferOf s e.1 = none) →
      ∃ t, exec .eccUncorrectable s = .next t ∧ ErrSet s t 1 ∧ t.mem = s.mem
        ∧ ∀ k, mget t.pois false k = (mget s.pois false k || decide (k = s.ev.c / 16)))
    ∧ (s.ev.a = 4 → ∃ t, exec .eccUncorrectable s = .next t ∧ mget t.pois false (s.ev.c / 16) = true
      ∧ ∀ id ln x ly c va, s.launches = [(id, ln)] → xferOf s id = some x → layer? s id x.layer = some ly → ctx? s ln.ctx = some c →
        vaOf s c.pasid s.ev.c = some va → ly.dst ≤ va → va < ly.dst + ly.bytes → LayerFailed s t id x.layer 4))
  ∧ (∀ s : State, (s.ev.flag = true → ∃ t, exec .rillFlitFail s = .next t ∧ Counted1 s t 4 ∧ ErrSet s t 0 ∧ t.mem = s.mem ∧ t.pois = s.pois)
    ∧ (s.ev.flag = false → ∃ t, exec .rillFlitFail s = .next t ∧ t.dev.errStat.testBit 0 = true ∧ t.dev.errStat.testBit 1 = true
      ∧ t.dev.errStat.testBit 4 = true ∧ mget t.pois false (s.ev.c / 16) = true ∧ t.mem = s.mem))
  ∧ ∀ s : State, let n := if s.ev.flag then s.ev.data.length else s.ev.a
    (s.dev.bar4Gib * 2 ^ 30 < s.ev.c + n → exec .bar4Access s = .next s)
    ∧ (s.ev.flag = true → s.ev.c + n ≤ s.dev.bar4Gib * 2 ^ 30 → ∃ t, exec .bar4Access s = .next t
      ∧ (∀ i b, s.ev.data[i]? = some b → ¬ BarHides s.dev (s.ev.c + i) → readByte t (s.ev.c + i) = BitVec.ofNat 8 b)
      ∧ (∀ x, BarHides s.dev x ∨ x < s.ev.c ∨ s.ev.c + s.ev.data.length ≤ x → readByte t x = readByte s x)
      ∧ (s.ev.b = 1 → ∀ i, i < s.ev.data.length → ¬ BarHides s.dev (s.ev.c + i) → mget t.pois false ((s.ev.c + i) / 16) = true))
    ∧ (s.ev.flag = false → s.ev.c + n ≤ s.dev.bar4Gib * 2 ^ 30 → ∃ bs po, exec .bar4Access s = .next { s with out := s.out ++ [.read bs po] } ∧ bs.length = s.ev.a
      ∧ (∀ i, i < s.ev.a → (BarHides s.dev (s.ev.c + i) → bs[i]? = some 0)
        ∧ (¬ BarHides s.dev (s.ev.c + i) → bs[i]? = some (readByte s (s.ev.c + i)).toNat))
      ∧ (po = true ↔ ∃ i, i < s.ev.a ∧ ¬ BarHides s.dev (s.ev.c + i) ∧ mget s.pois false ((s.ev.c + i) / 16) = true))

namespace Sys2Proof.Stated

/-- The mailbox commands with their OP (R487). -/
def mbOps : List (Instr × Nat) :=
  [(.mbInfo, 1), (.mbErase, 2), (.mbWrite, 3), (.mbVerify, 4), (.mbActivate, 5), (.mbRaisemin, 6), (.mbReset, 7)]

/-- A command of the mailbox begins: nothing of it shows until it is done. -/
def mbStart (s : State) (op : Nat) : Dev := { s.dev with mbIen := s.ev.flag, mbOp := op, mbBusy := true }

/-- A command of the mailbox is done, with the device as `d` says: BUSY clears, and vector 1 is sent where IEN asks for it. -/
def mbEnd (s : State) (free : Nat) (d : Dev) : State :=
  { s with free := s.free + free, dev := { d with mbBusy := false }, out := if s.dev.mbIen then s.out ++ [.msix 1] else s.out }

/-- DEVSTAT (R486). -/
def statusWord (d : Dev) : Nat := d.svn % 65536 * 2 ^ 48 + d.slot % 4 * 2 ^ 8 + d.state % 4

/-- A mailbox argument has a value, the other arguments are as they were. -/
def ArgsAre (s t : State) (l : List (Nat × Nat)) : Prop :=
  ∀ i, mbArg t i = match l.find? (fun e => e.1 == i) with | some e => e.2 % 2 ^ 64 | none => mbArg s i

/-- The commands that name a flash slot `n`, refused for a slot that does not exist and for the booted one (R487). -/
def SlotRefused (s : State) (n : Nat) (res : Nat) : Prop := (n ≠ 1 ∧ n ≠ 2 ∧ res = 2) ∨ ((n = 1 ∨ n = 2) ∧ n = s.dev.slot ∧ res = 3)

/-- Every loaded context without a halt is being unloaded. -/
def Unloading (s t : State) : Prop :=
  ∀ cx c, ctx? s cx = some c → c.halt = none → ∃ c', ctx? t cx = some c' ∧ c'.unloading = true ∧ ∃ h, c'.halt = some h ∧ h.unload = true

end Sys2Proof.Stated

/-- R487: Dyxihan's mailbox. A command while BUSY is set changes nothing; INFO, ERASE, WRITE, VERIFY, ACTIVATE, RAISEMIN and RESET have the
results and effects of the command table, an unknown OP ends with RESULT 1; completion clears BUSY and sends vector 1 where IEN asks for
it. Whether a flash operation fails is free (Config.flashFails). -/
def Obligations.MailboxAnswers : Prop :=
  (∀ (s : State) (i : Instr) (op : Nat), (i, op) ∈ mbOps →
    (s.dev.mbBusy = true → exec i s = .next s) ∧ (s.dev.mbBusy = false → exec i s = .next (withDev s (mbStart s op))))
  ∧ (∀ s : State, (s.dev.mbBusy = true ∨ s.ev.a % 256 < 8 → exec .mbUnknownOp s = .next s)
    ∧ (s.dev.mbBusy = false → 8 ≤ s.ev.a % 256 → exec .mbUnknownOp s = .next (withDev s (mbStart s (s.ev.a % 256)))))
  ∧ (∀ s : State, s.dev.mbBusy = false → exec .mbCommandDone s = .next s)
  ∧ ∀ s : State, s.dev.mbBusy = true → let n := mbArg s 0; let op := s.dev.mbOp
    let fails (free result : Nat) : Prop := exec .mbCommandDone s = .next (mbEnd s free { s.dev with mbResult := result })
    let ends (free : Nat) (d : Dev) : Prop := exec .mbCommandDone s = .next (mbEnd s free { d with mbResult := 0 })
    (8 ≤ op → fails 0 1)
    ∧ (op = 1 → ∃ t, exec .mbCommandDone s = .next t ∧ t = mbEnd s 0 { s.dev with mbResult := 0, mbArg := t.dev.mbArg }
      ∧ ArgsAre s t [(0, statusWord s.dev), (1, s.dev.fusedMin % 65536 + fwSvn s.dev 1 * 2 ^ 16 + fwSvn s.dev 2 * 2 ^ 32)])
    ∧ (op = 2 → (∀ r, SlotRefused s (n % 4) r → fails 0 r)
      ∧ ((∀ r, ¬ SlotRefused s (n % 4) r) → (Config.flashFails s.free = true → fails 1 4)
        ∧ (Config.flashFails s.free = false → ends 1 (setFw s.dev (n % 4) {}))))
    ∧ (op = 3 → let off := mbArg s 1; let len := mbArg s 2; let bad := off % 2048 ≠ 0 ∨ len = 0 ∨ 2048 < len ∨ 2 ^ 25 < off + len
      (bad → fails 0 2) ∧ (¬ bad → ∀ r, SlotRefused s n r → fails 0 r)
      ∧ (¬ bad → (∀ r, ¬ SlotRefused s n r) → (Config.flashFails s.free = true → fails 1 4)
        ∧ (Config.flashFails s.free = false → ∃ f, ends 1 (setFw s.dev n f) ∧ f.used = true ∧ f.verified = false
          ∧ ∀ x, mget? f.bytes x = if off ≤ x ∧ x < off + len then some (mget s.dev.mbBuf 0 (x - off)) else mget? (fwSlot s.dev n).bytes x)))
    ∧ (op = 4 → (∀ r, SlotRefused s n r → fails 0 r)
      ∧ ((∀ r, ¬ SlotRefused s n r) → (Config.flashFails s.free = true → fails 1 4)
        ∧ (Config.flashFails s.free = false → ∃ t, exec .mbCommandDone s = .next t ∧ ArgsAre s t [(1, fwSvn s.dev n)]
          ∧ (fwOk s.dev n = false → t = mbEnd s 1 { s.dev with mbResult := 5, mbArg := t.dev.mbArg })
          ∧ (fwOk s.dev n = true → t = mbEnd s 1
            { setFw s.dev n { fwSlot s.dev n with verified := true } with mbResult := 0, mbArg := t.dev.mbArg }))))
    ∧ (op = 5 → (n ≠ 1 ∧ n ≠ 2 → fails 0 2)
      ∧ (n = 1 ∨ n = 2 → ((fwSlot s.dev n).verified = false → fails 0 3)
        ∧ ((fwSlot s.dev n).verified = true → (Config.flashFails s.free = true → fails 1 4)
          ∧ (Config.flashFails s.free = false → ends 1 { s.dev with bootNext := n }))))
    ∧ (op = 6 → (s.dev.state ≠ 1 → fails 0 3)
      ∧ (s.dev.state = 1 → let m := max s.dev.fusedMin s.dev.svn
        ∃ t, exec .mbCommandDone s = .next t ∧ t = mbEnd s 0 { s.dev with mbResult := 0, fusedMin := m, mbArg := t.dev.mbArg } ∧ ArgsAre s t [(1, m)]))
    ∧ (op = 7 → ∃ t, exec .mbCommandDone s = .next t ∧ t.dev.mbBusy = false ∧ t.dev.mbResult = 0 ∧ t.dev.resetDue = true ∧ t.dev.mbOp = 7
      ∧ Unloading s t ∧ (s.dev.mbIen = true → Out.msix 1 ∈ t.out))

/-- R483 to R488: reset, firmware, power, heat and SPDM. A reset returns every register to its reset value and keeps memory, the flash and
the fused minimum; the slot of the last boot is tried first, then the other, else the device stays in recovery; the budgets of all cores
fall by 8, to 16 at least, in an interval above the limit, and rise by 8 to 64 after ten intervals below it by more than 100 W; heat holds the
device with every context being unloaded; an SPDM request is answered: with the one algorithm set, the digest of the one chain, a piece of it, or the measurement blocks, which hold
digests of the booted image, of the fused configuration with CORESAV and of the security version (the response codes, the bits of the
algorithms and the form of the blocks are the model's, from SPDM itself: log entry 31). -/
def Obligations.DeviceIsManaged : Prop :=
  (∀ s : State, ∃ t, exec .deviceReset s = .next t ∧ t.mem = s.mem ∧ t.pois = s.pois ∧ t.now = s.now
    ∧ (let d : Dev := { fwA := s.dev.fwA, fwB := s.dev.fwB, fusedMin := s.dev.fusedMin, bootNext := s.dev.bootNext, bar4Gib := s.dev.bar4Gib }
       t.dev = d)
    ∧ t.l1 = [] ∧ t.ctlb = [] ∧ t.basin = [] ∧ t.ilines = [] ∧ t.ctxs = [] ∧ t.launches = [] ∧ t.teams = [] ∧ t.groups = [] ∧ t.chains = [] ∧ t.parts = [] ∧ t.slots = [] ∧ t.tlb = [] ∧ t.waits = []
    ∧ t.cores = [] ∧ t.plume = [] ∧ t.mons = [] ∧ t.ops = [] ∧ t.rems = [] ∧ t.colls = [] ∧ t.quads = [] ∧ t.joints = [] ∧ t.tabs = [])
  ∧ (∀ s : State, s.dev.state ≠ 0 → exec .firmwareVerified s = .next s)
  ∧ (∀ (s : State) (a b : Nat), s.dev.state = 0 → s.dev.bootNext = a → (a = 1 ∧ b = 2 ∨ a = 2 ∧ b = 1) →
    (fwOk s.dev a = true → exec .firmwareVerified s =
      .next (withDev s { s.dev with state := 1, slot := a, svn := fwSvn s.dev a, bootNext := a }))
    ∧ (fwOk s.dev a = false → fwOk s.dev b = true → exec .firmwareVerified s =
      .next (withDev s { s.dev with state := 1, slot := b, svn := fwSvn s.dev b, bootNext := b }))
    ∧ (∀ n, fwSvn s.dev n < s.dev.fusedMin → fwOk s.dev n = false)
    ∧ (fwOk s.dev a = false → fwOk s.dev b = false → exec .firmwareVerified s = .next (withDev s { s.dev with state := 2 })))
  ∧ (∀ s : State, ∃ t, exec .thermalCritical s = .next t ∧ t.dev.state = 3 ∧ t.dev.errStat.testBit 7 = true ∧ Unloading s t)
  ∧ (∀ s : State, let w := s.ev.c % 65536; let lim := s.dev.limitW
    let low := (∀ c, c < 384 → (coreAt s c).budget = 16)
    ∃ t, exec .powerInterval s = .next t ∧ t.dev.avgW = w ∧ t.mem = s.mem
      ∧ (lim < w → (∀ c, c < 384 → (coreAt t c).budget = if 16 < (coreAt s c).budget then (coreAt s c).budget - 8 else (coreAt s c).budget)
        ∧ t.dev.lowCnt = 0)
      ∧ (lim < w → low → t.dev.highCnt = s.dev.highCnt + 1 ∧ (100 ≤ s.dev.highCnt + 1 → t.dev.errStat.testBit 6 = true))
      ∧ (lim < w → ¬ low → t.dev.highCnt = 0 ∧ t.dev.errStat = s.dev.errStat)
      ∧ (w ≤ lim → t.dev.highCnt = 0 ∧ t.dev.errStat = s.dev.errStat)
      ∧ (w ≤ lim → lim ≤ w + 100 → t.dev.lowCnt = 0 ∧ ∀ c, (coreAt t c).budget = (coreAt s c).budget)
      ∧ (w + 100 < lim → s.dev.lowCnt + 1 < 10 → t.dev.lowCnt = s.dev.lowCnt + 1 ∧ ∀ c, (coreAt t c).budget = (coreAt s c).budget)
      ∧ (w + 100 < lim → 10 ≤ s.dev.lowCnt + 1 → t.dev.lowCnt = 0
        ∧ ∀ c, c < 384 → (coreAt t c).budget = if (coreAt s c).budget < 64 then (coreAt s c).budget + 8 else (coreAt s c).budget))
  ∧ ∀ s : State,
    let holds (code : Nat) (l : List Nat) : State := { s with free := s.free + 1, out := s.out ++ [.spdm code (Config.spdmBody code s.free ++ l)] }
    let answer (code : Nat) : State := holds code []
    exec .spdmGetVersion s = .next (answer 0x04) ∧ exec .spdmGetCapabilities s = .next (answer 0x61)
    ∧ exec .spdmNegotiateAlgorithms s = .next (holds 0x63 (leBytes 4 0x80 ++ leBytes 4 0x02))
    ∧ exec .spdmGetDigests s = .next (holds 0x01 (Config.digest 0 Config.certChain))
    ∧ (s.ev.a = 0 → exec .spdmGetCertificate s = .next { s with out := s.out ++ [.spdm 0x02 (slice Config.certChain s.ev.b s.ev.c)] }
      ∧ exec .spdmChallenge s = .next (answer 0x03))
    ∧ (s.ev.a ≠ 0 → exec .spdmGetCertificate s = .next (answer 0x7F) ∧ exec .spdmChallenge s = .next (answer 0x7F))
    ∧ (let image := (fwSlot s.dev s.dev.slot).bytes.flatMap fun e => leBytes 8 e.1 ++ [e.2.toNat]
      let block (n : Nat) : List Nat := Config.digest n
        (if n ≤ 2 then image else if n = 3 then leBytes 48 s.dev.coresav ++ leBytes 2 s.dev.fusedMin else leBytes 2 s.dev.svn)
      (1 ≤ s.ev.a → s.ev.a ≤ 4 → exec .spdmGetMeasurements s = .next (holds 0x60 (block s.ev.a)))
      ∧ (s.ev.a = 255 → exec .spdmGetMeasurements s = .next (holds 0x60 (block 1 ++ block 2 ++ block 3 ++ block 4))))
    ∧ (s.ev.a = 0 ∨ (4 < s.ev.a ∧ s.ev.a ≠ 255) → exec .spdmGetMeasurements s = .next (answer 0x7F))

/-! ### Slices and waiting lanes (R91, R118 to R142, R184, R185, R266, R404, R418) -/

namespace Sys2Proof.Stated

/-- A lane that waits has gone on to the word after its own. -/
def PassedOn (g h : Group) (L : Nat) : Prop :=
  ∀ c, (laneGet g L).cl = some c → (laneGet g L).haltPend = false → Stands h L (nextPc c (laneGet g L).pc) .run

/-- No lane of a group waits at a WAITK or at a loop's end, and no loop is active. -/
def NoTests (g : Group) : Prop := NoLoops g ∧ ∀ L, L < 32 → (∀ k, (laneGet g L).st ≠ .waitK k) ∧ ∀ n, (laneGet g L).st ≠ .loopEnd n

/-- The slice has a word ready in one entry of its one group: the entry's clause has been fetched and its WAIT is honoured, no word of the
group is in flight, nothing is pending, no unit turns the word away, and it needs none that slices share (R119, R121). -/
structure OneEntry (s : State) (cr sl gid : Nat) (g : Group) (e : Entry) (c : Clause) : Prop where
  only : sliceGroups s cr sl = [(gid, g)] ∧ group? s gid = some g ∧ coreOf s g = cr ∧ g.slice = sl
  acts : groupActs s gid g = true ∧ g.active = true ∧ g.tradeCd = 0 ∧ g.fly = []
  calm : g.fpPend = [] ∧ g.engTrap = [] ∧ g.engHalt = 0
  one : frontier g = [e]
  cl : e.cl = some c ∧ waitMet g e = true
  taken : unitHeld s gid g e = none
  unit : entryUnit sl e = .own ∨ (entryUnit sl e = .vec ∧ mget (coreAt s cr).vbusy 0 sl ≤ s.now)

/-- The word at offset `i` of the bytes `b`. -/
def codeWord (b : Nat → Nat) (i : Nat) : Nat := b i + 2 ^ 8 * b (i + 1) + 2 ^ 16 * b (i + 2) + 2 ^ 24 * b (i + 3)

/-- A fetch on a core finds the bytes `b` of a clause of `n` words at a key, in one region that is not layer-managed: each from an old copy
of its line, where the core holds one and the fetch sees it, else from memory, translated and clean (R91, R92). -/
structure CodeAt (s : State) (c : Ctx) (cr : Nat) (pc : DWord) (k n : Nat) (b : Nat → Nat) : Prop where
  bytes : ∀ i, i < 4 + 4 * n → b i < 256 ∧ match oldLine s cr c.pasid (pc.toNat + i) with
    | some l => b i = l.getD ((pc.toNat + i) % 128) 0
    | none => b i = (readByte s (k + i)).toNat ∧ poisoned s (k + i) 1 = false
  count : n = codeWord b 0 % 16
  near : pc.toNat + 4 + 4 * n ≤ 2 ^ 57
  kind : ∀ i, i < 4 + 4 * n → regionKind c (pc.toNat + i) ≠ 4
  page : ∀ i, i < 4 + 4 * n → ∃ host, translate s (some cr) c.pasid (pc.toNat + i) .ex = .ok (k + i) host

/-- The counters of a context that lanes of its groups wait for can be read: each core's L1 TLB holds the page, and the counter, at the key
`k c`, is not poisoned (R404). -/
def CountersRead (s : State) (ctx pasid : Nat) (k : Nat → Nat) : Prop :=
  ∀ e c, e ∈ s.groups → e.2.ctx = ctx → c ∈ cwaitsFor e.2 → ∃ a tr host, counterAt s ctx c = some a
    ∧ entOf (coreTlb s (coreOf s e.2)) pasid a = some tr ∧ useTrans tr a .rd = .ok (k c) host ∧ poisoned s (k c) 8 = false

/-- No lane of a group is in a handler, and none waits for the end of one (R131). -/
def NoHandler (g : Group) : Prop := g.hnd = none ∧ handLanes g = 0 ∧ ∀ L, L < 32 → (laneGet g L).wake = false

/-- A header and the `n` words after it, as a clause at an address (R91). -/
def clauseAt (b : Nat → Nat) (pc : DWord) (n : Nat) : Clause :=
  { addr := pc, words := (List.range (n + 1)).map fun i => BitVec.ofNat 32 (codeWord b (4 * i)) }

end Sys2Proof.Stated

/-- R91, R118 to R129, R142, R185, R404: the events of a slice. A fetch brings the clause at an entry's PC with the words that COUNT gives; a
slice's cycle chooses the one ready entry as the next word to issue; a wait count of 256 promotes its group and a skip count of 64 makes an
entry overdue; a word complete in all its parts leaves and its counter falls; lanes whose sleep is over, whose counter has reached its value
or whose line has come go on. -/
def Sys2Proof.Stated.SlicesGoOn : Prop :=
  (∀ s : State, group? s s.ev.a = none → exec .clauseFetch s = .next s)
  ∧ (∀ (s : State) (g : Group) (e : Entry), group? s s.ev.a = some g → fetchEntry g (BitVec.ofNat 64 s.ev.c) = some e →
    (groupActs s s.ev.a g = false → exec .clauseFetch s = .next s)
    ∧ ∀ c k n b, groupActs s s.ev.a g = true → ctx? s g.ctx = some c → CodeAt s c (coreOf s g) e.pc k n b →
      headerReason (codeWord b 0) = none → ∃ t h, exec .clauseFetch s = .next t
      ∧ group? t s.ev.a = some h ∧ RegsKept g h {} ∧ t.mem = s.mem ∧ ∀ L, L < 32 → laneGet h L = if e.lanes.getLsbD L then
        { laneGet g L with waited := false, cl := some (clauseAt b e.pc n) } else laneGet g L)
  ∧ (∀ s : State, let cr := s.ev.a; let sl := s.ev.b % 16
    ((coreAt s cr).did.getLsbD sl = true ∨ s.sel ≠ none → exec .sliceCycle s = .next s)
    ∧ ((coreAt s cr).did.getLsbD sl = false → s.sel = none →
      (sliceGroups s cr sl = [] → ∃ t, exec .sliceCycle s = .next t ∧ t.sel = none ∧ (coreAt t cr).did.getLsbD sl = true ∧ t.groups = s.groups
        ∧ t.mem = s.mem)
      ∧ ∀ gid g e c, OneEntry s cr sl gid g e c → ∃ t, exec .sliceCycle s = .next t
        ∧ t.sel = some { gid := gid, pc := entryWord e, cl := c, lanes := e.lanes } ∧ (coreAt t cr).did.getLsbD sl = true ∧ t.mem = s.mem))
  ∧ (∀ (s : State) (g : Group), group? s s.ev.a = some g →
    (256 ≤ g.waitCnt → g.promoted = none → ∃ t, exec .groupPromotion s = .next t ∧ GroupIs s t s.ev.a { g with promoted := some s.now })
    ∧ (g.waitCnt < 256 ∨ g.promoted ≠ none → ∃ t, exec .groupPromotion s = .next t ∧ GroupIs s t s.ev.a g)
    ∧ (let here (L : Nat) : Prop := (laneGet g L).pc = BitVec.ofNat 64 s.ev.c ∧ (laneGet g L).st = .run
      ((∃ L, L < 32 ∧ here L ∧ 64 ≤ (laneGet g L).skip) → ∃ t h, exec .entryOverdue s = .next t ∧ GroupIs s t s.ev.a h ∧ RegsKept g h {}
        ∧ ∀ L, L < 32 → (here L → laneGet h L = { laneGet g L with overdue := true }) ∧ (¬ here L → laneGet h L = laneGet g L))
      ∧ ((∀ L, L < 32 → here L → (laneGet g L).skip < 64) → ∃ t, exec .entryOverdue s = .next t ∧ GroupIs s t s.ev.a g))
    ∧ (flyOf g s.ev.b = none → exec .opComplete s = .next s)
    ∧ (∀ f, flyOf g s.ev.b = some f →
      (f.left = 0 ∧ f.unit = false ∧ f.late = false ∧ f.hold = false ∧ f.poison = 0 → ∃ t h, exec .opComplete s = .next t ∧ GroupIs s t s.ev.a h
        ∧ h.fly = g.fly.filter (fun x => x.seq != f.seq) ∧ RegsKept g h { d := fun n => f.dep = some n }
        ∧ ∀ n, f.dep = some n → dget h n = dget g n - 1)
      ∧ (f.left ≠ 0 ∨ f.unit = true → exec .opComplete s = .next s))
    ∧ (groupLive s g = false → (∃ t, exec .sleepWake s = .next t ∧ GroupIs s t s.ev.a g) ∧ exec .laneUnpark s = .next s)
    ∧ (groupLive s g = true → NoHandler g → NoTests g → (∃ L, L < 32 ∧ (laneGet g L).st = .park (.sleep 0)) →
      ∃ t h, exec .sleepWake s = .next t ∧ GroupIs s t s.ev.a h ∧ RegsKept g h {} ∧ ∀ L, L < 32 →
        ((laneGet g L).st = .park (.sleep 0) → PassedOn g h L) ∧ ((laneGet g L).st ≠ .park (.sleep 0) → laneGet h L = laneGet g L))
    ∧ (∀ x k, mord s.groups = true → g.ended = false → ctx? s g.ctx = some x → x.halt = none → NoHandler g → NoTests g →
      CountersRead s g.ctx x.pasid k → ∃ t h, exec .cwaitPoll s = .next t ∧ group? t s.ev.a = some h ∧ RegsKept g h {} ∧ t.mem = s.mem ∧ ∀ L, L < 32 →
        ((∃ c n, (laneGet g L).st = .park (.cwait c n) ∧ n ≤ readNat s (k c) 8) → PassedOn g h L)
        ∧ ((∀ c n, (laneGet g L).st = .park (.cwait c n) → readNat s (k c) 8 < n) → laneGet h L = laneGet g L))
    ∧ ∀ tid line seq tm, groupLive s g = true → g.ended = false → g.trap = none → NoHandler g → s.ev.b < 32 →
      (laneGet g s.ev.b).st = .park (.line tid line seq) → team? s tid = some tm →
      (mget? tm.absent line ≠ none ∨ tm.st = .evicted ∨ tm.st = .held → exec .laneUnpark s = .next s)
      ∧ (mget? tm.absent line = none → tm.st ≠ .evicted → tm.st ≠ .held → ∃ t h, exec .laneUnpark s = .next t ∧ group? t s.ev.a = some h ∧ RegsKept g h {} ∧ t.mem = s.mem
        ∧ ∀ L, L < 32 → let alike := (laneGet g L).st = (laneGet g s.ev.b).st ∧ (laneGet g L).pc = (laneGet g s.ev.b).pc
          (alike → (laneGet g L).haltPend = false → laneGet h L = { laneGet g L with st := .run })
          ∧ (alike → (laneGet g L).haltPend = true → laneGet h L = { laneGet g L with st := .halted, waited := false, haltPend := false })
          ∧ (¬ alike → laneGet h L = laneGet g L)))

/-- What a core's L1 holds of a frame at the address `a`, the key `k`, apart from memory is of private lines (R271). -/
def Sys2Proof.Stated.FrameLines (s : State) (c : Ctx) (cr a k : Nat) : Prop :=
  LinesWhole s ∧ ∀ b, b < 0x400 → regionKind c (a + b) ≠ 1 → l1Data s cr c.pasid (k + b) = none

/-- R418 to R421: a pending trap enters its handler once the group's earlier words have written their registers and the frame's page can be
written: the trapped lanes run at TRAPENTRY, the frame is written, and nothing else of memory changes. -/
def Sys2Proof.Stated.PendingTrapsEnter : Prop :=
  ∀ (s : State) (g : Group), group? s s.ev.a = some g →
    (g.trap = none → exec .trapEntry s = .next s)
    ∧ ∀ p, g.trap = some p →
      ((∃ f, f ∈ g.fly ∧ f.regs ≠ [] ∧ p.tr.own ≠ some f.seq) → exec .trapEntry s = .next s)
      ∧ ∀ c ln k host, (∀ f, f ∈ g.fly → f.regs = []) → ctxRuns s g.ctx = true → waiting s (.frame s.ev.a) = false → ctx? s g.ctx = some c →
        launch? s g.launch = some ln → let a := c.trapArea + p.frame * 0x400
        deniedFor s (.frame s.ev.a) a = false → a < 2 ^ 57 → translate s (some (coreOf s g)) c.pasid a .wr = .ok k host →
        FrameLines s c (coreOf s g) a k →
        let at_ (t : State) (i n : Nat) : Nat := coreNat t (coreOf s g) c.pasid (k + i) n
        ∃ t h, exec .trapEntry s = .next t ∧ group? t s.ev.a = some h ∧ RegsKept g h {} ∧ h.trap = none ∧ h.stallAt = none
          ∧ (∃ x, h.hnd = some x ∧ x.frame = p.frame ∧ x.tlanes = p.tr.tlanes ∧ x.cause = p.tr.cause)
          ∧ (∀ L, L < 32 → p.tr.tlanes.getLsbD L = true → (laneGet g L).st ≠ .dead → Stands h L ln.kern.trapEntry .run ∧ (laneGet h L).hand = true)
          ∧ (∀ L, L < 32 → p.tr.tlanes.getLsbD L = false → laneGet h L = laneGet g L)
          ∧ at_ t 0 8 = p.tr.pc.toNat ∧ at_ t 8 8 = p.tr.npc.toNat ∧ at_ t 0x10 1 = p.tr.cause % 256 ∧ at_ t 0x14 4 = p.tr.tlanes.toNat
          ∧ at_ t 0x20 4 = p.tr.w0.toNat
          ∧ ∀ x, ¬ Covers k 0x400 x → readByte t x = readByte s x

/-! ### The machine as a whole: reset, the step, decoding, the traps before an effect, and memory's form -/

namespace Sys2Proof.Stated

/-- The matrix operations that read operands at issue, and whether they are joint (R350). -/
inductive MatrixOp : Instr → Bool → Prop
  | mma (p sh r) : MatrixOp (.mma p sh r) false
  | mmas (p sh r) : MatrixOp (.mmas p sh r) false
  | mmaj (p sh r) : MatrixOp (.mmaj p sh r) true
  | mmajs (p sh r) : MatrixOp (.mmajs p sh r) true

/-- The chosen words are an instruction that may stand where it does: of the clause's class, whole, a transfer only at the end, and, in a
fused clause, one that R168 allows (R98, R99, R168). -/
structure Issues (v : View) (i : Instr) : Prop where
  known : opReserved (opOf v.w0.toNat) = false
  cls : classOf (opOf v.w0.toNat) = v.hdr.eclass
  whole : opLong (opOf v.w0.toNat) = true → v.wn ≠ none
  decodes : decode v.w0.toNat (v.wn.getD 0).toNat = .ok i
  last : i.transfers = true → v.npc = clauseEnd v.is.cl
  fuse : v.hdr.fuse = true → 0x30 ≤ opOf v.w0.toNat ∧ opOf v.w0.toNat ≤ 0x37 ∧ ∀ r, r ∈ writesOf (uses i) →
    r ∉ readsOf (uses i) ∧ ∀ j, j ∈ earlier v.is.cl v.is.pc 15 (v.is.cl.addr + 4) → r ∉ readsOf (uses j) ∧ r ∉ writesOf (uses j)

/-- Words written out field by field from the formats of R101 and R102 and the opcodes of R109 and R110, and what they stand for. -/
def wordTable : List (Nat × Nat × Instr) := [
  -- IADD v1, v2, s3: opcode 0x20; D 1; A 2; B 0x83 with X 1, a scalar
  (32, 0b0100000_00000001_00000010_10000011_1, .iadd { d := 1, a := 2, b := .scal 3 }),
  -- SMOVI s5, 0x8001: opcode 0x19; D 5; IMM16; X 0
  (32, 0b0011001_00000101_1000000000000001_0, .smovi { d := 5, imm := 0x8001 }),
  -- BRA -1: opcode 0x01; OFF25
  (32, 0b0000001_1111111111111111111111111, .bra 0x1FFFFFF),
  -- POPC v7, v8: opcode 0x2B; D 7; A 8; FN 2; X 0
  (32, 0b0101011_00000111_00001000_00000010_0, .popc { d := 7, a := 8, x := false }),
  -- IMAD v4, v5, v6, v7: opcode 0x2C; D 4; A 5; B 6; X 0, then C 7; FN 2; RM 0; TYPE 0; AUX 0; DEP 0
  (64, 0b00000111_00000010_000_00000_0000_0000 * 2 ^ 32 + 0b0101100_00000100_00000101_00000110_0,
    .imad { d := 4, a := 5, b := .reg 6, c := 7, rm := .rne, ty := .i32, aux := 0 }),
  -- ld.n32.team v4, [s4:5 + v2 + 0x40], d1: the example of chapter 04
  (64, 0x00400249 * 2 ^ 32 + 0xA0080804,
    .ld { d := 4, a := 4, b := .reg 2, off := 0x40, ty := .n32, scope := .team, order := .rlx, dep := some 1 }),
  -- TRAP 0x1234: opcode 0x78; D 0; IMM16; X 0
  (32, 0b1111000_00000000_0001001000110100_0, .trap 0x1234)]

end Sys2Proof.Stated

/-- R67, R480, R487, R55 and R474: after reset every core's energy budget is 64, ERREN is 0xFE and ERRSTAT 0, the mailbox arguments are 0, a
chain's base, completion address, head and tail are 0, MIN of a monitor is all ones, and memory has its canonical form. -/
def Obligations.ResetLeaves : Prop :=
  let s := State.reset
  (∀ c, (coreAt s c).budget = 64) ∧ s.dev.errEn = 0xFE ∧ s.dev.errStat = 0 ∧ (∀ i, mget s.dev.mbArg 0 i = 0) ∧ (∀ i, mget s.dev.mbBuf 0 i = 0)
  ∧ (∀ c, (chain s c).base = 0 ∧ (chain s c).comp = 0 ∧ (chain s c).head = 0 ∧ (chain s c).tail = 0)
  ∧ (∀ u, (mget s.mons {} u).min = 2 ^ 64 - 1) ∧ Memory.wf s.mem = true

/-- R98, R99, R111, R168: a step whose chosen words decode to an instruction that may stand there runs exactly it on the state as it is; words that
are none take an illegal-instruction trap with the REASON of the first rule that they break. Without a chosen word the step runs what falls due in
the environment, with its operands in State.ev, else what the rules force at once. -/
def Obligations.StepsRunDecoded : Prop :=
  (∀ (s : State) (v : View) (i : Instr), view s = some v → Issues v i → step s = exec i s)
  ∧ (∀ (s : State) (v : View), view s = some v →
    let op := opOf v.w0.toNat
    (opReserved op = true → step s = .next (trapIllegal s v .opcode))
    ∧ (opReserved op = false → classOf op ≠ v.hdr.eclass → step s = .next (trapIllegal s v .cls))
    ∧ (opReserved op = false → classOf op = v.hdr.eclass →
      (opLong op = true → v.wn = none → step s = .next (trapIllegal s v .cut))
      ∧ ((opLong op = true → v.wn ≠ none) →
        (∀ r, decode v.w0.toNat (v.wn.getD 0).toNat = .error r → step s = .next (trapIllegal s v r))
        ∧ ∀ i, decode v.w0.toNat (v.wn.getD 0).toNat = .ok i → i.transfers = true → v.npc ≠ clauseEnd v.is.cl →
          step s = .next (trapIllegal s v .notLast))))
  ∧ (∀ (s : State) (d : Due), s.sel = none → s.agenda.find? (fun x => x.at_ ≤ s.now) = some d →
    step s = exec d.ins { s with agenda := s.agenda.erase d, ev := d.ev })
  ∧ ∀ (s : State) (e : Event), s.sel = none → (∀ d, d ∈ s.agenda → s.now < d.at_) → (mustEvents s).head? = some e →
    step s = exec e.1 { s with ev := e.2 }

/-- R101, R102, R109 and R110: the words written out from the encoding decode to the instructions that they stand for. -/
def Obligations.WordsDecode : Prop := ∀ e, e ∈ wordTable → decodeTableWord e.1 e.2.1 = some e.2.2

/-- R101 to R111: decoding what a well-formed instruction is encoded as gives the instruction back, with every operand at every value that the
encoding admits, and the bytes after it; and words that decode are those that their instruction is encoded as, so that each word has one meaning. -/
def Obligations.EncodingsAgree : Prop :=
  (∀ (i : Instr) (rest : List Nat), i.wf = true → encode i ≠ [] → decodeBytes ((encode i).flatMap wordBytes ++ rest) = .ok (i, rest))
  ∧ ∀ (w e : Nat) (i : Instr), w < 2 ^ 32 → e < 2 ^ 32 → decode w e = .ok i →
    i.wf = true ∧ encode i = if opLong (opOf w) then [w, e] else [w]

/-- R105, R174, R350, R437 and R478: what comes before the effect of every instruction of the ISA. A register outside the group's registers, or a
misaligned group, traps with 0x02; with no lane in EXEC the word has no effect and its lanes go on, but a matrix operation, which needs all
lanes, traps with 0x02; a poisoned operand traps with 0x0D. -/
def Obligations.EffectsAreGuarded : Prop :=
  ∀ (i : Instr) (s : State) (v : View), encode i ≠ [] → view s = some v → (∀ b, Privileged i b → Allowed s v b) →
    (usesBad v.ln.kern (uses i) = true → exec i s = .next (trapEntryLanes s v 0x02))
    ∧ (usesBad v.ln.kern (uses i) = false → v.exec = 0 →
      ((∃ b, MatrixOp i b) → exec i s = .next (trapEntryLanes s v 0x02))
      ∧ ((∀ b, ¬ MatrixOp i b) → v.is.step = none → Plain s v → Completes s v (exec i s) {} (GoesTo v fun _ => v.npc) True))
    ∧ (usesBad v.ln.kern (uses i) = false → readsPoison v.g (uses i) v.exec = true → (∀ p, i ≠ .pref p) →
      (∀ b, MatrixOp i b → v.exec = allLanes ∧ (b = true → v.g.idx < 4 * v.ln.kern.quartets)) → exec i s = .next (trapAll s v 0x0D 0))

/-- R13: every step that goes on keeps memory in its canonical form: addresses strictly rising, each listed byte different from what an unlisted
address reads as. -/
def Obligations.StepsKeepMemoryForm : Prop :=
  ∀ s t : State, Memory.wf s.mem = true → step s = .next t → Memory.wf t.mem = true

/-- R94: a header fails exactly where a field of it is one that the rule lists. A group that fetches a failing header takes trap 0x01 at the
header's address, and no word of the clause issues: where the group's words have written their registers, its kernel has a handler and the
context's lowest free frame `f` stands on a page that the device can write, the lanes of the entry enter the handler at once, and the frame
holds the address, the cause and the lanes. -/
def Obligations.HeadersFail : Prop :=
  (∀ w, w < 2 ^ 32 → (headerReason w ≠ none ↔
    w / 2 ^ 28 ≠ 0b1011 ∨ w / 2 ^ 26 % 4 ≠ 0 ∨ w % 16 = 0 ∨ (24 ≤ w / 2 ^ 7 % 32 ∧ w / 2 ^ 7 % 32 ≤ 30)
      ∨ (w / 2 ^ 12 % 2 = 1 ∧ w / 2 ^ 7 % 32 = 31) ∨ 6 ≤ w / 2 ^ 4 % 8 ∨ (w / 2 ^ 17 % 2 = 1 ∧ w / 2 ^ 4 % 8 ≠ 0)))
  ∧ ∀ (s : State) (g : Group) (e : Entry) (c : Ctx) (ln : Launch) (k n f kf : Nat) (b : Nat → Nat) (r : Reason) (host : Bool),
    group? s s.ev.a = some g → fetchEntry g (BitVec.ofNat 64 s.ev.c) = some e → groupActs s s.ev.a g = true → ctx? s g.ctx = some c →
    launch? s g.launch = some ln → CodeAt s c (coreOf s g) e.pc k n b → headerReason (codeWord b 0) = some r →
    c.halt = none → ln.kern.trapEntry ≠ 0 → g.hnd = none → handLanes g = 0 → (∀ x, x ∈ g.fly → x.regs = []) →
    f < c.trapSize / 1024 → mget? c.frames f = none → (∀ j, j < f → (mget? c.frames j).isSome = true) →
    let a := c.trapArea + f * 0x400
    a < 2 ^ 57 → translate s (some (coreOf s g)) c.pasid a .wr = .ok kf host → deniedFor s (.frame s.ev.a) a = false →
    FrameLines s c (coreOf s g) a kf → (∀ i, i < 4 + 4 * n → (entOf (coreTlb s (coreOf s g)) c.pasid (e.pc.toNat + i)).isSome = true) →
    let at_ (t : State) (i n : Nat) : Nat := coreNat t (coreOf s g) c.pasid (kf + i) n
    ∃ t h, exec .clauseFetch s = .next t ∧ t.sel = s.sel ∧ group? t s.ev.a = some h ∧ RegsKept g h {}
      ∧ (∀ L, L < 32 → e.lanes.getLsbD L = true → Stands h L ln.kern.trapEntry .run ∧ (laneGet h L).hand = true ∧ (laneGet h L).cl = none)
      ∧ (∀ L, L < 32 → e.lanes.getLsbD L = false → laneGet h L = laneGet g L)
      ∧ at_ t 0 8 = e.pc.toNat ∧ at_ t 0x10 1 = 0x01 ∧ at_ t 0x11 1 = reasonCode r ∧ at_ t 0x14 4 = e.lanes.toNat ∧ ∀ x, ¬ Covers kf 0x400 x → readByte t x = readByte s x

/-! ### Statements of several parts: each part stands above, with its docstring -/

/-- The parts VectorShortForms, ScalarShortForms, VectorUnary and ScalarUnary together. -/
def Obligations.IntegerShortForms : Prop :=
  Stated.VectorShortForms ∧ Stated.ScalarShortForms ∧ Stated.VectorUnary ∧ Stated.ScalarUnary

/-- The parts MoveImmediates and IndirectRegisters together. -/
def Obligations.ImmediatesAndIndirection : Prop := Stated.MoveImmediates ∧ Stated.IndirectRegisters

/-- The parts ScalarLongForms, SaddrSum, VectorLongForms and VectorWideForms together. -/
def Obligations.IntegerLongForms : Prop :=
  Stated.ScalarLongForms ∧ Stated.SaddrSum ∧ Stated.VectorLongForms ∧ Stated.VectorWideForms

/-- The parts CvtiConverts and IcmpCompares together. -/
def Obligations.ConvertsAndCompares : Prop := Stated.CvtiConverts ∧ Stated.IcmpCompares

/-- The parts SpecialReads, SpecialWrites and SplitWrites together. -/
def Obligations.SpecialRegisters : Prop := Stated.SpecialReads ∧ Stated.SpecialWrites ∧ Stated.SplitWrites

/-- The parts PredicateMoves and MaskLogic together. -/
def Obligations.PredicatesAndMasks : Prop := Stated.PredicateMoves ∧ Stated.MaskLogic

/-- The parts WaitkHolds and WaitkReleases together. -/
def Obligations.MaskWaits : Prop := Stated.WaitkHolds ∧ Stated.WaitkReleases

/-- The parts DirectTransfers, IndirectTransfers and TransferTraps together. -/
def Obligations.Transfers : Prop := Stated.DirectTransfers ∧ Stated.IndirectTransfers ∧ Stated.TransferTraps

/-- The parts LoopEnters, LoopEndTest and ExitEnds together. -/
def Obligations.LoopsAndExit : Prop := Stated.LoopEnters ∧ Stated.LoopEndTest ∧ Stated.ExitEnds

/-- The parts NopGoesOn, YieldTrades, SleepParks and FenceGoesOn together. -/
def Obligations.HintsGoOn : Prop := Stated.NopGoesOn ∧ Stated.YieldTrades ∧ Stated.SleepParks ∧ Stated.FenceGoesOn

/-- The parts ShflMoves, VoteDecides and MatchAndBcast together. -/
def Obligations.LaneExchanges : Prop := Stated.ShflMoves ∧ Stated.VoteDecides ∧ Stated.MatchAndBcast

/-- The parts ReduceTiles and ScanTiles together. -/
def Obligations.TileFolds : Prop := Stated.ReduceTiles ∧ Stated.ScanTiles

/-- The parts FloatLoneForms and FloatPairForms together. -/
def Obligations.FloatForms : Prop := Stated.FloatLoneForms ∧ Stated.FloatPairForms

/-- The parts RoundsToNearest and RoundsExactly together. -/
def Obligations.Rounding : Prop := Stated.RoundsToNearest ∧ Stated.RoundsExactly

/-- The parts FloatConversions and FloatPacking together. -/
def Obligations.FloatChanges : Prop := Stated.FloatConversions ∧ Stated.FloatPacking

/-- The parts FstatAccess and FloatTraps together. -/
def Obligations.FloatStatus : Prop := Stated.FstatAccess ∧ Stated.FloatTraps

/-- The parts ExpansionForms, TransformsExact and RandomNumbers together. -/
def Obligations.ExactAndRandom : Prop := Stated.ExpansionForms ∧ Stated.TransformsExact ∧ Stated.RandomNumbers

/-- The parts GlobalLoads and GlobalStores together. -/
def Obligations.GlobalAccess : Prop := Stated.GlobalLoads ∧ Stated.GlobalStores

/-- The parts ScratchAccess and ConstantLoads together. -/
def Obligations.LocalAccess : Prop := Stated.ScratchAccess ∧ Stated.ConstantLoads

/-- The parts AtomicUpdates and CompensatedAtomics together. -/
def Obligations.Atomics : Prop := Stated.AtomicUpdates ∧ Stated.CompensatedAtomics

/-- The parts ObjectUpdates, StscbCounts, ObjectWaits and ObjectTraps together. -/
def Obligations.BarrierObjects : Prop := Stated.ObjectUpdates ∧ Stated.StscbCounts ∧ Stated.ObjectWaits ∧ Stated.ObjectTraps

/-- The parts CopiesBegin, ElementCopiesBegin and CancelEnds together. -/
def Obligations.EngineCopies : Prop := Stated.CopiesBegin ∧ Stated.ElementCopiesBegin ∧ Stated.CancelEnds

/-- The parts TileBlocks and TileWordsIssue together. -/
def Obligations.TileStore : Prop := Stated.TileBlocks ∧ Stated.TileWordsIssue

/-- The parts TileOperationsEnd and MatrixOperationsEnd together. -/
def Obligations.ArraysFinish : Prop := Stated.TileOperationsEnd ∧ Stated.MatrixOperationsEnd

/-- The parts RemoteRequests, RemoteAtomics and RemoteFence together. -/
def Obligations.RemoteAccess : Prop := Stated.RemoteRequests ∧ Stated.RemoteAtomics ∧ Stated.RemoteFence

/-- The parts CollectivesPost and CollectivesRun together. -/
def Obligations.Collectives : Prop := Stated.CollectivesPost ∧ Stated.CollectivesRun

/-- The parts LayerInstructions and SluiceRuns together. -/
def Obligations.LayersMove : Prop := Stated.LayerInstructions ∧ Stated.SluiceRuns

/-- The parts TrapsEnter and TrapsHalt together. -/
def Obligations.TrapsAreTaken : Prop := Stated.TrapsEnter ∧ Stated.TrapsHalt

/-- The parts PrivilegeTraps and PrivilegedRegisters together. -/
def Obligations.Privilege : Prop := Stated.PrivilegeTraps ∧ Stated.PrivilegedRegisters

/-- The parts HostCalls and ContextYields together. -/
def Obligations.HostAndContext : Prop := Stated.HostCalls ∧ Stated.ContextYields

/-- The parts MarksAndCounters and TracesRecord together. -/
def Obligations.CountersAndTraces : Prop := Stated.MarksAndCounters ∧ Stated.TracesRecord

/-- The parts InspectionAccess and InspectionLists together. -/
def Obligations.Inspection : Prop := Stated.InspectionAccess ∧ Stated.InspectionLists

/-- The parts StepsIssue and ResumesRun together. -/
def Obligations.SteppingAndResuming : Prop := Stated.StepsIssue ∧ Stated.ResumesRun

/-- The parts ContextCommands and HaltsComplete together. -/
def Obligations.ContextsLoadAndHalt : Prop := Stated.ContextCommands ∧ Stated.HaltsComplete

/-- The parts PageWaits and PagesArrive together. -/
def Obligations.PagesWaitAndArrive : Prop := Stated.PageWaits ∧ Stated.PagesArrive

/-- The parts SlicesGoOn and PendingTrapsEnter together. -/
def Obligations.SlicesRun : Prop := Stated.SlicesGoOn ∧ Stated.PendingTrapsEnter
end

