-- ==== Sys2Proof/Laws/Map.lean ====
section
/-! SUPPORT. Laws/Map.lean: a read after a write of the finite maps, and the canonical form that every write keeps. -/

namespace Sys2Proof.Machine

variable {α : Type}

theorem mget?_mput_same (m : AMap α) (k : Nat) (v : α) : mget? (mput m k v) k = some v := by
  induction m with
  | nil => simp [mput, mget?]
  | cons e r ih =>
    obtain ⟨j, w⟩ := e
    simp only [mput]
    split
    · simp [mget?]
    · split
      · simp [mget?]
      · simp [mget?, *]

theorem mget?_mput_ne (m : AMap α) {k j : Nat} (v : α) (h : j ≠ k) : mget? (mput m k v) j = mget? m j := by
  induction m with
  | nil => simp [mput, mget?, h.symm]
  | cons e r ih =>
    obtain ⟨i, w⟩ := e
    simp only [mput]
    split
    · simp [mget?, h.symm]
    · split
      · next hi => subst hi; simp [mget?, h.symm]
      · simp [mget?, ih]

/-- A read after a write of a map. -/
theorem mget?_mput (m : AMap α) (k j : Nat) (v : α) : mget? (mput m k v) j = if j = k then some v else mget? m j := by
  split
  · next h => subst h; exact mget?_mput_same m _ v
  · next h => exact mget?_mput_ne m v h

/-- A read after a removal. -/
theorem mget?_mdel (m : AMap α) (k j : Nat) : mget? (mdel m k) j = if j = k then none else mget? m j := by
  induction m with
  | nil => simp [mdel, mget?]
  | cons e r ih =>
    obtain ⟨i, w⟩ := e
    simp only [mdel]
    split
    · next h => subst h; rw [ih]; split
                · rfl
                · next hj => simp [mget?, Ne.symm hj]
    · next h =>
      simp only [mget?, ih]
      split
      · next hj => subst hj; simp [h]
      · rfl

/-- A read after a write that leaves defaults unlisted. -/
theorem mget_msetD [DecidableEq α] (m : AMap α) (d v : α) (k j : Nat) :
    mget (msetD m d k v) d j = if j = k then v else mget m d j := by
  simp only [mget, msetD]
  split
  · next h => rw [mget?_mdel]; split
              · simp [h]
              · rfl
  · rw [mget?_mput]; split <;> rfl

theorem mget?_mmod (m : AMap α) (k j : Nat) (f : α → α) : mget? (mmod m k f) j = if j = k then (mget? m j).map f else mget? m j := by
  simp only [mmod]
  split
  · next h => split
              · next hj => subst hj; simp [h]
              · rfl
  · next v h => rw [mget?_mput]; split
                · next hj => subst hj; simp [h]
                · rfl

theorem mget?_mmap (m : AMap α) (f : Nat → α → α) (j : Nat) : mget? (mmap m f) j = (mget? m j).map (f j) := by
  induction m with
  | nil => rfl
  | cons e r ih =>
    obtain ⟨i, w⟩ := e
    simp only [mmap, List.map_cons, mget?] at *
    split
    · next h => subst h; rfl
    · exact ih

/-! ### The canonical form -/

theorem mordFrom_le {m : AMap α} {a b : Nat} (h : mordFrom b m = true) (hab : a ≤ b) : mordFrom a m = true := by
  cases m with
  | nil => rfl
  | cons e r =>
    obtain ⟨i, w⟩ := e
    simp only [mordFrom, Bool.and_eq_true, decide_eq_true_eq] at *
    exact ⟨by omega, h.2⟩

theorem mordFrom_mput {m : AMap α} {b k : Nat} (v : α) (h : mordFrom b m = true) (hk : b ≤ k) : mordFrom b (mput m k v) = true := by
  induction m generalizing b with
  | nil => simp [mput, mordFrom, hk]
  | cons e r ih =>
    obtain ⟨i, w⟩ := e
    simp only [mordFrom, Bool.and_eq_true, decide_eq_true_eq] at h
    simp only [mput]
    split
    · next hki =>
      simp only [mordFrom, Bool.and_eq_true, decide_eq_true_eq]
      exact ⟨hk, by omega, h.2⟩
    · split
      · next hi => subst hi; simp only [mordFrom, Bool.and_eq_true, decide_eq_true_eq]; exact ⟨hk, h.2⟩
      · simp only [mordFrom, Bool.and_eq_true, decide_eq_true_eq]
        exact ⟨h.1, ih h.2 (by omega)⟩

theorem mordFrom_mdel {m : AMap α} {b : Nat} (k : Nat) (h : mordFrom b m = true) : mordFrom b (mdel m k) = true := by
  induction m generalizing b with
  | nil => rfl
  | cons e r ih =>
    obtain ⟨i, w⟩ := e
    simp only [mordFrom, Bool.and_eq_true, decide_eq_true_eq] at h
    simp only [mdel]
    split
    · exact mordFrom_le (ih h.2) (by omega)
    · simp only [mordFrom, Bool.and_eq_true, decide_eq_true_eq]
      exact ⟨h.1, ih h.2⟩

theorem all_mput {m : AMap α} {p : Nat × α → Bool} {k : Nat} {v : α} (h : m.all p = true) (hv : p (k, v) = true) :
    (mput m k v).all p = true := by
  induction m with
  | nil => simp [mput, hv]
  | cons e r ih =>
    obtain ⟨i, w⟩ := e
    simp only [List.all_cons, Bool.and_eq_true] at h
    simp only [mput]
    split
    · simp [hv, h.1, h.2]
    · split
      · simp [hv, h.2]
      · simp only [List.all_cons, Bool.and_eq_true]; exact ⟨h.1, ih h.2⟩

theorem all_mdel {m : AMap α} {p : Nat × α → Bool} (k : Nat) (h : m.all p = true) : (mdel m k).all p = true := by
  induction m with
  | nil => rfl
  | cons e r ih =>
    obtain ⟨i, w⟩ := e
    simp only [List.all_cons, Bool.and_eq_true] at h
    simp only [mdel]
    split
    · exact ih h.2
    · simp only [List.all_cons, Bool.and_eq_true]; exact ⟨h.1, ih h.2⟩

/-- A write keeps the canonical form. -/
theorem mwf_msetD [DecidableEq α] {m : AMap α} {d : α} (k : Nat) (v : α) (h : mwf d m = true) : mwf d (msetD m d k v) = true := by
  simp only [mwf, mord, Bool.and_eq_true] at *
  simp only [msetD]
  split
  · exact ⟨mordFrom_mdel k h.1, all_mdel k h.2⟩
  · next hv => exact ⟨mordFrom_mput v h.1 (Nat.zero_le _), all_mput h.2 (by simpa using hv)⟩

end Sys2Proof.Machine
end

