-- ==== Sys2Proof/Laws/Regs.lean ====
section
/-! SUPPORT. Laws/Regs.lean: reads of a group's registers after writes, and the part of a group that is its registers. -/

namespace Sys2Proof.Machine

/-! ### Lanes of a mask -/

theorem mem_lanesOf {m : Word} {L : Nat} : L ∈ lanesOf m ↔ m.getLsbD L = true := by
  simp only [lanesOf, List.mem_filter, List.mem_range]
  exact ⟨fun h => h.2, fun h => ⟨BitVec.lt_of_getLsbD h, h⟩⟩

theorem lanesOf_lt {m : Word} {L : Nat} (h : L ∈ lanesOf m) : L < 32 := BitVec.lt_of_getLsbD (mem_lanesOf.1 h)

theorem getLsbD_lbit {i j : Nat} (h : i < 32) : (lbit i).getLsbD j = decide (i = j) := by
  simp only [lbit]
  rw [BitVec.getLsbD_ofNat, Nat.testBit_two_pow]
  by_cases hij : i = j
  · subst hij; simp [h]
  · simp [hij]

theorem getLsbD_foldl_maskOf (f : Nat → Bool) (l : List Nat) (hl : ∀ i ∈ l, i < 32) (a : Word) (j : Nat) :
    (l.foldl (fun a i => if f i then a ||| lbit i else a) a).getLsbD j = (a.getLsbD j || (l.contains j && f j)) := by
  induction l generalizing a with
  | nil => simp
  | cons i r ih =>
    have hi : i < 32 := hl i (by simp)
    have hr : ∀ i ∈ r, i < 32 := fun i h => hl i (by simp [h])
    simp only [List.foldl_cons]
    rw [ih hr]
    by_cases hf : f i = true
    · rw [if_pos hf, BitVec.getLsbD_or, getLsbD_lbit hi, List.contains_cons]
      by_cases hij : i = j
      · subst hij; simp [hf]
      · rw [beq_eq_false_iff_ne.2 (Ne.symm hij)]; simp [hij]
    · rw [if_neg hf, List.contains_cons]
      by_cases hij : i = j
      · subst hij; simp [hf]
      · rw [beq_eq_false_iff_ne.2 (Ne.symm hij)]; simp

theorem getLsbD_maskOf (f : Nat → Bool) (j : Nat) : (maskOf f).getLsbD j = (decide (j < 32) && f j) := by
  rw [maskOf, getLsbD_foldl_maskOf f _ (fun i h => List.mem_range.1 h)]
  simp

/-! ### One register -/

theorem vget_vset {g : Group} {r r' L L' : Nat} {x : Word} (h : L < 32) (h' : L' < 32) :
    vget (vset g r L x) r' L' = if r' = r ∧ L' = L then x else vget g r' L' := by
  simp only [vget, vset, mget_msetD]
  by_cases e : r' = r ∧ L' = L
  · simp [e]
  · rw [if_neg (by omega), if_neg e]

theorem vpois_vset {g : Group} {r r' L L' : Nat} {x : Word} (h : L < 32) (h' : L' < 32) :
    mget (vset g r L x).vpois false (r' * 32 + L') = if r' = r ∧ L' = L then false else mget g.vpois false (r' * 32 + L') := by
  simp only [mget, vset, mget?_mdel]
  by_cases e : r' = r ∧ L' = L
  · simp [e]
  · rw [if_neg (by omega), if_neg e]

theorem sget_sset {g : Group} {r r' : Nat} {x : Word} : sget (sset g r x) r' = if r' = r then x else sget g r' := by
  simp only [sget, sset, mget_msetD]

theorem spois_sset {g : Group} {r r' : Nat} {x : Word} :
    mget (sset g r x).spois false r' = if r' = r then false else mget g.spois false r' := by
  simp only [mget, sset, mget?_mdel]; split <;> rfl

theorem pget_pset {g : Group} {n n' : Nat} {m x : Word} :
    pget (pset g n m x) n' = if n' = n then (pget g n &&& ~~~m) ||| (x &&& m) else pget g n' := by
  simp only [pget, pset, mget_msetD]

theorem pget_pset_bit {g : Group} {n n' L : Nat} {m x : Word} (h : L < 32) :
    (pget (pset g n m x) n').getLsbD L
      = if n' = n ∧ m.getLsbD L = true then x.getLsbD L else (pget g n').getLsbD L := by
  rw [pget_pset]
  by_cases hn : n' = n
  · subst hn
    simp only [BitVec.getLsbD_or, BitVec.getLsbD_and, BitVec.getLsbD_not, decide_eq_true h, Bool.true_and, true_and, ↓reduceIte]
    cases m.getLsbD L <;> simp
  · simp [hn]

theorem kget_kset {g : Group} {n n' : Nat} {x : Word} : kget (kset g n x) n' = if n' = n then x else kget g n' := by
  simp only [kget, kset, mget_msetD]

theorem dget_dset {g : Group} {n n' x : Nat} : dget (dset g n x) n' = if n' = n then x else dget g n' := by
  simp only [dget, dset, mget_msetD]

theorem lcget_lcset {g : Group} {n n' : Nat} {x : Word} : lcget (lcset g n x) n' = if n' = n then x else lcget g n' := by
  simp only [lcget, lcset, mget_msetD]

theorem loopGet_loopSet {g : Group} {n n' : Nat} {x : Loop} : loopGet (loopSet g n x) n' = if n' = n then x else loopGet g n' := by
  simp only [loopGet, loopSet, mget_msetD]

theorem laneGet_laneSet {g : Group} {n n' : Nat} {x : Lane} : laneGet (laneSet g n x) n' = if n' = n then x else laneGet g n' := by
  simp only [laneGet, laneSet, mget_msetD]

/-! ### The register part of a group -/

/-- The registers of a group but for the loop counters, and what the group is part of. -/
structure RegFile where
  v : AMap Word
  s : AMap Word
  p : AMap Word
  k : AMap Word
  d : AMap Nat
  gsplit : Nat
  steprnd : Bool
  fptrap : Nat
  vpois : AMap Bool
  spois : AMap Bool
  ids : Nat × Nat × Nat × Nat × Nat × Nat

/-- The register part. -/
def Group.file (g : Group) : RegFile :=
  { v := g.v, s := g.s, p := g.p, k := g.k, d := g.d, gsplit := g.gsplit, steprnd := g.steprnd, fptrap := g.fptrap,
    vpois := g.vpois, spois := g.spois, ids := (g.team, g.launch, g.ctx, g.idx, g.slice, g.slot) }

@[simp] theorem file_laneSet (g : Group) (L : Nat) (x : Lane) : (laneSet g L x).file = g.file := rfl
@[simp] theorem file_loopSet (g : Group) (n : Nat) (x : Loop) : (loopSet g n x).file = g.file := rfl
@[simp] theorem file_lcset (g : Group) (n : Nat) (x : Word) : (lcset g n x).file = g.file := rfl
@[simp] theorem file_dropExt (g : Group) (m : Word) : (dropExt g m).file = g.file := rfl
@[simp] theorem fstat_laneSet (g : Group) (L : Nat) (x : Lane) : (laneSet g L x).fstat = g.fstat := rfl
@[simp] theorem fstat_loopSet (g : Group) (n : Nat) (x : Loop) : (loopSet g n x).fstat = g.fstat := rfl
@[simp] theorem fstat_lcset (g : Group) (n : Nat) (x : Word) : (lcset g n x).fstat = g.fstat := rfl
@[simp] theorem fstat_dropExt (g : Group) (m : Word) : (dropExt g m).fstat = g.fstat := rfl

/-- Two groups with one register part and one status. -/
def SameRegs (g h : Group) : Prop := h.file = g.file ∧ h.fstat = g.fstat

theorem SameRegs.refl (g : Group) : SameRegs g g := ⟨rfl, rfl⟩
theorem SameRegs.trans {a b c : Group} (h : SameRegs a b) (h' : SameRegs b c) : SameRegs a c :=
  ⟨h'.1.trans h.1, h'.2.trans h.2⟩

theorem SameRegs.foldl {α : Type} {f : Group → α → Group} (hf : ∀ g x, SameRegs g (f g x)) (l : List α) (g : Group) :
    SameRegs g (l.foldl f g) := by
  induction l generalizing g with
  | nil => exact .refl g
  | cons x r ih => exact (hf g x).trans (ih _)

theorem SameRegs.laneMod (g : Group) (m : Word) (f : Nat → Lane → Lane) : SameRegs g (laneMod g m f) :=
  SameRegs.foldl (f := fun g L => laneSet g L (f L (laneGet g L))) (fun _ _ => ⟨rfl, rfl⟩) _ _

theorem SameRegs.v {g h : Group} (e : SameRegs g h) : h.v = g.v := congrArg RegFile.v e.1
theorem SameRegs.s {g h : Group} (e : SameRegs g h) : h.s = g.s := congrArg RegFile.s e.1
theorem SameRegs.p {g h : Group} (e : SameRegs g h) : h.p = g.p := congrArg RegFile.p e.1
theorem SameRegs.k {g h : Group} (e : SameRegs g h) : h.k = g.k := congrArg RegFile.k e.1
theorem SameRegs.d {g h : Group} (e : SameRegs g h) : h.d = g.d := congrArg RegFile.d e.1
theorem SameRegs.gsplit {g h : Group} (e : SameRegs g h) : h.gsplit = g.gsplit := congrArg RegFile.gsplit e.1
theorem SameRegs.steprnd {g h : Group} (e : SameRegs g h) : h.steprnd = g.steprnd := congrArg RegFile.steprnd e.1
theorem SameRegs.fptrap {g h : Group} (e : SameRegs g h) : h.fptrap = g.fptrap := congrArg RegFile.fptrap e.1
theorem SameRegs.vpois {g h : Group} (e : SameRegs g h) : h.vpois = g.vpois := congrArg RegFile.vpois e.1
theorem SameRegs.spois {g h : Group} (e : SameRegs g h) : h.spois = g.spois := congrArg RegFile.spois e.1

theorem SameRegs.vget {g h : Group} (e : SameRegs g h) (r L : Nat) : vget h r L = vget g r L := by
  simp only [Machine.vget, e.v]
theorem SameRegs.sget {g h : Group} (e : SameRegs g h) (r : Nat) : sget h r = sget g r := by simp only [Machine.sget, e.s]
theorem SameRegs.pget {g h : Group} (e : SameRegs g h) (r : Nat) : pget h r = pget g r := by simp only [Machine.pget, e.p]
theorem SameRegs.kget {g h : Group} (e : SameRegs g h) (r : Nat) : kget h r = kget g r := by simp only [Machine.kget, e.k]
theorem SameRegs.dget {g h : Group} (e : SameRegs g h) (r : Nat) : dget h r = dget g r := by simp only [Machine.dget, e.d]

end Sys2Proof.Machine
end

