-- ==== Sys2Proof/Laws/Lanes.lean ====
section
/-! SUPPORT. Laws/Lanes.lean: moving lanes, halting them and the tests of loops and masks leave a group's registers alone; where no
loop is active they leave the loop counters alone too. -/

namespace Sys2Proof.Machine

/-- From `g` to `h` the registers stay, and without active loops the loop counters and loops stay. -/
structure Moves (g h : Group) : Prop where
  same : SameRegs g h
  loops : NoLoops g → h.loops = g.loops ∧ h.lc = g.lc

theorem Moves.refl (g : Group) : Moves g g := ⟨.refl g, fun _ => ⟨rfl, rfl⟩⟩

theorem noLoops_congr {g h : Group} (e : h.loops = g.loops) (n : NoLoops g) : NoLoops h := by
  intro k hk; simpa only [loopGet, e] using n k hk

theorem Moves.trans {a b c : Group} (h : Moves a b) (h' : Moves b c) : Moves a c :=
  ⟨h.same.trans h'.same, fun n =>
    let q := h.loops n
    let q' := h'.loops (noLoops_congr q.1 n)
    ⟨q'.1.trans q.1, q'.2.trans q.2⟩⟩

theorem Moves.foldl {α : Type} {f : Group → α → Group} (hf : ∀ g x, Moves g (f g x)) (l : List α) (g : Group) :
    Moves g (l.foldl f g) := by
  induction l generalizing g with
  | nil => exact .refl g
  | cons x r ih => exact (hf g x).trans (ih _)

theorem Moves.foldl_mem {α : Type} {f : Group → α → Group} (l : List α) (hf : ∀ x ∈ l, ∀ g, Moves g (f g x)) (g : Group) :
    Moves g (l.foldl f g) := by
  induction l generalizing g with
  | nil => exact .refl g
  | cons x r ih => exact (hf x (by simp) g).trans (ih (fun y hy => hf y (by simp [hy])) _)

/-- A change of fields that hold no register. -/
theorem Moves.of_eq {g h : Group} (a : h.file = g.file) (b : h.fstat = g.fstat) (c : h.loops = g.loops) (d : h.lc = g.lc) :
    Moves g h := ⟨⟨a, b⟩, fun _ => ⟨c, d⟩⟩

theorem Moves.laneSet (g : Group) (L : Nat) (x : Lane) : Moves g (laneSet g L x) := .of_eq rfl rfl rfl rfl
theorem Moves.dropExt (g : Group) (m : Word) : Moves g (dropExt g m) := .of_eq rfl rfl rfl rfl

theorem Moves.laneMod (g : Group) (m : Word) (f : Nat → Lane → Lane) : Moves g (laneMod g m f) :=
  Moves.foldl (f := fun g L => Machine.laneSet g L (f L (laneGet g L))) (fun _ _ => .laneSet _ _ _) _ _

theorem Moves.leaveLoop (L : Nat) (t : Option DWord) (g : Group) {n : Nat} (hn : n < 3) : Moves g (leaveLoop L t g n) := by
  refine ⟨?_, fun h => ?_⟩
  · unfold Machine.leaveLoop; dsimp only; (repeat' split) <;> exact ⟨rfl, rfl⟩
  · unfold Machine.leaveLoop; simp [h n hn]

theorem Moves.leaveLoops (g : Group) (L : Nat) (t : Option DWord) : Moves g (leaveLoops g L t) :=
  Moves.foldl_mem _ (fun _ h g => .leaveLoop L t g (List.mem_range.1 h)) g

theorem Moves.advLane (g : Group) (L : Nat) (c : Clause) (p : DWord) : Moves g (advLane g L c p) := by
  unfold Machine.advLane; dsimp only; split <;> exact .laneSet _ _ _

theorem Moves.jumpLane (g : Group) (L : Nat) (t : DWord) : Moves g (jumpLane g L t) :=
  (Moves.leaveLoops g L (some t)).trans (.laneSet _ _ _)

theorem Moves.passLane (g : Group) (L : Nat) : Moves g (passLane g L) := by
  unfold Machine.passLane; dsimp only; split
  · exact .laneSet _ _ _
  · split
    · exact .advLane _ _ _ _
    · exact .laneSet _ _ _

theorem Moves.passLanes (g : Group) (m : Word) : Moves g (passLanes g m) := Moves.foldl (fun _ _ => .passLane _ _) _ _

theorem Moves.loopTest (g : Group) {n : Nat} (hn : n < 3) : Moves g (loopTest g n) := by
  refine ⟨?_, fun h => ?_⟩
  · unfold Machine.loopTest; dsimp only
    split
    · exact .refl g
    · split
      · exact SameRegs.trans ⟨rfl, rfl⟩ (SameRegs.foldl (fun g L => by unfold Machine.leaveBody; split <;> exact ⟨rfl, rfl⟩) _ _)
      · exact SameRegs.trans ⟨rfl, rfl⟩ (SameRegs.laneMod _ _ _)
  · unfold Machine.loopTest; simp [h n hn]

theorem Moves.maskTest (g : Group) (k : Nat) : Moves g (maskTest g k) := by
  unfold Machine.maskTest; dsimp only; split
  · exact .refl g
  · exact .passLanes _ _

theorem Moves.settle (g : Group) : Moves g (settle g) := by
  have one (g : Group) : Moves g (settle1 g) :=
    (Moves.foldl_mem (f := Machine.loopTest) _ (fun n h g => .loopTest g (List.mem_range.1 h)) g).trans
      (Moves.foldl (fun _ _ => .maskTest _ _) _ _)
  exact (one _).trans ((one _).trans ((one _).trans (one _)))

theorem Moves.withExt (g : Group) (e : AMap Ext) : Moves g { g with ext := e } := .of_eq rfl rfl rfl rfl

theorem Moves.haltLanes (g : Group) : Moves g (haltLanes g) := (Moves.laneMod g _ _).trans (.withExt _ _)
theorem Moves.stopGroup (g : Group) : Moves g (stopGroup g) := (Moves.laneMod g _ _).trans (.withExt _ _)

theorem Moves.withHandler (g : Group) (t : Option TrapPend) (a : Option Nat) (l : Bool) (h : Option Hnd) :
    Moves g { g with trap := t, stallAt := a, stallLong := l, hnd := h } := .of_eq rfl rfl rfl rfl

theorem Moves.enterHandler (g : Group) (p : TrapPend) (e : DWord) : Moves g (enterHandler g p e) :=
  (Moves.laneMod g _ _).trans (.withHandler _ _ _ _ _)

theorem Moves.moveLanes (v : View) (e : Eff) (m : Word) : Moves e.g (moveLanes v e m) := by
  refine Moves.foldl (fun g L => ?_) _ _
  unfold Machine.moveLane
  split
  · exact .refl g
  · split
    · exact .jumpLane _ _ _
    · split
      · exact .laneSet _ _ _
      · split
        · exact .laneSet _ _ _
        · exact .advLane _ _ _ _

theorem Moves.countSkips (g0 g : Group) (v : View) : Moves g (countSkips g0 g v) := by
  unfold Machine.countSkips; split
  · exact .refl g
  · exact (Moves.laneMod _ _ _).trans (.laneMod _ _ _)

theorem Moves.markWaited (g : Group) (v : View) : Moves g (markWaited g v) := by
  unfold Machine.markWaited; dsimp only; split
  · exact .laneMod _ _ _
  · exact (Moves.laneMod _ _ _).trans (.dropExt _ _)

theorem Moves.notePre (g : Group) (v : View) (pre : List Hit) : Moves g (notePre g v pre) := by
  refine Moves.foldl (fun g h => ?_) _ _
  unfold Machine.noteHit
  split
  · exact .refl g
  · exact .laneMod _ _ _

end Sys2Proof.Machine
end

