-- ==== Sys2Proof/Laws/State.lean ====
section
/-! SUPPORT. Laws/State.lean: each update of a part of the state leaves the other fields as they were, and what a part reads as after
an update. -/

namespace Sys2Proof.Machine


/-! `setGroup` changes the field `groups`. -/

@[simp] theorem setGroup_now (s : State) (id : Nat) (x : Group) : (setGroup s id x).now = s.now := rfl
@[simp] theorem setGroup_agenda (s : State) (id : Nat) (x : Group) : (setGroup s id x).agenda = s.agenda := rfl
@[simp] theorem setGroup_ev (s : State) (id : Nat) (x : Group) : (setGroup s id x).ev = s.ev := rfl
@[simp] theorem setGroup_sel (s : State) (id : Nat) (x : Group) : (setGroup s id x).sel = s.sel := rfl
@[simp] theorem setGroup_turn (s : State) (id : Nat) (x : Group) : (setGroup s id x).turn = s.turn := rfl
@[simp] theorem setGroup_free (s : State) (id : Nat) (x : Group) : (setGroup s id x).free = s.free := rfl
@[simp] theorem setGroup_nextId (s : State) (id : Nat) (x : Group) : (setGroup s id x).nextId = s.nextId := rfl
@[simp] theorem setGroup_dev (s : State) (id : Nat) (x : Group) : (setGroup s id x).dev = s.dev := rfl
@[simp] theorem setGroup_slots (s : State) (id : Nat) (x : Group) : (setGroup s id x).slots = s.slots := rfl
@[simp] theorem setGroup_parts (s : State) (id : Nat) (x : Group) : (setGroup s id x).parts = s.parts := rfl
@[simp] theorem setGroup_chains (s : State) (id : Nat) (x : Group) : (setGroup s id x).chains = s.chains := rfl
@[simp] theorem setGroup_rrChain (s : State) (id : Nat) (x : Group) : (setGroup s id x).rrChain = s.rrChain := rfl
@[simp] theorem setGroup_feChain (s : State) (id : Nat) (x : Group) : (setGroup s id x).feChain = s.feChain := rfl
@[simp] theorem setGroup_cores (s : State) (id : Nat) (x : Group) : (setGroup s id x).cores = s.cores := rfl
@[simp] theorem setGroup_plume (s : State) (id : Nat) (x : Group) : (setGroup s id x).plume = s.plume := rfl
@[simp] theorem setGroup_mons (s : State) (id : Nat) (x : Group) : (setGroup s id x).mons = s.mons := rfl
@[simp] theorem setGroup_ctxs (s : State) (id : Nat) (x : Group) : (setGroup s id x).ctxs = s.ctxs := rfl
@[simp] theorem setGroup_launches (s : State) (id : Nat) (x : Group) : (setGroup s id x).launches = s.launches := rfl
@[simp] theorem setGroup_teams (s : State) (id : Nat) (x : Group) : (setGroup s id x).teams = s.teams := rfl
@[simp] theorem setGroup_quads (s : State) (id : Nat) (x : Group) : (setGroup s id x).quads = s.quads := rfl
@[simp] theorem setGroup_joints (s : State) (id : Nat) (x : Group) : (setGroup s id x).joints = s.joints := rfl
@[simp] theorem setGroup_ops (s : State) (id : Nat) (x : Group) : (setGroup s id x).ops = s.ops := rfl
@[simp] theorem setGroup_rems (s : State) (id : Nat) (x : Group) : (setGroup s id x).rems = s.rems := rfl
@[simp] theorem setGroup_treqs (s : State) (id : Nat) (x : Group) : (setGroup s id x).treqs = s.treqs := rfl
@[simp] theorem setGroup_colls (s : State) (id : Nat) (x : Group) : (setGroup s id x).colls = s.colls := rfl
@[simp] theorem setGroup_cmsgs (s : State) (id : Nat) (x : Group) : (setGroup s id x).cmsgs = s.cmsgs := rfl
@[simp] theorem setGroup_comms (s : State) (id : Nat) (x : Group) : (setGroup s id x).comms = s.comms := rfl
@[simp] theorem setGroup_tabs (s : State) (id : Nat) (x : Group) : (setGroup s id x).tabs = s.tabs := rfl
@[simp] theorem setGroup_tlb (s : State) (id : Nat) (x : Group) : (setGroup s id x).tlb = s.tlb := rfl
@[simp] theorem setGroup_ilines (s : State) (id : Nat) (x : Group) : (setGroup s id x).ilines = s.ilines := rfl
@[simp] theorem setGroup_l1 (s : State) (id : Nat) (x : Group) : (setGroup s id x).l1 = s.l1 := rfl
@[simp] theorem setGroup_ctlb (s : State) (id : Nat) (x : Group) : (setGroup s id x).ctlb = s.ctlb := rfl
@[simp] theorem setGroup_basin (s : State) (id : Nat) (x : Group) : (setGroup s id x).basin = s.basin := rfl
@[simp] theorem setGroup_pos (s : State) (id : Nat) (x : Group) : (setGroup s id x).pos = s.pos := rfl
@[simp] theorem setGroup_waits (s : State) (id : Nat) (x : Group) : (setGroup s id x).waits = s.waits := rfl
@[simp] theorem setGroup_invs (s : State) (id : Nat) (x : Group) : (setGroup s id x).invs = s.invs := rfl
@[simp] theorem setGroup_rid (s : State) (id : Nat) (x : Group) : (setGroup s id x).rid = s.rid := rfl
@[simp] theorem setGroup_mem (s : State) (id : Nat) (x : Group) : (setGroup s id x).mem = s.mem := rfl
@[simp] theorem setGroup_pois (s : State) (id : Nat) (x : Group) : (setGroup s id x).pois = s.pois := rfl
@[simp] theorem setGroup_out (s : State) (id : Nat) (x : Group) : (setGroup s id x).out = s.out := rfl

/-! `modGroup` changes the field `groups`. -/

@[simp] theorem modGroup_now (s : State) (id : Nat) (f : Group → Group) : (modGroup s id f).now = s.now := rfl
@[simp] theorem modGroup_agenda (s : State) (id : Nat) (f : Group → Group) : (modGroup s id f).agenda = s.agenda := rfl
@[simp] theorem modGroup_ev (s : State) (id : Nat) (f : Group → Group) : (modGroup s id f).ev = s.ev := rfl
@[simp] theorem modGroup_sel (s : State) (id : Nat) (f : Group → Group) : (modGroup s id f).sel = s.sel := rfl
@[simp] theorem modGroup_turn (s : State) (id : Nat) (f : Group → Group) : (modGroup s id f).turn = s.turn := rfl
@[simp] theorem modGroup_free (s : State) (id : Nat) (f : Group → Group) : (modGroup s id f).free = s.free := rfl
@[simp] theorem modGroup_nextId (s : State) (id : Nat) (f : Group → Group) : (modGroup s id f).nextId = s.nextId := rfl
@[simp] theorem modGroup_dev (s : State) (id : Nat) (f : Group → Group) : (modGroup s id f).dev = s.dev := rfl
@[simp] theorem modGroup_slots (s : State) (id : Nat) (f : Group → Group) : (modGroup s id f).slots = s.slots := rfl
@[simp] theorem modGroup_parts (s : State) (id : Nat) (f : Group → Group) : (modGroup s id f).parts = s.parts := rfl
@[simp] theorem modGroup_chains (s : State) (id : Nat) (f : Group → Group) : (modGroup s id f).chains = s.chains := rfl
@[simp] theorem modGroup_rrChain (s : State) (id : Nat) (f : Group → Group) : (modGroup s id f).rrChain = s.rrChain := rfl
@[simp] theorem modGroup_feChain (s : State) (id : Nat) (f : Group → Group) : (modGroup s id f).feChain = s.feChain := rfl
@[simp] theorem modGroup_cores (s : State) (id : Nat) (f : Group → Group) : (modGroup s id f).cores = s.cores := rfl
@[simp] theorem modGroup_plume (s : State) (id : Nat) (f : Group → Group) : (modGroup s id f).plume = s.plume := rfl
@[simp] theorem modGroup_mons (s : State) (id : Nat) (f : Group → Group) : (modGroup s id f).mons = s.mons := rfl
@[simp] theorem modGroup_ctxs (s : State) (id : Nat) (f : Group → Group) : (modGroup s id f).ctxs = s.ctxs := rfl
@[simp] theorem modGroup_launches (s : State) (id : Nat) (f : Group → Group) : (modGroup s id f).launches = s.launches := rfl
@[simp] theorem modGroup_teams (s : State) (id : Nat) (f : Group → Group) : (modGroup s id f).teams = s.teams := rfl
@[simp] theorem modGroup_quads (s : State) (id : Nat) (f : Group → Group) : (modGroup s id f).quads = s.quads := rfl
@[simp] theorem modGroup_joints (s : State) (id : Nat) (f : Group → Group) : (modGroup s id f).joints = s.joints := rfl
@[simp] theorem modGroup_ops (s : State) (id : Nat) (f : Group → Group) : (modGroup s id f).ops = s.ops := rfl
@[simp] theorem modGroup_rems (s : State) (id : Nat) (f : Group → Group) : (modGroup s id f).rems = s.rems := rfl
@[simp] theorem modGroup_treqs (s : State) (id : Nat) (f : Group → Group) : (modGroup s id f).treqs = s.treqs := rfl
@[simp] theorem modGroup_colls (s : State) (id : Nat) (f : Group → Group) : (modGroup s id f).colls = s.colls := rfl
@[simp] theorem modGroup_cmsgs (s : State) (id : Nat) (f : Group → Group) : (modGroup s id f).cmsgs = s.cmsgs := rfl
@[simp] theorem modGroup_comms (s : State) (id : Nat) (f : Group → Group) : (modGroup s id f).comms = s.comms := rfl
@[simp] theorem modGroup_tabs (s : State) (id : Nat) (f : Group → Group) : (modGroup s id f).tabs = s.tabs := rfl
@[simp] theorem modGroup_tlb (s : State) (id : Nat) (f : Group → Group) : (modGroup s id f).tlb = s.tlb := rfl
@[simp] theorem modGroup_ilines (s : State) (id : Nat) (f : Group → Group) : (modGroup s id f).ilines = s.ilines := rfl
@[simp] theorem modGroup_l1 (s : State) (id : Nat) (f : Group → Group) : (modGroup s id f).l1 = s.l1 := rfl
@[simp] theorem modGroup_ctlb (s : State) (id : Nat) (f : Group → Group) : (modGroup s id f).ctlb = s.ctlb := rfl
@[simp] theorem modGroup_basin (s : State) (id : Nat) (f : Group → Group) : (modGroup s id f).basin = s.basin := rfl
@[simp] theorem modGroup_pos (s : State) (id : Nat) (f : Group → Group) : (modGroup s id f).pos = s.pos := rfl
@[simp] theorem modGroup_waits (s : State) (id : Nat) (f : Group → Group) : (modGroup s id f).waits = s.waits := rfl
@[simp] theorem modGroup_invs (s : State) (id : Nat) (f : Group → Group) : (modGroup s id f).invs = s.invs := rfl
@[simp] theorem modGroup_rid (s : State) (id : Nat) (f : Group → Group) : (modGroup s id f).rid = s.rid := rfl
@[simp] theorem modGroup_mem (s : State) (id : Nat) (f : Group → Group) : (modGroup s id f).mem = s.mem := rfl
@[simp] theorem modGroup_pois (s : State) (id : Nat) (f : Group → Group) : (modGroup s id f).pois = s.pois := rfl
@[simp] theorem modGroup_out (s : State) (id : Nat) (f : Group → Group) : (modGroup s id f).out = s.out := rfl

/-! `modTeam` changes the field `teams`. -/

@[simp] theorem modTeam_now (s : State) (id : Nat) (f : Team → Team) : (modTeam s id f).now = s.now := rfl
@[simp] theorem modTeam_agenda (s : State) (id : Nat) (f : Team → Team) : (modTeam s id f).agenda = s.agenda := rfl
@[simp] theorem modTeam_ev (s : State) (id : Nat) (f : Team → Team) : (modTeam s id f).ev = s.ev := rfl
@[simp] theorem modTeam_sel (s : State) (id : Nat) (f : Team → Team) : (modTeam s id f).sel = s.sel := rfl
@[simp] theorem modTeam_turn (s : State) (id : Nat) (f : Team → Team) : (modTeam s id f).turn = s.turn := rfl
@[simp] theorem modTeam_free (s : State) (id : Nat) (f : Team → Team) : (modTeam s id f).free = s.free := rfl
@[simp] theorem modTeam_nextId (s : State) (id : Nat) (f : Team → Team) : (modTeam s id f).nextId = s.nextId := rfl
@[simp] theorem modTeam_dev (s : State) (id : Nat) (f : Team → Team) : (modTeam s id f).dev = s.dev := rfl
@[simp] theorem modTeam_slots (s : State) (id : Nat) (f : Team → Team) : (modTeam s id f).slots = s.slots := rfl
@[simp] theorem modTeam_parts (s : State) (id : Nat) (f : Team → Team) : (modTeam s id f).parts = s.parts := rfl
@[simp] theorem modTeam_chains (s : State) (id : Nat) (f : Team → Team) : (modTeam s id f).chains = s.chains := rfl
@[simp] theorem modTeam_rrChain (s : State) (id : Nat) (f : Team → Team) : (modTeam s id f).rrChain = s.rrChain := rfl
@[simp] theorem modTeam_feChain (s : State) (id : Nat) (f : Team → Team) : (modTeam s id f).feChain = s.feChain := rfl
@[simp] theorem modTeam_cores (s : State) (id : Nat) (f : Team → Team) : (modTeam s id f).cores = s.cores := rfl
@[simp] theorem modTeam_plume (s : State) (id : Nat) (f : Team → Team) : (modTeam s id f).plume = s.plume := rfl
@[simp] theorem modTeam_mons (s : State) (id : Nat) (f : Team → Team) : (modTeam s id f).mons = s.mons := rfl
@[simp] theorem modTeam_ctxs (s : State) (id : Nat) (f : Team → Team) : (modTeam s id f).ctxs = s.ctxs := rfl
@[simp] theorem modTeam_launches (s : State) (id : Nat) (f : Team → Team) : (modTeam s id f).launches = s.launches := rfl
@[simp] theorem modTeam_groups (s : State) (id : Nat) (f : Team → Team) : (modTeam s id f).groups = s.groups := rfl
@[simp] theorem modTeam_quads (s : State) (id : Nat) (f : Team → Team) : (modTeam s id f).quads = s.quads := rfl
@[simp] theorem modTeam_joints (s : State) (id : Nat) (f : Team → Team) : (modTeam s id f).joints = s.joints := rfl
@[simp] theorem modTeam_ops (s : State) (id : Nat) (f : Team → Team) : (modTeam s id f).ops = s.ops := rfl
@[simp] theorem modTeam_rems (s : State) (id : Nat) (f : Team → Team) : (modTeam s id f).rems = s.rems := rfl
@[simp] theorem modTeam_treqs (s : State) (id : Nat) (f : Team → Team) : (modTeam s id f).treqs = s.treqs := rfl
@[simp] theorem modTeam_colls (s : State) (id : Nat) (f : Team → Team) : (modTeam s id f).colls = s.colls := rfl
@[simp] theorem modTeam_cmsgs (s : State) (id : Nat) (f : Team → Team) : (modTeam s id f).cmsgs = s.cmsgs := rfl
@[simp] theorem modTeam_comms (s : State) (id : Nat) (f : Team → Team) : (modTeam s id f).comms = s.comms := rfl
@[simp] theorem modTeam_tabs (s : State) (id : Nat) (f : Team → Team) : (modTeam s id f).tabs = s.tabs := rfl
@[simp] theorem modTeam_tlb (s : State) (id : Nat) (f : Team → Team) : (modTeam s id f).tlb = s.tlb := rfl
@[simp] theorem modTeam_ilines (s : State) (id : Nat) (f : Team → Team) : (modTeam s id f).ilines = s.ilines := rfl
@[simp] theorem modTeam_l1 (s : State) (id : Nat) (f : Team → Team) : (modTeam s id f).l1 = s.l1 := rfl
@[simp] theorem modTeam_ctlb (s : State) (id : Nat) (f : Team → Team) : (modTeam s id f).ctlb = s.ctlb := rfl
@[simp] theorem modTeam_basin (s : State) (id : Nat) (f : Team → Team) : (modTeam s id f).basin = s.basin := rfl
@[simp] theorem modTeam_pos (s : State) (id : Nat) (f : Team → Team) : (modTeam s id f).pos = s.pos := rfl
@[simp] theorem modTeam_waits (s : State) (id : Nat) (f : Team → Team) : (modTeam s id f).waits = s.waits := rfl
@[simp] theorem modTeam_invs (s : State) (id : Nat) (f : Team → Team) : (modTeam s id f).invs = s.invs := rfl
@[simp] theorem modTeam_rid (s : State) (id : Nat) (f : Team → Team) : (modTeam s id f).rid = s.rid := rfl
@[simp] theorem modTeam_mem (s : State) (id : Nat) (f : Team → Team) : (modTeam s id f).mem = s.mem := rfl
@[simp] theorem modTeam_pois (s : State) (id : Nat) (f : Team → Team) : (modTeam s id f).pois = s.pois := rfl
@[simp] theorem modTeam_out (s : State) (id : Nat) (f : Team → Team) : (modTeam s id f).out = s.out := rfl

/-! `modCtx` changes the field `ctxs`. -/

@[simp] theorem modCtx_now (s : State) (id : Nat) (f : Ctx → Ctx) : (modCtx s id f).now = s.now := rfl
@[simp] theorem modCtx_agenda (s : State) (id : Nat) (f : Ctx → Ctx) : (modCtx s id f).agenda = s.agenda := rfl
@[simp] theorem modCtx_ev (s : State) (id : Nat) (f : Ctx → Ctx) : (modCtx s id f).ev = s.ev := rfl
@[simp] theorem modCtx_sel (s : State) (id : Nat) (f : Ctx → Ctx) : (modCtx s id f).sel = s.sel := rfl
@[simp] theorem modCtx_turn (s : State) (id : Nat) (f : Ctx → Ctx) : (modCtx s id f).turn = s.turn := rfl
@[simp] theorem modCtx_free (s : State) (id : Nat) (f : Ctx → Ctx) : (modCtx s id f).free = s.free := rfl
@[simp] theorem modCtx_nextId (s : State) (id : Nat) (f : Ctx → Ctx) : (modCtx s id f).nextId = s.nextId := rfl
@[simp] theorem modCtx_dev (s : State) (id : Nat) (f : Ctx → Ctx) : (modCtx s id f).dev = s.dev := rfl
@[simp] theorem modCtx_slots (s : State) (id : Nat) (f : Ctx → Ctx) : (modCtx s id f).slots = s.slots := rfl
@[simp] theorem modCtx_parts (s : State) (id : Nat) (f : Ctx → Ctx) : (modCtx s id f).parts = s.parts := rfl
@[simp] theorem modCtx_chains (s : State) (id : Nat) (f : Ctx → Ctx) : (modCtx s id f).chains = s.chains := rfl
@[simp] theorem modCtx_rrChain (s : State) (id : Nat) (f : Ctx → Ctx) : (modCtx s id f).rrChain = s.rrChain := rfl
@[simp] theorem modCtx_feChain (s : State) (id : Nat) (f : Ctx → Ctx) : (modCtx s id f).feChain = s.feChain := rfl
@[simp] theorem modCtx_cores (s : State) (id : Nat) (f : Ctx → Ctx) : (modCtx s id f).cores = s.cores := rfl
@[simp] theorem modCtx_plume (s : State) (id : Nat) (f : Ctx → Ctx) : (modCtx s id f).plume = s.plume := rfl
@[simp] theorem modCtx_mons (s : State) (id : Nat) (f : Ctx → Ctx) : (modCtx s id f).mons = s.mons := rfl
@[simp] theorem modCtx_launches (s : State) (id : Nat) (f : Ctx → Ctx) : (modCtx s id f).launches = s.launches := rfl
@[simp] theorem modCtx_teams (s : State) (id : Nat) (f : Ctx → Ctx) : (modCtx s id f).teams = s.teams := rfl
@[simp] theorem modCtx_groups (s : State) (id : Nat) (f : Ctx → Ctx) : (modCtx s id f).groups = s.groups := rfl
@[simp] theorem modCtx_quads (s : State) (id : Nat) (f : Ctx → Ctx) : (modCtx s id f).quads = s.quads := rfl
@[simp] theorem modCtx_joints (s : State) (id : Nat) (f : Ctx → Ctx) : (modCtx s id f).joints = s.joints := rfl
@[simp] theorem modCtx_ops (s : State) (id : Nat) (f : Ctx → Ctx) : (modCtx s id f).ops = s.ops := rfl
@[simp] theorem modCtx_rems (s : State) (id : Nat) (f : Ctx → Ctx) : (modCtx s id f).rems = s.rems := rfl
@[simp] theorem modCtx_treqs (s : State) (id : Nat) (f : Ctx → Ctx) : (modCtx s id f).treqs = s.treqs := rfl
@[simp] theorem modCtx_colls (s : State) (id : Nat) (f : Ctx → Ctx) : (modCtx s id f).colls = s.colls := rfl
@[simp] theorem modCtx_cmsgs (s : State) (id : Nat) (f : Ctx → Ctx) : (modCtx s id f).cmsgs = s.cmsgs := rfl
@[simp] theorem modCtx_comms (s : State) (id : Nat) (f : Ctx → Ctx) : (modCtx s id f).comms = s.comms := rfl
@[simp] theorem modCtx_tabs (s : State) (id : Nat) (f : Ctx → Ctx) : (modCtx s id f).tabs = s.tabs := rfl
@[simp] theorem modCtx_tlb (s : State) (id : Nat) (f : Ctx → Ctx) : (modCtx s id f).tlb = s.tlb := rfl
@[simp] theorem modCtx_ilines (s : State) (id : Nat) (f : Ctx → Ctx) : (modCtx s id f).ilines = s.ilines := rfl
@[simp] theorem modCtx_l1 (s : State) (id : Nat) (f : Ctx → Ctx) : (modCtx s id f).l1 = s.l1 := rfl
@[simp] theorem modCtx_ctlb (s : State) (id : Nat) (f : Ctx → Ctx) : (modCtx s id f).ctlb = s.ctlb := rfl
@[simp] theorem modCtx_basin (s : State) (id : Nat) (f : Ctx → Ctx) : (modCtx s id f).basin = s.basin := rfl
@[simp] theorem modCtx_pos (s : State) (id : Nat) (f : Ctx → Ctx) : (modCtx s id f).pos = s.pos := rfl
@[simp] theorem modCtx_waits (s : State) (id : Nat) (f : Ctx → Ctx) : (modCtx s id f).waits = s.waits := rfl
@[simp] theorem modCtx_invs (s : State) (id : Nat) (f : Ctx → Ctx) : (modCtx s id f).invs = s.invs := rfl
@[simp] theorem modCtx_rid (s : State) (id : Nat) (f : Ctx → Ctx) : (modCtx s id f).rid = s.rid := rfl
@[simp] theorem modCtx_mem (s : State) (id : Nat) (f : Ctx → Ctx) : (modCtx s id f).mem = s.mem := rfl
@[simp] theorem modCtx_pois (s : State) (id : Nat) (f : Ctx → Ctx) : (modCtx s id f).pois = s.pois := rfl
@[simp] theorem modCtx_out (s : State) (id : Nat) (f : Ctx → Ctx) : (modCtx s id f).out = s.out := rfl

/-! `modLaunch` changes the field `launches`. -/

@[simp] theorem modLaunch_now (s : State) (id : Nat) (f : Launch → Launch) : (modLaunch s id f).now = s.now := rfl
@[simp] theorem modLaunch_agenda (s : State) (id : Nat) (f : Launch → Launch) : (modLaunch s id f).agenda = s.agenda := rfl
@[simp] theorem modLaunch_ev (s : State) (id : Nat) (f : Launch → Launch) : (modLaunch s id f).ev = s.ev := rfl
@[simp] theorem modLaunch_sel (s : State) (id : Nat) (f : Launch → Launch) : (modLaunch s id f).sel = s.sel := rfl
@[simp] theorem modLaunch_turn (s : State) (id : Nat) (f : Launch → Launch) : (modLaunch s id f).turn = s.turn := rfl
@[simp] theorem modLaunch_free (s : State) (id : Nat) (f : Launch → Launch) : (modLaunch s id f).free = s.free := rfl
@[simp] theorem modLaunch_nextId (s : State) (id : Nat) (f : Launch → Launch) : (modLaunch s id f).nextId = s.nextId := rfl
@[simp] theorem modLaunch_dev (s : State) (id : Nat) (f : Launch → Launch) : (modLaunch s id f).dev = s.dev := rfl
@[simp] theorem modLaunch_slots (s : State) (id : Nat) (f : Launch → Launch) : (modLaunch s id f).slots = s.slots := rfl
@[simp] theorem modLaunch_parts (s : State) (id : Nat) (f : Launch → Launch) : (modLaunch s id f).parts = s.parts := rfl
@[simp] theorem modLaunch_chains (s : State) (id : Nat) (f : Launch → Launch) : (modLaunch s id f).chains = s.chains := rfl
@[simp] theorem modLaunch_rrChain (s : State) (id : Nat) (f : Launch → Launch) : (modLaunch s id f).rrChain = s.rrChain := rfl
@[simp] theorem modLaunch_feChain (s : State) (id : Nat) (f : Launch → Launch) : (modLaunch s id f).feChain = s.feChain := rfl
@[simp] theorem modLaunch_cores (s : State) (id : Nat) (f : Launch → Launch) : (modLaunch s id f).cores = s.cores := rfl
@[simp] theorem modLaunch_plume (s : State) (id : Nat) (f : Launch → Launch) : (modLaunch s id f).plume = s.plume := rfl
@[simp] theorem modLaunch_mons (s : State) (id : Nat) (f : Launch → Launch) : (modLaunch s id f).mons = s.mons := rfl
@[simp] theorem modLaunch_ctxs (s : State) (id : Nat) (f : Launch → Launch) : (modLaunch s id f).ctxs = s.ctxs := rfl
@[simp] theorem modLaunch_teams (s : State) (id : Nat) (f : Launch → Launch) : (modLaunch s id f).teams = s.teams := rfl
@[simp] theorem modLaunch_groups (s : State) (id : Nat) (f : Launch → Launch) : (modLaunch s id f).groups = s.groups := rfl
@[simp] theorem modLaunch_quads (s : State) (id : Nat) (f : Launch → Launch) : (modLaunch s id f).quads = s.quads := rfl
@[simp] theorem modLaunch_joints (s : State) (id : Nat) (f : Launch → Launch) : (modLaunch s id f).joints = s.joints := rfl
@[simp] theorem modLaunch_ops (s : State) (id : Nat) (f : Launch → Launch) : (modLaunch s id f).ops = s.ops := rfl
@[simp] theorem modLaunch_rems (s : State) (id : Nat) (f : Launch → Launch) : (modLaunch s id f).rems = s.rems := rfl
@[simp] theorem modLaunch_treqs (s : State) (id : Nat) (f : Launch → Launch) : (modLaunch s id f).treqs = s.treqs := rfl
@[simp] theorem modLaunch_colls (s : State) (id : Nat) (f : Launch → Launch) : (modLaunch s id f).colls = s.colls := rfl
@[simp] theorem modLaunch_cmsgs (s : State) (id : Nat) (f : Launch → Launch) : (modLaunch s id f).cmsgs = s.cmsgs := rfl
@[simp] theorem modLaunch_comms (s : State) (id : Nat) (f : Launch → Launch) : (modLaunch s id f).comms = s.comms := rfl
@[simp] theorem modLaunch_tabs (s : State) (id : Nat) (f : Launch → Launch) : (modLaunch s id f).tabs = s.tabs := rfl
@[simp] theorem modLaunch_tlb (s : State) (id : Nat) (f : Launch → Launch) : (modLaunch s id f).tlb = s.tlb := rfl
@[simp] theorem modLaunch_ilines (s : State) (id : Nat) (f : Launch → Launch) : (modLaunch s id f).ilines = s.ilines := rfl
@[simp] theorem modLaunch_l1 (s : State) (id : Nat) (f : Launch → Launch) : (modLaunch s id f).l1 = s.l1 := rfl
@[simp] theorem modLaunch_ctlb (s : State) (id : Nat) (f : Launch → Launch) : (modLaunch s id f).ctlb = s.ctlb := rfl
@[simp] theorem modLaunch_basin (s : State) (id : Nat) (f : Launch → Launch) : (modLaunch s id f).basin = s.basin := rfl
@[simp] theorem modLaunch_pos (s : State) (id : Nat) (f : Launch → Launch) : (modLaunch s id f).pos = s.pos := rfl
@[simp] theorem modLaunch_waits (s : State) (id : Nat) (f : Launch → Launch) : (modLaunch s id f).waits = s.waits := rfl
@[simp] theorem modLaunch_invs (s : State) (id : Nat) (f : Launch → Launch) : (modLaunch s id f).invs = s.invs := rfl
@[simp] theorem modLaunch_rid (s : State) (id : Nat) (f : Launch → Launch) : (modLaunch s id f).rid = s.rid := rfl
@[simp] theorem modLaunch_mem (s : State) (id : Nat) (f : Launch → Launch) : (modLaunch s id f).mem = s.mem := rfl
@[simp] theorem modLaunch_pois (s : State) (id : Nat) (f : Launch → Launch) : (modLaunch s id f).pois = s.pois := rfl
@[simp] theorem modLaunch_out (s : State) (id : Nat) (f : Launch → Launch) : (modLaunch s id f).out = s.out := rfl

/-! `modCore` changes the field `cores`. -/

@[simp] theorem modCore_now (s : State) (id : Nat) (f : Core → Core) : (modCore s id f).now = s.now := rfl
@[simp] theorem modCore_agenda (s : State) (id : Nat) (f : Core → Core) : (modCore s id f).agenda = s.agenda := rfl
@[simp] theorem modCore_ev (s : State) (id : Nat) (f : Core → Core) : (modCore s id f).ev = s.ev := rfl
@[simp] theorem modCore_sel (s : State) (id : Nat) (f : Core → Core) : (modCore s id f).sel = s.sel := rfl
@[simp] theorem modCore_turn (s : State) (id : Nat) (f : Core → Core) : (modCore s id f).turn = s.turn := rfl
@[simp] theorem modCore_free (s : State) (id : Nat) (f : Core → Core) : (modCore s id f).free = s.free := rfl
@[simp] theorem modCore_nextId (s : State) (id : Nat) (f : Core → Core) : (modCore s id f).nextId = s.nextId := rfl
@[simp] theorem modCore_dev (s : State) (id : Nat) (f : Core → Core) : (modCore s id f).dev = s.dev := rfl
@[simp] theorem modCore_slots (s : State) (id : Nat) (f : Core → Core) : (modCore s id f).slots = s.slots := rfl
@[simp] theorem modCore_parts (s : State) (id : Nat) (f : Core → Core) : (modCore s id f).parts = s.parts := rfl
@[simp] theorem modCore_chains (s : State) (id : Nat) (f : Core → Core) : (modCore s id f).chains = s.chains := rfl
@[simp] theorem modCore_rrChain (s : State) (id : Nat) (f : Core → Core) : (modCore s id f).rrChain = s.rrChain := rfl
@[simp] theorem modCore_feChain (s : State) (id : Nat) (f : Core → Core) : (modCore s id f).feChain = s.feChain := rfl
@[simp] theorem modCore_plume (s : State) (id : Nat) (f : Core → Core) : (modCore s id f).plume = s.plume := rfl
@[simp] theorem modCore_mons (s : State) (id : Nat) (f : Core → Core) : (modCore s id f).mons = s.mons := rfl
@[simp] theorem modCore_ctxs (s : State) (id : Nat) (f : Core → Core) : (modCore s id f).ctxs = s.ctxs := rfl
@[simp] theorem modCore_launches (s : State) (id : Nat) (f : Core → Core) : (modCore s id f).launches = s.launches := rfl
@[simp] theorem modCore_teams (s : State) (id : Nat) (f : Core → Core) : (modCore s id f).teams = s.teams := rfl
@[simp] theorem modCore_groups (s : State) (id : Nat) (f : Core → Core) : (modCore s id f).groups = s.groups := rfl
@[simp] theorem modCore_quads (s : State) (id : Nat) (f : Core → Core) : (modCore s id f).quads = s.quads := rfl
@[simp] theorem modCore_joints (s : State) (id : Nat) (f : Core → Core) : (modCore s id f).joints = s.joints := rfl
@[simp] theorem modCore_ops (s : State) (id : Nat) (f : Core → Core) : (modCore s id f).ops = s.ops := rfl
@[simp] theorem modCore_rems (s : State) (id : Nat) (f : Core → Core) : (modCore s id f).rems = s.rems := rfl
@[simp] theorem modCore_treqs (s : State) (id : Nat) (f : Core → Core) : (modCore s id f).treqs = s.treqs := rfl
@[simp] theorem modCore_colls (s : State) (id : Nat) (f : Core → Core) : (modCore s id f).colls = s.colls := rfl
@[simp] theorem modCore_cmsgs (s : State) (id : Nat) (f : Core → Core) : (modCore s id f).cmsgs = s.cmsgs := rfl
@[simp] theorem modCore_comms (s : State) (id : Nat) (f : Core → Core) : (modCore s id f).comms = s.comms := rfl
@[simp] theorem modCore_tabs (s : State) (id : Nat) (f : Core → Core) : (modCore s id f).tabs = s.tabs := rfl
@[simp] theorem modCore_tlb (s : State) (id : Nat) (f : Core → Core) : (modCore s id f).tlb = s.tlb := rfl
@[simp] theorem modCore_ilines (s : State) (id : Nat) (f : Core → Core) : (modCore s id f).ilines = s.ilines := rfl
@[simp] theorem modCore_l1 (s : State) (id : Nat) (f : Core → Core) : (modCore s id f).l1 = s.l1 := rfl
@[simp] theorem modCore_ctlb (s : State) (id : Nat) (f : Core → Core) : (modCore s id f).ctlb = s.ctlb := rfl
@[simp] theorem modCore_basin (s : State) (id : Nat) (f : Core → Core) : (modCore s id f).basin = s.basin := rfl
@[simp] theorem modCore_pos (s : State) (id : Nat) (f : Core → Core) : (modCore s id f).pos = s.pos := rfl
@[simp] theorem modCore_waits (s : State) (id : Nat) (f : Core → Core) : (modCore s id f).waits = s.waits := rfl
@[simp] theorem modCore_invs (s : State) (id : Nat) (f : Core → Core) : (modCore s id f).invs = s.invs := rfl
@[simp] theorem modCore_rid (s : State) (id : Nat) (f : Core → Core) : (modCore s id f).rid = s.rid := rfl
@[simp] theorem modCore_mem (s : State) (id : Nat) (f : Core → Core) : (modCore s id f).mem = s.mem := rfl
@[simp] theorem modCore_pois (s : State) (id : Nat) (f : Core → Core) : (modCore s id f).pois = s.pois := rfl
@[simp] theorem modCore_out (s : State) (id : Nat) (f : Core → Core) : (modCore s id f).out = s.out := rfl

/-! `modPart` changes the field `parts`. -/

@[simp] theorem modPart_now (s : State) (id : Nat) (f : Part → Part) : (modPart s id f).now = s.now := rfl
@[simp] theorem modPart_agenda (s : State) (id : Nat) (f : Part → Part) : (modPart s id f).agenda = s.agenda := rfl
@[simp] theorem modPart_ev (s : State) (id : Nat) (f : Part → Part) : (modPart s id f).ev = s.ev := rfl
@[simp] theorem modPart_sel (s : State) (id : Nat) (f : Part → Part) : (modPart s id f).sel = s.sel := rfl
@[simp] theorem modPart_turn (s : State) (id : Nat) (f : Part → Part) : (modPart s id f).turn = s.turn := rfl
@[simp] theorem modPart_free (s : State) (id : Nat) (f : Part → Part) : (modPart s id f).free = s.free := rfl
@[simp] theorem modPart_nextId (s : State) (id : Nat) (f : Part → Part) : (modPart s id f).nextId = s.nextId := rfl
@[simp] theorem modPart_dev (s : State) (id : Nat) (f : Part → Part) : (modPart s id f).dev = s.dev := rfl
@[simp] theorem modPart_slots (s : State) (id : Nat) (f : Part → Part) : (modPart s id f).slots = s.slots := rfl
@[simp] theorem modPart_chains (s : State) (id : Nat) (f : Part → Part) : (modPart s id f).chains = s.chains := rfl
@[simp] theorem modPart_rrChain (s : State) (id : Nat) (f : Part → Part) : (modPart s id f).rrChain = s.rrChain := rfl
@[simp] theorem modPart_feChain (s : State) (id : Nat) (f : Part → Part) : (modPart s id f).feChain = s.feChain := rfl
@[simp] theorem modPart_cores (s : State) (id : Nat) (f : Part → Part) : (modPart s id f).cores = s.cores := rfl
@[simp] theorem modPart_plume (s : State) (id : Nat) (f : Part → Part) : (modPart s id f).plume = s.plume := rfl
@[simp] theorem modPart_mons (s : State) (id : Nat) (f : Part → Part) : (modPart s id f).mons = s.mons := rfl
@[simp] theorem modPart_ctxs (s : State) (id : Nat) (f : Part → Part) : (modPart s id f).ctxs = s.ctxs := rfl
@[simp] theorem modPart_launches (s : State) (id : Nat) (f : Part → Part) : (modPart s id f).launches = s.launches := rfl
@[simp] theorem modPart_teams (s : State) (id : Nat) (f : Part → Part) : (modPart s id f).teams = s.teams := rfl
@[simp] theorem modPart_groups (s : State) (id : Nat) (f : Part → Part) : (modPart s id f).groups = s.groups := rfl
@[simp] theorem modPart_quads (s : State) (id : Nat) (f : Part → Part) : (modPart s id f).quads = s.quads := rfl
@[simp] theorem modPart_joints (s : State) (id : Nat) (f : Part → Part) : (modPart s id f).joints = s.joints := rfl
@[simp] theorem modPart_ops (s : State) (id : Nat) (f : Part → Part) : (modPart s id f).ops = s.ops := rfl
@[simp] theorem modPart_rems (s : State) (id : Nat) (f : Part → Part) : (modPart s id f).rems = s.rems := rfl
@[simp] theorem modPart_treqs (s : State) (id : Nat) (f : Part → Part) : (modPart s id f).treqs = s.treqs := rfl
@[simp] theorem modPart_colls (s : State) (id : Nat) (f : Part → Part) : (modPart s id f).colls = s.colls := rfl
@[simp] theorem modPart_cmsgs (s : State) (id : Nat) (f : Part → Part) : (modPart s id f).cmsgs = s.cmsgs := rfl
@[simp] theorem modPart_comms (s : State) (id : Nat) (f : Part → Part) : (modPart s id f).comms = s.comms := rfl
@[simp] theorem modPart_tabs (s : State) (id : Nat) (f : Part → Part) : (modPart s id f).tabs = s.tabs := rfl
@[simp] theorem modPart_tlb (s : State) (id : Nat) (f : Part → Part) : (modPart s id f).tlb = s.tlb := rfl
@[simp] theorem modPart_ilines (s : State) (id : Nat) (f : Part → Part) : (modPart s id f).ilines = s.ilines := rfl
@[simp] theorem modPart_l1 (s : State) (id : Nat) (f : Part → Part) : (modPart s id f).l1 = s.l1 := rfl
@[simp] theorem modPart_ctlb (s : State) (id : Nat) (f : Part → Part) : (modPart s id f).ctlb = s.ctlb := rfl
@[simp] theorem modPart_basin (s : State) (id : Nat) (f : Part → Part) : (modPart s id f).basin = s.basin := rfl
@[simp] theorem modPart_pos (s : State) (id : Nat) (f : Part → Part) : (modPart s id f).pos = s.pos := rfl
@[simp] theorem modPart_waits (s : State) (id : Nat) (f : Part → Part) : (modPart s id f).waits = s.waits := rfl
@[simp] theorem modPart_invs (s : State) (id : Nat) (f : Part → Part) : (modPart s id f).invs = s.invs := rfl
@[simp] theorem modPart_rid (s : State) (id : Nat) (f : Part → Part) : (modPart s id f).rid = s.rid := rfl
@[simp] theorem modPart_mem (s : State) (id : Nat) (f : Part → Part) : (modPart s id f).mem = s.mem := rfl
@[simp] theorem modPart_pois (s : State) (id : Nat) (f : Part → Part) : (modPart s id f).pois = s.pois := rfl
@[simp] theorem modPart_out (s : State) (id : Nat) (f : Part → Part) : (modPart s id f).out = s.out := rfl

/-! `modChain` changes the field `chains`. -/

@[simp] theorem modChain_now (s : State) (id : Nat) (f : Chain → Chain) : (modChain s id f).now = s.now := rfl
@[simp] theorem modChain_agenda (s : State) (id : Nat) (f : Chain → Chain) : (modChain s id f).agenda = s.agenda := rfl
@[simp] theorem modChain_ev (s : State) (id : Nat) (f : Chain → Chain) : (modChain s id f).ev = s.ev := rfl
@[simp] theorem modChain_sel (s : State) (id : Nat) (f : Chain → Chain) : (modChain s id f).sel = s.sel := rfl
@[simp] theorem modChain_turn (s : State) (id : Nat) (f : Chain → Chain) : (modChain s id f).turn = s.turn := rfl
@[simp] theorem modChain_free (s : State) (id : Nat) (f : Chain → Chain) : (modChain s id f).free = s.free := rfl
@[simp] theorem modChain_nextId (s : State) (id : Nat) (f : Chain → Chain) : (modChain s id f).nextId = s.nextId := rfl
@[simp] theorem modChain_dev (s : State) (id : Nat) (f : Chain → Chain) : (modChain s id f).dev = s.dev := rfl
@[simp] theorem modChain_slots (s : State) (id : Nat) (f : Chain → Chain) : (modChain s id f).slots = s.slots := rfl
@[simp] theorem modChain_parts (s : State) (id : Nat) (f : Chain → Chain) : (modChain s id f).parts = s.parts := rfl
@[simp] theorem modChain_rrChain (s : State) (id : Nat) (f : Chain → Chain) : (modChain s id f).rrChain = s.rrChain := rfl
@[simp] theorem modChain_feChain (s : State) (id : Nat) (f : Chain → Chain) : (modChain s id f).feChain = s.feChain := rfl
@[simp] theorem modChain_cores (s : State) (id : Nat) (f : Chain → Chain) : (modChain s id f).cores = s.cores := rfl
@[simp] theorem modChain_plume (s : State) (id : Nat) (f : Chain → Chain) : (modChain s id f).plume = s.plume := rfl
@[simp] theorem modChain_mons (s : State) (id : Nat) (f : Chain → Chain) : (modChain s id f).mons = s.mons := rfl
@[simp] theorem modChain_ctxs (s : State) (id : Nat) (f : Chain → Chain) : (modChain s id f).ctxs = s.ctxs := rfl
@[simp] theorem modChain_launches (s : State) (id : Nat) (f : Chain → Chain) : (modChain s id f).launches = s.launches := rfl
@[simp] theorem modChain_teams (s : State) (id : Nat) (f : Chain → Chain) : (modChain s id f).teams = s.teams := rfl
@[simp] theorem modChain_groups (s : State) (id : Nat) (f : Chain → Chain) : (modChain s id f).groups = s.groups := rfl
@[simp] theorem modChain_quads (s : State) (id : Nat) (f : Chain → Chain) : (modChain s id f).quads = s.quads := rfl
@[simp] theorem modChain_joints (s : State) (id : Nat) (f : Chain → Chain) : (modChain s id f).joints = s.joints := rfl
@[simp] theorem modChain_ops (s : State) (id : Nat) (f : Chain → Chain) : (modChain s id f).ops = s.ops := rfl
@[simp] theorem modChain_rems (s : State) (id : Nat) (f : Chain → Chain) : (modChain s id f).rems = s.rems := rfl
@[simp] theorem modChain_treqs (s : State) (id : Nat) (f : Chain → Chain) : (modChain s id f).treqs = s.treqs := rfl
@[simp] theorem modChain_colls (s : State) (id : Nat) (f : Chain → Chain) : (modChain s id f).colls = s.colls := rfl
@[simp] theorem modChain_cmsgs (s : State) (id : Nat) (f : Chain → Chain) : (modChain s id f).cmsgs = s.cmsgs := rfl
@[simp] theorem modChain_comms (s : State) (id : Nat) (f : Chain → Chain) : (modChain s id f).comms = s.comms := rfl
@[simp] theorem modChain_tabs (s : State) (id : Nat) (f : Chain → Chain) : (modChain s id f).tabs = s.tabs := rfl
@[simp] theorem modChain_tlb (s : State) (id : Nat) (f : Chain → Chain) : (modChain s id f).tlb = s.tlb := rfl
@[simp] theorem modChain_ilines (s : State) (id : Nat) (f : Chain → Chain) : (modChain s id f).ilines = s.ilines := rfl
@[simp] theorem modChain_l1 (s : State) (id : Nat) (f : Chain → Chain) : (modChain s id f).l1 = s.l1 := rfl
@[simp] theorem modChain_ctlb (s : State) (id : Nat) (f : Chain → Chain) : (modChain s id f).ctlb = s.ctlb := rfl
@[simp] theorem modChain_basin (s : State) (id : Nat) (f : Chain → Chain) : (modChain s id f).basin = s.basin := rfl
@[simp] theorem modChain_pos (s : State) (id : Nat) (f : Chain → Chain) : (modChain s id f).pos = s.pos := rfl
@[simp] theorem modChain_waits (s : State) (id : Nat) (f : Chain → Chain) : (modChain s id f).waits = s.waits := rfl
@[simp] theorem modChain_invs (s : State) (id : Nat) (f : Chain → Chain) : (modChain s id f).invs = s.invs := rfl
@[simp] theorem modChain_rid (s : State) (id : Nat) (f : Chain → Chain) : (modChain s id f).rid = s.rid := rfl
@[simp] theorem modChain_mem (s : State) (id : Nat) (f : Chain → Chain) : (modChain s id f).mem = s.mem := rfl
@[simp] theorem modChain_pois (s : State) (id : Nat) (f : Chain → Chain) : (modChain s id f).pois = s.pois := rfl
@[simp] theorem modChain_out (s : State) (id : Nat) (f : Chain → Chain) : (modChain s id f).out = s.out := rfl

/-! `modQuad` changes the field `quads`. -/

@[simp] theorem modQuad_now (s : State) (id : Nat) (f : Quad → Quad) : (modQuad s id f).now = s.now := rfl
@[simp] theorem modQuad_agenda (s : State) (id : Nat) (f : Quad → Quad) : (modQuad s id f).agenda = s.agenda := rfl
@[simp] theorem modQuad_ev (s : State) (id : Nat) (f : Quad → Quad) : (modQuad s id f).ev = s.ev := rfl
@[simp] theorem modQuad_sel (s : State) (id : Nat) (f : Quad → Quad) : (modQuad s id f).sel = s.sel := rfl
@[simp] theorem modQuad_turn (s : State) (id : Nat) (f : Quad → Quad) : (modQuad s id f).turn = s.turn := rfl
@[simp] theorem modQuad_free (s : State) (id : Nat) (f : Quad → Quad) : (modQuad s id f).free = s.free := rfl
@[simp] theorem modQuad_nextId (s : State) (id : Nat) (f : Quad → Quad) : (modQuad s id f).nextId = s.nextId := rfl
@[simp] theorem modQuad_dev (s : State) (id : Nat) (f : Quad → Quad) : (modQuad s id f).dev = s.dev := rfl
@[simp] theorem modQuad_slots (s : State) (id : Nat) (f : Quad → Quad) : (modQuad s id f).slots = s.slots := rfl
@[simp] theorem modQuad_parts (s : State) (id : Nat) (f : Quad → Quad) : (modQuad s id f).parts = s.parts := rfl
@[simp] theorem modQuad_chains (s : State) (id : Nat) (f : Quad → Quad) : (modQuad s id f).chains = s.chains := rfl
@[simp] theorem modQuad_rrChain (s : State) (id : Nat) (f : Quad → Quad) : (modQuad s id f).rrChain = s.rrChain := rfl
@[simp] theorem modQuad_feChain (s : State) (id : Nat) (f : Quad → Quad) : (modQuad s id f).feChain = s.feChain := rfl
@[simp] theorem modQuad_cores (s : State) (id : Nat) (f : Quad → Quad) : (modQuad s id f).cores = s.cores := rfl
@[simp] theorem modQuad_plume (s : State) (id : Nat) (f : Quad → Quad) : (modQuad s id f).plume = s.plume := rfl
@[simp] theorem modQuad_mons (s : State) (id : Nat) (f : Quad → Quad) : (modQuad s id f).mons = s.mons := rfl
@[simp] theorem modQuad_ctxs (s : State) (id : Nat) (f : Quad → Quad) : (modQuad s id f).ctxs = s.ctxs := rfl
@[simp] theorem modQuad_launches (s : State) (id : Nat) (f : Quad → Quad) : (modQuad s id f).launches = s.launches := rfl
@[simp] theorem modQuad_teams (s : State) (id : Nat) (f : Quad → Quad) : (modQuad s id f).teams = s.teams := rfl
@[simp] theorem modQuad_groups (s : State) (id : Nat) (f : Quad → Quad) : (modQuad s id f).groups = s.groups := rfl
@[simp] theorem modQuad_joints (s : State) (id : Nat) (f : Quad → Quad) : (modQuad s id f).joints = s.joints := rfl
@[simp] theorem modQuad_ops (s : State) (id : Nat) (f : Quad → Quad) : (modQuad s id f).ops = s.ops := rfl
@[simp] theorem modQuad_rems (s : State) (id : Nat) (f : Quad → Quad) : (modQuad s id f).rems = s.rems := rfl
@[simp] theorem modQuad_treqs (s : State) (id : Nat) (f : Quad → Quad) : (modQuad s id f).treqs = s.treqs := rfl
@[simp] theorem modQuad_colls (s : State) (id : Nat) (f : Quad → Quad) : (modQuad s id f).colls = s.colls := rfl
@[simp] theorem modQuad_cmsgs (s : State) (id : Nat) (f : Quad → Quad) : (modQuad s id f).cmsgs = s.cmsgs := rfl
@[simp] theorem modQuad_comms (s : State) (id : Nat) (f : Quad → Quad) : (modQuad s id f).comms = s.comms := rfl
@[simp] theorem modQuad_tabs (s : State) (id : Nat) (f : Quad → Quad) : (modQuad s id f).tabs = s.tabs := rfl
@[simp] theorem modQuad_tlb (s : State) (id : Nat) (f : Quad → Quad) : (modQuad s id f).tlb = s.tlb := rfl
@[simp] theorem modQuad_ilines (s : State) (id : Nat) (f : Quad → Quad) : (modQuad s id f).ilines = s.ilines := rfl
@[simp] theorem modQuad_l1 (s : State) (id : Nat) (f : Quad → Quad) : (modQuad s id f).l1 = s.l1 := rfl
@[simp] theorem modQuad_ctlb (s : State) (id : Nat) (f : Quad → Quad) : (modQuad s id f).ctlb = s.ctlb := rfl
@[simp] theorem modQuad_basin (s : State) (id : Nat) (f : Quad → Quad) : (modQuad s id f).basin = s.basin := rfl
@[simp] theorem modQuad_pos (s : State) (id : Nat) (f : Quad → Quad) : (modQuad s id f).pos = s.pos := rfl
@[simp] theorem modQuad_waits (s : State) (id : Nat) (f : Quad → Quad) : (modQuad s id f).waits = s.waits := rfl
@[simp] theorem modQuad_invs (s : State) (id : Nat) (f : Quad → Quad) : (modQuad s id f).invs = s.invs := rfl
@[simp] theorem modQuad_rid (s : State) (id : Nat) (f : Quad → Quad) : (modQuad s id f).rid = s.rid := rfl
@[simp] theorem modQuad_mem (s : State) (id : Nat) (f : Quad → Quad) : (modQuad s id f).mem = s.mem := rfl
@[simp] theorem modQuad_pois (s : State) (id : Nat) (f : Quad → Quad) : (modQuad s id f).pois = s.pois := rfl
@[simp] theorem modQuad_out (s : State) (id : Nat) (f : Quad → Quad) : (modQuad s id f).out = s.out := rfl

/-! `modDev` changes the field `dev`. -/

@[simp] theorem modDev_now (s : State) (f : Dev → Dev) : (modDev s f).now = s.now := rfl
@[simp] theorem modDev_agenda (s : State) (f : Dev → Dev) : (modDev s f).agenda = s.agenda := rfl
@[simp] theorem modDev_ev (s : State) (f : Dev → Dev) : (modDev s f).ev = s.ev := rfl
@[simp] theorem modDev_sel (s : State) (f : Dev → Dev) : (modDev s f).sel = s.sel := rfl
@[simp] theorem modDev_turn (s : State) (f : Dev → Dev) : (modDev s f).turn = s.turn := rfl
@[simp] theorem modDev_free (s : State) (f : Dev → Dev) : (modDev s f).free = s.free := rfl
@[simp] theorem modDev_nextId (s : State) (f : Dev → Dev) : (modDev s f).nextId = s.nextId := rfl
@[simp] theorem modDev_slots (s : State) (f : Dev → Dev) : (modDev s f).slots = s.slots := rfl
@[simp] theorem modDev_parts (s : State) (f : Dev → Dev) : (modDev s f).parts = s.parts := rfl
@[simp] theorem modDev_chains (s : State) (f : Dev → Dev) : (modDev s f).chains = s.chains := rfl
@[simp] theorem modDev_rrChain (s : State) (f : Dev → Dev) : (modDev s f).rrChain = s.rrChain := rfl
@[simp] theorem modDev_feChain (s : State) (f : Dev → Dev) : (modDev s f).feChain = s.feChain := rfl
@[simp] theorem modDev_cores (s : State) (f : Dev → Dev) : (modDev s f).cores = s.cores := rfl
@[simp] theorem modDev_plume (s : State) (f : Dev → Dev) : (modDev s f).plume = s.plume := rfl
@[simp] theorem modDev_mons (s : State) (f : Dev → Dev) : (modDev s f).mons = s.mons := rfl
@[simp] theorem modDev_ctxs (s : State) (f : Dev → Dev) : (modDev s f).ctxs = s.ctxs := rfl
@[simp] theorem modDev_launches (s : State) (f : Dev → Dev) : (modDev s f).launches = s.launches := rfl
@[simp] theorem modDev_teams (s : State) (f : Dev → Dev) : (modDev s f).teams = s.teams := rfl
@[simp] theorem modDev_groups (s : State) (f : Dev → Dev) : (modDev s f).groups = s.groups := rfl
@[simp] theorem modDev_quads (s : State) (f : Dev → Dev) : (modDev s f).quads = s.quads := rfl
@[simp] theorem modDev_joints (s : State) (f : Dev → Dev) : (modDev s f).joints = s.joints := rfl
@[simp] theorem modDev_ops (s : State) (f : Dev → Dev) : (modDev s f).ops = s.ops := rfl
@[simp] theorem modDev_rems (s : State) (f : Dev → Dev) : (modDev s f).rems = s.rems := rfl
@[simp] theorem modDev_treqs (s : State) (f : Dev → Dev) : (modDev s f).treqs = s.treqs := rfl
@[simp] theorem modDev_colls (s : State) (f : Dev → Dev) : (modDev s f).colls = s.colls := rfl
@[simp] theorem modDev_cmsgs (s : State) (f : Dev → Dev) : (modDev s f).cmsgs = s.cmsgs := rfl
@[simp] theorem modDev_comms (s : State) (f : Dev → Dev) : (modDev s f).comms = s.comms := rfl
@[simp] theorem modDev_tabs (s : State) (f : Dev → Dev) : (modDev s f).tabs = s.tabs := rfl
@[simp] theorem modDev_tlb (s : State) (f : Dev → Dev) : (modDev s f).tlb = s.tlb := rfl
@[simp] theorem modDev_ilines (s : State) (f : Dev → Dev) : (modDev s f).ilines = s.ilines := rfl
@[simp] theorem modDev_l1 (s : State) (f : Dev → Dev) : (modDev s f).l1 = s.l1 := rfl
@[simp] theorem modDev_ctlb (s : State) (f : Dev → Dev) : (modDev s f).ctlb = s.ctlb := rfl
@[simp] theorem modDev_basin (s : State) (f : Dev → Dev) : (modDev s f).basin = s.basin := rfl
@[simp] theorem modDev_pos (s : State) (f : Dev → Dev) : (modDev s f).pos = s.pos := rfl
@[simp] theorem modDev_waits (s : State) (f : Dev → Dev) : (modDev s f).waits = s.waits := rfl
@[simp] theorem modDev_invs (s : State) (f : Dev → Dev) : (modDev s f).invs = s.invs := rfl
@[simp] theorem modDev_rid (s : State) (f : Dev → Dev) : (modDev s f).rid = s.rid := rfl
@[simp] theorem modDev_mem (s : State) (f : Dev → Dev) : (modDev s f).mem = s.mem := rfl
@[simp] theorem modDev_pois (s : State) (f : Dev → Dev) : (modDev s f).pois = s.pois := rfl
@[simp] theorem modDev_out (s : State) (f : Dev → Dev) : (modDev s f).out = s.out := rfl

/-! `emit` changes the field `out`. -/

@[simp] theorem emit_now (s : State) (o : Out) : (emit s o).now = s.now := rfl
@[simp] theorem emit_agenda (s : State) (o : Out) : (emit s o).agenda = s.agenda := rfl
@[simp] theorem emit_ev (s : State) (o : Out) : (emit s o).ev = s.ev := rfl
@[simp] theorem emit_sel (s : State) (o : Out) : (emit s o).sel = s.sel := rfl
@[simp] theorem emit_turn (s : State) (o : Out) : (emit s o).turn = s.turn := rfl
@[simp] theorem emit_free (s : State) (o : Out) : (emit s o).free = s.free := rfl
@[simp] theorem emit_nextId (s : State) (o : Out) : (emit s o).nextId = s.nextId := rfl
@[simp] theorem emit_dev (s : State) (o : Out) : (emit s o).dev = s.dev := rfl
@[simp] theorem emit_slots (s : State) (o : Out) : (emit s o).slots = s.slots := rfl
@[simp] theorem emit_parts (s : State) (o : Out) : (emit s o).parts = s.parts := rfl
@[simp] theorem emit_chains (s : State) (o : Out) : (emit s o).chains = s.chains := rfl
@[simp] theorem emit_rrChain (s : State) (o : Out) : (emit s o).rrChain = s.rrChain := rfl
@[simp] theorem emit_feChain (s : State) (o : Out) : (emit s o).feChain = s.feChain := rfl
@[simp] theorem emit_cores (s : State) (o : Out) : (emit s o).cores = s.cores := rfl
@[simp] theorem emit_plume (s : State) (o : Out) : (emit s o).plume = s.plume := rfl
@[simp] theorem emit_mons (s : State) (o : Out) : (emit s o).mons = s.mons := rfl
@[simp] theorem emit_ctxs (s : State) (o : Out) : (emit s o).ctxs = s.ctxs := rfl
@[simp] theorem emit_launches (s : State) (o : Out) : (emit s o).launches = s.launches := rfl
@[simp] theorem emit_teams (s : State) (o : Out) : (emit s o).teams = s.teams := rfl
@[simp] theorem emit_groups (s : State) (o : Out) : (emit s o).groups = s.groups := rfl
@[simp] theorem emit_quads (s : State) (o : Out) : (emit s o).quads = s.quads := rfl
@[simp] theorem emit_joints (s : State) (o : Out) : (emit s o).joints = s.joints := rfl
@[simp] theorem emit_ops (s : State) (o : Out) : (emit s o).ops = s.ops := rfl
@[simp] theorem emit_rems (s : State) (o : Out) : (emit s o).rems = s.rems := rfl
@[simp] theorem emit_treqs (s : State) (o : Out) : (emit s o).treqs = s.treqs := rfl
@[simp] theorem emit_colls (s : State) (o : Out) : (emit s o).colls = s.colls := rfl
@[simp] theorem emit_cmsgs (s : State) (o : Out) : (emit s o).cmsgs = s.cmsgs := rfl
@[simp] theorem emit_comms (s : State) (o : Out) : (emit s o).comms = s.comms := rfl
@[simp] theorem emit_tabs (s : State) (o : Out) : (emit s o).tabs = s.tabs := rfl
@[simp] theorem emit_tlb (s : State) (o : Out) : (emit s o).tlb = s.tlb := rfl
@[simp] theorem emit_ilines (s : State) (o : Out) : (emit s o).ilines = s.ilines := rfl
@[simp] theorem emit_l1 (s : State) (o : Out) : (emit s o).l1 = s.l1 := rfl
@[simp] theorem emit_ctlb (s : State) (o : Out) : (emit s o).ctlb = s.ctlb := rfl
@[simp] theorem emit_basin (s : State) (o : Out) : (emit s o).basin = s.basin := rfl
@[simp] theorem emit_pos (s : State) (o : Out) : (emit s o).pos = s.pos := rfl
@[simp] theorem emit_waits (s : State) (o : Out) : (emit s o).waits = s.waits := rfl
@[simp] theorem emit_invs (s : State) (o : Out) : (emit s o).invs = s.invs := rfl
@[simp] theorem emit_rid (s : State) (o : Out) : (emit s o).rid = s.rid := rfl
@[simp] theorem emit_mem (s : State) (o : Out) : (emit s o).mem = s.mem := rfl
@[simp] theorem emit_pois (s : State) (o : Out) : (emit s o).pois = s.pois := rfl

/-! `dropWaits` changes the field `waits`. -/

@[simp] theorem dropWaits_now (s : State) (w : Waiter) : (dropWaits s w).now = s.now := rfl
@[simp] theorem dropWaits_agenda (s : State) (w : Waiter) : (dropWaits s w).agenda = s.agenda := rfl
@[simp] theorem dropWaits_ev (s : State) (w : Waiter) : (dropWaits s w).ev = s.ev := rfl
@[simp] theorem dropWaits_sel (s : State) (w : Waiter) : (dropWaits s w).sel = s.sel := rfl
@[simp] theorem dropWaits_turn (s : State) (w : Waiter) : (dropWaits s w).turn = s.turn := rfl
@[simp] theorem dropWaits_free (s : State) (w : Waiter) : (dropWaits s w).free = s.free := rfl
@[simp] theorem dropWaits_nextId (s : State) (w : Waiter) : (dropWaits s w).nextId = s.nextId := rfl
@[simp] theorem dropWaits_dev (s : State) (w : Waiter) : (dropWaits s w).dev = s.dev := rfl
@[simp] theorem dropWaits_slots (s : State) (w : Waiter) : (dropWaits s w).slots = s.slots := rfl
@[simp] theorem dropWaits_parts (s : State) (w : Waiter) : (dropWaits s w).parts = s.parts := rfl
@[simp] theorem dropWaits_chains (s : State) (w : Waiter) : (dropWaits s w).chains = s.chains := rfl
@[simp] theorem dropWaits_rrChain (s : State) (w : Waiter) : (dropWaits s w).rrChain = s.rrChain := rfl
@[simp] theorem dropWaits_feChain (s : State) (w : Waiter) : (dropWaits s w).feChain = s.feChain := rfl
@[simp] theorem dropWaits_cores (s : State) (w : Waiter) : (dropWaits s w).cores = s.cores := rfl
@[simp] theorem dropWaits_plume (s : State) (w : Waiter) : (dropWaits s w).plume = s.plume := rfl
@[simp] theorem dropWaits_mons (s : State) (w : Waiter) : (dropWaits s w).mons = s.mons := rfl
@[simp] theorem dropWaits_ctxs (s : State) (w : Waiter) : (dropWaits s w).ctxs = s.ctxs := rfl
@[simp] theorem dropWaits_launches (s : State) (w : Waiter) : (dropWaits s w).launches = s.launches := rfl
@[simp] theorem dropWaits_teams (s : State) (w : Waiter) : (dropWaits s w).teams = s.teams := rfl
@[simp] theorem dropWaits_groups (s : State) (w : Waiter) : (dropWaits s w).groups = s.groups := rfl
@[simp] theorem dropWaits_quads (s : State) (w : Waiter) : (dropWaits s w).quads = s.quads := rfl
@[simp] theorem dropWaits_joints (s : State) (w : Waiter) : (dropWaits s w).joints = s.joints := rfl
@[simp] theorem dropWaits_ops (s : State) (w : Waiter) : (dropWaits s w).ops = s.ops := rfl
@[simp] theorem dropWaits_rems (s : State) (w : Waiter) : (dropWaits s w).rems = s.rems := rfl
@[simp] theorem dropWaits_treqs (s : State) (w : Waiter) : (dropWaits s w).treqs = s.treqs := rfl
@[simp] theorem dropWaits_colls (s : State) (w : Waiter) : (dropWaits s w).colls = s.colls := rfl
@[simp] theorem dropWaits_cmsgs (s : State) (w : Waiter) : (dropWaits s w).cmsgs = s.cmsgs := rfl
@[simp] theorem dropWaits_comms (s : State) (w : Waiter) : (dropWaits s w).comms = s.comms := rfl
@[simp] theorem dropWaits_tabs (s : State) (w : Waiter) : (dropWaits s w).tabs = s.tabs := rfl
@[simp] theorem dropWaits_tlb (s : State) (w : Waiter) : (dropWaits s w).tlb = s.tlb := rfl
@[simp] theorem dropWaits_ilines (s : State) (w : Waiter) : (dropWaits s w).ilines = s.ilines := rfl
@[simp] theorem dropWaits_l1 (s : State) (w : Waiter) : (dropWaits s w).l1 = s.l1 := rfl
@[simp] theorem dropWaits_ctlb (s : State) (w : Waiter) : (dropWaits s w).ctlb = s.ctlb := rfl
@[simp] theorem dropWaits_basin (s : State) (w : Waiter) : (dropWaits s w).basin = s.basin := rfl
@[simp] theorem dropWaits_pos (s : State) (w : Waiter) : (dropWaits s w).pos = s.pos := rfl
@[simp] theorem dropWaits_invs (s : State) (w : Waiter) : (dropWaits s w).invs = s.invs := rfl
@[simp] theorem dropWaits_rid (s : State) (w : Waiter) : (dropWaits s w).rid = s.rid := rfl
@[simp] theorem dropWaits_mem (s : State) (w : Waiter) : (dropWaits s w).mem = s.mem := rfl
@[simp] theorem dropWaits_pois (s : State) (w : Waiter) : (dropWaits s w).pois = s.pois := rfl
@[simp] theorem dropWaits_out (s : State) (w : Waiter) : (dropWaits s w).out = s.out := rfl

/-! What a part reads as after an update. -/

theorem group?_setGroup (s : State) (id j : Nat) (g : Group) : group? (setGroup s id g) j = if j = id then some g else group? s j :=
  mget?_mput _ _ _ _
theorem group?_modGroup (s : State) (id j : Nat) (f : Group → Group) :
    group? (modGroup s id f) j = if j = id then (group? s j).map f else group? s j := mget?_mmod _ _ _ _
theorem team?_modTeam (s : State) (id j : Nat) (f : Team → Team) :
    team? (modTeam s id f) j = if j = id then (team? s j).map f else team? s j := mget?_mmod _ _ _ _
theorem ctx?_modCtx (s : State) (id j : Nat) (f : Ctx → Ctx) :
    ctx? (modCtx s id f) j = if j = id then (ctx? s j).map f else ctx? s j := mget?_mmod _ _ _ _
theorem launch?_modLaunch (s : State) (id j : Nat) (f : Launch → Launch) :
    launch? (modLaunch s id f) j = if j = id then (launch? s j).map f else launch? s j := mget?_mmod _ _ _ _
theorem coreAt_modCore (s : State) (id j : Nat) (f : Core → Core) :
    coreAt (modCore s id f) j = if j = id then f (coreAt s id) else coreAt s j := mget_msetD _ _ _ _ _
theorem part_modPart (s : State) (id j : Nat) (f : Part → Part) :
    part (modPart s id f) j = if j = id then f (part s id) else part s j := mget_msetD _ _ _ _ _
theorem chain_modChain (s : State) (id j : Nat) (f : Chain → Chain) :
    chain (modChain s id f) j = if j = id then f (chain s id) else chain s j := mget_msetD _ _ _ _ _
theorem quad_modQuad (s : State) (id j : Nat) (f : Quad → Quad) :
    quad (modQuad s id f) j = if j = id then f (quad s id) else quad s j := mget_msetD _ _ _ _ _

/-! Memory (R13): its canonical form, and reads after writes. -/

theorem memWf_writeByte {m : List Host.Cell} (a : Nat) (b : Byte) (h : Memory.wf m = true) : Memory.wf (writeByte m a b) = true := mwf_msetD a b h

theorem memWf_writeCells {m : List Host.Cell} (a : Nat) (bs : List Nat) (h : Memory.wf m = true) : Memory.wf (writeCells m a bs) = true := by
  induction bs generalizing m a with
  | nil => exact h
  | cons b r ih => exact ih (a + 1) (memWf_writeByte a _ h)

/-- Every operation that writes memory keeps the canonical form. -/
theorem memWf_writeBytes {s : State} (a : Nat) (bs : List Nat) (h : Memory.wf s.mem = true) : Memory.wf (writeBytes s a bs).mem = true := memWf_writeCells a bs h
theorem memWf_writePoison {s : State} (a : Nat) (bs : List Nat) (h : Memory.wf s.mem = true) : Memory.wf (writePoison s a bs).mem = true := memWf_writeCells a bs h

/-- A byte after a write of one byte. -/
theorem read_writeByte (m : List Host.Cell) (a x : Nat) (b : Byte) : mget (writeByte m a b) 0 x = if x = a then b else mget m 0 x :=
  mget_msetD _ _ _ _ _

/-- A byte after a write of several: the written one inside the range, else the old one. -/
theorem read_writeCells (m : List Host.Cell) (a x : Nat) (bs : List Nat) :
    mget (writeCells m a bs) 0 x = if a ≤ x ∧ x < a + bs.length then BitVec.ofNat 8 (bs.getD (x - a) 0) else mget m 0 x := by
  induction bs generalizing m a with
  | nil => simp [writeCells, show ¬ (a ≤ x ∧ x < a) by omega]
  | cons b r ih =>
    rw [writeCells, ih, read_writeByte, List.length_cons]
    by_cases h : a + 1 ≤ x ∧ x < a + 1 + r.length
    · rw [if_pos h, if_pos (by omega)]
      obtain ⟨k, hk⟩ : ∃ k, x - a = k + 1 := ⟨x - a - 1, by omega⟩
      rw [hk, show x - (a + 1) = k by omega]; rfl
    · rw [if_neg h]
      by_cases hx : x = a
      · subst hx; rw [if_pos rfl, if_pos (by omega)]; simp
      · rw [if_neg hx, if_neg (by omega)]

theorem readByte_writeBytes (s : State) (a x : Nat) (bs : List Nat) :
    readByte (writeBytes s a bs) x = if a ≤ x ∧ x < a + bs.length then BitVec.ofNat 8 (bs.getD (x - a) 0) else readByte s x :=
  read_writeCells _ _ _ _

end Sys2Proof.Machine
end

