-- ==== Sys2Proof/Laws/Commit.lean ====
section
/-! SUPPORT. Laws/Commit.lean: what committing an instruction can do: registers are those that its meaning wrote, in every case; where
no weir stands on the core and no enabled exception is raised, nothing but the group, the leaf counters and the trace changes. -/

namespace Sys2Proof.Machine

/-! ### States whose groups keep their registers -/

/-- From `s` to `t` the groups keep their registers, and the teams and launches are the same. -/
structure Calm (s t : State) : Prop where
  groups : ∀ id g, group? s id = some g → ∃ h, group? t id = some h ∧ Moves g h
  teams : t.teams = s.teams
  launches : t.launches = s.launches

theorem Calm.refl (s : State) : Calm s s := ⟨fun _ g h => ⟨g, h, .refl g⟩, rfl, rfl⟩
theorem Calm.trans {a b c : State} (h : Calm a b) (h' : Calm b c) : Calm a c :=
  ⟨fun id g e => let ⟨x, ex, mx⟩ := h.groups id g e; let ⟨y, ey, my⟩ := h'.groups id x ex; ⟨y, ey, mx.trans my⟩,
    h'.teams.trans h.teams, h'.launches.trans h.launches⟩

/-- Changes elsewhere in the state. -/
theorem Calm.of_eq {s t : State} (a : t.groups = s.groups) (b : t.teams = s.teams) (c : t.launches = s.launches) : Calm s t :=
  ⟨fun id g h => ⟨g, by simpa only [group?, a] using h, .refl g⟩, b, c⟩

theorem Calm.setGroup {s : State} {id : Nat} {g h : Group} (hg : group? s id = some g) (m : Moves g h) : Calm s (setGroup s id h) := by
  refine ⟨fun j x hx => ?_, rfl, rfl⟩
  rw [group?_setGroup]
  by_cases e : j = id
  · subst e; rw [hg] at hx; cases hx; exact ⟨h, by simp, m⟩
  · exact ⟨x, by simp [e, hx], .refl x⟩

theorem Calm.modGroup (s : State) (id : Nat) {f : Group → Group} (hf : ∀ g, Moves g (f g)) : Calm s (modGroup s id f) := by
  refine ⟨fun j x hx => ?_, rfl, rfl⟩
  rw [group?_modGroup]
  by_cases e : j = id
  · subst e; exact ⟨f x, by simp [hx], hf x⟩
  · exact ⟨x, by simp [e, hx], .refl x⟩

theorem Calm.mapGroups (s : State) {f : Nat → Group → Group} (hf : ∀ k g, Moves g (f k g)) : Calm s (mapGroups s f) := by
  refine ⟨fun j x hx => ⟨f j x, ?_, hf j x⟩, rfl, rfl⟩
  have := mget?_mmap s.groups f j
  simp only [group?, Machine.mapGroups] at *
  rw [this, hx]; rfl

theorem Calm.foldl {α : Type} {f : State → α → State} (hf : ∀ s x, Calm s (f s x)) (l : List α) (s : State) : Calm s (l.foldl f s) := by
  induction l generalizing s with
  | nil => exact .refl s
  | cons x r ih => exact (hf s x).trans (ih _)

theorem Calm.ite {c : Prop} [Decidable c] {a b s : State} (ha : Calm s a) (hb : Calm s b) : Calm s (if c then a else b) := by
  split <;> assumption

/-! ### Traps and halts -/

theorem Calm.raiseErr (s : State) (b : Nat) : Calm s (raiseErr s b) := by
  unfold Machine.raiseErr; dsimp only; (repeat' split) <;> exact .of_eq rfl rfl rfl

theorem Calm.raiseHalt (s : State) (cx : Nat) (h : Halt) : Calm s (raiseHalt s cx h) := by
  unfold Machine.raiseHalt
  split
  · exact .refl s
  · split
    · exact .refl s
    · refine Calm.trans (b := modCtx s cx _) (.of_eq rfl rfl rfl) (Calm.mapGroups _ fun k g => ?_)
      split
      · exact .haltLanes g
      · exact .refl g

theorem Calm.seen (s : State) (g : Group) : Calm s (seen s g) := .of_eq rfl rfl rfl

theorem Calm.haltGroup (s : State) (gid c : Nat) (pc : DWord) : Calm s (haltGroup s gid c pc) := by
  unfold Machine.haltGroup
  split
  · exact .refl s
  · dsimp only
    refine Calm.trans ?_ (.raiseHalt _ _ _)
    split
    · exact (Calm.raiseErr s 2).trans (.of_eq rfl rfl rfl)
    · exact .of_eq rfl rfl rfl

theorem Calm.logIllegal (s : State) (g : Group) (tr : TrapRec) : Calm s (logIllegal s g tr) := by
  unfold Machine.logIllegal
  split
  · exact .refl s
  · exact .of_eq rfl rfl rfl

theorem calm_askPasid (s : State) (w : Waiter) (c p va : Nat) (n : Need) (m : Word) : Calm s (askPasid s w c p va n m) := by
  unfold askPasid; dsimp only; split <;> exact .of_eq rfl rfl rfl

theorem calm_askPage (s : State) (w : Waiter) (c va : Nat) (n : Need) (m : Word) : Calm s (askPage s w c va n m) := by
  unfold askPage; split
  · exact .refl s
  · exact calm_askPasid _ _ _ _ _ _ _

theorem group?_of_groups {s t : State} (e : t.groups = s.groups) (id : Nat) : group? t id = group? s id := by simp only [group?, e]

theorem groups_askPage (s : State) (w : Waiter) (c va : Nat) (n : Need) (m : Word) : (askPage s w c va n m).groups = s.groups := by
  unfold askPage; split
  · rfl
  · unfold askPasid; dsimp only; split <;> rfl

/-- The groups, teams and launches are the same. -/
structure SameParts (s t : State) : Prop where
  groups : t.groups = s.groups
  teams : t.teams = s.teams
  launches : t.launches = s.launches

theorem SameParts.refl (s : State) : SameParts s s := ⟨rfl, rfl, rfl⟩
theorem SameParts.trans {a b c : State} (h : SameParts a b) (h' : SameParts b c) : SameParts a c :=
  ⟨h'.1.trans h.1, h'.2.trans h.2, h'.3.trans h.3⟩
theorem SameParts.calm {s t : State} (h : SameParts s t) : Calm s t := .of_eq h.1 h.2 h.3

theorem SameParts.memWrite (s : State) (k : Nat) (bs : List Nat) (p : Bool) : SameParts s (memWrite s k bs p) := by
  unfold Machine.memWrite; split <;> exact ⟨rfl, rfl, rfl⟩

theorem SameParts.l1Fill (s : State) (cr : Nat) (c : Ctx) (va k : Nat) (b : Bool) : SameParts s (l1Fill s cr c va k b) := by
  unfold Machine.l1Fill; split <;> exact ⟨rfl, rfl, rfl⟩

theorem SameParts.giveUp (s : State) (cr : Nat) (c : Ctx) (k : Nat) : SameParts s (giveUp s cr c k) := by
  unfold Machine.giveUp
  split
  · unfold evictLine writeBack1; dsimp only; (repeat' split) <;> exact ⟨rfl, rfl, rfl⟩
  · exact .refl s

/-- What a core writes changes the memory and its L1. -/
theorem SameParts.coreWrite1 (s : State) (cr : Nat) (c : Ctx) (va k : Nat) (bs : List Nat) (p : Bool) :
    SameParts s (coreWrite1 s cr c va k bs p) := by
  unfold Machine.coreWrite1
  split
  · unfold l1Write; split <;> exact ⟨rfl, rfl, rfl⟩
  · exact (SameParts.giveUp s cr c k).trans ((SameParts.l1Fill _ cr c va k false).trans
      (SameParts.trans (b := ownLine (Machine.l1Fill (Machine.giveUp s cr c k) cr c va k false) cr k) ⟨rfl, rfl, rfl⟩ (.memWrite _ _ _ _)))
  · exact (SameParts.giveUp s cr c k).trans (.memWrite _ _ _ _)

theorem SameParts.coreWriteN (cr : Nat) (c : Ctx) (p : Bool) (f : Nat) (s : State) (va k : Nat) (bs : List Nat) :
    SameParts s (coreWriteN cr c p f s va k bs) := by
  induction f generalizing s va k bs with
  | zero => exact .refl s
  | succ f ih =>
    unfold Machine.coreWriteN; dsimp only; split
    · exact .coreWrite1 _ _ _ _ _ _ _
    · exact (SameParts.coreWrite1 _ _ _ _ _ _ _).trans (ih _ _ _ _)

theorem SameParts.coreWrite (s : State) (cr : Nat) (c : Ctx) (va k : Nat) (bs : List Nat) (p : Bool) :
    SameParts s (coreWrite s cr c va k bs p) := .coreWriteN _ _ _ _ _ _ _ _

theorem SameParts.touchTlb (s : State) (cr tm p va : Nat) : SameParts s (touchTlb s cr tm p va) := by
  unfold Machine.touchTlb
  split
  · exact .refl s
  · split
    · exact ⟨rfl, rfl, rfl⟩
    · exact .refl s

/-- A group moves, after a change elsewhere. -/
theorem Calm.setAfter {s t : State} {gid : Nat} {g h : Group} (p : SameParts s t) (hg : group? s gid = some g) (m : Moves g h) :
    Calm s (Machine.setGroup t gid h) :=
  p.calm.trans (Calm.setGroup ((group?_of_groups p.1 gid).trans hg) m)

/-- Writing a frame leaves the groups alone. -/
theorem SameParts.writeFrame (s : State) (cr tm : Nat) (c : Ctx) (a k : Nat) (bs : List Nat) (w : Waiter) :
    SameParts s (dropWaits (Machine.coreWrite (Machine.touchTlb s cr tm c.pasid a) cr c a k bs false) w) :=
  (SameParts.touchTlb s cr tm c.pasid a).trans ((SameParts.coreWrite _ _ _ _ _ _ _).trans ⟨rfl, rfl, rfl⟩)


theorem Calm.tryFrame (s : State) (gid : Nat) : Calm s (tryFrame s gid) := by
  unfold Machine.tryFrame
  split
  · exact .refl s
  · next g hg =>
    split
    · dsimp only
      split
      · exact .haltGroup _ _ _ _
      · split
        · exact .setAfter (.writeFrame _ _ _ _ _ _ _ _) hg (.enterHandler g _ _)
        · exact .haltGroup _ _ _ _
        · refine (calm_askPage _ _ _ _ _ _).trans (Calm.setGroup (g := g) ?_ (.refl g))
          rw [group?_of_groups (groups_askPage _ _ _ _ _ _)]; exact hg
    · exact .refl s

theorem groups_logIllegal (s : State) (g : Group) (tr : TrapRec) : (logIllegal s g tr).groups = s.groups := by
  unfold logIllegal; split <;> rfl

theorem groups_logTrap (s : State) (g : Group) (tr : TrapRec) : (logTrap s g tr).groups = s.groups := by
  unfold logTrap; split
  · exact groups_logIllegal _ _ _
  · rfl

theorem Calm.logTrap (s : State) (g : Group) (tr : TrapRec) : Calm s (logTrap s g tr) := .ite (.logIllegal s g tr) (.refl s)

theorem Moves.withHeld (g : Group) (h : List TrapRec) : Moves g { g with held := h } := .of_eq rfl rfl rfl rfl
theorem Moves.withTrap (g : Group) (h : Option TrapPend) : Moves g { g with trap := h } := .of_eq rfl rfl rfl rfl

theorem Moves.holdTrap (g : Group) (tr : TrapRec) : Moves g (holdTrap g tr) := (Moves.laneMod g _ _).trans (.withHeld _ _)
theorem Moves.beginTrap (g : Group) (p : TrapPend) : Moves g (beginTrap g p) :=
  (Moves.laneMod g _ _).trans ((Moves.dropExt _ _).trans (.withTrap _ _))

theorem Calm.startTrap {s : State} {gid : Nat} {g : Group} (p : TrapPend) (hg : group? s gid = some g) :
    Calm s (startTrap s gid g p) := by
  have c : Calm s (Machine.setGroup (modCtx s g.ctx fun c => { c with frames := mput c.frames p.frame gid }) gid (Machine.beginTrap g p)) :=
    Calm.trans (b := modCtx s g.ctx _) (.of_eq rfl rfl rfl) (Calm.setGroup hg (.beginTrap g p))
  exact .ite c (c.trans (.tryFrame _ _))

/-- Taking a trap leaves every group's registers as they were (R418: the trapped lanes' registers are untouched). -/
theorem Calm.takeTrap (s : State) (gid : Nat) (l0 : AMap Lane) (tr : TrapRec) : Calm s (takeTrap s gid l0 tr) := by
  unfold Machine.takeTrap
  split
  · exact .refl s
  · next g hg =>
    split
    · next c ln _ _ =>
      dsimp only
      have hq : group? (Machine.seen (Machine.logTrap s g (normTrap g tr)) g) gid = some g :=
        (group?_of_groups (groups_logTrap s g (normTrap g tr)) _).trans hg
      refine Calm.ite (.refl s) (Calm.trans ((Calm.logTrap s g (normTrap g tr)).trans (.seen _ g)) ?_)
      refine Calm.ite (.haltGroup _ _ _ _) (Calm.ite (.haltGroup _ _ _ _) (Calm.ite (Calm.setGroup hq (.holdTrap g _)) ?_))
      split
      · exact .haltGroup _ _ _ _
      · exact .startTrap _ hq
    · exact .refl s

/-! ### Weirs -/

theorem groups_plumePut (s : State) (c sl r : Nat) : (plumePut s c sl r).groups = s.groups ∧ (plumePut s c sl r).teams = s.teams
    ∧ (plumePut s c sl r).launches = s.launches ∧ (plumePut s c sl r).mem = s.mem ∧ (plumePut s c sl r).pois = s.pois
    ∧ (plumePut s c sl r).ctxs = s.ctxs ∧ (plumePut s c sl r).cores = s.cores := by
  unfold plumePut; dsimp only; split <;> exact ⟨rfl, rfl, rfl, rfl, rfl, rfl, rfl⟩

theorem Calm.plumePut (s : State) (c sl r : Nat) : Calm s (plumePut s c sl r) :=
  .of_eq (groups_plumePut _ _ _ _).1 (groups_plumePut _ _ _ _).2.1 (groups_plumePut _ _ _ _).2.2.1

theorem Calm.modCore (s : State) (c : Nat) (f : Core → Core) : Calm s (modCore s c f) := .of_eq rfl rfl rfl

theorem Calm.markHits (s : State) (g : Group) (tm : Team) (pc : DWord) (ws : AMap Weir) (hs : List Hit) :
    Calm s (markHits s g tm pc ws hs) := by
  unfold Machine.markHits; split
  · exact .plumePut _ _ _ _
  · exact .refl s

theorem Calm.weirEval (s : State) (g : Group) (tm : Team) (m : Word) (pc : DWord) (o : Obs) (pre : Bool) (k : List Nat) :
    Calm s (weirEval s g tm m pc o pre k).1 := by
  unfold Machine.weirEval
  dsimp only
  split
  · exact .refl s
  · dsimp only
    refine Calm.trans ?_ ((Calm.modCore _ _ _).trans (.markHits _ _ _ _ _ _))
    exact .ite (.seen s g) (.refl s)

/-- Without weirs on the core nothing is evaluated. -/
theorem weirEval_none {s : State} {g : Group} {tm : Team} {m : Word} {pc : DWord} {o : Obs} {pre : Bool} {k : List Nat}
    (h : (coreAt s tm.core).weirs = []) : weirEval s g tm m pc o pre k = (s, []) := by
  unfold weirEval; simp [h]

theorem Calm.plumeHalt (s : State) (c : Nat) : Calm s (plumeHalt s c) := by
  unfold Machine.plumeHalt; dsimp only; split
  · exact .of_eq rfl rfl rfl
  · exact .refl s

theorem Moves.frozen (g : Group) (b : Bool) : Moves g { g with frozen := b } := .of_eq rfl rfl rfl rfl

theorem Calm.freezeSlice (s : State) (c sl cx : Nat) : Calm s (freezeSlice s c sl cx) := by
  unfold Machine.freezeSlice
  dsimp only
  refine (Calm.plumeHalt s c).trans (Calm.mapGroups _ fun k g => ?_)
  split
  · exact (Moves.stopGroup g).trans (.frozen _ _)
  · exact .refl g

theorem Moves.pendTrap (g : Group) (t : TrapRec) : Moves g (pendTrap g t) := .of_eq rfl rfl rfl rfl

theorem Calm.haltHits (s : State) (gid : Nat) (g : Group) (all : List Hit) : Calm s (haltHits s gid g all) :=
  .ite (.freezeSlice _ _ _ _) (.ite (.modGroup _ _ fun g => .stopGroup g)
    (.ite (.refl _) (.modGroup _ _ fun g => (Moves.laneMod g _ _).trans (.dropExt _ _))))

theorem Calm.pendIf (s : State) (gid : Nat) (tr : TrapRec) (m : Word) : Calm s (pendIf s gid tr m) :=
  .ite (.refl _) (.modGroup _ _ fun g => .pendTrap g _)

theorem Calm.trapIf (s : State) (gid : Nat) (l0 : AMap Lane) (tr : TrapRec) (m : Word) : Calm s (trapIf s gid l0 tr m) :=
  .ite (.refl _) (.takeTrap _ _ _ _)

/-- Traps and halts at commit leave every group's registers as they were. -/
theorem Calm.actOn (s : State) (gid : Nat) (l0 : AMap Lane) (tr : TrapRec) (cls : AMap Nat) (fp : Word) (hs pre : List Hit) :
    Calm s (actOn s gid l0 tr cls fp hs pre) := by
  unfold Machine.actOn
  split
  · exact .refl s
  · dsimp only
    split
    · exact (Calm.plumeHalt _ _).trans (.raiseHalt _ _ _)
    · exact (Calm.haltHits _ _ _ _).trans ((Calm.pendIf _ _ _ _).trans ((Calm.trapIf _ _ _ _ _).trans ((Calm.trapIf _ _ _ _ _).trans
        ((Calm.pendIf _ _ _ _).trans (.trapIf _ _ _ _ _)))))

/-! ### Charging an issue -/

theorem weirs_chargeLeaf (s : State) (c n j : Nat) : (coreAt (chargeLeaf s c n) j).weirs = (coreAt s j).weirs := by
  unfold chargeLeaf; rw [coreAt_modCore]; split
  · next h => subst h; rfl
  · rfl

/-- A state with other cores and another trace. -/
def withCores (s : State) (cs : AMap Core) (pl : AMap Plume) : State := { s with cores := cs, plume := pl }

theorem plumePut_eq (s : State) (c sl r : Nat) : ∃ pl, plumePut s c sl r = withCores s s.cores pl := by
  unfold plumePut; dsimp only
  split
  · exact ⟨_, rfl⟩
  · exact ⟨s.plume, rfl⟩

theorem plumeRec_eq (s : State) (c sl r : Nat) : ∃ pl, plumeRec s c sl r = withCores s s.cores pl := by
  unfold plumeRec; dsimp only
  split
  · exact ⟨s.plume, rfl⟩
  · exact plumePut_eq _ _ _ _

theorem stepRec_eq (s : State) (c sl r : Nat) : ∃ pl, stepRec s c sl r = withCores s s.cores pl := by
  unfold stepRec; dsimp only
  split
  · split
    · exact plumePut_eq _ _ _ _
    · exact ⟨s.plume, rfl⟩
  · exact plumePut_eq _ _ _ _

/-- Charging an issue changes the leaf counters and the trace only. -/
theorem chargeIssue_eq (s : State) (v : View) (j : Bool) (m : Option Nat) :
    ∃ cs pl, chargeIssue s v j m = withCores s cs pl ∧ ∀ c, (coreAt (withCores s cs pl) c).weirs = (coreAt s c).weirs := by
  unfold chargeIssue
  dsimp only
  split
  · split
    · exact ⟨s.cores, s.plume, rfl, fun _ => rfl⟩
    · obtain ⟨pl, h⟩ := stepRec_eq s v.tm.core v.g.slice
        (issueRec v (issueLeaf v.w0.toNat (v.wn.getD 0).toNat v.hdr.eclass) j m)
      exact ⟨_, pl, h, fun _ => rfl⟩
  · split
    · exact ⟨(chargeLeaf s v.tm.core _).cores, s.plume, rfl, weirs_chargeLeaf _ _ _⟩
    · obtain ⟨pl, h⟩ := plumeRec_eq (chargeLeaf s v.tm.core (issueLeaf v.w0.toNat (v.wn.getD 0).toNat v.hdr.eclass)) v.tm.core v.g.slice
        (issueRec v (issueLeaf v.w0.toNat (v.wn.getD 0).toNat v.hdr.eclass) j m)
      exact ⟨_, pl, h, weirs_chargeLeaf _ _ _⟩

theorem Calm.chargeIssue (s : State) (v : View) (j : Bool) (m : Option Nat) : Calm s (chargeIssue s v j m) := by
  obtain ⟨cs, pl, h, -⟩ := chargeIssue_eq s v j m
  rw [h]; exact .of_eq rfl rfl rfl

/-! ### Commit -/

/-- The group as the lanes of the entry leave it has the registers that the meaning wrote. -/
theorem Moves.committed (v : View) (e : Eff) (tr : Word) (now : Nat) : Moves (flagged e) (committed v e tr now) :=
  (Moves.moveLanes v { e with g := flagged e } tr).trans ((Moves.countSkips _ _ v).trans ((Moves.markWaited _ v).trans
    ((Moves.notePre _ v _).trans ((Moves.laneMod _ _ _).trans (.settle _)))))

theorem Calm.unchoose (s : State) : Calm s (unchoose s) := .of_eq rfl rfl rfl

theorem Calm.ownTraps (s : State) (v : View) (e : Eff) (hs : List Hit) : Calm s (ownTraps s v e hs) := by
  unfold Machine.ownTraps
  have c : Calm s (match e.trap with | some t => Machine.takeTrap s v.is.gid v.g.lanes t | none => s) := by
    split
    · exact .takeTrap _ _ _ _
    · exact .refl _
  exact .ite c (c.trans (.actOn _ _ _ _ _ _ _ _))

/-- An instruction of the group's own issue commits: its group has the registers that the meaning wrote, with the flags ORed into
FSTAT (R160), whatever weirs, traps and halts follow; the teams and launches are those of `s`. -/
theorem finish_regs (s : State) (v : View) (e : Eff) (own : v.is.step = none) :
    (∃ h, group? (finish s v e) v.is.gid = some h ∧ Moves (flagged e) h) ∧ (finish s v e).teams = s.teams
      ∧ (finish s v e).launches = s.launches := by
  have h1 : Calm s (commitWeirs (chargeIssue s v (e.jumps != []) e.mark) v e).1 := by
    refine (Calm.chargeIssue s v (e.jumps != []) e.mark).trans ?_
    unfold commitWeirs
    split
    · exact .weirEval _ _ _ _ _ _ _ _
    · exact .refl _
  simp only [finish, own, Option.isSome_none, Bool.false_eq_true, if_false]
  generalize commitWeirs (chargeIssue s v (e.jumps != []) e.mark) v e = r at *
  generalize hg2 : Machine.committed v e _ _ = g2
  have m2 : Moves (flagged e) g2 := hg2 ▸ Moves.committed v e _ _
  have c := Calm.ownTraps (Machine.unchoose (setGroup r.1 v.is.gid g2)) v e r.2
  have h2 : group? (Machine.unchoose (setGroup r.1 v.is.gid g2)) v.is.gid = some g2 :=
    (group?_setGroup _ _ _ _).trans (if_pos rfl)
  obtain ⟨h, eh, mh⟩ := c.groups _ _ h2
  exact ⟨⟨h, eh, m2.trans mh⟩, c.teams.trans h1.teams, c.launches.trans h1.launches⟩

/-- A state in which an instruction has changed its group, the leaf counters and the trace, and no issue is chosen. -/
def only (s : State) (gid : Nat) (h : Group) (cs : AMap Core) (pl : AMap Plume) : State := unchoose (setGroup (withCores s cs pl) gid h)

/-- Where no weir stands on the core, no enabled exception is raised and no lane traps, an instruction changes its group, the leaf
counters and the trace, and nothing else. -/
theorem finish_quiet (s : State) (v : View) (e : Eff) (own : v.is.step = none) (hw : NoWeirs s v) (ht : e.trap = none)
    (hp : e.preHits = []) (hf : raised v e = 0) :
    ∃ h cs pl, finish s v e = only s v.is.gid h cs pl ∧ Moves (flagged e) h := by
  obtain ⟨cs, pl, hc, hcw⟩ := chargeIssue_eq s v (e.jumps != []) e.mark
  have hr : commitWeirs (withCores s cs pl) v e = (withCores s cs pl, []) := by
    unfold commitWeirs
    rw [weirEval_none ((hcw _).trans hw), ite_self]
  simp only [finish, own, Option.isSome_none, Bool.false_eq_true, if_false, hc, hr]
  refine ⟨committed v e (trapMask [] e.preHits (raised v e)) s.now, cs, pl, ?_, Moves.committed v e _ _⟩
  unfold ownTraps
  rw [ht, hf, hp]
  rfl

end Sys2Proof.Machine
end

