-- ==== Sys2Proof/Laws/Dispatch.lean ====
section
/-! SUPPORT. Laws/Dispatch.lean: the meaning that each instruction dispatches to. -/

namespace Sys2Proof.Machine

@[simp] theorem exec_nop (s : State) : exec (.nop) s = execNop s := rfl
@[simp] theorem exec_bra (off : Nat) (s : State) : exec (.bra off) s = execBra off s := rfl
@[simp] theorem exec_brx (b : Src) (s : State) : exec (.brx b) s = execBrx b s := rfl
@[simp] theorem exec_call (d off : Nat) (s : State) : exec (.call d off) s = execCall d off s := rfl
@[simp] theorem exec_callx (d : Nat) (b : Src) (s : State) : exec (.callx d b) s = execCallx d b s := rfl
@[simp] theorem exec_ret (b : Src) (s : State) : exec (.ret b) s = execRet b s := rfl
@[simp] theorem exec_loop (lc len cnt : Nat) (x : Bool) (s : State) : exec (.loop lc len cnt x) s = execLoop lc len cnt x s := rfl
@[simp] theorem exec_join (d : Nat) (s : State) : exec (.join d) s = execJoin d s := rfl
@[simp] theorem exec_leave (d : Nat) (s : State) : exec (.leave d) s = execLeave d s := rfl
@[simp] theorem exec_waitk (d : Nat) (s : State) : exec (.waitk d) s = execWaitk d s := rfl
@[simp] theorem exec_exit (s : State) : exec (.exit) s = execExit s := rfl
@[simp] theorem exec_yield (s : State) : exec (.yield) s = execYield s := rfl
@[simp] theorem exec_sleep (d imm : Nat) (x : Bool) (s : State) : exec (.sleep d imm x) s = execSleep d imm x s := rfl
@[simp] theorem exec_bkpt (imm : Nat) (s : State) : exec (.bkpt imm) s = execBkpt imm s := rfl
@[simp] theorem exec_pcrel (d off : Nat) (s : State) : exec (.pcrel d off) s = execPcrel d off s := rfl
@[simp] theorem exec_sadd (p : S3) (s : State) : exec (.sadd p) s = execSadd p s := rfl
@[simp] theorem exec_ssub (p : S3) (s : State) : exec (.ssub p) s = execSsub p s := rfl
@[simp] theorem exec_smul (p : S3) (s : State) : exec (.smul p) s = execSmul p s := rfl
@[simp] theorem exec_sand (p : S3) (s : State) : exec (.sand p) s = execSand p s := rfl
@[simp] theorem exec_sor (p : S3) (s : State) : exec (.sor p) s = execSor p s := rfl
@[simp] theorem exec_sxor (p : S3) (s : State) : exec (.sxor p) s = execSxor p s := rfl
@[simp] theorem exec_sshl (p : S3) (s : State) : exec (.sshl p) s = execSshl p s := rfl
@[simp] theorem exec_sshr (p : S3) (s : State) : exec (.sshr p) s = execSshr p s := rfl
@[simp] theorem exec_ssra (p : S3) (s : State) : exec (.ssra p) s = execSsra p s := rfl
@[simp] theorem exec_smovi (p : SI) (s : State) : exec (.smovi p) s = execSmovi p s := rfl
@[simp] theorem exec_smovh (p : SI) (s : State) : exec (.smovh p) s = execSmovh p s := rfl
@[simp] theorem exec_smov (d a : Nat) (s : State) : exec (.smov d a) s = execSmov d a s := rfl
@[simp] theorem exec_snot (d a : Nat) (s : State) : exec (.snot d a) s = execSnot d a s := rfl
@[simp] theorem exec_spopc (d a : Nat) (s : State) : exec (.spopc d a) s = execSpopc d a s := rfl
@[simp] theorem exec_sclz (d a : Nat) (s : State) : exec (.sclz d a) s = execSclz d a s := rfl
@[simp] theorem exec_saddr (p : L) (s : State) : exec (.saddr p) s = execSaddr p s := rfl
@[simp] theorem exec_smulh (p : L) (s : State) : exec (.smulh p) s = execSmulh p s := rfl
@[simp] theorem exec_smad (p : L) (s : State) : exec (.smad p) s = execSmad p s := rfl
@[simp] theorem exec_smin (p : L) (s : State) : exec (.smin p) s = execSmin p s := rfl
@[simp] theorem exec_smax (p : L) (s : State) : exec (.smax p) s = execSmax p s := rfl
@[simp] theorem exec_scmp (p : L) (s : State) : exec (.scmp p) s = execScmp p s := rfl
@[simp] theorem exec_ssel (p : L) (s : State) : exec (.ssel p) s = execSsel p s := rfl
@[simp] theorem exec_iadd (p : S3) (s : State) : exec (.iadd p) s = execIadd p s := rfl
@[simp] theorem exec_isub (p : S3) (s : State) : exec (.isub p) s = execIsub p s := rfl
@[simp] theorem exec_imul (p : S3) (s : State) : exec (.imul p) s = execImul p s := rfl
@[simp] theorem exec_and (p : S3) (s : State) : exec (.and p) s = execAnd p s := rfl
@[simp] theorem exec_or (p : S3) (s : State) : exec (.or p) s = execOr p s := rfl
@[simp] theorem exec_xor (p : S3) (s : State) : exec (.xor p) s = execXor p s := rfl
@[simp] theorem exec_shl (p : S3) (s : State) : exec (.shl p) s = execShl p s := rfl
@[simp] theorem exec_shr (p : S3) (s : State) : exec (.shr p) s = execShr p s := rfl
@[simp] theorem exec_sra (p : S3) (s : State) : exec (.sra p) s = execSra p s := rfl
@[simp] theorem exec_icmp (cond : SCond) (pd a : Nat) (b : Src) (s : State) : exec (.icmp cond pd a b) s = execIcmp cond pd a b s := rfl
@[simp] theorem exec_movi (p : SI) (s : State) : exec (.movi p) s = execMovi p s := rfl
@[simp] theorem exec_moviH (p : SI) (s : State) : exec (.moviH p) s = execMoviH p s := rfl
@[simp] theorem exec_mov (p : S2) (s : State) : exec (.mov p) s = execMov p s := rfl
@[simp] theorem exec_not (p : S2) (s : State) : exec (.not p) s = execNot p s := rfl
@[simp] theorem exec_popc (p : S2) (s : State) : exec (.popc p) s = execPopc p s := rfl
@[simp] theorem exec_clz (p : S2) (s : State) : exec (.clz p) s = execClz p s := rfl
@[simp] theorem exec_brev (p : S2) (s : State) : exec (.brev p) s = execBrev p s := rfl
@[simp] theorem exec_iabs (p : S2) (s : State) : exec (.iabs p) s = execIabs p s := rfl
@[simp] theorem exec_ineg (p : S2) (s : State) : exec (.ineg p) s = execIneg p s := rfl
@[simp] theorem exec_vrdi (d a : Nat) (s : State) : exec (.vrdi d a) s = execVrdi d a s := rfl
@[simp] theorem exec_vwri (d a : Nat) (s : State) : exec (.vwri d a) s = execVwri d a s := rfl
@[simp] theorem exec_iaddc (p : L) (s : State) : exec (.iaddc p) s = execIaddc p s := rfl
@[simp] theorem exec_imulh (p : L) (s : State) : exec (.imulh p) s = execImulh p s := rfl
@[simp] theorem exec_imad (p : L) (s : State) : exec (.imad p) s = execImad p s := rfl
@[simp] theorem exec_imadw (p : L) (s : State) : exec (.imadw p) s = execImadw p s := rfl
@[simp] theorem exec_imin (p : L) (s : State) : exec (.imin p) s = execImin p s := rfl
@[simp] theorem exec_imax (p : L) (s : State) : exec (.imax p) s = execImax p s := rfl
@[simp] theorem exec_isel (p : L) (s : State) : exec (.isel p) s = execIsel p s := rfl
@[simp] theorem exec_rot (p : L) (s : State) : exec (.rot p) s = execRot p s := rfl
@[simp] theorem exec_bfe (p : L) (s : State) : exec (.bfe p) s = execBfe p s := rfl
@[simp] theorem exec_bfi (p : L) (s : State) : exec (.bfi p) s = execBfi p s := rfl
@[simp] theorem exec_cvti (p : L) (s : State) : exec (.cvti p) s = execCvti p s := rfl
@[simp] theorem exec_icmpLong (p : L) (s : State) : exec (.icmpLong p) s = execIcmpLong p s := rfl
@[simp] theorem exec_srd (p : S2) (s : State) : exec (.srd p) s = execSrd p s := rfl
@[simp] theorem exec_swr (p : S2) (s : State) : exec (.swr p) s = execSwr p s := rfl
@[simp] theorem exec_pset (d a : Nat) (s : State) : exec (.pset d a) s = execPset d a s := rfl
@[simp] theorem exec_pnot (d a : Nat) (s : State) : exec (.pnot d a) s = execPnot d a s := rfl
@[simp] theorem exec_pmov (d a : Nat) (s : State) : exec (.pmov d a) s = execPmov d a s := rfl
@[simp] theorem exec_ptok (d a : Nat) (s : State) : exec (.ptok d a) s = execPtok d a s := rfl
@[simp] theorem exec_ktop (d a : Nat) (s : State) : exec (.ktop d a) s = execKtop d a s := rfl
@[simp] theorem exec_kand (p : L) (s : State) : exec (.kand p) s = execKand p s := rfl
@[simp] theorem exec_kor (p : L) (s : State) : exec (.kor p) s = execKor p s := rfl
@[simp] theorem exec_kxor (p : L) (s : State) : exec (.kxor p) s = execKxor p s := rfl
@[simp] theorem exec_knot (p : L) (s : State) : exec (.knot p) s = execKnot p s := rfl
@[simp] theorem exec_kpopc (p : L) (s : State) : exec (.kpopc p) s = execKpopc p s := rfl
@[simp] theorem exec_kffs (p : L) (s : State) : exec (.kffs p) s = execKffs p s := rfl
@[simp] theorem exec_kmov (p : L) (s : State) : exec (.kmov p) s = execKmov p s := rfl
@[simp] theorem exec_kact (p : L) (s : State) : exec (.kact p) s = execKact p s := rfl
@[simp] theorem exec_shfl (p : L) (mode : ShflMode) (s : State) : exec (.shfl p mode) s = execShfl p mode s := rfl
@[simp] theorem exec_vote (p : L) (s : State) : exec (.vote p) s = execVote p s := rfl
@[simp] theorem exec_matchL (p : L) (s : State) : exec (.matchL p) s = execMatchL p s := rfl
@[simp] theorem exec_reduce (p : L) (s : State) : exec (.reduce p) s = execReduce p s := rfl
@[simp] theorem exec_scan (p : L) (s : State) : exec (.scan p) s = execScan p s := rfl
@[simp] theorem exec_bcast (p : L) (s : State) : exec (.bcast p) s = execBcast p s := rfl
@[simp] theorem exec_split (p : L) (s : State) : exec (.split p) s = execSplit p s := rfl
@[simp] theorem exec_faddF32 (p : S3) (s : State) : exec (.faddF32 p) s = execFaddF32 p s := rfl
@[simp] theorem exec_fsubF32 (p : S3) (s : State) : exec (.fsubF32 p) s = execFsubF32 p s := rfl
@[simp] theorem exec_fmulF32 (p : S3) (s : State) : exec (.fmulF32 p) s = execFmulF32 p s := rfl
@[simp] theorem exec_ffmaF32 (p : S3) (s : State) : exec (.ffmaF32 p) s = execFfmaF32 p s := rfl
@[simp] theorem exec_fadd (p : L) (s : State) : exec (.fadd p) s = execFadd p s := rfl
@[simp] theorem exec_fsub (p : L) (s : State) : exec (.fsub p) s = execFsub p s := rfl
@[simp] theorem exec_fmul (p : L) (s : State) : exec (.fmul p) s = execFmul p s := rfl
@[simp] theorem exec_ffma (p : L) (s : State) : exec (.ffma p) s = execFfma p s := rfl
@[simp] theorem exec_fmin (p : L) (s : State) : exec (.fmin p) s = execFmin p s := rfl
@[simp] theorem exec_fmax (p : L) (s : State) : exec (.fmax p) s = execFmax p s := rfl
@[simp] theorem exec_fminnum (p : L) (s : State) : exec (.fminnum p) s = execFminnum p s := rfl
@[simp] theorem exec_fmaxnum (p : L) (s : State) : exec (.fmaxnum p) s = execFmaxnum p s := rfl
@[simp] theorem exec_fdiv (p : L) (s : State) : exec (.fdiv p) s = execFdiv p s := rfl
@[simp] theorem exec_fscale (p : L) (s : State) : exec (.fscale p) s = execFscale p s := rfl
@[simp] theorem exec_fabs (p : L) (s : State) : exec (.fabs p) s = execFabs p s := rfl
@[simp] theorem exec_fneg (p : L) (s : State) : exec (.fneg p) s = execFneg p s := rfl
@[simp] theorem exec_fsqrt (p : L) (s : State) : exec (.fsqrt p) s = execFsqrt p s := rfl
@[simp] theorem exec_frcp (p : L) (s : State) : exec (.frcp p) s = execFrcp p s := rfl
@[simp] theorem exec_frsq (p : L) (s : State) : exec (.frsq p) s = execFrsq p s := rfl
@[simp] theorem exec_fex2 (p : L) (s : State) : exec (.fex2 p) s = execFex2 p s := rfl
@[simp] theorem exec_flg2 (p : L) (s : State) : exec (.flg2 p) s = execFlg2 p s := rfl
@[simp] theorem exec_fsin (p : L) (s : State) : exec (.fsin p) s = execFsin p s := rfl
@[simp] theorem exec_fcos (p : L) (s : State) : exec (.fcos p) s = execFcos p s := rfl
@[simp] theorem exec_frnd (p : L) (s : State) : exec (.frnd p) s = execFrnd p s := rfl
@[simp] theorem exec_fclass (p : L) (s : State) : exec (.fclass p) s = execFclass p s := rfl
@[simp] theorem exec_fcmp (p : L) (s : State) : exec (.fcmp p) s = execFcmp p s := rfl
@[simp] theorem exec_fcvt (p : L) (src : Ty) (s : State) : exec (.fcvt p src) s = execFcvt p src s := rfl
@[simp] theorem exec_fcvti (p : L) (src : Ty) (s : State) : exec (.fcvti p src) s = execFcvti p src s := rfl
@[simp] theorem exec_icvtf (p : L) (src : Ty) (s : State) : exec (.icvtf p src) s = execIcvtf p src s := rfl
@[simp] theorem exec_fpack (p : L) (src : Ty) (s : State) : exec (.fpack p src) s = execFpack p src s := rfl
@[simp] theorem exec_funpk (p : L) (src : Ty) (s : State) : exec (.funpk p src) s = execFunpk p src s := rfl
@[simp] theorem exec_fstatRd (d : Nat) (s : State) : exec (.fstatRd d) s = execFstatRd d s := rfl
@[simp] theorem exec_fstatWr (a : Nat) (x : Bool) (s : State) : exec (.fstatWr a x) s = execFstatWr a x s := rfl
@[simp] theorem exec_fstatClr (a : Nat) (s : State) : exec (.fstatClr a) s = execFstatClr a s := rfl
@[simp] theorem exec_ftwosum (p : L) (s : State) : exec (.ftwosum p) s = execFtwosum p s := rfl
@[simp] theorem exec_ffastsum (p : L) (s : State) : exec (.ffastsum p) s = execFfastsum p s := rfl
@[simp] theorem exec_ftwoprod (p : L) (s : State) : exec (.ftwoprod p) s = execFtwoprod p s := rfl
@[simp] theorem exec_ffma3 (p : L) (s : State) : exec (.ffma3 p) s = execFfma3 p s := rfl
@[simp] theorem exec_fsplit (p : L) (s : State) : exec (.fsplit p) s = execFsplit p s := rfl
@[simp] theorem exec_fsplit3 (p : L) (s : State) : exec (.fsplit3 p) s = execFsplit3 p s := rfl
@[simp] theorem exec_xadd (p : L) (s : State) : exec (.xadd p) s = execXadd p s := rfl
@[simp] theorem exec_xsub (p : L) (s : State) : exec (.xsub p) s = execXsub p s := rfl
@[simp] theorem exec_xmul (p : L) (s : State) : exec (.xmul p) s = execXmul p s := rfl
@[simp] theorem exec_xren (p : L) (s : State) : exec (.xren p) s = execXren p s := rfl
@[simp] theorem exec_xcomp (p : L) (s : State) : exec (.xcomp p) s = execXcomp p s := rfl
@[simp] theorem exec_xneg (p : L) (s : State) : exec (.xneg p) s = execXneg p s := rfl
@[simp] theorem exec_xabs (p : L) (s : State) : exec (.xabs p) s = execXabs p s := rfl
@[simp] theorem exec_xcmp (p : L) (s : State) : exec (.xcmp p) s = execXcmp p s := rfl
@[simp] theorem exec_xcvt (p : L) (src : Ty) (s : State) : exec (.xcvt p src) s = execXcvt p src s := rfl
@[simp] theorem exec_rnd (p : L) (s : State) : exec (.rnd p) s = execRnd p s := rfl
@[simp] theorem exec_rndg (p : L) (s : State) : exec (.rndg p) s = execRndg p s := rfl
@[simp] theorem exec_ld (p : LM) (s : State) : exec (.ld p) s = execLd p s := rfl
@[simp] theorem exec_st (p : LM) (s : State) : exec (.st p) s = execSt p s := rfl
@[simp] theorem exec_lds (p : LM) (vbase : Bool) (s : State) : exec (.lds p vbase) s = execLds p vbase s := rfl
@[simp] theorem exec_sts (p : LM) (vbase : Bool) (s : State) : exec (.sts p vbase) s = execSts p vbase s := rfl
@[simp] theorem exec_ldsc (p : LM) (vbase : Bool) (s : State) : exec (.ldsc p vbase) s = execLdsc p vbase s := rfl
@[simp] theorem exec_stsc (p : LM) (vbase : Bool) (s : State) : exec (.stsc p vbase) s = execStsc p vbase s := rfl
@[simp] theorem exec_ldx (p : LM) (s : State) : exec (.ldx p) s = execLdx p s := rfl
@[simp] theorem exec_stx (p : LM) (s : State) : exec (.stx p) s = execStx p s := rfl
@[simp] theorem exec_ldc (p : LM) (s : State) : exec (.ldc p) s = execLdc p s := rfl
@[simp] theorem exec_pld (p : LM) (s : State) : exec (.pld p) s = execPld p s := rfl
@[simp] theorem exec_pst (p : LM) (s : State) : exec (.pst p) s = execPst p s := rfl
@[simp] theorem exec_pref (p : LM) (s : State) : exec (.pref p) s = execPref p s := rfl
@[simp] theorem exec_atom (p : LT) (fn : AtomFn) (s : State) : exec (.atom p fn) s = execAtom p fn s := rfl
@[simp] theorem exec_atoms (p : LT) (fn : AtomFn) (s : State) : exec (.atoms p fn) s = execAtoms p fn s := rfl
@[simp] theorem exec_atomc (p : LT) (s : State) : exec (.atomc p) s = execAtomc p s := rfl
@[simp] theorem exec_red (p : LT) (fn : AtomFn) (s : State) : exec (.red p fn) s = execRed p fn s := rfl
@[simp] theorem exec_fence (p : LT) (s : State) : exec (.fence p) s = execFence p s := rfl
@[simp] theorem exec_bar (p : LT) (s : State) : exec (.bar p) s = execBar p s := rfl
@[simp] theorem exec_barc (p : LT) (s : State) : exec (.barc p) s = execBarc p s := rfl
@[simp] theorem exec_gsync (p : LT) (s : State) : exec (.gsync p) s = execGsync p s := rfl
@[simp] theorem exec_binit (p : LT) (s : State) : exec (.binit p) s = execBinit p s := rfl
@[simp] theorem exec_barrive (p : LT) (s : State) : exec (.barrive p) s = execBarrive p s := rfl
@[simp] theorem exec_bexpect (p : LT) (s : State) : exec (.bexpect p) s = execBexpect p s := rfl
@[simp] theorem exec_bwait (p : LT) (s : State) : exec (.bwait p) s = execBwait p s := rfl
@[simp] theorem exec_btest (p : LT) (s : State) : exec (.btest p) s = execBtest p s := rfl
@[simp] theorem exec_bdrop (p : LT) (s : State) : exec (.bdrop p) s = execBdrop p s := rfl
@[simp] theorem exec_binv (p : LT) (s : State) : exec (.binv p) s = execBinv p s := rfl
@[simp] theorem exec_stscb (p : LT) (s : State) : exec (.stscb p) s = execStscb p s := rfl
@[simp] theorem exec_acopy (p : LE) (s : State) : exec (.acopy p) s = execAcopy p s := rfl
@[simp] theorem exec_agath (p : LE) (s : State) : exec (.agath p) s = execAgath p s := rfl
@[simp] theorem exec_ascat (p : LE) (s : State) : exec (.ascat p) s = execAscat p s := rfl
@[simp] theorem exec_acopym (p : LE) (s : State) : exec (.acopym p) s = execAcopym p s := rfl
@[simp] theorem exec_acancel (p : LE) (s : State) : exec (.acancel p) s = execAcancel p s := rfl
@[simp] theorem exec_mma (p : LX) (shape : Nat) (r : Bool) (s : State) : exec (.mma p shape r) s = execMma p shape r s := rfl
@[simp] theorem exec_mmaj (p : LX) (shape : Nat) (r : Bool) (s : State) : exec (.mmaj p shape r) s = execMmaj p shape r s := rfl
@[simp] theorem exec_mmas (p : LX) (shape : Nat) (r : Bool) (s : State) : exec (.mmas p shape r) s = execMmas p shape r s := rfl
@[simp] theorem exec_mmajs (p : LX) (shape : Nat) (r : Bool) (s : State) : exec (.mmajs p shape r) s = execMmajs p shape r s := rfl
@[simp] theorem exec_talloc (p : LX) (s : State) : exec (.talloc p) s = execTalloc p s := rfl
@[simp] theorem exec_tfree (p : LX) (s : State) : exec (.tfree p) s = execTfree p s := rfl
@[simp] theorem exec_tzero (p : LX) (s : State) : exec (.tzero p) s = execTzero p s := rfl
@[simp] theorem exec_tstat (p : LX) (s : State) : exec (.tstat p) s = execTstat p s := rfl
@[simp] theorem exec_tld (p : LX) (s : State) : exec (.tld p) s = execTld p s := rfl
@[simp] theorem exec_tst (p : LX) (s : State) : exec (.tst p) s = execTst p s := rfl
@[simp] theorem exec_tread (p : LX) (s : State) : exec (.tread p) s = execTread p s := rfl
@[simp] theorem exec_twrite (p : LX) (s : State) : exec (.twrite p) s = execTwrite p s := rfl
@[simp] theorem exec_tscale (p : LX) (s : State) : exec (.tscale p) s = execTscale p s := rfl
@[simp] theorem exec_rld (p : LM) (s : State) : exec (.rld p) s = execRld p s := rfl
@[simp] theorem exec_rst (p : LM) (s : State) : exec (.rst p) s = execRst p s := rfl
@[simp] theorem exec_rstCnt (p : LM) (s : State) : exec (.rstCnt p) s = execRstCnt p s := rfl
@[simp] theorem exec_ratom (p : LT) (fn : AtomFn) (s : State) : exec (.ratom p fn) s = execRatom p fn s := rfl
@[simp] theorem exec_rfence (p : LS) (s : State) : exec (.rfence p) s = execRfence p s := rfl
@[simp] theorem exec_cwait (p : LS) (s : State) : exec (.cwait p) s = execCwait p s := rfl
@[simp] theorem exec_cnote (p : LS) (s : State) : exec (.cnote p) s = execCnote p s := rfl
@[simp] theorem exec_coll (p : LS) (s : State) : exec (.coll p) s = execColl p s := rfl
@[simp] theorem exec_bknote (p : LS) (s : State) : exec (.bknote p) s = execBknote p s := rfl
@[simp] theorem exec_lreq (p : LS) (s : State) : exec (.lreq p) s = execLreq p s := rfl
@[simp] theorem exec_lwait (p : LS) (s : State) : exec (.lwait p) s = execLwait p s := rfl
@[simp] theorem exec_lrel (p : LS) (s : State) : exec (.lrel p) s = execLrel p s := rfl
@[simp] theorem exec_lstat (p : LS) (s : State) : exec (.lstat p) s = execLstat p s := rfl
@[simp] theorem exec_trap (imm : Nat) (s : State) : exec (.trap imm) s = execTrap imm s := rfl
@[simp] theorem exec_tret (s : State) : exec (.tret) s = execTret s := rfl
@[simp] theorem exec_hcall (p : SI) (s : State) : exec (.hcall p) s = execHcall p s := rfl
@[simp] theorem exec_srdp (p : LS) (s : State) : exec (.srdp p) s = execSrdp p s := rfl
@[simp] theorem exec_swrp (p : LS) (s : State) : exec (.swrp p) s = execSwrp p s := rfl
@[simp] theorem exec_ctxyield (p : LS) (s : State) : exec (.ctxyield p) s = execCtxyield p s := rfl
@[simp] theorem exec_illrd (p : LS) (s : State) : exec (.illrd p) s = execIllrd p s := rfl
@[simp] theorem exec_frmrd (p : LS) (s : State) : exec (.frmrd p) s = execFrmrd p s := rfl
@[simp] theorem exec_weirset (p : LS) (s : State) : exec (.weirset p) s = execWeirset p s := rfl
@[simp] theorem exec_weirclr (p : LS) (s : State) : exec (.weirclr p) s = execWeirclr p s := rfl
@[simp] theorem exec_weirrd (p : LS) (s : State) : exec (.weirrd p) s = execWeirrd p s := rfl
@[simp] theorem exec_hrd (p : LS) (s : State) : exec (.hrd p) s = execHrd p s := rfl
@[simp] theorem exec_hwr (p : LS) (s : State) : exec (.hwr p) s = execHwr p s := rfl
@[simp] theorem exec_hprd (p : LS) (s : State) : exec (.hprd p) s = execHprd p s := rfl
@[simp] theorem exec_hfront (p : LS) (s : State) : exec (.hfront p) s = execHfront p s := rfl
@[simp] theorem exec_hscb (p : LS) (s : State) : exec (.hscb p) s = execHscb p s := rfl
@[simp] theorem exec_hstep (p : LS) (s : State) : exec (.hstep p) s = execHstep p s := rfl
@[simp] theorem exec_hresume (p : LS) (s : State) : exec (.hresume p) s = execHresume p s := rfl
@[simp] theorem exec_trcmark (p : LS) (s : State) : exec (.trcmark p) s = execTrcmark p s := rfl
@[simp] theorem exec_cntrd (p : LS) (s : State) : exec (.cntrd p) s = execCntrd p s := rfl
@[simp] theorem exec_registerWrite (s : State) : exec (.registerWrite) s = execRegisterWrite s := rfl
@[simp] theorem exec_partcfgWrite (s : State) : exec (.partcfgWrite) s = execPartcfgWrite s := rfl
@[simp] theorem exec_ctxLoad (s : State) : exec (.ctxLoad) s = execCtxLoad s := rfl
@[simp] theorem exec_ctxUnload (s : State) : exec (.ctxUnload) s = execCtxUnload s := rfl
@[simp] theorem exec_ctxcmdDone (s : State) : exec (.ctxcmdDone) s = execCtxcmdDone s := rfl
@[simp] theorem exec_doorbellWrite (s : State) : exec (.doorbellWrite) s = execDoorbellWrite s := rfl
@[simp] theorem exec_chainEnable (s : State) : exec (.chainEnable) s = execChainEnable s := rfl
@[simp] theorem exec_chainDisable (s : State) : exec (.chainDisable) s = execChainDisable s := rfl
@[simp] theorem exec_chainResume (s : State) : exec (.chainResume) s = execChainResume s := rfl
@[simp] theorem exec_chainAbort (s : State) : exec (.chainAbort) s = execChainAbort s := rfl
@[simp] theorem exec_chstatLinkerrClear (s : State) : exec (.chstatLinkerrClear) s = execChstatLinkerrClear s := rfl
@[simp] theorem exec_launchTake (s : State) : exec (.launchTake) s = execLaunchTake s := rfl
@[simp] theorem exec_streamOpen (s : State) : exec (.streamOpen) s = execStreamOpen s := rfl
@[simp] theorem exec_modelNextKernel (s : State) : exec (.modelNextKernel) s = execModelNextKernel s := rfl
@[simp] theorem exec_launchComplete (s : State) : exec (.launchComplete) s = execLaunchComplete s := rfl
@[simp] theorem exec_clusterAdmit (s : State) : exec (.clusterAdmit) s = execClusterAdmit s := rfl
@[simp] theorem exec_admissionStarvationLimit (s : State) : exec (.admissionStarvationLimit) s = execAdmissionStarvationLimit s := rfl
@[simp] theorem exec_teamReadmit (s : State) : exec (.teamReadmit) s = execTeamReadmit s := rfl
@[simp] theorem exec_teamEvict (s : State) : exec (.teamEvict) s = execTeamEvict s := rfl
@[simp] theorem exec_teamRetire (s : State) : exec (.teamRetire) s = execTeamRetire s := rfl
@[simp] theorem exec_vgridQuantumExpiry (s : State) : exec (.vgridQuantumExpiry) s = execVgridQuantumExpiry s := rfl
@[simp] theorem exec_vgridTurnEnd (s : State) : exec (.vgridTurnEnd) s = execVgridTurnEnd s := rfl
@[simp] theorem exec_timeSliceExpiry (s : State) : exec (.timeSliceExpiry) s = execTimeSliceExpiry s := rfl
@[simp] theorem exec_turnPass (s : State) : exec (.turnPass) s = execTurnPass s := rfl
@[simp] theorem exec_xchgOutIn (s : State) : exec (.xchgOutIn) s = execXchgOutIn s := rfl
@[simp] theorem exec_xchgSuspend (s : State) : exec (.xchgSuspend) s = execXchgSuspend s := rfl
@[simp] theorem exec_xchgResume (s : State) : exec (.xchgResume) s = execXchgResume s := rfl
@[simp] theorem exec_exchangeDone (s : State) : exec (.exchangeDone) s = execExchangeDone s := rfl
@[simp] theorem exec_basincfgWrite (s : State) : exec (.basincfgWrite) s = execBasincfgWrite s := rfl
@[simp] theorem exec_sluicepoolWrite (s : State) : exec (.sluicepoolWrite) s = execSluicepoolWrite s := rfl
@[simp] theorem exec_rmtinvPeer (s : State) : exec (.rmtinvPeer) s = execRmtinvPeer s := rfl
@[simp] theorem exec_rmtinvWindow (s : State) : exec (.rmtinvWindow) s = execRmtinvWindow s := rfl
@[simp] theorem exec_rmtinvComm (s : State) : exec (.rmtinvComm) s = execRmtinvComm s := rfl
@[simp] theorem exec_rmtinvDone (s : State) : exec (.rmtinvDone) s = execRmtinvDone s := rfl
@[simp] theorem exec_routeReload (s : State) : exec (.routeReload) s = execRouteReload s := rfl
@[simp] theorem exec_routeReloadDone (s : State) : exec (.routeReloadDone) s = execRouteReloadDone s := rfl
@[simp] theorem exec_inspcfgWrite (s : State) : exec (.inspcfgWrite) s = execInspcfgWrite s := rfl
@[simp] theorem exec_plumeStart (s : State) : exec (.plumeStart) s = execPlumeStart s := rfl
@[simp] theorem exec_plumeStop (s : State) : exec (.plumeStop) s = execPlumeStop s := rfl
@[simp] theorem exec_plumeDump (s : State) : exec (.plumeDump) s = execPlumeDump s := rfl
@[simp] theorem exec_plumeDumpDone (s : State) : exec (.plumeDumpDone) s = execPlumeDumpDone s := rfl
@[simp] theorem exec_plumeDiscard (s : State) : exec (.plumeDiscard) s = execPlumeDiscard s := rfl
@[simp] theorem exec_plumeWindowFull (s : State) : exec (.plumeWindowFull) s = execPlumeWindowFull s := rfl
@[simp] theorem exec_monClear (s : State) : exec (.monClear) s = execMonClear s := rfl
@[simp] theorem exec_softCounterRead (s : State) : exec (.softCounterRead) s = execSoftCounterRead s := rfl
@[simp] theorem exec_errlogRead (s : State) : exec (.errlogRead) s = execErrlogRead s := rfl
@[simp] theorem exec_mbInfo (s : State) : exec (.mbInfo) s = execMbInfo s := rfl
@[simp] theorem exec_mbErase (s : State) : exec (.mbErase) s = execMbErase s := rfl
@[simp] theorem exec_mbWrite (s : State) : exec (.mbWrite) s = execMbWrite s := rfl
@[simp] theorem exec_mbVerify (s : State) : exec (.mbVerify) s = execMbVerify s := rfl
@[simp] theorem exec_mbActivate (s : State) : exec (.mbActivate) s = execMbActivate s := rfl
@[simp] theorem exec_mbRaisemin (s : State) : exec (.mbRaisemin) s = execMbRaisemin s := rfl
@[simp] theorem exec_mbReset (s : State) : exec (.mbReset) s = execMbReset s := rfl
@[simp] theorem exec_mbUnknownOp (s : State) : exec (.mbUnknownOp) s = execMbUnknownOp s := rfl
@[simp] theorem exec_mbCommandDone (s : State) : exec (.mbCommandDone) s = execMbCommandDone s := rfl
@[simp] theorem exec_spdmGetVersion (s : State) : exec (.spdmGetVersion) s = execSpdmGetVersion s := rfl
@[simp] theorem exec_spdmGetCapabilities (s : State) : exec (.spdmGetCapabilities) s = execSpdmGetCapabilities s := rfl
@[simp] theorem exec_spdmNegotiateAlgorithms (s : State) : exec (.spdmNegotiateAlgorithms) s = execSpdmNegotiateAlgorithms s := rfl
@[simp] theorem exec_spdmGetDigests (s : State) : exec (.spdmGetDigests) s = execSpdmGetDigests s := rfl
@[simp] theorem exec_spdmGetCertificate (s : State) : exec (.spdmGetCertificate) s = execSpdmGetCertificate s := rfl
@[simp] theorem exec_spdmChallenge (s : State) : exec (.spdmChallenge) s = execSpdmChallenge s := rfl
@[simp] theorem exec_spdmGetMeasurements (s : State) : exec (.spdmGetMeasurements) s = execSpdmGetMeasurements s := rfl
@[simp] theorem exec_deviceReset (s : State) : exec (.deviceReset) s = execDeviceReset s := rfl
@[simp] theorem exec_firmwareVerified (s : State) : exec (.firmwareVerified) s = execFirmwareVerified s := rfl
@[simp] theorem exec_thermalCritical (s : State) : exec (.thermalCritical) s = execThermalCritical s := rfl
@[simp] theorem exec_powerInterval (s : State) : exec (.powerInterval) s = execPowerInterval s := rfl
@[simp] theorem exec_eccCorrected (s : State) : exec (.eccCorrected) s = execEccCorrected s := rfl
@[simp] theorem exec_eccUncorrectable (s : State) : exec (.eccUncorrectable) s = execEccUncorrectable s := rfl
@[simp] theorem exec_dyxihanScrub (s : State) : exec (.dyxihanScrub) s = execDyxihanScrub s := rfl
@[simp] theorem exec_rillFlitFail (s : State) : exec (.rillFlitFail) s = execRillFlitFail s := rfl
@[simp] theorem exec_linkFailure (s : State) : exec (.linkFailure) s = execLinkFailure s := rfl
@[simp] theorem exec_collEndNoticeReceive (s : State) : exec (.collEndNoticeReceive) s = execCollEndNoticeReceive s := rfl
@[simp] theorem exec_atsResponse (s : State) : exec (.atsResponse) s = execAtsResponse s := rfl
@[simp] theorem exec_atsTimeout (s : State) : exec (.atsTimeout) s = execAtsTimeout s := rfl
@[simp] theorem exec_priResponse (s : State) : exec (.priResponse) s = execPriResponse s := rfl
@[simp] theorem exec_priTimeout (s : State) : exec (.priTimeout) s = execPriTimeout s := rfl
@[simp] theorem exec_atsInvalidation (s : State) : exec (.atsInvalidation) s = execAtsInvalidation s := rfl
@[simp] theorem exec_atsInvalidationDone (s : State) : exec (.atsInvalidationDone) s = execAtsInvalidationDone s := rfl
@[simp] theorem exec_faultStallBlocking (s : State) : exec (.faultStallBlocking) s = execFaultStallBlocking s := rfl
@[simp] theorem exec_faultReplay (s : State) : exec (.faultReplay) s = execFaultReplay s := rfl
@[simp] theorem exec_bar4Access (s : State) : exec (.bar4Access) s = execBar4Access s := rfl
@[simp] theorem exec_clauseFetch (s : State) : exec (.clauseFetch) s = execClauseFetch s := rfl
@[simp] theorem exec_sliceCycle (s : State) : exec (.sliceCycle) s = execSliceCycle s := rfl
@[simp] theorem exec_groupPromotion (s : State) : exec (.groupPromotion) s = execGroupPromotion s := rfl
@[simp] theorem exec_entryOverdue (s : State) : exec (.entryOverdue) s = execEntryOverdue s := rfl
@[simp] theorem exec_opComplete (s : State) : exec (.opComplete) s = execOpComplete s := rfl
@[simp] theorem exec_laneUnpark (s : State) : exec (.laneUnpark) s = execLaneUnpark s := rfl
@[simp] theorem exec_sleepWake (s : State) : exec (.sleepWake) s = execSleepWake s := rfl
@[simp] theorem exec_cwaitPoll (s : State) : exec (.cwaitPoll) s = execCwaitPoll s := rfl
@[simp] theorem exec_trapEntry (s : State) : exec (.trapEntry) s = execTrapEntry s := rfl
@[simp] theorem exec_watchdogExpiry (s : State) : exec (.watchdogExpiry) s = execWatchdogExpiry s := rfl
@[simp] theorem exec_haltComplete (s : State) : exec (.haltComplete) s = execHaltComplete s := rfl
@[simp] theorem exec_matrixOpBegin (s : State) : exec (.matrixOpBegin) s = execMatrixOpBegin s := rfl
@[simp] theorem exec_matrixOpDone (s : State) : exec (.matrixOpDone) s = execMatrixOpDone s := rfl
@[simp] theorem exec_engineBeat (s : State) : exec (.engineBeat) s = execEngineBeat s := rfl
@[simp] theorem exec_engineOpDone (s : State) : exec (.engineOpDone) s = execEngineOpDone s := rfl
@[simp] theorem exec_engineOpError (s : State) : exec (.engineOpError) s = execEngineOpError s := rfl
@[simp] theorem exec_sluiceBeat (s : State) : exec (.sluiceBeat) s = execSluiceBeat s := rfl
@[simp] theorem exec_layerTransferStart (s : State) : exec (.layerTransferStart) s = execLayerTransferStart s := rfl
@[simp] theorem exec_layerTransferDone (s : State) : exec (.layerTransferDone) s = execLayerTransferDone s := rfl
@[simp] theorem exec_layerEvictDone (s : State) : exec (.layerEvictDone) s = execLayerEvictDone s := rfl
@[simp] theorem exec_remoteRequestArrive (s : State) : exec (.remoteRequestArrive) s = execRemoteRequestArrive s := rfl
@[simp] theorem exec_remoteAnswer (s : State) : exec (.remoteAnswer) s = execRemoteAnswer s := rfl
@[simp] theorem exec_remoteTimeout (s : State) : exec (.remoteTimeout) s = execRemoteTimeout s := rfl
@[simp] theorem exec_collStart (s : State) : exec (.collStart) s = execCollStart s := rfl
@[simp] theorem exec_collMessage (s : State) : exec (.collMessage) s = execCollMessage s := rfl
@[simp] theorem exec_collComplete (s : State) : exec (.collComplete) s = execCollComplete s := rfl
@[simp] theorem exec_hcallWriteDone (s : State) : exec (.hcallWriteDone) s = execHcallWriteDone s := rfl

end Sys2Proof.Machine
end

