-- ==== Sys2Proof/Laws/Exec.lean ====
section
/-! SUPPORT. Laws/Exec.lean: what the shells of the instructions do for an issue that is ready: the results, and what they leave. -/

namespace Sys2Proof.Machine

/-- A ready issue has its instruction's effect. -/
theorem run_ready {s : State} {v : View} {u : Uses} (h : Ready s v u) (f : View → State) : run s u f = .next (f v) := by
  unfold run onIssue shell
  rw [h.here]
  dsimp only
  rw [h.regs, if_neg (by decide), if_neg h.exec, h.clean, if_neg (by decide)]

/-! ### Registers kept -/

theorem RegsKept.refl (g : Group) (w : Written) : RegsKept g g w :=
  ⟨fun _ _ _ _ => rfl, fun _ _ _ _ => rfl, fun _ _ => rfl, fun _ _ => rfl, fun _ _ _ _ => rfl, fun _ _ => rfl, fun _ _ => rfl,
    fun _ => rfl, fun _ => rfl, fun _ => rfl, fun _ => rfl, fun _ _ _ => rfl⟩

theorem RegsKept.moves {g g1 h : Group} {w : Written} (k : RegsKept g g1 w) (m : Moves g1 h) (e : g1.loops = g.loops) :
    RegsKept g h w where
  v r L hL hw := (m.same.vget r L).trans (k.v r L hL hw)
  vpois r L hL hw := by rw [m.same.vpois]; exact k.vpois r L hL hw
  s r hw := (m.same.sget r).trans (k.s r hw)
  spois r hw := by rw [m.same.spois]; exact k.spois r hw
  p n L hL hw := by rw [m.same.pget]; exact k.p n L hL hw
  k n hw := (m.same.kget n).trans (k.k n hw)
  d n hw := (m.same.dget n).trans (k.d n hw)
  fstat hw := m.same.2.trans (k.fstat hw)
  gsplit hw := m.same.gsplit.trans (k.gsplit hw)
  steprnd hw := m.same.steprnd.trans (k.steprnd hw)
  fptrap := fun hw => m.same.fptrap.trans (k.fptrap hw)
  lc hn n hw := by
    have := (m.loops (noLoops_congr e hn)).2
    simp only [lcget, this] at *
    exact k.lc hn n hw

/-! ### The rest kept -/

theorem RestKept.only (s : State) (gid : Nat) (h : Group) (cs : AMap Core) (pl : AMap Plume) :
    RestKept s (only s gid h cs pl) gid where
  mem _ := rfl
  pois := rfl
  teams := rfl
  groups id hid := (group?_setGroup _ _ _ _).trans (by rw [if_neg hid]; rfl)
  ctxs := rfl
  launches := rfl

theorem raised_zero {v : View} {e : Eff} (h : e.flags = [] ∨ e.g.fptrap = 0) : raised v e = 0 := by
  have : enabledLanes e.flags e.g.fptrap = 0 := by
    apply BitVec.eq_of_getLsbD_eq
    intro i hi
    rw [enabledLanes, getLsbD_maskOf]
    rcases h with h | h <;> simp [h, mget, mget?]
  rw [raised, this]; simp

/-- The results of a commit: what holds of every group that only moves lanes after the meaning's writes. -/
theorem completes_finish {s : State} {v : View} (e : Eff) {w : Written} {R : Group → Prop} {quiet : Prop} (own : v.is.step = none)
    (ht : e.trap = none) (hp : e.preHits = []) (hl : e.g.loops = v.g.loops) (hk : RegsKept v.g (flagged e) w)
    (hR : ∀ h, Moves (flagged e) h → R h) (hq : quiet → NoWeirs s v) (hf : quiet → e.flags = [] ∨ e.g.fptrap = 0) :
    Completes s v (.next (finish s v e)) w R quiet := by
  obtain ⟨⟨h, eh, mh⟩, -, -⟩ := finish_regs s v e own
  refine ⟨_, h, rfl, eh, hR h mh, hk.moves mh hl, fun q => ?_⟩
  obtain ⟨h', cs, pl, e', -⟩ := finish_quiet s v e own (hq q) ht hp (raised_zero (hf q))
  rw [e']; exact .only _ _ _ _ _

theorem flagged_noFlags {e : Eff} (h : e.flags = []) : (flagged e).file = e.g.file ∧ (flagged e).fstat = e.g.fstat := by
  refine ⟨rfl, ?_⟩
  simp [flagged, h, allFlags]

/-! ### Lane by lane writes -/

/-- What a group is but for its vector registers. -/
def Group.noV (g : Group) : Group := { g with v := [], ext := [], vpois := [] }

/-- `h` writes, in one lane, the `n` registers from `d`, and nothing else. -/
structure LaneWrite (h : Group → Nat → Group) (d n : Nat) (w : Nat → Nat → Word) : Prop where
  get : ∀ g L r M, L < 32 → M < 32 → vget (h g L) r M = if M = L ∧ d ≤ r ∧ r < d + n then w L (r - d) else vget g r M
  pois : ∀ g L r M, L < 32 → M < 32 → ¬ (M = L ∧ d ≤ r ∧ r < d + n) →
    mget (h g L).vpois false (r * 32 + M) = mget g.vpois false (r * 32 + M)
  rest : ∀ g L, (h g L).noV = g.noV

/-- A lane-by-lane write over lanes. -/
theorem LaneWrite.foldl {h : Group → Nat → Group} {d n : Nat} {w : Nat → Nat → Word} (lw : LaneWrite h d n w) (l : List Nat)
    (hl : ∀ L ∈ l, L < 32) (g : Group) :
    (∀ r M, M < 32 → vget (l.foldl h g) r M = if M ∈ l ∧ d ≤ r ∧ r < d + n then w M (r - d) else vget g r M)
      ∧ (∀ r M, M < 32 → ¬ (M ∈ l ∧ d ≤ r ∧ r < d + n) → mget (l.foldl h g).vpois false (r * 32 + M) = mget g.vpois false (r * 32 + M))
      ∧ (l.foldl h g).noV = g.noV := by
  induction l generalizing g with
  | nil => exact ⟨fun _ _ _ => by simp, fun _ _ _ _ => rfl, rfl⟩
  | cons L r ih =>
    have hL := hl L (by simp)
    obtain ⟨a, b, c⟩ := ih (fun x hx => hl x (by simp [hx])) (h g L)
    refine ⟨fun q M hM => ?_, fun q M hM hn => ?_, c.trans (lw.rest g L)⟩
    · rw [List.foldl_cons, a q M hM, lw.get g L q M hL hM]
      by_cases hd : d ≤ q ∧ q < d + n
      · by_cases hm : M = L
        · subst hm; simp [hd]
        · simp [hd, hm]
      · rw [if_neg (fun x => hd x.2), if_neg (fun x => hd x.2), if_neg (fun x => hd x.2)]
    · rw [List.foldl_cons, b q M hM (fun x => hn ⟨by simp [x.1], x.2⟩)]
      exact lw.pois g L q M hL hM fun x => hn ⟨by simp [x.1], x.2⟩

theorem LaneWrite.vset (d : Nat) (f : Nat → Word) : LaneWrite (fun g L => vset g d L (f L)) d 1 (fun L _ => f L) where
  get g L r M hL hM := by
    rw [vget_vset hL hM]
    by_cases h : r = d ∧ M = L
    · rw [if_pos h, if_pos ⟨h.2, by omega, by omega⟩]
    · rw [if_neg h, if_neg (fun x => h ⟨by omega, x.1⟩)]
  pois g L r M hL hM hn := by rw [vpois_vset hL hM, if_neg (fun x => hn ⟨x.2, by omega, by omega⟩)]
  rest _ _ := rfl

/-- Word `i` of a number. -/
def wordAtOf (x i : Nat) : Word := BitVec.ofNat 32 (x / 2 ^ (32 * i))

theorem LaneWrite.vset64 (d : Nat) (f : Nat → DWord) :
    LaneWrite (fun g L => vset64 g d L (f L)) d 2 (fun L i => wordAtOf (f L).toNat i) where
  get g L r M hL hM := by
    simp only [Machine.vset64]
    rw [vget_vset hL hM, vget_vset hL hM]
    by_cases h : M = L ∧ d ≤ r ∧ r < d + 2
    · rw [if_pos h]
      obtain ⟨h1, h2, h3⟩ := h
      by_cases e : r = d
      · subst e
        rw [if_neg (by omega), if_pos ⟨rfl, h1⟩]
        apply BitVec.eq_of_toNat_eq
        simp [wordAtOf]
      · rw [if_pos ⟨by omega, h1⟩, show r - d = 1 by omega]
        apply BitVec.eq_of_toNat_eq
        simp [wordAtOf, Nat.shiftRight_eq_div_pow]
    · rw [if_neg h, if_neg (by omega), if_neg (by omega)]
  pois g L r M hL hM hn := by
    simp only [Machine.vset64]
    rw [vpois_vset hL hM, vpois_vset hL hM, if_neg (by omega), if_neg (by omega)]
  rest _ _ := rfl

theorem LaneWrite.vput (t : Ty) (d : Nat) (f : Nat → Nat) :
    LaneWrite (fun g L => vput g t d L (f L)) d (tyRegs1 t) (fun L i => wordAtOf (f L % 2 ^ (32 * tyRegs1 t)) i) := by
  unfold Machine.vput
  by_cases h : tyRegs1 t = 2
  · simp only [h, if_true]
    have := LaneWrite.vset64 d fun L => BitVec.ofNat 64 (f L)
    simpa using this
  · have h1 : tyRegs1 t = 1 := by cases t <;> simp_all [tyRegs1]
    simp only [h, if_false]
    rw [h1]
    refine ⟨fun g L r M hL hM => ?_, (LaneWrite.vset d fun L => BitVec.ofNat 32 (f L)).pois, fun _ _ => rfl⟩
    rw [(LaneWrite.vset d fun L => BitVec.ofNat 32 (f L)).get g L r M hL hM]
    by_cases e : M = L ∧ d ≤ r ∧ r < d + 1
    · rw [if_pos e, if_pos e, show r - d = 0 by omega]
      apply BitVec.eq_of_toNat_eq
      simp [wordAtOf]
    · rw [if_neg e, if_neg e]

/-! ### The shells -/

/-- A group whose vector registers alone were written, lane by lane. -/
theorem RegsKept.vec {v : View} {g : Group} {h : Group → Nat → Group} {d n : Nat} {w : Nat → Nat → Word} (lw : LaneWrite h d n w)
    (e : g = (lanesOf v.exec).foldl h v.g) : RegsKept v.g g (vecOf v d n) := by
  obtain ⟨a, b, c⟩ := lw.foldl (lanesOf v.exec) (fun _ => lanesOf_lt) v.g
  rw [← e] at a b c
  have q : ∀ {α : Type} (f : Group → α), f g.noV = f v.g.noV := fun f => congrArg f c
  refine ⟨fun r L hL hn => ?_, fun r L hL hn => ?_, fun r _ => ?_, fun r _ => ?_, fun n L _ _ => ?_, fun n _ => ?_, fun n _ => ?_,
    fun _ => q (·.fstat), fun _ => q (·.gsplit), fun _ => q (·.steprnd), fun _ => q (·.fptrap), fun _ n _ => ?_⟩
  · rw [a r L hL, if_neg (fun x => hn ⟨mem_lanesOf.1 x.1, x.2⟩)]
  · exact b r L hL fun x => hn ⟨mem_lanesOf.1 x.1, x.2⟩
  · exact q fun g => sget g r
  · exact q fun g => mget g.spois false r
  · exact q fun g => (pget g n).getLsbD L
  · exact q fun g => kget g n
  · exact q fun g => dget g n
  · exact q fun g => lcget g n

theorem RegsKept.flagged {g : Group} {e : Eff} {w : Written} (h : RegsKept g e.g w) (hf : e.flags = [] ∨ w.fstat) :
    RegsKept g (flagged e) w where
  v := h.v
  vpois := h.vpois
  s := h.s
  spois := h.spois
  p := h.p
  k := h.k
  d := h.d
  fstat hw := by
    rcases hf with hf | hf
    · exact (flagged_noFlags hf).2.trans (h.fstat hw)
    · exact absurd hf hw
  gsplit := h.gsplit
  steprnd := h.steprnd
  fptrap := h.fptrap
  lc := h.lc

/-- An ALU instruction that writes registers lane by lane and raises no flag. -/
theorem alu_completes {s : State} {v : View} {g : Group} {h : Group → Nat → Group} {d n : Nat} {w : Nat → Nat → Word} (lw : LaneWrite h d n w)
    (e : g = (lanesOf v.exec).foldl h v.g) (own : v.is.step = none) (d' n' : Nat) (wide : Bool) :
    Completes s v (.next (alu s v g [] d' n' wide)) (vecOf v d n)
      (fun h => ∀ L i, v.exec.getLsbD L = true → i < n → vget h (d + i) L = w L i) (NoWeirs s v) := by
  have c := (lw.foldl (lanesOf v.exec) (fun _ => lanesOf_lt) v.g)
  rw [← e] at c
  refine completes_finish _ own rfl rfl (congrArg (·.loops) c.2.2) ((RegsKept.vec lw e).flagged (.inl rfl)) (fun h m L i hL hi => ?_) id
    (fun _ => .inl rfl)
  rw [m.same.vget]
  have := c.1 (d + i) L (BitVec.lt_of_getLsbD hL)
  rw [if_pos ⟨mem_lanesOf.2 hL, by omega, by omega⟩, show d + i - d = i by omega] at this
  exact this

theorem Completes.mono {s : State} {v : View} {o : Host.Outcome State Fault Refusal} {w : Written} {R R' : Group → Prop} {q : Prop}
    (h : Completes s v o w R q) (f : ∀ g, R g → R' g) : Completes s v o w R' q :=
  let ⟨t, g, a, b, c, d, e⟩ := h; ⟨t, g, a, b, f g c, d, e⟩

/-- A vector instruction with a 32-bit result. -/
theorem runV_completes {s : State} {v : View} {u : Uses} (h : Ready s v u) (d : Nat) (f : Group → Nat → Word) :
    Completes s v (runV s u d f) (vecOf v d 1) (fun g => ∀ L, v.exec.getLsbD L = true → vget g d L = f v.g L) (NoWeirs s v) := by
  rw [runV, run_ready h]
  exact (alu_completes (LaneWrite.vset d (f v.g)) rfl h.own _ _ _).mono fun g hg L hL => hg L 0 hL (by omega)

theorem wordAtOf_vbits {g : Group} {t : Ty} {d L x : Nat} (hx : x < 2 ^ (32 * tyRegs1 t))
    (h : ∀ i, i < tyRegs1 t → vget g (d + i) L = wordAtOf x i) : vbits g t d L = x := by
  unfold vbits
  by_cases e : tyRegs1 t = 2
  · rw [e] at hx h
    rw [if_pos e, vget64, h 1 (by omega), show vget g d L = vget g (d + 0) L from rfl, h 0 (by omega)]
    simp only [wordAtOf]
    rw [BitVec.toNat_append, BitVec.toNat_ofNat, BitVec.toNat_ofNat, ← Nat.shiftLeft_add_eq_or_of_lt (by omega), Nat.shiftLeft_eq]
    omega
  · have h1 : tyRegs1 t = 1 := by cases t <;> simp_all [tyRegs1]
    rw [h1] at hx h
    rw [if_neg e, show vget g d L = vget g (d + 0) L from rfl, h 0 (by omega)]
    simp only [wordAtOf, BitVec.toNat_ofNat]
    omega

/-- A vector instruction with a result of a type. -/
theorem runT_completes {s : State} {v : View} {u : Uses} (h : Ready s v u) (t : Ty) (d : Nat) (f : Group → Nat → Nat) :
    Completes s v (runT s u t d f) (vecOf v d (tyRegs1 t))
      (fun g => ∀ L, v.exec.getLsbD L = true → vbits g t d L = f v.g L % 2 ^ (32 * tyRegs1 t)) (NoWeirs s v) := by
  rw [runT, run_ready h]
  exact (alu_completes (LaneWrite.vput t d (f v.g)) rfl h.own _ _ _).mono fun g hg L hL =>
    wordAtOf_vbits (Nat.mod_lt _ (Nat.two_pow_pos _)) fun i hi => hg L i hL hi

/-- A commit that changes no vector register, and raises no flag. -/
theorem plain_completes {s : State} {v : View} (g : Group) {w : Written} {R : Group → Prop} (own : v.is.step = none)
    (hl : g.loops = v.g.loops) (hk : RegsKept v.g g w) (hR : ∀ h, Moves g h → R h) :
    Completes s v (.next (finish s v { g := g })) w R (NoWeirs s v) :=
  completes_finish { g := g } own rfl rfl hl (hk.flagged (e := { g := g }) (.inl rfl))
    (fun h m => hR h (Moves.trans (b := flagged { g := g }) (.of_eq rfl (flagged_noFlags rfl).2 rfl rfl) m)) id (fun _ => .inl rfl)

theorem RegsKept.sset (g : Group) (d : Nat) (x : Word) : RegsKept g (sset g d x) { s := (· = d) } :=
  { RegsKept.refl g _ with
    s := fun r hr => by rw [sget_sset, if_neg hr]
    spois := fun r hr => by rw [spois_sset, if_neg hr] }

theorem RegsKept.trans {a b c : Group} {w : Written} (h : RegsKept a b w) (h' : RegsKept b c w) (e : b.loops = a.loops) :
    RegsKept a c w where
  v r L hL hn := (h'.v r L hL hn).trans (h.v r L hL hn)
  vpois r L hL hn := (h'.vpois r L hL hn).trans (h.vpois r L hL hn)
  s r hn := (h'.s r hn).trans (h.s r hn)
  spois r hn := (h'.spois r hn).trans (h.spois r hn)
  p n L hL hn := (h'.p n L hL hn).trans (h.p n L hL hn)
  k n hn := (h'.k n hn).trans (h.k n hn)
  d n hn := (h'.d n hn).trans (h.d n hn)
  fstat hn := (h'.fstat hn).trans (h.fstat hn)
  gsplit hn := (h'.gsplit hn).trans (h.gsplit hn)
  steprnd hn := (h'.steprnd hn).trans (h.steprnd hn)
  fptrap := fun hw => (h'.fptrap hw).trans (h.fptrap hw)
  lc hn n hw := (h'.lc (noLoops_congr e hn) n hw).trans (h.lc hn n hw)

theorem RegsKept.mono {g h : Group} {w w' : Written} (k : RegsKept g h w) (v : ∀ r L, w.v r L → w'.v r L) (s : ∀ r, w.s r → w'.s r)
    (p : ∀ n L, w.p n L → w'.p n L) (m : ∀ n, w.k n → w'.k n) (d : ∀ n, w.d n → w'.d n) (f : w.fstat → w'.fstat)
    (gs : w.gsplit → w'.gsplit) (sr : w.steprnd → w'.steprnd) (ft : w.fptrap → w'.fptrap) (lc : ∀ n, w.lc n → w'.lc n) : RegsKept g h w' where
  v r L hL hn := k.v r L hL (mt (v r L) hn)
  vpois r L hL hn := k.vpois r L hL (mt (v r L) hn)
  s r hn := k.s r (mt (s r) hn)
  spois r hn := k.spois r (mt (s r) hn)
  p n L hL hn := k.p n L hL (mt (p n L) hn)
  k n hn := k.k n (mt (m n) hn)
  d n hn := k.d n (mt (d n) hn)
  fstat hn := k.fstat (mt f hn)
  gsplit hn := k.gsplit (mt gs hn)
  steprnd hn := k.steprnd (mt sr hn)
  fptrap hn := k.fptrap (mt ft hn)
  lc hn n hw := k.lc hn n (mt (lc n) hw)

theorem RegsKept.sset64 (g : Group) (d : Nat) (x : DWord) : RegsKept g (sset64 g d x) { s := fun r => r = d ∨ r = d + 1 } := by
  have a (g : Group) (r : Nat) (y : Word) (hr : r = d ∨ r = d + 1) : RegsKept g (Machine.sset g r y) { s := fun r => r = d ∨ r = d + 1 } :=
    (RegsKept.sset g r y).mono (fun _ _ h => h) (fun _ h => (show _ = r from h) ▸ hr) (fun _ _ h => h) (fun _ h => h) (fun _ h => h) id id id id
      (fun _ h => h)
  exact (a g d _ (.inl rfl)).trans (a _ (d + 1) _ (.inr rfl)) rfl

theorem RegsKept.kset (g : Group) (d : Nat) (x : Word) : RegsKept g (kset g d x) { k := (· = d) } :=
  { RegsKept.refl g _ with k := fun r hr => by rw [kget_kset, if_neg hr] }

theorem RegsKept.pset (g : Group) (d : Nat) (m x : Word) : RegsKept g (pset g d m x) { p := fun n L => n = d ∧ m.getLsbD L = true } :=
  { RegsKept.refl g _ with p := fun n L hL hn => by rw [pget_pset_bit hL, if_neg hn] }

theorem sget64_sset64 (g : Group) (d : Nat) (x : DWord) : sget64 (sset64 g d x) d = x := by
  simp only [sget64, Machine.sset64, sget_sset]
  simp only [if_true, show ¬ d = d + 1 by omega, if_false]
  apply BitVec.eq_of_toNat_eq
  rw [BitVec.toNat_append, ← Nat.shiftLeft_add_eq_or_of_lt (by omega), Nat.shiftLeft_eq]
  simp [Nat.shiftRight_eq_div_pow]
  omega

/-- A scalar instruction with a 32-bit result. -/
theorem runS_sset {s : State} {v : View} {u : Uses} (h : Ready s v u) (d : Nat) (x : Group → Word) :
    Completes s v (runS s u fun g => sset g d (x g)) { s := (· = d) } (fun g => sget g d = x v.g) (NoWeirs s v) := by
  rw [runS, run_ready h]
  refine plain_completes (sset v.g d (x v.g)) h.own rfl (.sset _ _ _) fun h m => ?_
  rw [m.same.sget, sget_sset, if_pos rfl]

/-- A scalar instruction with a 64-bit result. -/
theorem runS_sset64 {s : State} {v : View} {u : Uses} (h : Ready s v u) (d : Nat) (x : Group → DWord) :
    Completes s v (runS s u fun g => sset64 g d (x g)) { s := fun r => r = d ∨ r = d + 1 } (fun g => sget64 g d = x v.g) (NoWeirs s v) := by
  rw [runS, run_ready h]
  refine plain_completes (sset64 v.g d (x v.g)) h.own rfl (.sset64 _ _ _) fun h m => ?_
  rw [show sget64 h d = sget64 (sset64 v.g d (x v.g)) d by simp only [sget64, m.same.sget], sget64_sset64]

/-- An instruction that writes a mask. -/
theorem runS_kset {s : State} {v : View} {u : Uses} (h : Ready s v u) (d : Nat) (x : Group → Word) :
    Completes s v (runS s u fun g => kset g d (x g)) { k := (· = d) } (fun g => kget g d = x v.g) (NoWeirs s v) := by
  rw [runS, run_ready h]
  refine plain_completes (kset v.g d (x v.g)) h.own rfl (.kset _ _ _) fun h m => ?_
  rw [m.same.kget, kget_kset, if_pos rfl]

/-- An instruction that writes a predicate in the lanes of EXEC. -/
theorem runP_completes {s : State} {v : View} {u : Uses} (h : Ready s v u) (d : Nat) (f : Group → Nat → Bool) :
    Completes s v (runP s u d f) { p := fun n L => n = d ∧ v.exec.getLsbD L = true }
      (fun g => ∀ L, v.exec.getLsbD L = true → (pget g d).getLsbD L = f v.g L) (NoWeirs s v) := by
  rw [runP, run_ready h]
  refine plain_completes (pset v.g d v.exec _) h.own rfl (.pset _ _ _ _) fun h m L hL => ?_
  have hL' := BitVec.lt_of_getLsbD hL
  rw [m.same.pget, pget_pset_bit hL', if_pos ⟨rfl, hL⟩, getLsbD_maskOf, hL]
  simp [hL']

end Sys2Proof.Machine
end

