-- ==== Sys2Proof/Laws/Float.lean ====
section
/-! SUPPORT. Laws/Float.lean: what the shells of instructions with flags do: results of a type, of several words, and lone results. -/

namespace Sys2Proof.Machine

/-! ### Results with flags -/

/-- The OR of a number over the lanes of a mask. -/
theorem allFlags_filter (l : List Nat) (f : Nat → Nat) (a : Nat) :
    (((l.map fun L => (L, f L)).filter fun e => e.2 != 0).foldl (fun a e => Nat.lor a e.2) a) = l.foldl (fun a L => Nat.lor a (f L)) a := by
  induction l generalizing a with
  | nil => rfl
  | cons x r ih =>
    simp only [List.map_cons, List.filter_cons, List.foldl_cons]
    by_cases h : f x = 0
    · simp only [h, bne_self_eq_false, Bool.false_eq_true, if_false]
      rw [show Nat.lor a 0 = a from Nat.or_zero a]; exact ih a
    · simp only [bne_iff_ne, ne_eq, h, not_false_eq_true, if_true, List.foldl_cons]; exact ih _

theorem lor_foldl (l : List Nat) (f : Nat → Nat) (a b : Nat) :
    Nat.lor a (l.foldl (fun a L => Nat.lor a (f L)) b) = l.foldl (fun a L => Nat.lor a (f L)) (Nat.lor a b) := by
  induction l generalizing b with
  | nil => rfl
  | cons x r ih =>
    rw [List.foldl_cons, List.foldl_cons, ih]
    congr 1
    exact (Nat.or_assoc a b (f x)).symm

/-- The flags that a commit leaves. -/
theorem fstat_flagged (e : Eff) (l : List Nat) (f : Nat → Nat) (h : e.flags = (l.map fun L => (L, f L)).filter fun e => e.2 != 0) :
    (flagged e).fstat = l.foldl (fun a L => Nat.lor a (f L)) e.g.fstat := by
  show Nat.lor e.g.fstat (allFlags e.flags) = _
  rw [h, allFlags, allFlags_filter, lor_foldl]
  congr 1
  exact Nat.or_zero _

/-- What is kept is kept where FSTAT may be written as well. -/
theorem RegsKept.withFlags {g h : Group} {w : Written} (k : RegsKept g h w) : RegsKept g h { w with fstat := True } :=
  k.mono (w' := { w with fstat := True }) (fun _ _ h => h) (fun _ h => h) (fun _ _ h => h) (fun _ h => h) (fun _ h => h)
    (fun _ => trivial) id id id (fun _ h => h)

/-- Extended values are no registers of R148. -/
theorem RegsKept.withExt {g h : Group} {w : Written} (k : RegsKept g h w) (x : AMap Ext) : RegsKept g { h with ext := x } w :=
  ⟨k.v, k.vpois, k.s, k.spois, k.p, k.k, k.d, k.fstat, k.gsplit, k.steprnd, k.fptrap, k.lc⟩

/-- An ALU instruction that writes registers lane by lane, with flags, and may leave extended values. -/
theorem aluF_completes {s : State} {v : View} {g : Group} {h : Group → Nat → Group} {d n : Nat} {w : Nat → Nat → Word}
    (lw : LaneWrite h d n w) (x : AMap Ext) (e : g = { (lanesOf v.exec).foldl h v.g with ext := x }) (own : v.is.step = none) (d' n' : Nat)
    (wide : Bool) (f : Nat → Nat) {fl : AMap Nat} (hfl : fl = ((lanesOf v.exec).map fun L => (L, f L)).filter fun e => e.2 != 0) :
    Completes s v (.next (alu s v g fl d' n' wide)) { vecOf v d n with fstat := True }
      (fun h => (∀ L i, v.exec.getLsbD L = true → i < n → vget h (d + i) L = w L i)
        ∧ h.fstat = (lanesOf v.exec).foldl (fun a L => Nat.lor a (f L)) v.g.fstat) (NoWeirs s v ∧ v.g.fptrap = 0) := by
  have c := (lw.foldl (lanesOf v.exec) (fun _ => lanesOf_lt) v.g)
  have k := RegsKept.vec (v := v) lw rfl
  generalize (lanesOf v.exec).foldl h v.g = g0 at *
  subst e
  have hg : g0.fptrap = v.g.fptrap := congrArg (·.fptrap) c.2.2
  have hs : g0.fstat = v.g.fstat := congrArg (·.fstat) c.2.2
  refine completes_finish _ own rfl rfl (congrArg (·.loops) c.2.2)
    ((k.withExt x).withFlags.flagged (.inr trivial)) (fun h m => ⟨fun L i hL hi => ?_, ?_⟩) (·.1) (fun q => .inr (hg.trans q.2))
  · rw [m.same.vget]
    have := c.1 (d + i) L (BitVec.lt_of_getLsbD hL)
    rw [if_pos ⟨mem_lanesOf.2 hL, by omega, by omega⟩, show d + i - d = i by omega] at this
    exact this
  · rw [m.same.2, fstat_flagged _ _ f hfl]
    show List.foldl _ g0.fstat _ = _
    rw [hs]

/-- Results of a type with flags, one for each lane of EXEC. -/
theorem laneResults_completes {s : State} {v : View} (own : v.is.step = none) (t : Ty) (d : Nat) (res : Nat → Nat × Nat) :
    Completes s v (.next (laneResults s v t d res)) { vecOf v d (tyRegs1 t) with fstat := True }
      (fun h => (∀ L, v.exec.getLsbD L = true → vbits h t d L = (res L).1 % 2 ^ (32 * tyRegs1 t))
        ∧ h.fstat = (lanesOf v.exec).foldl (fun a L => Nat.lor a (res L).2) v.g.fstat) (NoWeirs s v ∧ v.g.fptrap = 0) := by
  unfold laneResults
  refine (aluF_completes (LaneWrite.vput t d fun L => (res L).1) _ (congrArg (fun g : Group => { g with ext := g.ext }) (List.foldl_map ..)) own _ _ _ (fun L => (res L).2) ?_).mono
    fun g hg => ⟨fun L hL => wordAtOf_vbits (Nat.mod_lt _ (Nat.two_pow_pos _)) fun i hi => hg.1 L i hL hi, hg.2⟩
  rw [List.filter_map, List.map_map, List.filter_map]
  rfl

/-- Two writes of a lane in sequence. -/
theorem LaneWrite.comp {f f' : Group → Nat → Group} {d n n' : Nat} {w w' : Nat → Nat → Word} (a : LaneWrite f d n w)
    (b : LaneWrite f' (d + n) n' w') :
    LaneWrite (fun g L => f' (f g L) L) d (n + n') (fun L i => if i < n then w L i else w' L (i - n)) where
  get g L r M hL hM := by
    rw [b.get _ _ _ _ hL hM, a.get _ _ _ _ hL hM]
    by_cases h : M = L ∧ d ≤ r ∧ r < d + (n + n')
    · rw [if_pos h]
      by_cases q : r - d < n
      · rw [if_neg (by omega), if_pos (by omega), if_pos q]
      · rw [if_pos (by omega), if_neg q, show r - (d + n) = r - d - n by omega]
    · rw [if_neg h, if_neg (by omega), if_neg (by omega)]
  pois g L r M hL hM hn := by rw [b.pois _ _ _ _ hL hM (by omega), a.pois _ _ _ _ hL hM (by omega)]
  rest g L := (b.rest _ _).trans (a.rest _ _)

theorem LaneWrite.congr {f : Group → Nat → Group} {d n n' : Nat} {w w' : Nat → Nat → Word} (a : LaneWrite f d n w) (hn : n = n')
    (hw : ∀ L i, i < n → w L i = w' L i) : LaneWrite f d n' w' := by
  subst hn
  refine ⟨fun g L r M hL hM => ?_, a.pois, a.rest⟩
  rw [a.get g L r M hL hM]
  split
  · next h => exact hw _ _ (by omega)
  · rfl

/-- The words of a lane's result, in consecutive registers or pairs. -/
theorem LaneWrite.putWords (t : Ty) (d n : Nat) (ws : Nat → List Nat) (hn : ∀ L, (ws L).length = n) :
    LaneWrite (fun g L => putWords g t d L (ws L)) d (n * tyRegs1 t)
      (fun L i => wordAtOf ((ws L).getD (i / tyRegs1 t) 0 % 2 ^ (32 * tyRegs1 t)) (i % tyRegs1 t)) := by
  have r0 : 0 < tyRegs1 t := by cases t <;> decide
  induction n generalizing ws with
  | zero =>
    have : ∀ L, ws L = [] := fun L => List.eq_nil_of_length_eq_zero (hn L)
    simp only [Machine.putWords, this]
    exact ⟨fun g L r M _ _ => by rw [if_neg (by omega)]; rfl, fun _ _ _ _ _ _ _ => rfl, fun _ _ => rfl⟩
  | succ n ih =>
    have e : ∀ L, ws L = (ws L).take n ++ [(ws L).getD n 0] := fun L => by
      obtain ⟨x, hx⟩ : ∃ x, (ws L).drop n = [x] := List.length_eq_one_iff.1 (by rw [List.length_drop, hn]; omega)
      have hd : (ws L).getD n 0 = x := by
        have := List.getElem?_drop (xs := ws L) (i := n) (j := 0)
        rw [hx] at this
        rw [List.getD_eq_getElem?_getD, show n = n + 0 from rfl, ← this]
        rfl
      rw [hd, ← hx, List.take_append_drop]
    have a := ih (fun L => (ws L).take n) (fun L => by rw [List.length_take, hn]; omega)
    have b := LaneWrite.vput t (d + n * tyRegs1 t) fun L => (ws L).getD n 0
    have c := a.comp b
    have eq : (fun g L => Machine.putWords g t d L (ws L))
        = fun g L => Machine.vput (Machine.putWords g t d L ((ws L).take n)) t (d + n * tyRegs1 t) L ((ws L).getD n 0) := by
      funext g L
      conv => lhs; rw [e L]
      simp only [Machine.putWords, List.zipIdx_append, List.foldl_append, List.length_take, hn, List.zipIdx_cons, List.zipIdx_nil,
        List.foldl_cons, List.foldl_nil]
      rw [show 0 + min n (n + 1) = n by omega]
    rw [eq]
    refine c.congr (by rw [Nat.succ_mul]) fun L i hi => ?_
    split
    · next h =>
      have : i / tyRegs1 t < n := Nat.div_lt_of_lt_mul (by rw [Nat.mul_comm]; exact h)
      simp only [List.getD_eq_getElem?_getD, List.getElem?_take, this, if_true]
    · next h =>
      have hq : i / tyRegs1 t = n := Nat.div_eq_of_lt_le (by omega) (by rw [Nat.succ_mul]; omega)
      have hm : i - n * tyRegs1 t = i % tyRegs1 t := by
        have := Nat.div_add_mod i (tyRegs1 t)
        rw [hq, Nat.mul_comm] at this
        omega
      rw [hq, hm]

/-- The words of a lane's result, read back. -/
theorem vbits_putWords {g : Group} {t : Ty} {d L : Nat} {ws : List Nat} {n i : Nat} (hi : i < n)
    (h : ∀ j, j < n * tyRegs1 t → vget g (d + j) L = wordAtOf (ws.getD (j / tyRegs1 t) 0 % 2 ^ (32 * tyRegs1 t)) (j % tyRegs1 t)) :
    vbits g t (d + i * tyRegs1 t) L = ws.getD i 0 % 2 ^ (32 * tyRegs1 t) := by
  have r0 : 0 < tyRegs1 t := by cases t <;> decide
  refine wordAtOf_vbits (Nat.mod_lt _ (Nat.two_pow_pos _)) fun j hj => ?_
  have lt : i * tyRegs1 t + j < n * tyRegs1 t := by
    have := Nat.mul_le_mul_right (tyRegs1 t) (Nat.succ_le_of_lt hi)
    rw [Nat.succ_mul] at this
    omega
  have := h (i * tyRegs1 t + j) lt
  rw [show d + (i * tyRegs1 t + j) = d + i * tyRegs1 t + j by omega] at this
  rw [this]
  congr 1
  · rw [Nat.mul_comm, Nat.mul_add_div r0, Nat.div_eq_of_lt hj]; rfl
  · rw [Nat.mul_comm, Nat.mul_add_mod, Nat.mod_eq_of_lt hj]

/-- Results of several words of a format, with flags. -/
theorem wordResults_completes {s : State} {v : View} (own : v.is.step = none) (t : Ty) (d n : Nat) (res : Nat → List Nat × Nat)
    (hn : ∀ L, (res L).1.length = n) :
    Completes s v (.next (wordResults s v t d n res)) { vecOf v d (n * tyRegs1 t) with fstat := True }
      (fun h => (∀ L i, v.exec.getLsbD L = true → i < n → vbits h t (d + i * tyRegs1 t) L = (res L).1.getD i 0 % 2 ^ (32 * tyRegs1 t))
        ∧ h.fstat = (lanesOf v.exec).foldl (fun a L => Nat.lor a (res L).2) v.g.fstat) (NoWeirs s v ∧ v.g.fptrap = 0) := by
  unfold wordResults
  refine (aluF_completes (LaneWrite.putWords t d n (fun L => (res L).1) hn) _
    (congrArg (fun g : Group => { g with ext := g.ext }) (List.foldl_map ..)) own _ _ _ (fun L => (res L).2) ?_).mono
    fun g hg => ⟨fun L i hL hi => vbits_putWords hi fun j hj => hg.1 L j hL hj, hg.2⟩
  rw [List.filter_map, List.map_map, List.filter_map]
  rfl

theorem foldl_ext (l : List (Nat × FOut)) (d : Nat) (t : Ty) (g : Group) :
    ∃ x, l.foldl (fun g e => { g with ext := mput g.ext (d * 32 + e.1) { ty := t, x := e.2.ext } }) g = { g with ext := x } := by
  induction l generalizing g with
  | nil => exact ⟨g.ext, rfl⟩
  | cons e r ih => obtain ⟨x, hx⟩ := ih { g with ext := mput g.ext (d * 32 + e.1) { ty := t, x := e.2.ext } }; exact ⟨x, hx⟩

/-- Lone floating-point results. -/
theorem fLone_completes {s : State} {v : View} (own : v.is.step = none) (t : Ty) (d : Nat) (wr : Bool) (f : Nat → FOut) :
    Completes s v (.next (fLone s v t d wr f)) { vecOf v d (tyRegs1 t) with fstat := True }
      (fun h => (∀ L, v.exec.getLsbD L = true → vbits h t d L = (f L).bits % 2 ^ (32 * tyRegs1 t))
        ∧ h.fstat = (lanesOf v.exec).foldl (fun a L => Nat.lor a (f L).fl) v.g.fstat) (NoWeirs s v ∧ v.g.fptrap = 0) := by
  unfold fLone
  dsimp only
  have key (g : Group) (hg : ∃ x, g = { (lanesOf v.exec).foldl (fun g L => vput g t d L (f L).bits) v.g with ext := x }) :
      Completes s v (.next (alu s v g ((((lanesOf v.exec).map fun L => (L, f L)).filter fun e => e.2.fl != 0).map fun e => (e.1, e.2.fl))
        d 1 (tyRegs1 t == 2))) { vecOf v d (tyRegs1 t) with fstat := True }
      (fun h => (∀ L, v.exec.getLsbD L = true → vbits h t d L = (f L).bits % 2 ^ (32 * tyRegs1 t))
        ∧ h.fstat = (lanesOf v.exec).foldl (fun a L => Nat.lor a (f L).fl) v.g.fstat) (NoWeirs s v ∧ v.g.fptrap = 0) := by
    obtain ⟨x, hx⟩ := hg
    refine (aluF_completes (LaneWrite.vput t d fun L => (f L).bits) x hx own _ _ _ (fun L => (f L).fl) ?_).mono
      fun g hg => ⟨fun L hL => wordAtOf_vbits (Nat.mod_lt _ (Nat.two_pow_pos _)) fun i hi => hg.1 L i hL hi, hg.2⟩
    rw [List.filter_map, List.map_map, List.filter_map]
    rfl
  apply key
  split
  · obtain ⟨x, hx⟩ := foldl_ext ((lanesOf v.exec).map fun L => (L, f L)) d t
      (((lanesOf v.exec).map fun L => (L, f L)).foldl (fun g e => vput g t d e.1 e.2.bits) v.g)
    exact ⟨x, by rw [hx, List.foldl_map]⟩
  · exact ⟨_, (List.foldl_map ..)⟩

end Sys2Proof.Machine
end

