-- ==== Sys2Proof/Laws/Flow.lean ====
section
/-! SUPPORT. Laws/Flow.lean: where the lanes of an entry stand after an instruction, while no loop is active. -/

namespace Sys2Proof.Machine

theorem laneGet_laneMod (g : Group) (m : Word) (f : Nat → Lane → Lane) (L : Nat) :
    laneGet (laneMod g m f) L = if m.getLsbD L = true then f L (laneGet g L) else laneGet g L := by
  have key (l : List Nat) (hl : l.Nodup) (g : Group) :
      laneGet (l.foldl (fun g L => laneSet g L (f L (laneGet g L))) g) L = if L ∈ l then f L (laneGet g L) else laneGet g L := by
    induction l generalizing g with
    | nil => rfl
    | cons x r ih =>
      rw [List.nodup_cons] at hl
      rw [List.foldl_cons, ih hl.2]
      by_cases h : L = x
      · subst h
        rw [if_neg hl.1, if_pos (by simp), laneGet_laneSet, if_pos rfl]
      · rw [laneGet_laneSet, if_neg h]
        simp [h]
  have := key (lanesOf m) ((List.nodup_range).filter _) g
  simpa only [laneMod, mem_lanesOf] using this

/-- The loop tests leave a group alone while no loop is active. -/
theorem loopTest_none {g : Group} {n : Nat} (h : (loopGet g n).active = false) : loopTest g n = g := by
  unfold loopTest
  simp [h]

theorem loopTests_none {g : Group} (h : NoLoops g) : (List.range 3).foldl loopTest g = g := by
  have : List.range 3 = [0, 1, 2] := rfl
  rw [this]
  simp only [List.foldl_cons, List.foldl_nil]
  rw [loopTest_none (h 0 (by omega)), loopTest_none (h 1 (by omega)), loopTest_none (h 2 (by omega))]

theorem laneGet_congr {g h : Group} (e : h.lanes = g.lanes) (L : Nat) : laneGet h L = laneGet g L := by simp only [laneGet, e]

/-- A lane that waits at no mask is left by the tests of masks. -/
theorem laneGet_passLanes (g : Group) (m : Word) (L : Nat) (h : m.getLsbD L = false) : laneGet (passLanes g m) L = laneGet g L := by
  have one (g : Group) (M : Nat) (hM : L ≠ M) : laneGet (passLane g M) L = laneGet g L := by
    unfold passLane
    dsimp only
    split
    · rw [laneGet_laneSet, if_neg hM]
    · split
      · unfold advLane; dsimp only; split <;> rw [laneGet_laneSet, if_neg hM]
      · rw [laneGet_laneSet, if_neg hM]
  have key (l : List Nat) (hl : L ∉ l) (g : Group) : laneGet (l.foldl passLane g) L = laneGet g L := by
    induction l generalizing g with
    | nil => rfl
    | cons x r ih =>
      simp only [List.mem_cons, not_or] at hl
      rw [List.foldl_cons, ih hl.2, one _ _ hl.1]
  exact key _ (fun x => by rw [mem_lanesOf] at x; rw [x] at h; exact Bool.noConfusion h) g

theorem laneGet_maskTest (g : Group) (k L : Nat) (h : (laneGet g L).st ≠ .waitK k) : laneGet (maskTest g k) L = laneGet g L := by
  unfold maskTest
  dsimp only
  have hw : (lanesWhere g fun l => l.st == .waitK k && !l.wake).getLsbD L = false := by
    rw [lanesWhere, getLsbD_maskOf]; simp [h]
  split
  · rfl
  · apply laneGet_passLanes
    split <;> simp [hw]

theorem loops_maskTest (g : Group) (k : Nat) (n : NoLoops g) : NoLoops (maskTest g k) := noLoops_congr ((Moves.maskTest g k).loops n).1 n

/-- A lane that waits at no mask keeps its place through the tests, while no loop is active. -/
theorem laneGet_settle {g : Group} (n : NoLoops g) (L : Nat) (h : ∀ k, k < 12 → (laneGet g L).st ≠ .waitK k) :
    laneGet (settle g) L = laneGet g L := by
  have one (l : List Nat) (hl : ∀ k ∈ l, k < 12) (g : Group) (n : NoLoops g) (h : ∀ k, k < 12 → (laneGet g L).st ≠ .waitK k) :
      laneGet (l.foldl maskTest g) L = laneGet g L ∧ NoLoops (l.foldl maskTest g) := by
    induction l generalizing g with
    | nil => exact ⟨rfl, n⟩
    | cons x r ih =>
      have e := laneGet_maskTest g x L (h x (hl x (by simp)))
      have := ih (fun k hk => hl k (by simp [hk])) (maskTest g x) (loops_maskTest g x n) (by rw [e]; exact h)
      exact ⟨this.1.trans e, this.2⟩
  have round (g : Group) (n : NoLoops g) (h : ∀ k, k < 12 → (laneGet g L).st ≠ .waitK k) :
      laneGet (settle1 g) L = laneGet g L ∧ NoLoops (settle1 g) := by
    unfold settle1
    rw [loopTests_none n]
    exact one _ (fun _ => List.mem_range.1) g n h
  unfold settle
  have a := round g n h
  have b := round _ a.2 (by rw [a.1]; exact h)
  have c := round _ b.2 (by rw [b.1, a.1]; exact h)
  have d := round _ c.2 (by rw [c.1, b.1, a.1]; exact h)
  rw [d.1, c.1, b.1, a.1]

theorem arriveLoop_none {g : Group} (n : NoLoops g) (hand : Bool) (L : Nat) (pc : DWord) : arriveLoop g hand L pc = none := by
  have : List.range 3 = [0, 1, 2] := rfl
  unfold arriveLoop
  rw [this]
  simp [n 0 (by omega), n 1 (by omega), n 2 (by omega)]

theorem leaveLoops_none {g : Group} (n : NoLoops g) (L : Nat) (t : Option DWord) : leaveLoops g L t = g := by
  have : List.range 3 = [0, 1, 2] := rfl
  have one (k : Nat) (hk : k < 3) : leaveLoop L t g k = g := by unfold leaveLoop; simp [n k hk]
  rw [leaveLoops, this]
  simp only [List.foldl_cons, List.foldl_nil, one 0 (by omega), one 1 (by omega), one 2 (by omega)]

/-- Where a lane of the entry goes, while no loop is active. -/
def laneMove (v : View) (e : Eff) (traps : Word) (L : Nat) (l : Lane) : Lane :=
  if (stayLanes e).getLsbD L then l
  else match mget? e.jumps L with
    | some t => goOn { l with pc := t, cl := none, waited := false }
    | none => match mget? e.stops L with
      | some st => { l with st := st, wake := false }
      | none => if traps.getLsbD L then standLane l v.is.cl v.npc
        else goOn (let l := laneAt l v.is.cl v.npc; if l.cl.isNone then { l with waited := false } else l)

theorem moveLane_none {v : View} {e : Eff} {traps : Word} {g : Group} (n : NoLoops g) (L : Nat) :
    ∀ M, laneGet (moveLane v e traps g L) M = if M = L then laneMove v e traps L (laneGet g L) else laneGet g M := by
  intro M
  unfold moveLane laneMove
  by_cases a : (stayLanes e).getLsbD L = true
  · rw [if_pos a, if_pos a]
    by_cases h : M = L <;> simp [h]
  · rw [if_neg a, if_neg a]
    cases mget? e.jumps L with
    | some t =>
      show laneGet (jumpLane g L t) M = _
      unfold jumpLane
      rw [leaveLoops_none n]
      dsimp only
      rw [laneGet_laneSet]
    | none =>
      cases mget? e.stops L with
      | some st => dsimp only; rw [laneGet_laneSet]
      | none =>
        dsimp only
        by_cases b : traps.getLsbD L = true
        · rw [if_pos b, if_pos b, laneGet_laneSet]
        · rw [if_neg b, if_neg b]
          unfold advLane
          dsimp only
          rw [arriveLoop_none n]
          dsimp only
          rw [laneGet_laneSet]

theorem loops_moveLane (v : View) (e : Eff) (traps : Word) (g : Group) (L : Nat) (n : NoLoops g) :
    NoLoops (moveLane v e traps g L) := by
  unfold moveLane
  split
  · exact n
  · split
    · unfold jumpLane
      rw [leaveLoops_none n]
      exact n
    · split
      · exact n
      · split
        · exact n
        · exact noLoops_congr ((Moves.advLane _ _ _ _).loops n).1 n

/-- Each lane of the entry moves by itself, while no loop is active. -/
theorem laneGet_moveLanes {v : View} {e : Eff} {traps : Word} (n : NoLoops e.g) (L : Nat) :
    laneGet (moveLanes v e traps) L = (if v.is.lanes.getLsbD L = true then laneMove v e traps L (laneGet e.g L) else laneGet e.g L)
      ∧ NoLoops (moveLanes v e traps) := by
  have key (l : List Nat) (hl : l.Nodup) (g : Group) (n : NoLoops g) :
      laneGet (l.foldl (moveLane v e traps) g) L = (if L ∈ l then laneMove v e traps L (laneGet g L) else laneGet g L)
        ∧ NoLoops (l.foldl (moveLane v e traps) g) := by
    induction l generalizing g with
    | nil => exact ⟨rfl, n⟩
    | cons x r ih =>
      rw [List.nodup_cons] at hl
      have h := ih hl.2 (moveLane v e traps g x) (loops_moveLane v e traps g x n)
      refine ⟨?_, h.2⟩
      rw [List.foldl_cons, h.1]
      by_cases hx : L = x
      · subst hx
        rw [if_neg hl.1, if_pos (by simp), moveLane_none n, if_pos rfl]
      · rw [moveLane_none n, if_neg hx]
        simp [hx]
  have := key (lanesOf v.is.lanes) ((List.nodup_range).filter _) e.g n
  simpa only [moveLanes, mem_lanesOf] using this

/-- A lane's place: what the bookkeeping of an issue leaves alone. -/
def Lane.place (l : Lane) : DWord × LSt × Option Clause × Bool × Bool × Bool := (l.pc, l.st, l.cl, l.hand, l.tret, l.haltPend)

theorem place_laneMod (g : Group) (m : Word) (f : Nat → Lane → Lane) (hf : ∀ L l, (f L l).place = l.place) (L : Nat) :
    (laneGet (laneMod g m f) L).place = (laneGet g L).place := by
  rw [laneGet_laneMod]; split
  · exact hf _ _
  · rfl

/-- What an instruction that stops no lane at a trap leaves: each lane of the entry where it goes, the others where they were. -/
theorem place_committed (v : View) (e : Eff) (traps : Word) (now : Nat) (n : NoLoops e.g) (hp : e.preHits = []) (L : Nat)
    (hw : ∀ k, k < 12 → (if v.is.lanes.getLsbD L = true then laneMove v e traps L (laneGet e.g L) else laneGet e.g L).st ≠ .waitK k) :
    (laneGet (committed v e traps now) L).place
      = (if v.is.lanes.getLsbD L = true then laneMove v e traps L (laneGet e.g L) else laneGet e.g L).place := by
  have m := laneGet_moveLanes (v := v) (e := { e with g := flagged e }) (traps := traps) n L
  have m1 : (if v.is.lanes.getLsbD L = true then laneMove v { e with g := flagged e } traps L (laneGet (flagged e) L)
      else laneGet (flagged e) L) = (if v.is.lanes.getLsbD L = true then laneMove v e traps L (laneGet e.g L) else laneGet e.g L) := rfl
  rw [m1] at m
  revert m
  generalize (if v.is.lanes.getLsbD L = true then laneMove v e traps L (laneGet e.g L) else laneGet e.g L) = x at *
  unfold committed
  generalize moveLanes v { e with g := flagged e } traps = g0
  intro m
  rw [hp]
  have c : (laneGet (countSkips v.g g0 v) L).place = x.place ∧ NoLoops (countSkips v.g g0 v) := by
    refine ⟨?_, noLoops_congr ((Moves.countSkips _ _ _).loops m.2).1 m.2⟩
    rw [← m.1]
    unfold countSkips
    split
    · rfl
    · dsimp only
      exact (place_laneMod _ _ _ (by intros; rfl) _).trans (place_laneMod _ _ _ (by intros; rfl) _)
  generalize countSkips v.g g0 v = g1 at *
  have d : (laneGet (markWaited g1 v) L).place = x.place ∧ NoLoops (markWaited g1 v) := by
    refine ⟨?_, noLoops_congr ((Moves.markWaited _ _).loops c.2).1 c.2⟩
    rw [← c.1]
    unfold markWaited
    dsimp only
    have := place_laneMod g1 v.is.lanes (fun _ l => { l with waited := l.cl.isSome, preOk := if l.hand then l.preOk else none })
      (fun _ _ => rfl) L
    split
    · exact this
    · exact this
  generalize markWaited g1 v = g2 at *
  show (laneGet (settle (laneMod g2 _ _)) L).place = _
  have f := place_laneMod g2 (stopMask e) (fun _ l => { l with since := now }) (fun _ _ => rfl) L
  have k : NoLoops (laneMod g2 (stopMask e) fun _ l => { l with since := now }) :=
    noLoops_congr ((Moves.laneMod _ _ _).loops d.2).1 d.2
  rw [laneGet_settle k, f, d.1]
  intro q hq
  have : (laneGet (laneMod g2 (stopMask e) fun _ l => { l with since := now }) L).st = x.st :=
    (congrArg (·.2.1) (f.trans d.1) :)
  rw [this]
  exact hw q hq

/-- Where the lanes stand after an instruction of the group's own issue, where no weir stands on the core, no enabled exception is
raised, no lane traps and no loop is active. -/
theorem finish_place (s : State) (v : View) (e : Eff) (own : v.is.step = none) (hw : NoWeirs s v) (ht : e.trap = none)
    (hp : e.preHits = []) (hf : raised v e = 0) (n : NoLoops e.g) :
    ∃ h cs pl, finish s v e = only s v.is.gid h cs pl ∧ Moves (flagged e) h ∧
      ∀ L, (∀ k, k < 12 → (if v.is.lanes.getLsbD L = true then laneMove v e 0 L (laneGet e.g L) else laneGet e.g L).st ≠ .waitK k) →
        (laneGet h L).place = (if v.is.lanes.getLsbD L = true then laneMove v e 0 L (laneGet e.g L) else laneGet e.g L).place := by
  obtain ⟨cs, pl, hc, hcw⟩ := chargeIssue_eq s v (e.jumps != []) e.mark
  have hr : commitWeirs (withCores s cs pl) v e = (withCores s cs pl, []) := by
    unfold commitWeirs
    rw [weirEval_none ((hcw _).trans hw), ite_self]
  have z : trapMask [] e.preHits (raised v e) = 0 := by rw [hp, hf]; decide
  refine ⟨committed v e 0 s.now, cs, pl, ?_, Moves.committed v e _ _, fun L hL => place_committed v e 0 s.now n hp L hL⟩
  simp only [finish, own, Option.isSome_none, Bool.false_eq_true, if_false, hc, hr, z]
  unfold ownTraps
  rw [ht, hf, hp]
  rfl

end Sys2Proof.Machine
end

