-- ==== Sys2Proof/Tests/Slice0.lean ====
section
/-! SUPPORT. Tests/Slice0.lean: checks of this model's own: ill-formed terms, words written out from the encoding, single steps, and for every
statement a state and operands that meet its hypotheses. -/

namespace Sys2Proof.Tests

-- one theorem at a time: each kernel evaluation has a deep stack
set_option Elab.async false

open Sys2Proof.Machine Sys2Proof.Stated

/-! ### States -/

/-- The words of an instruction as one number, as the opcode table numbers them. -/
def bitsOfInstr (i : Instr) : Nat := (encode i).getD 0 0 + 2 ^ 32 * (encode i).getD 1 0

/-- The state in which an instruction is the next to run, placed in a state. -/
def putIn (s : State) (i : Instr) : State := placeWord s (32 * (encode i).length) (bitsOfInstr i)

/-- The state in which an instruction is the next to run, placed after reset. -/
def one (i : Instr) : State := putIn State.reset i

/-- The same with the group's registers changed. -/
def oneWith (i : Instr) (f : Group → Group) : State := modGroup (one i) 0 f

/-- The chosen issue of a state has a property. -/
def issueIs (s : State) (p : View → Bool) : Bool := match view s with | some v => p v | none => false

theorem issueIs_view {s : State} {p : View → Bool} (h : issueIs s p = true) : ∃ v, view s = some v ∧ p v = true := by
  unfold issueIs at h
  split at h
  · exact ⟨_, ‹_›, h⟩
  · cases h

/-- The conditions of `Ready` on an issue. -/
def readyB (u : Uses) (v : View) : Bool := !usesBad v.ln.kern u && v.exec != 0 && !readsPoison v.g u v.exec && v.is.step.isNone

/-- The conditions of `Plain` on an issue. -/
def plainB (s : State) (v : View) : Bool :=
  (coreAt s v.tm.core).weirs == [] && ((List.range 3).all fun n => !(loopGet v.g n).active)
    && (List.range 32).all fun L => !(laneGet v.g L).haltPend

theorem ready_of {s : State} {v : View} {u : Uses} (h : view s = some v) (r : readyB u v = true) : Ready s v u := by
  simp only [readyB, Bool.and_eq_true, Bool.not_eq_true', bne_iff_ne, ne_eq, Option.isNone_iff_eq_none] at r
  exact ⟨h, r.1.1.1, r.1.1.2, r.1.2, r.2⟩

theorem lanes_of {m : Word} {p : Nat → Prop} (h : ∀ L, L < 32 → p L) (L : Nat) (hL : m.getLsbD L = true) : p L :=
  h L (BitVec.lt_of_getLsbD hL)

theorem plain_of {s : State} {v : View} (r : plainB s v = true) : Plain s v := by
  simp only [plainB, Bool.and_eq_true, beq_iff_eq, List.all_eq_true, List.mem_range, Bool.not_eq_true'] at r
  exact ⟨r.1.1, r.1.2, lanes_of r.2⟩

/-- An issue that is ready and plain and has a further property. -/
theorem issue {s : State} {u : Uses} (q : View → Bool) (h : issueIs s (fun v => readyB u v && plainB s v && q v) = true) :
    ∃ v, Ready s v u ∧ Plain s v ∧ q v = true := by
  obtain ⟨v, hv, r⟩ := issueIs_view h
  simp only [Bool.and_eq_true] at r
  exact ⟨v, ready_of hv r.1.1, plain_of r.1.2, r.2⟩

/-- An issue of the placed instruction, after reset. -/
theorem issueOf (i : Instr) (h : issueIs (one i) (fun v => readyB (uses i) v && plainB (one i) v && true) = true) :
    ∃ v, Ready (one i) v (uses i) ∧ Plain (one i) v := by
  obtain ⟨v, a, b, -⟩ := issue (fun _ => true) h
  exact ⟨v, a, b⟩

/-- The same with a decidable property of the issue. -/
theorem issueD {s : State} {u : Uses} (P : View → Prop) [DecidablePred P]
    (h : issueIs s (fun v => readyB u v && plainB s v && decide (P v)) = true) : ∃ v, Ready s v u ∧ Plain s v ∧ P v := by
  obtain ⟨v, a, b, c⟩ := issue (fun v => decide (P v)) h
  exact ⟨v, a, b, of_decide_eq_true c⟩

theorem lowest0 {m : Word} (h : m.getLsbD 0 = true) : LowestIn m 0 := ⟨h, fun _ h => absurd h (Nat.not_lt_zero _)⟩

/-- The chosen issue holds only some lanes. -/
def lanesOnly (s : State) (m : Word) : State := { s with sel := s.sel.map fun i => { i with lanes := m } }

/-- An entry of a map is one of its pairs. -/
theorem mget?_mem {α : Type} {m : AMap α} {k : Nat} {x : α} (h : mget? m k = some x) : (k, x) ∈ m := by
  induction m with
  | nil => cases h
  | cons e r ih =>
    obtain ⟨j, y⟩ := e
    simp only [mget?] at h
    split at h
    · simp_all
    · exact List.mem_cons_of_mem _ (ih h)

/-! ### Words written out from the encoding -/

/-- The operands of an access form. -/
def wm (d a : Nat) (b : Src) (off : Nat) (ty : Ty) (sc : Scope) (o : AOrder := .rlx) (dep : Option Nat := none) : LM :=
  { d := d, a := a, b := b, off := off, ty := ty, scope := sc, order := o, dep := dep }
/-- The operands of an atomic or synchronisation form. -/
def wt (d a : Nat) (b : Src) (c : Nat) (ty : Ty) (sc : Scope) (o : SOrder := .rlx) (rmt : Bool := false) : LT :=
  { d := d, a := a, b := b, c := c, ty := ty, scope := sc, order := o, rmt := rmt, dep := none }
/-- The operands of an arithmetic form. -/
def wl (d a : Nat) (b : Src) (c : Nat) (ty : Ty) (aux : Nat := 0) (rm : RM := .rne) : L :=
  { d := d, a := a, b := b, c := c, rm := rm, ty := ty, aux := aux }
/-- The operands of a matrix form. -/
def wx (d a : Nat) (b : Src) (c : Nat) (aty cty : Ty) (sp : Nat := 0) (dep : Option Nat := none) : LX :=
  { d := d, a := a, b := b, c := c, aty := aty, cty := cty, sp := sp, dep := dep }
/-- The operands of a system form. -/
def ws (d a : Nat) (b : Src) (c : Nat) (o : Nat := 0) (dep : Option Nat := none) : LS :=
  { d := d, a := a, b := b, c := c, order := o, dep := dep }

/-- A word, or two, decode to an instruction, and it is encoded as them. -/
def reads (w e : Nat) (i : Instr) : Bool :=
  decodeTableWord (if opLong (opOf w) then 64 else 32) (w + 2 ^ 32 * e) == some i && encode i == if opLong (opOf w) then [w, e] else [w]

-- the worked encodings of chapters 04 to 20
theorem test_decode_control : (reads 0 0 .nop && reads 0x16000000 0 .yield && reads 0x14000000 0 .exit && reads 0x0E160000 0 (.join 11)
    && reads 0x10160000 0 (.leave 11) && reads 0x12160000 0 (.waitk 11) && reads 0x02000005 0 (.bra 5) && reads 0x063C0008 0 (.call 30 8)
    && reads 0x1C09FFF0 0 (.pcrel 4 0x1FFF0) && reads 0x0C868006 0 (.loop 1 13 3 false)) = true := by decide
theorem test_decode_scalar : (reads 0b0010000_00000001_00000010_00000011_0 0 (.sadd { d := 1, a := 2, b := .reg 3 })
    && reads 0b0011001_00000010_0101011001111000_0 0 (.smovi { d := 2, imm := 0x5678 }) && reads 0b0011100_00000101_00000110_00000010_0 0 (.spopc 5 6)
    && reads 0b0011101_00000101_00000110_00000111_0 (0b00001000_00000001_000_00000_0000_0000) (.smad (wl 5 6 (.reg 7) 8 .i32))) = true := by decide
theorem test_decode_vector : (reads 0x46020003 0 (.and { d := 1, a := 0, b := .imm 1 }) && reads 0x4E000003 0 (.shr { d := 0, a := 0, b := .imm 1 })
    && reads 0x54000000 0 (.movi { d := 0, imm := 0 }) && reads 0x52440201 0 (.icmp .ne 2 1 (.imm 0)) && reads 0x53060221 0 (.icmp .ltN 3 1 (.imm 16))
    && reads 0x53CA0E2F 0 (.icmp .gtN 5 7 (.imm 23)) && reads 0x5628120F 0 (.vrdi 20 9) && reads 0x580E0201 0x04060100 (.isel (wl 7 1 (.imm 0) 4 .n32))
    && reads 0x58141012 0x01000100 (.iaddc (wl 10 8 (.reg 9) 1 .n32))) = true := by decide
theorem test_decode_lanes : (reads 0x90000000 0 (.srd { d := 0, a := 0, x := false }) && reads 0x94101003 0x00030100 (.shfl (wl 8 8 (.imm 1) 0 .n32) .xor)
    && reads 0x96080200 0x00020100 (.reduce (wl 4 1 (.reg 0) 0 .n32)) && reads 0x96000011 0x00050000 (.split (wl 0 0 (.imm 8) 0 .i32))
    && reads 0b1001101_00000011_00000100_00000101_0 0x00020000 (.kxor (wl 3 4 (.reg 5) 0 .i32))) = true := by decide
theorem test_decode_float : (reads 0x60060204 0 (.faddF32 { d := 3, a := 1, b := .reg 2 }) && reads 0x640C0A0E 0 (.fmulF32 { d := 6, a := 5, b := .reg 7 })
    && reads 0x68101418 0x0E030900 (.ffma (wl 8 10 (.reg 12) 14 .f64)) && reads 0x6814181C 0x01030B00 (.ffma (wl 10 12 (.reg 14) 1 .bf16))
    && reads 0x68302E03 0x00090800 (.fscale (wl 24 23 (.imm 1) 0 .f32)) && reads 0x6C04090D 0x00000920 (.fcmp (wl 2 4 (.scal 6) 0 .f64 2))
    && reads 0x6E060800 0x0540AC00 (.fcvt (wl 3 4 (.reg 0) 5 .e4m3 0 .rst) .f32) && reads 0x70060905 0x00400C00 (.fpack (wl 3 4 (.scal 2) 0 .e4m3) .f32)
    && reads 0x72060000 0 (.fstatRd 3) && reads 0x72004004 0 (.fstatClr 0x20)) = true := by decide
theorem test_decode_exact : (reads 0x80080C0E 0x00000800 (.ftwosum (wl 4 6 (.reg 7) 0 .f32)) && reads 0x8434030A 0x00000800 (.ftwoprod (wl 26 1 (.reg 133) 0 .f32))
    && reads 0x88040200 0x08000B00 (.fsplit (wl 2 1 (.reg 0) 8 .bf16)) && reads 0x8A202830 0x00001300 (.xadd (wl 16 20 (.reg 24) 0 .x2f64))
    && reads 0x8A311000 0x00031000 (.xren (wl 24 136 (.reg 0) 0 .x2f32)) && reads 0x8C043034 0x00001000 (.xcmp (wl 2 24 (.reg 26) 0 .x2f32))
    && reads 0x8E081105 0x00010100 (.rndg (wl 4 8 (.scal 2) 0 .n32))) = true := by decide
theorem test_decode_memory : (reads 0xA0080804 0x00400249 (.ld (wm 4 4 (.reg 2) 0x40 .n32 .team .rlx (some 1)))
    && reads 0xA0080801 0x000002D0 (.ld (wm 4 4 (.imm 0) 0 .n32 .dev .acq)) && reads 0xA0040801 0x000002F0 (.ld (wm 2 4 (.imm 0) 0 .n32 .dev .acqRmt))
    && reads 0xA20C0804 0x00400200 (.st (wm 6 4 (.reg 2) 0x40 .n32 .grp)) && reads 0xA4060201 0x01004240 (.lds (wm 3 1 (.imm 0) 0x100 .n32 .team) true)
    && reads 0xAC110201 0x00000600 (.ldc (wm 8 0x81 (.imm 0) 0 .n64 .grp)) && reads 0xAE02191D 0x00004240 (.pst (wm 1 12 (.scal 14) 0 .n32 .team))
    && reads 0xAB041908 0x00006040 (.stx (wm 130 12 (.reg 132) 0 .x2f32 .team))) = true := by decide
theorem test_decode_sync : (reads 0xC0060804 0x06070B60 (.atom (wt 3 4 (.reg 2) 6 .n32 .dev .acqrel) .cas)
    && reads 0xC6000804 0x07004300 (.red (wt 0 4 (.reg 2) 7 .f32 .dev) .add) && reads 0xC8000000 0x00000480 (.fence (wt 0 0 (.reg 0) 0 .i32 .sys .sc))
    && reads 0xC8000000 0x00000330 (.fence (wt 0 0 (.reg 0) 0 .i32 .dev .acq true)) && reads 0xCA000207 0x00000160 (.bar (wt 0 1 (.imm 3) 0 .i32 .team .acqrel))
    && reads 0xCA000001 0x00020360 (.gsync (wt 0 0 (.imm 0) 0 .i32 .dev .acqrel)) && reads 0xCC000403 0x00000100 (.binit (wt 0 2 (.imm 1) 0 .i32 .team))
    && reads 0xCC0C0403 0x00010140 (.barrive (wt 6 2 (.imm 1) 0 .i32 .team .rel)) && reads 0xCC000519 0x00020100 (.bexpect (wt 0 2 (.scal 12) 0 .i32 .team))
    && reads 0xCC00050D 0x00030120 (.bwait (wt 0 2 (.scal 6) 0 .i32 .team .acq))) = true := by decide
theorem test_decode_engines : reads 0xE0001000 0x02001000 (.acopy { d := 0, a := 8, b := .reg 0, c := 2, sk := 0, dk := 1, w := 0, dep := none }) = true := by decide
theorem test_decode_matrix : (reads 0xD00440A0 0x00115A09 (.mma (wx 2 32 (.reg 80) 0 .bf16 .f32 0 (some 1)) 1 true)
    && reads 0xD2080060 0x0010620A (.mmaj (wx 4 0 (.reg 48) 0 .e4m3 .f32 0 (some 2)) 0 true)
    && reads 0xD4044070 0x68005A19 (.mmas (wx 2 32 (.reg 56) 104 .bf16 .f32 1 (some 1)) 0 false) && reads 0xD8060800 0 (.talloc (wx 3 4 (.reg 0) 0 .i32 .i32))
    && reads 0xDA100600 0x0002000B (.tread (wx 8 3 (.reg 0) 0 .i32 .i32 0 (some 3))) && reads 0xDC000608 0x00000200 (.tscale (wx 0 3 (.reg 4) 0 .i32 .f32))) = true := by
  decide
theorem test_decode_fabric : (reads 0xE2080804 0x00000319 (.rld (wm 4 4 (.reg 2) 0 .n32 .sys .acq (some 1)))
    && reads 0xE40C0804 0x00034700 (.rstCnt (wm 6 4 (.reg 2) 3 .n64 .sys)) && reads 0xE4120801 0x00000320 (.rst (wm 9 4 (.imm 0) 0 .n32 .sys .rel))
    && reads 0xE6060804 0x06070C60 (.ratom (wt 3 4 (.reg 2) 6 .n32 .sys .acqrel) .cas) && reads 0xE8000000 0x00000020 (.rfence (ws 0 0 (.reg 0) 0 2))
    && reads 0xE8000D07 0x00010010 (.cwait (ws 0 6 (.scal 3) 0 1)) && reads 0xE8000807 0x09020020 (.cnote (ws 0 4 (.imm 3) 9 2))
    && reads 0xEA281000 0x1500000A (.coll (ws 20 8 (.reg 0) 21 0 (some 2))) && reads 0xEA000507 0x04010020 (.bknote (ws 0 2 (.scal 3) 4 2))) = true := by decide
theorem test_decode_layers : (reads 0xEC0C000B 0 (.lreq (ws 6 0 (.imm 5) 0)) && reads 0xEC000107 0x00010000 (.lwait (ws 0 0 (.scal 3) 0))
    && reads 0xEC000107 0x00020000 (.lrel (ws 0 0 (.scal 3) 0)) && reads 0xEC080107 0x00030000 (.lstat (ws 4 0 (.scal 3) 0))) = true := by decide
theorem test_decode_system : (reads 0xF000000E 0 (.trap 7) && reads 0xF408000C 0 (.hcall { d := 4, imm := 6 }) && reads 0xF6060000 0 (.srdp (ws 3 0 (.reg 0) 0))
    && reads 0xF6000600 0x00010000 (.swrp (ws 0 3 (.reg 0) 0)) && reads 0xF6000000 0x00020000 (.ctxyield (ws 0 0 (.reg 0) 0))
    && reads 0xF6100000 0x00030000 (.illrd (ws 8 0 (.reg 0) 0)) && reads 0xF6080000 0x00040000 (.frmrd (ws 4 0 (.reg 0) 0))) = true := by decide
theorem test_decode_watch : (reads 0xF800100B 0 (.weirset (ws 0 8 (.imm 5) 0)) && reads 0xF808000B 0x03020000 (.weirrd (ws 4 0 (.imm 5) 3))
    && reads 0xFA000500 0x00010000 (.hwr (ws 0 2 (.reg 0x80) 0)) == false && reads 0xFA00050D 0x00010000 (.hwr (ws 0 2 (.scal 6) 0))
    && reads 0xFA100401 0x00030000 (.hfront (ws 8 2 (.imm 0) 0)) && reads 0xFA060400 0x00050000 (.hstep (ws 3 2 (.reg 0) 0))
    && reads 0xFA000403 0x00060000 (.hresume (ws 0 2 (.imm 1) 0)) && reads 0xFC000107 0x12000000 (.trcmark (ws 0 0 (.scal 3) 0x12))
    && reads 0xFC080107 0x00010000 (.cntrd (ws 4 0 (.scal 3) 0))) = true := by decide

/-- The reason for which a word, or two, are no instruction. -/
def refusal (w e : Nat) : Option Reason := match decode w e with | .error r => some r | .ok _ => none

/-- Words that are no instruction are refused by name (R111): a reserved opcode, a reserved FN, a reserved TYPE, and B where there is no immediate. -/
theorem test_decode_refuses : refusal 0x1E000000 0 = some .opcode ∧ refusal 0x56281213 0 = some .fn ∧ refusal 0x580E0201 0x04061700 = some .modv
    ∧ refusal 0x60060203 0 = some .field := by decide

/-! ### Ill-formed terms -/

theorem test_ill_register : (Instr.iadd { d := 256, a := 0, b := .reg 0 }).wf = false := by decide
theorem test_ill_source : (Instr.iadd { d := 0, a := 0, b := .scal 128 }).wf = false ∧ (Instr.iadd { d := 0, a := 0, b := .imm 128 }).wf = false := by decide
theorem test_ill_scalar : (Instr.sadd { d := 128, a := 0, b := .reg 0 }).wf = false := by decide
theorem test_ill_offset : (Instr.bra (2 ^ 25)).wf = false ∧ (Instr.call 0 (2 ^ 17)).wf = false ∧ (Instr.pcrel 0 (2 ^ 17)).wf = false := by decide
theorem test_ill_loop : (Instr.loop 4 0 0 false).wf = false ∧ (Instr.loop 0 256 0 false).wf = false ∧ (Instr.loop 0 0 (2 ^ 14) false).wf = false := by decide
theorem test_ill_immediate : (Instr.smovi { d := 0, imm := 65536 }).wf = false ∧ (Instr.trap 65536).wf = false := by decide
theorem test_ill_predicate : (Instr.icmp .eq 24 0 (.reg 0)).wf = false ∧ (Instr.pmov 24 0).wf = false := by decide
theorem test_ill_mask : (Instr.join 12).wf = false := by decide
theorem test_ill_aux : (Instr.imad (wl 0 0 (.reg 0) 0 .i32 1)).wf = false := by decide
theorem test_ill_immediate_form : (Instr.faddF32 { d := 0, a := 0, b := .imm 1 }).wf = false := by decide
theorem test_ill_type : (Instr.fadd (wl 0 0 (.reg 0) 0 .i32)).wf = false ∧ (Instr.imad (wl 0 0 (.reg 0) 0 .f32)).wf = false := by decide
theorem test_ill_counter : (Instr.ld (wm 0 0 (.imm 0) 0 .n32 .grp .rlx (some 8))).wf = false := by decide
theorem test_ill_order : (Instr.ld (wm 0 0 (.imm 0) 0 .n32 .grp .rel)).wf = false ∧ (Instr.st (wm 0 0 (.imm 0) 0 .n32 .grp .acq)).wf = false := by decide
theorem test_ill_atomic : (Instr.red (wt 0 4 (.imm 0) 7 .n32 .dev) .exch).wf = false ∧ (Instr.red (wt 0 4 (.imm 0) 7 .n32 .dev) .cas).wf = false := by decide
theorem test_ill_shape : (Instr.mma (wx 2 32 (.reg 80) 0 .bf16 .f32) 4 false).wf = false ∧ (Instr.mma (wx 2 32 (.reg 80) 0 .bf16 .f32 3) 0 false).wf = false := by decide
theorem test_ill_engine : (Instr.acopy { d := 0, a := 8, b := .reg 0, c := 2, sk := 3, dk := 1, w := 0, dep := none }).wf = false := by decide
theorem test_ill_system : (Instr.lstat (ws 4 0 (.scal 3) 256)).wf = false ∧ (Instr.rfence (ws 0 0 (.reg 0) 0 4)).wf = false := by decide

/-! ### Single steps -/

/-- A vector register of a lane after an instruction has run on the group that a change makes. -/
def vAfter (i : Instr) (f : Group → Group) (r L : Nat) : Option Word :=
  match exec i (lanesOnly (oneWith i f) (lbit L)) with
  | .next t => (group? t 0).map fun g => vget g r L
  | _ => none
/-- A scalar register. -/
def sAfter (i : Instr) (f : Group → Group) (r : Nat) : Option Word :=
  match exec i (lanesOnly (oneWith i f) 1) with
  | .next t => (group? t 0).map fun g => sget g r
  | _ => none
/-- The flags. -/
def fAfter (i : Instr) (f : Group → Group) : Option Nat :=
  match exec i (lanesOnly (oneWith i f) 1) with
  | .next t => (group? t 0).map fun g => g.fstat
  | _ => none

-- integers (R193, R199, R203: the worked values of chapter 07)
theorem test_smovh : sAfter (.smovh { d := 2, imm := 0x1234 }) (sset · 2 0x5678) 2 = some 0x12345678 := by decide +kernel
theorem test_smovi_sign : sAfter (.smovi { d := 2, imm := 0x8000 }) id 2 = some 0xFFFF8000 := by decide +kernel
theorem test_iadd_wraps : vAfter (.iadd { d := 1, a := 1, b := .imm 1 }) (vset · 1 31 0xFFFFFFFF) 1 31 = some 0 := by decide +kernel
theorem test_isub_order : vAfter (.isub { d := 1, a := 1, b := .imm 1 }) id 1 0 = some 0xFFFFFFFF := by decide +kernel
theorem test_iabs_most_negative : vAfter (.iabs { d := 1, a := 2, x := false }) (vset · 2 0 0x80000000) 1 0 = some 0x80000000 := by decide +kernel
theorem test_cvti_narrows : vAfter (.cvti (wl 1 2 (.reg 0) 0 .i8)) (vset · 2 5 0x181) 1 5 = some 0xFFFFFF81 := by decide +kernel
theorem test_cvti_saturates : vAfter (.cvti (wl 1 2 (.reg 0) 0 .i8 1)) (vset · 2 5 0x181) 1 5 = some 0x7F := by decide +kernel
-- floating point (R152, R159, R169, R256: the worked values of chapters 06 and 08)
theorem test_round_tenth : vAfter (.fcvt (wl 1 2 (.reg 0) 0 .f32) .f64) (fun g => vset (vset g 2 0 0x9999999A) 3 0 0x3FB99999) 1 0 = some 0x3DCCCCCD := by
  decide +kernel
theorem test_round_tenth_e4m3 : vAfter (.fcvt (wl 1 2 (.reg 0) 0 .e4m3) .f64) (fun g => vset (vset g 2 0 0x9999999A) 3 0 0x3FB99999) 1 0 = some 0x1D := by
  decide +kernel
theorem test_nan_narrows : vAfter (.fcvt (wl 1 2 (.reg 0) 0 .f16) .f32) (vset · 2 0 0xFFA00001) 1 0 = some 0xFF00 := by decide +kernel
theorem test_nan_sets_iv : fAfter (.fcvt (wl 1 2 (.reg 0) 0 .f16) .f32) (vset · 2 0 0xFFA00001) = some 1 := by decide +kernel
theorem test_nan_from_e4m3 : vAfter (.fcvt (wl 1 2 (.reg 0) 0 .f32) .e4m3) (vset · 2 0 0xFF) 1 0 = some 0xFFC00000 := by decide +kernel
theorem test_fmul_rounds : vAfter (.fmulF32 { d := 3, a := 1, b := .reg 2 }) (fun g => vset (vset g 1 0 0x3F800400) 2 0 0x3F7FF800) 3 0 = some 0x3F800000 := by
  decide +kernel
/-- The operands of the example of R256 in one lane. -/
def xaddOps (g : Group) : Group := vset (vset (vset g 2 0 0x3F800000) 3 0 0x30800000) 4 0 0x33800000
theorem test_xadd_high : vAfter (.xadd (wl 8 2 (.reg 4) 0 .x2f32)) xaddOps 8 0 = some 0x3F800001 := by decide +kernel
theorem test_xadd_low : vAfter (.xadd (wl 8 2 (.reg 4) 0 .x2f32)) xaddOps 9 0 = some 0xB37C0000 := by decide +kernel
-- control (R181: the target of the worked encoding), memory (R261), traps (R420)
theorem test_pcrel_back : sAfter (.pcrel 4 0x1FFF0) id 4 = some (BitVec.ofNat 32 (placeAddr + 4 - 64)) := by decide +kernel
theorem test_store_little_endian :
    (match exec (.st (wm 6 4 (.imm 0) 0 .n32 .team)) (lanesOnly (oneWith (.st (wm 6 4 (.imm 0) 0 .n32 .team)) fun g => vset (sset g 4 (BitVec.ofNat 32 (placeAddr + 0x800))) 6 0 0x11223344) 1) with
      | .next t => readBytes t (placeAddr + 0x800) 4
      | _ => []) = [0x44, 0x33, 0x22, 0x11] := by decide +kernel
theorem test_trap_halts_without_handler :
    (match exec (.trap 7) (one (.trap 7)) with
      | .next t => (ctx? t 0).bind fun c => c.halt.map (·.cause)
      | _ => none) = some 0x0E := by decide +kernel
theorem test_exit_ends :
    (match exec .exit (one .exit) with
      | .next t => (group? t 0).map fun g => g.ended
      | _ => none) = some true := by decide +kernel

/-! ### Integer instructions -/

theorem wit_VectorShortForms : ∃ i p f s v, VecShort i p f ∧ Ready s v (uses i) :=
  have ⟨v, r, _⟩ := issueOf (.sra { d := 1, a := 2, b := .imm 127 }) (by decide)
  ⟨_, _, _, _, v, .sra _, r⟩

theorem wit_ScalarShortForms : ∃ i p f s v, ScalShort i p f ∧ Ready s v (uses i) :=
  have ⟨v, r, _⟩ := issueOf (.sadd { d := 127, a := 2, b := .scal 3 }) (by decide)
  ⟨_, _, _, _, v, .sadd _, r⟩

theorem wit_VectorUnary : ∃ i p s v, VecUnary i p ∧ Ready s v (uses i) :=
  have ⟨v, r, _⟩ := issueOf (.iabs { d := 255, a := 2, x := true }) (by decide)
  ⟨_, _, _, v, .iabs _, r⟩

theorem wit_ScalarUnary : ∃ i d a s v, i ∈ [Instr.smov d a, .snot d a, .spopc d a, .sclz d a] ∧ Ready s v (uses i) :=
  have ⟨v, r, _⟩ := issueOf (.sclz 4 5) (by decide)
  ⟨_, 4, 5, _, v, by simp, r⟩

theorem wit_MoveImmediates : (∃ p s v, Ready s v (uses (.smovi p))) ∧ (∃ p s v, Ready s v (uses (.smovh p)))
    ∧ (∃ p s v, Ready s v (uses (.movi p))) ∧ ∃ p s v, Ready s v (uses (.moviH p)) :=
  have ⟨v1, r1, _⟩ := issueOf (.smovi { d := 1, imm := 0xFFFF }) (by decide)
  have ⟨v2, r2, _⟩ := issueOf (.smovh { d := 1, imm := 0xFFFF }) (by decide)
  have ⟨v3, r3, _⟩ := issueOf (.movi { d := 1, imm := 0xFFFF }) (by decide)
  have ⟨v4, r4, _⟩ := issueOf (.moviH { d := 1, imm := 0xFFFF }) (by decide)
  ⟨⟨_, _, v1, r1⟩, ⟨_, _, v2, r2⟩, ⟨_, _, v3, r3⟩, ⟨_, _, v4, r4⟩⟩

theorem wit_IndirectRegisters : (∃ d a s v, Ready s v (uses (.vrdi d a)) ∧ (sget v.g a).toNat < v.ln.kern.vregs
      ∧ readsPoison v.g { r := [vg (sget v.g a).toNat 1] } v.exec = false)
    ∧ (∃ d a s v, Ready s v (uses (.vwri d a)) ∧ (sget v.g d).toNat < v.ln.kern.vregs)
    ∧ (∃ d a s v, Ready s v (uses (.vrdi d a)) ∧ v.ln.kern.vregs ≤ (sget v.g a).toNat)
    ∧ ∃ d a s v, Ready s v (uses (.vwri d a)) ∧ v.ln.kern.vregs ≤ (sget v.g d).toNat := by
  obtain ⟨v1, r1, -, q1⟩ := issue (s := oneWith (.vrdi 1 2) (sset · 2 255)) (u := uses (.vrdi 1 2))
    (fun v => decide ((sget v.g 2).toNat < v.ln.kern.vregs ∧ readsPoison v.g { r := [vg (sget v.g 2).toNat 1] } v.exec = false)) (by decide)
  obtain ⟨v2, r2, -, q2⟩ := issue (s := one (.vwri 1 2)) (u := uses (.vwri 1 2)) (fun v => decide ((sget v.g 1).toNat < v.ln.kern.vregs)) (by decide)
  obtain ⟨v3, r3, -, q3⟩ := issue (s := oneWith (.vrdi 1 2) (sset · 2 256)) (u := uses (.vrdi 1 2))
    (fun v => decide (v.ln.kern.vregs ≤ (sget v.g 2).toNat)) (by decide)
  obtain ⟨v4, r4, -, q4⟩ := issue (s := oneWith (.vwri 2 1) (sset · 2 256)) (u := uses (.vwri 2 1))
    (fun v => decide (v.ln.kern.vregs ≤ (sget v.g 2).toNat)) (by decide)
  exact ⟨⟨_, _, _, v1, r1, of_decide_eq_true q1⟩, ⟨_, _, _, v2, r2, of_decide_eq_true q2⟩, ⟨_, _, _, v3, r3, of_decide_eq_true q3⟩,
    ⟨_, _, _, v4, r4, of_decide_eq_true q4⟩⟩

theorem wit_ScalarLongForms : ∃ i p s v, ScalLongForm i p ∧ (p.ty = .i32 ∨ p.ty = .n32) ∧ Ready s v (uses i) :=
  have ⟨v, r, _⟩ := issueOf (.scmp { d := 1, a := 2, b := .scal 3, c := 0, rm := .rne, ty := .n32, aux := 5 }) (by decide)
  ⟨_, _, _, v, .scmp _ (by decide), .inr rfl, r⟩

theorem wit_SaddrSum : ∃ (p : L) (s : State) (v : View), (p.ty = .i32 ∨ p.ty = .n32 ∨ p.ty = .i64) ∧ p.c ≤ 3 ∧ p.b.fits = true
    ∧ Ready s v (uses (.saddr p)) :=
  have ⟨v, r, _⟩ := issueOf (.saddr { d := 2, a := 4, b := .scal 6, c := 3, rm := .rne, ty := .i64, aux := 0 }) (by decide)
  ⟨_, _, v, .inr (.inr rfl), by decide, by decide, r⟩

theorem wit_VectorLongForms : ∃ i p f s v, VecLong i p f ∧ Ready s v (uses i) :=
  have ⟨v, r, _⟩ := issueOf (.bfi { d := 2, a := 4, b := .imm 0, c := 32, rm := .rne, ty := .n32, aux := 0 }) (by decide)
  ⟨_, _, _, _, v, .bfi _ (by decide) (by decide), r⟩

theorem wit_VectorWideForms : (∃ i p f s v, VecWide i p f ∧ p.ty ∈ ty64s ∧ p.b.fits = true ∧ Ready s v (uses i))
    ∧ (∃ p s v, (p.ty = .i32 ∨ p.ty = .n32) ∧ Ready s v (uses (.imadw p))) ∧ ∃ p s v, Ready s v (uses (.iaddc p)) :=
  have ⟨v1, r1, _⟩ := issueOf (.imax { d := 2, a := 4, b := .reg 6, c := 0, rm := .rne, ty := .i64, aux := 0 }) (by decide)
  have ⟨v2, r2, _⟩ := issueOf (.imadw { d := 2, a := 5, b := .reg 7, c := 8, rm := .rne, ty := .i32, aux := 0 }) (by decide)
  have ⟨v3, r3, _⟩ := issueOf (.iaddc { d := 2, a := 4, b := .reg 6, c := 23, rm := .rne, ty := .n32, aux := 0 }) (by decide)
  ⟨⟨_, _, _, _, v1, .imax _, by decide, by decide, r1⟩, ⟨_, _, v2, .inl rfl, r2⟩, ⟨_, _, v3, r3⟩⟩

theorem wit_CvtiConverts : ∃ p src s v, tyOf p.c = some src ∧ tyInt src = true ∧ tyInt p.ty = true ∧ p.aux ≤ 1 ∧ Ready s v (uses (.cvti p)) :=
  have ⟨v, r, _⟩ := issueOf (.cvti { d := 2, a := 4, b := .reg 0, c := 7, rm := .rne, ty := .i64, aux := 1 }) (by decide)
  ⟨_, .n8, _, v, rfl, rfl, rfl, by decide, r⟩

theorem wit_IcmpCompares : (∃ c pd a b s v, Ready s v (uses (.icmp c pd a b)))
    ∧ ∃ p s v, p.ty ∈ ty64s ∧ p.aux ≤ 5 ∧ Ready s v (uses (.icmpLong p)) :=
  have ⟨v1, r1, _⟩ := issueOf (.icmp .gtN 23 5 (.imm 127)) (by decide)
  have ⟨v2, r2, _⟩ := issueOf (.icmpLong { d := 23, a := 4, b := .reg 6, c := 0, rm := .rne, ty := .n64, aux := 5 }) (by decide)
  ⟨⟨_, _, _, _, _, v1, r1⟩, ⟨_, _, v2, by decide, by decide, r2⟩⟩

/-! ### Special registers, predicates, masks, control and lane operations -/

theorem wit_SpecialReads : (∃ p s v, Ready s v (uses (.srd p)) ∧ p.x = false) ∧ ∃ p s v, Ready s v (uses (.srd p)) ∧ p.x = true ∧ p.a ≠ 0 :=
  have ⟨v1, r1, _⟩ := issueOf (.srd { d := 1, a := 0, x := false }) (by decide)
  have ⟨v2, r2, _⟩ := issueOf (.srd { d := 1, a := 0x16, x := true }) (by decide)
  ⟨⟨_, _, v1, r1, rfl⟩, ⟨_, _, v2, r2, rfl, by decide⟩⟩

theorem wit_SpecialWrites :
    (∃ p s v, Ready s v (uses (.swr p)) ∧ LowestIn v.exec 0 ∧ p.d = 0x12 ∧ p.x = true ∧ (sget v.g p.a).toNat ∈ [2, 4, 8, 16, 32])
    ∧ (∃ p s v, Ready s v (uses (.swr p)) ∧ LowestIn v.exec 0 ∧ p.d = 0x12 ∧ p.x = true ∧ (sget v.g p.a).toNat ∉ [2, 4, 8, 16, 32])
    ∧ (∃ p s v, Ready s v (uses (.swr p)) ∧ LowestIn v.exec 0 ∧ p.d = 0x13)
    ∧ ∃ p s v, Ready s v (uses (.swr p)) ∧ LowestIn v.exec 0 ∧ p.d = 0x14 + 2 := by
  obtain ⟨v1, r1, -, q1⟩ := issueD (s := oneWith (.swr { d := 0x12, a := 3, x := true }) (sset · 3 32)) (u := uses (.swr { d := 0x12, a := 3, x := true }))
    (fun v => v.exec.getLsbD 0 = true ∧ (sget v.g 3).toNat ∈ [2, 4, 8, 16, 32]) (by decide)
  obtain ⟨v2, r2, -, q2⟩ := issueD (s := oneWith (.swr { d := 0x12, a := 3, x := true }) (sset · 3 33)) (u := uses (.swr { d := 0x12, a := 3, x := true }))
    (fun v => v.exec.getLsbD 0 = true ∧ (sget v.g 3).toNat ∉ [2, 4, 8, 16, 32]) (by decide)
  obtain ⟨v3, r3, -, q3⟩ := issueD (s := one (.swr { d := 0x13, a := 3, x := false })) (u := uses (.swr { d := 0x13, a := 3, x := false }))
    (fun v => v.exec.getLsbD 0 = true) (by decide)
  obtain ⟨v4, r4, -, q4⟩ := issueD (s := one (.swr { d := 0x16, a := 3, x := false })) (u := uses (.swr { d := 0x16, a := 3, x := false }))
    (fun v => v.exec.getLsbD 0 = true) (by decide)
  exact ⟨⟨_, _, v1, r1, lowest0 q1.1, rfl, rfl, q1.2⟩, ⟨_, _, v2, r2, lowest0 q2.1, rfl, rfl, q2.2⟩, ⟨_, _, v3, r3, lowest0 q3, rfl⟩,
    ⟨_, _, v4, r4, lowest0 q4, rfl⟩⟩

theorem wit_SplitWrites : (∃ p s v, Ready s v (uses (.split p)) ∧ (bval v.g p.b 0).toNat ∈ [2, 4, 8, 16, 32])
    ∧ ∃ p s v, Ready s v (uses (.split p)) ∧ (bval v.g p.b 0).toNat ∉ [2, 4, 8, 16, 32] := by
  let p1 : L := { d := 0, a := 0, b := .imm 2, c := 0, rm := .rne, ty := .i32, aux := 0 }
  let p2 : L := { d := 0, a := 0, b := .imm 1, c := 0, rm := .rne, ty := .i32, aux := 0 }
  obtain ⟨v1, r1, -, q1⟩ := issueD (s := one (.split p1)) (u := uses (.split p1)) (fun v => (bval v.g p1.b 0).toNat ∈ [2, 4, 8, 16, 32]) (by decide)
  obtain ⟨v2, r2, -, q2⟩ := issueD (s := one (.split p2)) (u := uses (.split p2)) (fun v => (bval v.g p2.b 0).toNat ∉ [2, 4, 8, 16, 32]) (by decide)
  exact ⟨⟨p1, _, v1, r1, q1⟩, ⟨p2, _, v2, r2, q2⟩⟩

theorem wit_PredicateMoves : (∃ d a s v, a ≤ 1 ∧ Ready s v (uses (.pset d a))) ∧ (∃ d a s v, Ready s v (uses (.pnot d a)))
    ∧ (∃ d a s v, Ready s v (uses (.pmov d a))) ∧ (∃ d a s v, Ready s v (uses (.ktop d a))) ∧ ∃ d a s v, Ready s v (uses (.ptok d a)) :=
  have ⟨v1, r1, _⟩ := issueOf (.pset 23 1) (by decide)
  have ⟨v2, r2, _⟩ := issueOf (.pnot 23 0) (by decide)
  have ⟨v3, r3, _⟩ := issueOf (.pmov 23 0) (by decide)
  have ⟨v4, r4, _⟩ := issueOf (.ktop 23 11) (by decide)
  have ⟨v5, r5, _⟩ := issueOf (.ptok 11 23) (by decide)
  ⟨⟨_, _, _, v1, by decide, r1⟩, ⟨_, _, _, v2, r2⟩, ⟨_, _, _, v3, r3⟩, ⟨_, _, _, v4, r4⟩, ⟨_, _, _, v5, r5⟩⟩


theorem wit_MaskLogic : (∃ i d x s v, MaskOp v i d x ∧ Ready s v (uses i)) ∧ (∃ i d x s v, MaskToScalar v i d x ∧ Ready s v (uses i))
    ∧ (∃ d s v, Ready s v (uses (.join d))) ∧ ∃ d s v, Ready s v (uses (.leave d)) :=
  have ⟨v1, r1, _⟩ := issueOf (.kand (wl 11 1 (.reg 2) 0 .i32 0)) (by decide)
  have ⟨v2, r2, _⟩ := issueOf (.kmov (wl 3 11 (.reg 0) 1 .i32 0)) (by decide)
  have ⟨v3, r3, _⟩ := issueOf (.join 11) (by decide)
  have ⟨v4, r4, _⟩ := issueOf (.leave 0) (by decide)
  ⟨⟨_, _, _, _, v1, .kand _ _ rfl, r1⟩, ⟨_, _, _, _, v2, .kmov1 _ rfl, r2⟩, ⟨_, _, v3, r3⟩, ⟨_, _, v4, r4⟩⟩

theorem wit_WaitkHolds : ∃ k M s v, k < 12 ∧ Ready s v (uses (.waitk k)) ∧ Plain s v ∧ (kget v.g k).getLsbD M = true ∧ v.exec.getLsbD M = false
    ∧ (laneGet v.g M).st ≠ .waitK k := by
  obtain ⟨v, r, p, q⟩ := issueD (s := lanesOnly (oneWith (.waitk 11) (kset · 11 3)) 1) (u := uses (.waitk 11))
    (fun v => (kget v.g 11).getLsbD 1 = true ∧ v.exec.getLsbD 1 = false ∧ (laneGet v.g 1).st ≠ .waitK 11) (by decide)
  exact ⟨11, 1, _, v, by decide, r, p, q⟩

theorem wit_WaitkReleases : ∃ k s v, k < 12 ∧ Ready s v (uses (.waitk k)) ∧ Plain s v
    ∧ ∀ M, (kget v.g k).getLsbD M = true → v.exec.getLsbD M = true ∨ v.is.lanes.getLsbD M = false ∧ (laneGet v.g M).st = .waitK k := by
  obtain ⟨v, r, p, q⟩ := issueD (s := lanesOnly (oneWith (.waitk 0) fun g => laneMod (kset g 0 3) 2 fun _ l => { l with st := .waitK 0 }) 1)
    (u := uses (.waitk 0)) (fun v => ∀ M ∈ List.range 32, (kget v.g 0).getLsbD M = true →
      v.exec.getLsbD M = true ∨ v.is.lanes.getLsbD M = false ∧ (laneGet v.g M).st = .waitK 0) (by decide)
  exact ⟨0, _, v, by decide, r, p, fun M h => q M (List.mem_range.2 (BitVec.lt_of_getLsbD h)) h⟩

theorem wit_DirectTransfers : (∃ off s v, Plain s v ∧ Ready s v (uses (.bra off))) ∧ ∃ d off s v, Plain s v ∧ Ready s v (uses (.call d off)) :=
  have ⟨v1, r1, p1⟩ := issueOf (.bra 0x1FFFFFF) (by decide)
  have ⟨v2, r2, p2⟩ := issueOf (.call 254 0x1FFFF) (by decide)
  ⟨⟨_, _, v1, p1, r1⟩, ⟨_, _, _, v2, p2, r2⟩⟩

theorem wit_IndirectTransfers : (∃ b s v, Plain s v ∧ (∀ L, v.exec.getLsbD L = true → bbits v.g .n64 b L % 4 = 0)
      ∧ Ready s v (uses (.ret b)))
    ∧ ∃ d b s v, Plain s v ∧ (∀ L, v.exec.getLsbD L = true → bbits v.g .n64 b L % 4 = 0) ∧ Ready s v (uses (.callx d b)) := by
  obtain ⟨v1, r1, p1, q1⟩ := issueD (s := one (.ret (.reg 2))) (u := uses (.ret (.reg 2)))
    (fun v => ∀ L ∈ List.range 32, bbits v.g .n64 (.reg 2) L % 4 = 0) (by decide)
  obtain ⟨v2, r2, p2, q2⟩ := issueD (s := one (.callx 2 (.reg 2))) (u := uses (.callx 2 (.reg 2)))
    (fun v => ∀ L ∈ List.range 32, bbits v.g .n64 (.reg 2) L % 4 = 0) (by decide)
  exact ⟨⟨_, _, v1, p1, lanes_of fun L h => q1 L (List.mem_range.2 h), r1⟩, ⟨_, _, _, v2, p2, lanes_of fun L h => q2 L (List.mem_range.2 h), r2⟩⟩

theorem wit_PcrelAddress : (∃ d off s v, Ready s v (uses (.pcrel d off))) ∧ (∃ (d : Nat) (s : State) (v : View), view s = some v ∧ d % 2 = 1)
    ∧ ∃ d off : Nat, 128 ≤ d ∧ d < 256 ∧ off < 2 ^ 17 :=
  have ⟨v1, r1, _⟩ := issueOf (.pcrel 126 0x1FFFF) (by decide)
  ⟨⟨_, _, _, v1, r1⟩, ⟨1, _, v1, r1.here, by decide⟩, ⟨128, 0, by decide, by decide, by decide⟩⟩

theorem wit_HintsGoOn : (∃ s v, Plain s v ∧ Ready s v (uses .nop)) ∧ (∃ s v, Ready s v (uses .yield)) ∧ (∃ s v, Ready s v (uses (.sleep 0 0 false)))
    ∧ (∃ d imm s v, Plain s v ∧ Ready s v (uses (.sleep d imm false)) ∧ imm ≠ 0) :=
  have ⟨v1, r1, p1⟩ := issueOf .nop (by decide)
  have ⟨v2, r2, _⟩ := issueOf .yield (by decide)
  have ⟨v3, r3, _⟩ := issueOf (.sleep 0 0 false) (by decide)
  have ⟨v4, r4, p4⟩ := issueOf (.sleep 0 0xFFFF false) (by decide)
  ⟨⟨_, v1, p1, r1⟩, ⟨_, v2, r2⟩, ⟨_, v3, r3⟩, ⟨0, 0xFFFF, _, v4, p4, r4, by decide⟩⟩

/-- A LOOP of one clause of one word, which stands after the LOOP in memory. -/
def loopState (cnt : Nat) : State :=
  let s := one (.loop 2 1 cnt false)
  { s with mem := writeCells s.mem 0x1008 ([1, 0, 0, 0xB0] ++ [0, 0, 0, 0]) }

/-- What the statement about LOOP asks of an issue. -/
abbrev loopOk (s : State) (v : View) : Prop :=
  walkBody s v.cx v.g.ctx v.tm.core (.fetch v.is.gid v.is.pc) (v.npc + BitVec.ofNat 64 8).toNat 257 v.npc.toNat = .ends true
    ∧ regionKind v.cx v.npc.toNat ≠ 4 ∧ regionKind v.cx ((v.npc + BitVec.ofNat 64 8).toNat - 1) ≠ 4 ∧ s.waits = []

theorem wit_LoopEnters : ∀ cnt, cnt = 0 ∨ cnt = 2 ^ 14 - 1 → ∃ v, Ready (loopState cnt) v (uses (.loop 2 1 cnt false)) ∧ Plain (loopState cnt) v
    ∧ loopOk (loopState cnt) v := by
  rintro _ (rfl | rfl)
  · exact issueD (fun v => loopOk _ v) (by decide +kernel)
  · exact issueD (fun v => loopOk _ v) (by decide +kernel)

/-- A group whose two members of a loop have arrived at its end. -/
def endGroup2 (cnt : Word) : Group :=
  laneMod (loopSet (lcset { team := 0, launch := 0, ctx := 0 } 1 cnt) 1 { active := true, start := 8, len := 1, members := 3 }) 3
    fun _ l => { l with st := .loopEnd 1 }

theorem wit_LoopEndTest : ∀ cnt : Word, cnt = 1 ∨ cnt = 2 → (loopGet (endGroup2 cnt) 1).active = true ∧ (loopGet (endGroup2 cnt) 1).members ≠ 0
    ∧ (∀ L, L < 32 → ((loopGet (endGroup2 cnt) 1).members.getLsbD L = true ↔ (laneGet (endGroup2 cnt) L).st = .loopEnd 1))
    ∧ (∀ L, L < 32 → (laneGet (endGroup2 cnt) L).haltPend = false)
    ∧ (∀ m, m < 3 → m ≠ 1 → (loopGet (endGroup2 cnt) m).active = false) ∧ lcget (endGroup2 cnt) 1 = cnt := by
  rintro _ (rfl | rfl) <;> decide

theorem wit_ExitEnds : ∃ s v, Ready s v (uses .exit) ∧ NoWeirs s v ∧ v.g.hnd = none ∧ v.g.trap = none := by
  obtain ⟨v, r, p, q⟩ := issueD (s := one .exit) (u := uses .exit) (fun v => v.g.hnd = none ∧ v.g.trap = none) (by decide)
  exact ⟨_, v, r, p.weirs, q⟩

theorem wit_ShflMoves : ∃ p mode s v, (p.ty = .n32 ∨ p.ty = .n64) ∧ Ready s v (uses (.shfl p mode)) ∧ v.g.vpois = [] := by
  obtain ⟨v, r, -, q⟩ := issueD (s := one (.shfl (wl 2 4 (.imm 31) 0 .n64 1) .down)) (u := uses (.shfl (wl 2 4 (.imm 31) 0 .n64 1) .down))
    (fun v => v.g.vpois = []) (by decide)
  exact ⟨_, .down, _, v, .inr rfl, r, q⟩

theorem wit_VoteDecides : ∀ c, c = 0 ∨ c = 1 ∨ c = 2 ∨ c = 3 → ∃ s v, Ready s v (uses (.vote (wl 1 2 (.reg 0) c .i32 0))) := by
  rintro _ (rfl | rfl | rfl | rfl)
  · exact have ⟨v, r, _⟩ := issueOf (.vote (wl 1 2 (.reg 0) 0 .i32 0)) (by decide); ⟨_, v, r⟩
  · exact have ⟨v, r, _⟩ := issueOf (.vote (wl 1 2 (.reg 0) 1 .i32 0)) (by decide); ⟨_, v, r⟩
  · exact have ⟨v, r, _⟩ := issueOf (.vote (wl 1 2 (.reg 0) 2 .i32 0)) (by decide); ⟨_, v, r⟩
  · exact have ⟨v, r, _⟩ := issueOf (.vote (wl 1 2 (.reg 0) 3 .i32 0)) (by decide); ⟨_, v, r⟩

theorem wit_MatchAndBcast : (∃ p s v, (p.ty = .n32 ∨ p.ty = .n64) ∧ Ready s v (uses (.matchL p)))
    ∧ ∃ p s v, (p.ty = .n32 ∨ p.ty = .n64) ∧ Ready s v (uses (.bcast p)) :=
  have ⟨v1, r1, _⟩ := issueOf (.matchL (wl 3 4 (.reg 0) 0 .n64 0)) (by decide)
  have ⟨v2, r2, _⟩ := issueOf (.bcast (wl 2 4 (.reg 0) 0 .n32 0)) (by decide)
  ⟨⟨_, _, v1, .inr rfl, r1⟩, ⟨_, _, v2, .inl rfl, r2⟩⟩

theorem wit_ReduceTiles : (∃ p s v, Ready s v (uses (.reduce p)) ∧ p.aux ≤ 5 ∧ p.ty ∈ ty64s)
    ∧ ∃ p s v, Ready s v (uses (.reduce p)) ∧ p.aux = 6 ∧ (p.ty = .f32 ∨ p.ty = .f64) :=
  have ⟨v1, r1, _⟩ := issueOf (.reduce (wl 2 4 (.reg 0) 0 .i64 5)) (by decide)
  have ⟨v2, r2, _⟩ := issueOf (.reduce (wl 2 4 (.reg 0) 0 .f64 6)) (by decide)
  ⟨⟨_, _, v1, r1, by decide, by decide⟩, ⟨_, _, v2, r2, rfl, .inr rfl⟩⟩

theorem wit_ScanTiles : (∃ p s v, p.c ≤ 1 ∧ Ready s v (uses (.scan p)) ∧ p.aux ≤ 5 ∧ p.ty ∈ ty64s)
    ∧ ∃ p s v, p.c ≤ 1 ∧ Ready s v (uses (.scan p)) ∧ p.aux = 6 ∧ (p.ty = .f32 ∨ p.ty = .f64) :=
  have ⟨v1, r1, _⟩ := issueOf (.scan (wl 2 4 (.reg 0) 1 .n64 1)) (by decide)
  have ⟨v2, r2, _⟩ := issueOf (.scan (wl 2 4 (.reg 0) 0 .f32 6)) (by decide)
  ⟨⟨_, _, v1, by decide, r1, by decide, by decide⟩, ⟨_, _, v2, by decide, r2, rfl, .inl rfl⟩⟩

/-! ### Floating point -/

theorem wit_FloatLoneForms : ∃ v i t d f s, FloatLone v i t d f ∧ Ready s v (uses i) ∧ NoWeirs s v ∧ v.g.fptrap = 0 := by
  obtain ⟨v, r, p, q⟩ := issueD (s := one (.fadd (wl 2 4 (.reg 6) 0 .f64 0))) (u := uses (.fadd (wl 2 4 (.reg 6) 0 .f64 0)))
    (fun v => v.g.fptrap = 0) (by decide)
  exact ⟨v, _, _, _, _, _, .fadd _ rfl, r, p.weirs, q⟩

theorem wit_FloatPairForms : ∃ v i p f s, FloatPair v i p f ∧ tyPk p.ty = true ∧ p.c = 1 ∧ p.rm ≠ .rst ∧ Ready s v (uses i) :=
  have ⟨v, r, _⟩ := issueOf (.fmul (wl 2 4 (.reg 6) 1 .bf16 0)) (by decide)
  ⟨v, _, _, _, _, .fmul _, rfl, rfl, by decide, r⟩

theorem wit_RoundsToNearest : FiniteBits .f16 0x7BFF ∧ FiniteBits .f16 (frnd .f16 .rne 0 false (FV.fin true 3 (-1))).1 := by
  unfold FiniteBits; decide +kernel

theorem wit_RoundsExactly : FiniteBits .f32 0x7F7FFFFF ∧ FiniteBits .f64 1 := by unfold FiniteBits; decide

theorem wit_FloatConversions : (∃ v i t d f s, FloatConv v i t d f ∧ Ready s v (uses i))
    ∧ ∃ p c s v, condOf p.aux = some c ∧ Ready s v (uses (.fcmp p)) :=
  have ⟨v1, r1, _⟩ := issueOf (.fcvt (wl 2 4 (.reg 0) 0 .f64 1) .f32) (by decide)
  have ⟨v2, r2, _⟩ := issueOf (.fcmp (wl 23 4 (.reg 6) 0 .f64 13)) (by decide)
  ⟨⟨v1, _, _, _, _, _, .fcvt _ _, r1⟩, ⟨_, _, _, v2, rfl, r2⟩⟩

theorem wit_FloatPacking : (∃ p src s v, p.c < tyPairs p.ty ∧ tyElem p.ty = true ∧ Ready s v (uses (.fpack p src)))
    ∧ ∃ p src s v, Ready s v (uses (.funpk p src)) :=
  have ⟨v1, r1, _⟩ := issueOf (.fpack (wl 2 4 (.reg 6) 1 .e4m3 0) .f32) (by decide)
  have ⟨v2, r2, _⟩ := issueOf (.funpk (wl 2 4 (.reg 6) 1 .f16 0) .e5m2) (by decide)
  ⟨⟨_, _, _, v1, by decide, rfl, r1⟩, ⟨_, _, _, v2, r2⟩⟩

theorem wit_FstatAccess : (∃ a s v, Ready s v (uses (.fstatRd a))) ∧ (∃ a s v, LowestIn v.exec 0 ∧ Ready s v (uses (.fstatWr a false)))
    ∧ ∃ a s v, Ready s v (uses (.fstatClr a)) := by
  obtain ⟨v1, r1, -⟩ := issueOf (.fstatRd 127) (by decide)
  obtain ⟨v2, r2, -, q2⟩ := issueD (s := one (.fstatWr 255 false)) (u := uses (.fstatWr 255 false)) (fun v => v.exec.getLsbD 0 = true) (by decide)
  obtain ⟨v3, r3, -⟩ := issueOf (.fstatClr 63) (by decide)
  exact ⟨⟨_, _, v1, r1⟩, ⟨_, _, v2, lowest0 q2, r2⟩, ⟨_, _, v3, r3⟩⟩

theorem wit_ExpansionForms : (∃ v i t d n f s, WordOp v i t d n f ∧ Ready s v (uses i))
    ∧ ∃ p b c s v, p.b = .reg b ∧ condOf p.aux = some c ∧ Ready s v (uses (.xcmp p)) :=
  have ⟨v1, r1, _⟩ := issueOf (.xmul (wl 4 8 (.reg 12) 0 .x4f32 0)) (by decide)
  have ⟨v2, r2, _⟩ := issueOf (.xcmp (wl 23 8 (.reg 12) 0 .x2f64 13)) (by decide)
  ⟨⟨v1, _, _, _, _, _, _, .xmul _ _ rfl, r1⟩, ⟨_, _, _, _, v2, rfl, rfl, r2⟩⟩

theorem wit_TransformsExact : (let o := tTwo .f16 (fAdd .f16 .rne 0 (FV.fin false 1 0) (FV.fin false 1 (-20))) (dyAdd (1, 0) (1, -20))
      isFinite .f16 (o.words.getD 0 0) = true ∧ Nat.land o.fl fRL = 0)
    ∧ let o := tTwo .f16 (fMul .f16 .rne 0 (FV.fin false 1025 (-10)) (FV.fin false 1025 (-10))) (dyMul (1025, -10) (1025, -10))
      isFinite .f16 (o.words.getD 0 0) = true ∧ Nat.land o.fl fRL = 0 := by decide +kernel

theorem wit_RandomNumbers : (∃ p k s v, (p.b = .reg k ∨ p.b = .scal k) ∧ Ready s v (uses (.rnd p)))
    ∧ ∃ p k s v, p.b = .scal k ∧ Ready s v (uses (.rndg p)) :=
  have ⟨v1, r1, _⟩ := issueOf (.rnd (wl 8 12 (.reg 2) 0 .n32 0)) (by decide)
  have ⟨v2, r2, _⟩ := issueOf (.rndg (wl 8 12 (.scal 2) 0 .n32 0)) (by decide)
  ⟨⟨_, 2, _, v1, .inl rfl, r1⟩, ⟨_, 2, _, v2, rfl, r2⟩⟩

/-! ### Memory -/

/-- An issue that is ready, without the other conditions. -/
theorem issueR {s : State} {u : Uses} (P : View → Prop) [DecidablePred P] (h : issueIs s (fun v => readyB u v && decide (P v)) = true) :
    ∃ v, Ready s v u ∧ P v := by
  obtain ⟨v, hv, r⟩ := issueIs_view h
  simp only [Bool.and_eq_true, decide_eq_true_eq] at r
  exact ⟨v, ready_of hv r.1, r.2⟩

/-- The conditions of `Reaches`, as a check. -/
def reachesB (s : State) (v : View) (need : Need) (a n k : Nat) : Bool :=
  a + n ≤ 2 ^ 57 && layerCheck s v.cx v.g.ctx a == .ok
    && (match entOf (coreTlb s v.tm.core) v.cx.pasid a with
        | some tr => useTrans tr a need == .ok k false || useTrans tr a need == .ok k true
        | none => false)
    && regionKind v.cx a != 2 && regionKind v.cx a != 4 && (List.range n).all fun b => l1Data s v.tm.core v.cx.pasid (k + b) == none

theorem reaches_of {s : State} {v : View} {w : Need} {a n k : Nat} (h : reachesB s v w a n k = true) : Reaches s v w a n k := by
  simp only [reachesB, Bool.and_eq_true, beq_iff_eq, decide_eq_true_eq, bne_iff_ne, ne_eq, List.all_eq_true, List.mem_range] at h
  obtain ⟨⟨⟨⟨⟨h1, h2⟩, h3⟩, h4⟩, h5⟩, h6⟩ := h
  refine ⟨h1, h2, ?_, fun _ => ⟨h4, h5⟩, fun _ _ => h6⟩
  split at h3
  · simp only [Bool.or_eq_true, beq_iff_eq] at h3
    exact h3.elim (fun e => ⟨_, _, ‹_›, e⟩) (fun e => ⟨_, _, ‹_›, e⟩)
  · cases h3

theorem unheld_nil {s : State} {k n : Nat} (h : s.l1 = []) : Unheld s k n := fun e he => by rw [h] at he; cases he

theorem linesWhole_nil {s : State} (h : s.l1 = []) : LinesWhole s := fun e he => by rw [h] at he; cases he

/-- A fact of the lanes of an issue, from one about every lane. -/
theorem allLanesOf {m : Word} {p : Nat → Prop} (h : ∀ L ∈ List.range 32, m.getLsbD L = true → p L) (L : Nat) (hL : m.getLsbD L = true) : p L :=
  h L (List.mem_range.2 (BitVec.lt_of_getLsbD hL)) hL

/-- An access with the scalars and the offset that a test needs. -/
def lm (d a : Nat) (b : Src) (off : Nat) (ty : Ty) : LM := { d := d, a := a, b := b, off := off, ty := ty, scope := .dev, order := .rlx, dep := some 2 }

/-- An access by lane 0 of an instruction whose base is a scalar pair, in the page that holds the code. -/
def memState (i : Instr) (a base : Nat) : State := lanesOnly (oneWith i (sset · a (BitVec.ofNat 32 base))) 1

theorem wit_GlobalLoads :
    (∃ (i : Instr) (p : LM) (addr key : Nat → Nat → Nat) (s : State) (v : View), GlobLoad v i p addr ∧ Ready s v (uses i) ∧ NoWeirs s v ∧
      v.ln.owns = [] ∧ i = .ld p ∧
      ∀ L j, v.exec.getLsbD L = true → j < tyN p.ty →
        Reaches s v .rd (addr L j) (cbytes p.ty) (key L j) ∧ seenPois s v (key L j) (cbytes p.ty) = false)
    ∧ (∃ (i : Instr) (p : LM) (addr key : Nat → Nat → Nat) (s : State) (v : View), GlobLoad v i p addr ∧ Ready s v (uses i) ∧ NoWeirs s v ∧
      v.ln.owns = [] ∧ i = .ldx p ∧
      ∀ L j, v.exec.getLsbD L = true → j < tyN p.ty →
        Reaches s v .rd (addr L j) (cbytes p.ty) (key L j) ∧ seenPois s v (key L j) (cbytes p.ty) = false)
    ∧ ∃ (p : LM) (L0 k : Nat) (s : State) (v : View), Ready s v (uses (.pld p)) ∧ NoWeirs s v ∧ v.ln.owns = [] ∧ LowestIn v.exec L0 ∧
      eaOf2 v p L0 % 4 = 0 ∧ Reaches s v .rd (eaOf2 v p L0) 4 k ∧ seenPois s v k 4 = false := by
  refine ⟨?_, ?_, ?_⟩
  · let p := lm 2 6 (.reg 4) 0xFFF8 .f64
    obtain ⟨v, r, pl, q⟩ := issueD (s := memState (.ld p) 6 0x2000) (u := uses (.ld p)) (fun v => v.ln.owns = []
      ∧ (∀ L ∈ List.range 32, v.exec.getLsbD L = true → eaOf2 v p L % tyAlign p.ty = 0) ∧ ∀ L ∈ List.range 32, ∀ j ∈ List.range (tyN p.ty),
        v.exec.getLsbD L = true → reachesB (memState (.ld p) 6 0x2000) v .rd (eaOf2 v p L + j * cbytes p.ty) (cbytes p.ty) 0x1FF8 = true
          ∧ seenPois (memState (.ld p) 6 0x2000) v 0x1FF8 (cbytes p.ty) = false) (by decide +kernel)
    refine ⟨_, p, _, fun _ _ => 0x1FF8, _, v, .ld p (allLanesOf q.2.1), r, pl.weirs, q.1, rfl, fun L j hL hj => ?_⟩
    have := q.2.2 L (List.mem_range.2 (BitVec.lt_of_getLsbD hL)) j (List.mem_range.2 hj) hL
    exact ⟨reaches_of this.1, this.2⟩
  · let p := lm 2 8 (.reg 4) 0 .x2f32
    let s := lanesOnly (oneWith (.ldx p) fun g => sset (sset (sset (sset g 8 0x1800) 9 0x20000000) 10 0x1900) 11 0x02000000) 1
    obtain ⟨v, r, pl, q⟩ := issueD (s := s) (u := uses (.ldx p)) (fun v => v.ln.owns = []
      ∧ ((splitDesc v.g p.a).bad p.ty = false ∧ (splitDesc v.g p.a).misaligned p.ty = false) ∧ ∀ L ∈ List.range 32, ∀ j ∈ List.range (tyN p.ty),
        v.exec.getLsbD L = true → reachesB s v .rd (splitAddr v p L j) (cbytes p.ty) (splitAddr v p L j) = true
          ∧ seenPois s v (splitAddr v p L j) (cbytes p.ty) = false) (by decide +kernel)
    refine ⟨_, p, _, splitAddr v p, _, v, .ldx p q.2.1.1 q.2.1.2, r, pl.weirs, q.1, rfl, fun L j hL hj => ?_⟩
    have := q.2.2 L (List.mem_range.2 (BitVec.lt_of_getLsbD hL)) j (List.mem_range.2 hj) hL
    exact ⟨reaches_of this.1, this.2⟩
  · let p := lm 23 6 (.reg 4) 0 .n32
    obtain ⟨v, r, pl, q⟩ := issueD (s := memState (.pld p) 6 0x1FFC) (u := uses (.pld p)) (fun v => v.ln.owns = []
      ∧ v.exec.getLsbD 0 = true ∧ eaOf2 v p 0 % 4 = 0 ∧ reachesB (memState (.pld p) 6 0x1FFC) v .rd (eaOf2 v p 0) 4 0x1FFC = true
          ∧ seenPois (memState (.pld p) 6 0x1FFC) v 0x1FFC 4 = false) (by decide +kernel)
    exact ⟨p, 0, _, _, v, r, pl.weirs, q.1, lowest0 q.2.1, q.2.2.1, reaches_of q.2.2.2.1, q.2.2.2.2⟩

theorem wit_GlobalStores :
    (∃ (i : Instr) (p : LM) (addr key : Nat → Nat → Nat) (s : State) (v : View), GlobStore v i p addr ∧ Ready s v (uses i) ∧ NoWeirs s v ∧
      v.ln.owns = [] ∧ LinesWhole s ∧ i = .st p ∧ ∀ L j, v.exec.getLsbD L = true → j < tyN p.ty → Reaches s v .wr (addr L j) (cbytes p.ty) (key L j))
    ∧ (∃ (i : Instr) (p : LM) (addr key : Nat → Nat → Nat) (s : State) (v : View), GlobStore v i p addr ∧ Ready s v (uses i) ∧ NoWeirs s v ∧
      v.ln.owns = [] ∧ LinesWhole s ∧ i = .stx p ∧ ∀ L j, v.exec.getLsbD L = true → j < tyN p.ty → Reaches s v .wr (addr L j) (cbytes p.ty) (key L j))
    ∧ ∃ (p : LM) (L0 k : Nat) (s : State) (v : View), Ready s v (uses (.pst p)) ∧ NoWeirs s v ∧ v.ln.owns = [] ∧ LowestIn v.exec L0 ∧
      LinesWhole s ∧ eaOf2 v p L0 % 4 = 0 ∧ Reaches s v .wr (eaOf2 v p L0) 4 k := by
  refine ⟨?_, ?_, ?_⟩
  · let p := lm 2 6 (.reg 4) 0 .n8
    let s := memState (.st p) 6 0x1FFF
    obtain ⟨v, r, pl, q⟩ := issueD (s := s) (u := uses (.st p)) (fun v => v.ln.owns = []
      ∧ (∀ L ∈ List.range 32, v.exec.getLsbD L = true → eaOf2 v p L % tyAlign p.ty = 0) ∧ ∀ L ∈ List.range 32, ∀ j ∈ List.range (tyN p.ty),
        v.exec.getLsbD L = true → reachesB s v .wr (eaOf2 v p L + j * cbytes p.ty) (cbytes p.ty) 0x1FFF = true) (by decide +kernel)
    exact ⟨_, p, _, fun _ _ => 0x1FFF, _, v, .st p (allLanesOf q.2.1), r, pl.weirs, q.1, linesWhole_nil rfl, rfl,
      fun L j hL hj => reaches_of (q.2.2 L (List.mem_range.2 (BitVec.lt_of_getLsbD hL)) j (List.mem_range.2 hj) hL)⟩
  · let p := lm 4 8 (.reg 2) 0 .x2f32
    let s := lanesOnly (oneWith (.stx p) fun g => sset (sset (sset (sset g 8 0x1800) 9 0x20000000) 10 0x1900) 11 0x02000000) 1
    obtain ⟨v, r, pl, q⟩ := issueD (s := s) (u := uses (.stx p)) (fun v => v.ln.owns = []
      ∧ ((splitDesc v.g p.a).bad p.ty = false ∧ (splitDesc v.g p.a).misaligned p.ty = false) ∧ ∀ L ∈ List.range 32, ∀ j ∈ List.range (tyN p.ty),
        v.exec.getLsbD L = true → reachesB s v .wr (splitAddr v p L j) (cbytes p.ty) (splitAddr v p L j) = true) (by decide +kernel)
    exact ⟨_, p, _, splitAddr v p, _, v, .stx p q.2.1.1 q.2.1.2, r, pl.weirs, q.1, linesWhole_nil rfl, rfl,
      fun L j hL hj => reaches_of (q.2.2 L (List.mem_range.2 (BitVec.lt_of_getLsbD hL)) j (List.mem_range.2 hj) hL)⟩
  · let p := lm 23 6 (.reg 4) 0 .n32
    obtain ⟨v, r, pl, q⟩ := issueD (s := memState (.pst p) 6 0x1FFC) (u := uses (.pst p)) (fun v => v.ln.owns = []
      ∧ v.exec.getLsbD 0 = true ∧ eaOf2 v p 0 % 4 = 0 ∧ reachesB (memState (.pst p) 6 0x1FFC) v .wr (eaOf2 v p 0) 4 0x1FFC = true) (by decide +kernel)
    exact ⟨p, 0, _, _, v, r, pl.weirs, q.1, lowest0 q.2.1, linesWhole_nil rfl, q.2.2.1, reaches_of q.2.2.2⟩

/-- The same with a scratchpad of 2,048 bytes. -/
def scrState (i : Instr) (f : Group → Group) : State := lanesOnly (modTeam (oneWith i f) 0 fun t => { t with scrBytes := 2048 }) 1

theorem wit_ScratchAccess :
    (∃ (i : Instr) (p : LM) (at_ : Nat → Nat × Nat) (s : State) (v : View) (vb : Bool), ScrLoad s v i p at_ ∧ Ready s v (uses i) ∧ NoWeirs s v ∧ i = .ldsc p vb ∧
      ∀ L j, v.exec.getLsbD L = true → j < tyN p.ty → ∃ tt, Grant s (at_ L).1 ((at_ L).2 + j * cbytes p.ty) (cbytes p.ty) tt
        ∧ scrPoisoned tt ((at_ L).2 + j * cbytes p.ty) (cbytes p.ty) = false)
    ∧ ∃ (i : Instr) (p : LM) (at_ : Nat → Nat × Nat) (s : State) (v : View) (vb : Bool), ScrStore s v i p at_ ∧ Ready s v (uses i) ∧ NoWeirs s v ∧ i = .sts p vb ∧
      ∀ L j, v.exec.getLsbD L = true → j < tyN p.ty → ∃ tt, Grant s (at_ L).1 ((at_ L).2 + j * cbytes p.ty) (cbytes p.ty) tt := by
  refine ⟨?_, ?_⟩
  · let p := lm 2 6 (.imm 0) 0 .f64
    let s := scrState (.ldsc p false) (sset · 6 2040)
    obtain ⟨v, r, pl, q⟩ := issueD (s := s) (u := uses (.ldsc p false)) (fun v => (∀ L ∈ List.range 32, v.exec.getLsbD L = true →
        clusterAt s v.tm (eaLM v.g p (scrBaseVal v.g p.a false L) L) (tyBytes p.ty) = some (0, 2040)
          ∧ eaLM v.g p (scrBaseVal v.g p.a false L) L % tyAlign p.ty = 0)
      ∧ team? s 0 = some v.tm ∧ v.tm.st = .resident ∧ (∀ j ∈ List.range (tyN p.ty), lineAbsent v.tm (2040 + j * cbytes p.ty) (cbytes p.ty) = none
        ∧ scrPoisoned v.tm (2040 + j * cbytes p.ty) (cbytes p.ty) = false)) (by decide +kernel)
    obtain ⟨q1, q2, q3, q4⟩ := q
    exact ⟨_, p, fun _ => (0, 2040), s, v, false, .ldsc p false _ (allLanesOf q1), r, pl.weirs, rfl,
      fun L j hL hj => have := q4 j (List.mem_range.2 hj); ⟨v.tm, ⟨q2, q3, this.1⟩, this.2⟩⟩
  · let p := lm 2 6 (.imm 0) 0 .x2f32
    let s := scrState (.sts p true) (vset · 6 0 2040)
    obtain ⟨v, r, pl, q⟩ := issueD (s := s) (u := uses (.sts p true)) (fun v => (∀ L ∈ List.range 32, v.exec.getLsbD L = true →
        (0, 2040) = (v.g.team, eaLM v.g p (scrBaseVal v.g p.a true L) L) ∧ eaLM v.g p (scrBaseVal v.g p.a true L) L + tyBytes p.ty ≤ v.tm.scrBytes
          ∧ eaLM v.g p (scrBaseVal v.g p.a true L) L % tyAlign p.ty = 0)
      ∧ team? s 0 = some v.tm ∧ v.tm.st = .resident ∧ (∀ j ∈ List.range (tyN p.ty), lineAbsent v.tm (2040 + j * cbytes p.ty) (cbytes p.ty) = none)) (by decide +kernel)
    obtain ⟨q1, q2, q3, q4⟩ := q
    exact ⟨_, p, fun _ => (0, 2040), s, v, true, .sts p true _ (allLanesOf q1), r, pl.weirs, rfl,
      fun L j hL hj => ⟨v.tm, q2, q3, q4 j (List.mem_range.2 hj)⟩⟩

theorem wit_ConstantLoads :
    (∃ (p : LM) (s : State) (v : View), NoWeirs s v ∧ Ready s v (uses (.ldc p)) ∧ p.a < 128 ∧ ∀ L, v.exec.getLsbD L = true →
      eaLM v.g p 0 L + tyBytes p.ty ≤ (if p.a % 2 = 0 then v.ln.kern.const0 else v.ln.args.take v.ln.kern.argSize).length ∧ eaLM v.g p 0 L % tyAlign p.ty = 0)
    ∧ (∃ (p : LM) (s : State) (v : View), NoWeirs s v ∧ Ready s v (uses (.ldc p)) ∧ 128 ≤ p.a ∧ tyExp p.ty = false ∧ LowestIn v.exec 0
      ∧ eaLM v.g p 0 0 + tyBytes p.ty ≤ (if p.a % 2 = 0 then v.ln.kern.const0 else v.ln.args.take v.ln.kern.argSize).length ∧ eaLM v.g p 0 0 % tyAlign p.ty = 0)
    ∧ ∃ (p : LM) (s : State) (v : View), NoWeirs s v ∧ Ready s v (uses (.pref p)) ∧ Plain s v := by
  refine ⟨?_, ?_, ?_⟩
  · let p := { lm 2 0 (.imm 0) 0 .n32 with order := .rlx, scope := .grp, dep := some 7 }
    obtain ⟨v, r, pl, q⟩ := issueD (s := modLaunch (one (.ldc p)) 0 fun l => { l with kern := { l.kern with const0 := [1, 2, 3, 4] } }) (u := uses (.ldc p))
      (fun v => ∀ L ∈ List.range 32, v.exec.getLsbD L = true →
        eaLM v.g p 0 L + tyBytes p.ty ≤ (if p.a % 2 = 0 then v.ln.kern.const0 else v.ln.args.take v.ln.kern.argSize).length ∧ eaLM v.g p 0 L % tyAlign p.ty = 0) (by decide)
    exact ⟨p, _, v, pl.weirs, r, by decide, allLanesOf q⟩
  · let p := { lm 2 129 (.imm 0) 8 .n64 with scope := .grp }
    obtain ⟨v, r, pl, q⟩ := issueD (s := modLaunch (one (.ldc p)) 0 fun l => { l with args := List.replicate 16 1, kern := { l.kern with argSize := 16 } }) (u := uses (.ldc p))
      (fun v => v.exec.getLsbD 0 = true ∧ eaLM v.g p 0 0 + tyBytes p.ty ≤ (if p.a % 2 = 0 then v.ln.kern.const0 else v.ln.args.take v.ln.kern.argSize).length
        ∧ eaLM v.g p 0 0 % tyAlign p.ty = 0) (by decide)
    exact ⟨p, _, v, pl.weirs, r, by decide, by decide, lowest0 q.1, q.2⟩
  · let p := { lm 0 6 (.imm 0) 0 .n32 with dep := none, scope := .grp }
    obtain ⟨v, r, pl⟩ := issueOf (.pref p) (by decide)
    exact ⟨p, _, v, pl.weirs, r, pl⟩

/-- An atomic with the operands that a test needs. -/
def lt (d a : Nat) (c : Nat) (ty : Ty) : LT := { d := d, a := a, b := .imm 0, c := c, ty := ty, scope := .dev, order := .rlx, rmt := false, dep := none }

theorem wit_AtomicUpdates :
    (∃ (i : Instr) (p : LT) (fn : AtomFn) (ret : Bool) (key : Nat → Nat) (s : State) (v : View), GlobAtom i p fn ret ∧ Ready s v (uses i) ∧
      NoWeirs s v ∧ v.ln.owns = [] ∧ tyExp p.ty = false ∧ (v.g.fptrap = 0 ∨ tyInt p.ty = true) ∧
      LinesWhole s ∧ (∀ L, v.exec.getLsbD L = true → eaAtom v p L % tyAlign p.ty = 0 ∧ Reaches s v .rw (eaAtom v p L) (cbytes p.ty) (key L)
        ∧ seenPois s v (key L) (cbytes p.ty) = false
        ∧ (translate s (some v.tm.core) v.cx.pasid (eaAtom v p L) .rw = .ok (key L) true → HostTakes p fn)
        ∧ (p.scope = .sys → hostBase ≤ key L → Unheld s (key L) (cbytes p.ty))) ∧
      (∀ L M, v.exec.getLsbD L = true → v.exec.getLsbD M = true → key L = key M ∨ key L + cbytes p.ty ≤ key M ∨ key M + cbytes p.ty ≤ key L))
    ∧ ∃ (p : LT) (fn : AtomFn) (s : State) (v : View), Ready s v (uses (.atoms p fn)) ∧ NoWeirs s v ∧ tyExp p.ty = false ∧
      (v.g.fptrap = 0 ∨ tyInt p.ty = true) ∧ v.tm.st = .resident ∧
      (∀ L, v.exec.getLsbD L = true → eaLT v.g p (vget v.g p.a L).toNat L % tyAlign p.ty = 0
        ∧ eaLT v.g p (vget v.g p.a L).toNat L + cbytes p.ty ≤ v.tm.scrBytes ∧ lineAbsent v.tm (eaLT v.g p (vget v.g p.a L).toNat L) (cbytes p.ty) = none
        ∧ scrPoisoned v.tm (eaLT v.g p (vget v.g p.a L).toNat L) (cbytes p.ty) = false) := by
  refine ⟨?_, ?_⟩
  · let p := lt 2 6 4 .f32
    let s := oneWith (.atom p .add) (sset · 6 0x1FFC)
    obtain ⟨v, r, pl, q⟩ := issueD (s := s) (u := uses (.atom p .add)) (fun v => v.ln.owns = [] ∧ v.g.fptrap = 0
      ∧ ∀ L ∈ List.range 32, v.exec.getLsbD L = true → eaAtom v p L % tyAlign p.ty = 0 ∧ reachesB s v .rw (eaAtom v p L) (cbytes p.ty) 0x1FFC = true
        ∧ seenPois s v 0x1FFC (cbytes p.ty) = false ∧ translate s (some v.tm.core) v.cx.pasid (eaAtom v p L) .rw ≠ .ok 0x1FFC true) (by decide +kernel)
    have h := allLanesOf q.2.2
    exact ⟨_, p, .add, true, fun _ => 0x1FFC, s, v, .atom p .add, r, pl.weirs, q.1, rfl, .inl q.2.1, linesWhole_nil rfl,
      fun L hL => ⟨(h L hL).1, reaches_of (h L hL).2.1, (h L hL).2.2.1, fun e => absurd e (h L hL).2.2.2, fun e => absurd e (by decide)⟩, fun _ _ _ _ => .inl rfl⟩
  · let p := lt 2 6 4 .n64
    let s := modTeam (oneWith (.atoms p .max) fun g => vset g 6 0 2040) 0 fun t => { t with scrBytes := 2048 }
    obtain ⟨v, r, pl, q⟩ := issueD (s := s) (u := uses (.atoms p .max)) (fun v => v.tm.st = .resident
      ∧ ∀ L ∈ List.range 32, v.exec.getLsbD L = true → eaLT v.g p (vget v.g p.a L).toNat L % tyAlign p.ty = 0
        ∧ eaLT v.g p (vget v.g p.a L).toNat L + cbytes p.ty ≤ v.tm.scrBytes ∧ lineAbsent v.tm (eaLT v.g p (vget v.g p.a L).toNat L) (cbytes p.ty) = none
        ∧ scrPoisoned v.tm (eaLT v.g p (vget v.g p.a L).toNat L) (cbytes p.ty) = false) (by decide +kernel)
    exact ⟨p, .max, s, v, r, pl.weirs, rfl, .inr rfl, q.1, allLanesOf q.2⟩

theorem wit_CompensatedAtomics : ∃ (p : LT) (key : Nat → Nat × Nat) (s : State) (v : View), (p.ty = .f32 ∨ p.ty = .f64) ∧ Ready s v (uses (.atomc p)) ∧
    NoWeirs s v ∧ v.ln.owns = [] ∧ v.g.fptrap = 0 ∧
    (∀ L, v.exec.getLsbD L = true → let ea := eaAtom v p L
      ea % (2 * cbytes p.ty) = 0 ∧ Reaches s v .rw ea (cbytes p.ty) (key L).1 ∧ Reaches s v .rw (ea + cbytes p.ty) (cbytes p.ty) (key L).2
      ∧ poisoned s (key L).1 (cbytes p.ty) = false ∧ poisoned s (key L).2 (cbytes p.ty) = false ∧ Unheld s (key L).1 (2 * cbytes p.ty)
      ∧ translate s (some v.tm.core) v.cx.pasid ea .rw = .ok (key L).1 false ∧ translate s (some v.tm.core) v.cx.pasid (ea + cbytes p.ty) .rw = .ok (key L).2 false
      ∧ (key L).2 = (key L).1 + cbytes p.ty) ∧
    (∀ L M, v.exec.getLsbD L = true → v.exec.getLsbD M = true →
      key L = key M ∨ (key L).1 + 2 * cbytes p.ty ≤ (key M).1 ∨ (key M).1 + 2 * cbytes p.ty ≤ (key L).1) := by
  let p := lt 4 6 8 .f64
  let s := oneWith (.atomc p) (sset · 6 0x1FF0)
  obtain ⟨v, r, pl, q⟩ := issueD (s := s) (u := uses (.atomc p)) (fun v => v.ln.owns = [] ∧ v.g.fptrap = 0
    ∧ ∀ L ∈ List.range 32, v.exec.getLsbD L = true → eaAtom v p L % (2 * cbytes p.ty) = 0 ∧ reachesB s v .rw (eaAtom v p L) (cbytes p.ty) 0x1FF0 = true
      ∧ reachesB s v .rw (eaAtom v p L + cbytes p.ty) (cbytes p.ty) 0x1FF8 = true
      ∧ poisoned s 0x1FF0 (cbytes p.ty) = false ∧ poisoned s 0x1FF8 (cbytes p.ty) = false
      ∧ translate s (some v.tm.core) v.cx.pasid (eaAtom v p L) .rw = .ok 0x1FF0 false
      ∧ translate s (some v.tm.core) v.cx.pasid (eaAtom v p L + cbytes p.ty) .rw = .ok 0x1FF8 false) (by decide +kernel)
  have h := allLanesOf q.2.2
  exact ⟨p, fun _ => (0x1FF0, 0x1FF8), s, v, .inr rfl, r, pl.weirs, q.1, q.2.1, fun L hL =>
    have ⟨a, b, c, d, e, f, g⟩ := h L hL
    ⟨a, reaches_of b, reaches_of c, d, e, unheld_nil rfl, f, g, rfl⟩, fun _ _ _ _ => .inl rfl⟩

theorem wit_AccessTraps :
    (∃ (p : LM) (s : State) (v : View), Ready s v (uses (.ldx p)) ∧ (splitDesc v.g p.a).bad p.ty = true)
    ∧ (∃ (i : Instr) (t : Ty) (ea : Nat → Nat) (top : Nat) (s : State) (v : View), Checked v i t ea top ∧ Ready s v (uses i) ∧
      v.exec.getLsbD 0 = true ∧ top < ea 0 + tyBytes t)
    ∧ (∃ (i : Instr) (t : Ty) (ea : Nat → Nat) (top : Nat) (s : State) (v : View), Checked v i t ea top ∧ Ready s v (uses i) ∧
      (∀ L, v.exec.getLsbD L = true → ¬ top < ea L + tyBytes t) ∧ v.exec.getLsbD 0 = true ∧ ea 0 % tyAlign t ≠ 0)
    ∧ ∃ (p : LM) (s : State) (v : View), Ready s v (uses (.st p)) ∧
      (∀ L, v.exec.getLsbD L = true → ¬ 2 ^ 57 < eaOf2 v p L + tyBytes p.ty ∧ ¬ eaOf2 v p L % tyAlign p.ty ≠ 0)
      ∧ v.exec.getLsbD 0 = true ∧ (regionKind v.cx (eaOf2 v p 0) = 2 ∨ regionKind v.cx (eaOf2 v p 0) = 4) := by
  refine ⟨?_, ?_, ?_, ?_⟩
  · let p := lm 2 8 (.imm 0) 0 .x2f32
    obtain ⟨v, r, q⟩ := issueR (s := one (.ldx p)) (u := uses (.ldx p)) (fun v => (splitDesc v.g p.a).bad p.ty = true) (by decide)
    exact ⟨p, _, v, r, q⟩
  · let p := lm 2 6 (.imm 0) 0 .n64
    obtain ⟨v, r, q⟩ := issueR (s := oneWith (.ld p) fun g => sset (sset g 6 0xFFFFFFF8) 7 0x2000000) (u := uses (.ld p))
      (fun v => v.exec.getLsbD 0 = true ∧ 2 ^ 57 < eaOf2 v p 0 + tyBytes p.ty) (by decide)
    exact ⟨_, _, _, _, _, v, .ld p, r, q⟩
  · let p := lm 2 6 (.imm 0) 0 .n16
    obtain ⟨v, r, q⟩ := issueR (s := modTeam (oneWith (.sts p false) (sset · 6 1)) 0 fun t => { t with scrBytes := 3 }) (u := uses (.sts p false))
      (fun v => (∀ L ∈ List.range 32, v.exec.getLsbD L = true → ¬ v.tm.scrBytes < eaLM v.g p (scrBaseVal v.g p.a false L) L + tyBytes p.ty)
        ∧ v.exec.getLsbD 0 = true ∧ eaLM v.g p (scrBaseVal v.g p.a false 0) 0 % tyAlign p.ty ≠ 0) (by decide)
    exact ⟨_, _, _, _, _, v, .sts p false, r, allLanesOf q.1, q.2⟩
  · let p := lm 2 6 (.imm 0) 0 .n32
    let s := modCtx (oneWith (.st p) (sset · 6 0x3000)) 0 fun c => { c with regions := [{ base := 0x3000, limit := 0x3FFF, kind := 2, nol1 := false }] }
    obtain ⟨v, r, q⟩ := issueR (s := s) (u := uses (.st p))
      (fun v => (∀ L ∈ List.range 32, v.exec.getLsbD L = true → ¬ 2 ^ 57 < eaOf2 v p L + tyBytes p.ty ∧ ¬ eaOf2 v p L % tyAlign p.ty ≠ 0)
        ∧ v.exec.getLsbD 0 = true ∧ (regionKind v.cx (eaOf2 v p 0) = 2 ∨ regionKind v.cx (eaOf2 v p 0) = 4)) (by decide)
    exact ⟨p, _, v, r, allLanesOf q.1, q.2⟩

theorem wit_PageWaits : ∃ (p : LM) (key : Nat → Nat) (miss : Nat → Bool) (s : State) (v : View), Ready s v (uses (.ld p)) ∧ Plain s v ∧ v.ln.owns = [] ∧
    s.waits = [] ∧ tyExp p.ty = false ∧ (∀ L, v.exec.getLsbD L = true → eaOf2 v p L % tyAlign p.ty = 0
      ∧ if miss L then eaOf2 v p L + cbytes p.ty ≤ 2 ^ 57 ∧ layerCheck s v.cx v.g.ctx (eaOf2 v p L) = .ok ∧ Misses s v .rd (eaOf2 v p L)
        else Reaches s v .rd (eaOf2 v p L) (cbytes p.ty) (key L) ∧ seenPois s v (key L) (cbytes p.ty) = false)
    ∧ miss 0 = true ∧ miss 1 = false ∧ v.exec.getLsbD 0 = true ∧ v.exec.getLsbD 1 = true := by
  let p := lm 2 6 (.reg 4) 0 .n32
  let s := oneWith (.ld p) fun g => vset (sset g 6 0x1FFC) 4 0 4
  obtain ⟨v, r, pl, q⟩ := issueD (s := s) (u := uses (.ld p)) (fun v => v.ln.owns = [] ∧ (s.waits = []
    ∧ v.exec.getLsbD 0 = true ∧ v.exec.getLsbD 1 = true)
    ∧ ∀ L ∈ List.range 32, v.exec.getLsbD L = true → eaOf2 v p L % tyAlign p.ty = 0
      ∧ if L == 0 then eaOf2 v p L + cbytes p.ty ≤ 2 ^ 57 ∧ layerCheck s v.cx v.g.ctx (eaOf2 v p L) = .ok
          ∧ translate s (some v.tm.core) v.cx.pasid (eaOf2 v p L) .rd = .miss
        else reachesB s v .rd (eaOf2 v p L) (cbytes p.ty) 0x1FFC = true ∧ seenPois s v 0x1FFC (cbytes p.ty) = false) (by decide +kernel)
  have h := allLanesOf q.2.2
  refine ⟨p, fun _ => 0x1FFC, fun L => L == 0, s, v, r, pl, q.1, q.2.1.1, rfl, fun L hL => ⟨(h L hL).1, ?_⟩, rfl, rfl, q.2.1.2⟩
  have k := (h L hL).2
  split
  · rwa [if_pos ‹_›] at k
  · rw [if_neg ‹_›] at k
    exact ⟨reaches_of k.1, k.2⟩

/-! ### Fences, barriers and barrier objects -/

theorem wit_FenceGoesOn : ∃ (p : LT) (s : State) (v : View), Plain s v ∧ Ready s v (uses (.fence p)) :=
  have ⟨v, r, pl⟩ := issueOf (.fence { lt 0 0 0 .i32 with order := .sc, scope := .sys }) (by decide)
  ⟨_, _, v, pl, r⟩

/-- The conditions of `Alone`, as a check. -/
def aloneB (v : View) : Bool :=
  v.tm.groups == [v.is.gid] && v.tm.bars == [] && v.tm.st == .resident && v.tm.launch == v.g.launch && !v.g.exited && !v.g.ended

theorem alone_of {v : View} (h : aloneB v = true) : Alone v := by
  simp only [aloneB, Bool.and_eq_true, beq_iff_eq, Bool.not_eq_true'] at h
  exact ⟨h.1.1.1.1.1, h.1.1.1.1.2, h.1.1.1.2, h.1.1.2, h.1.2, h.2⟩

/-- A lane that no other waits for: alone, or with one that runs. -/
def fewLanes (i : Instr) (n : Nat) : State :=
  lanesOnly (oneWith i fun g => { g with lanes := (List.range n).map fun L => (L, laneGet g L) }) 1

/-- A lane of group 0 at a barrier, and group 1 of its team, whose one lane waits at `w`, or runs. -/
def barState (i : Instr) (w : LSt) (n : Nat) : State :=
  let s := fewLanes i 1
  let gs := match group? s 0 with
    | some g => mput s.groups 1 { g with idx := 1, lanes := [(0, { laneGet g 0 with st := w })] }
    | none => s.groups
  modTeam { s with groups := gs } 0 fun t => { t with groups := [0, 1], bars := if n = 0 then [] else [(15, { n := n, arrived := [1] })] }

theorem wit_BarriersJoin_team : ∀ n ∈ [2, 3], ∃ (p : LT) (arr : List Nat) (s : State) (v : View), Plain s v ∧ Ready s v (uses (.bar p)) ∧ p.a = 15
    ∧ (bsval v.g p.b).toNat = n ∧ AllArrive v ∧ handLanes v.g = 0 ∧ Gathered s v p.a n arr ∧ arr.length = 1 := by
  intro n hn
  let p := { lt 0 15 0 .i32 with b := .imm n }
  let w : LSt := .bar (.bar 15 n) 0
  let s := barState (.bar p) w n
  obtain ⟨v, r, pl, q⟩ := issueD (s := s) (u := uses (.bar p)) (fun v => (bsval v.g p.b).toNat = n
      ∧ (∀ L ∈ List.range 32, v.exec.getLsbD L = false → (laneGet v.g L).st = .dead ∧ v.is.lanes.getLsbD L = false) ∧ handLanes v.g = 0
      ∧ v.is.gid = 0 ∧ v.tm.groups = [0, 1] ∧ v.tm.st = .resident ∧ v.g.exited = false ∧ v.g.ended = false
      ∧ mget? v.tm.bars 15 = some { n := n, arrived := [1] } ∧ ((group? s 1).any fun g => barArrived g (isBar 15) && !g.exited && handLanes g == 0
        && (List.range 32).all fun L => (laneGet g L).st == w || (laneGet g L).st == .dead) = true)
    (by simp only [List.mem_cons, List.not_mem_nil, or_false] at hn; obtain rfl | rfl := hn <;> decide)
  obtain ⟨q1, q2, q3, q4, q5, q6, q7, q8, q9, q10⟩ := q
  obtain ⟨g, hg, k⟩ := (Option.any_eq_true _ _).1 q10
  simp only [Bool.and_eq_true, beq_iff_eq, Bool.not_eq_true', List.all_eq_true, List.mem_range, Bool.or_eq_true] at k
  have two {x : Nat} (hx : x ∈ v.tm.groups) (h0 : x ≠ v.is.gid) : x = 1 := by rw [q5] at hx; rw [q4] at h0; simpa [h0] using hx
  refine ⟨p, [1], s, v, pl, r, rfl, q1, fun L h => q2 L (List.mem_range.2 h), q3,
    ⟨by rw [q4, q5]; exact ⟨by decide, by decide, by decide, q6, q7, q8⟩, q9, fun x hx => ?_, fun x g hx h0 h1 _ => ?_, fun x y L b j c hx h0 hy hL hb => ?_⟩, rfl⟩
  · rw [List.mem_singleton] at hx; subst hx
    exact ⟨by rw [q5]; decide, g, hg, k.1.1.1, k.1.1.2, k.1.2⟩
  · exact absurd (List.mem_singleton.2 (two hx h0)) h1
  · rw [two hx h0, hg] at hy; cases hy
    rcases k.2 L hL with e | e
    · have e := e.symm.trans hb
      simp only [w, LSt.bar.injEq, BWhy.bar.injEq] at e
      exact ⟨e.1.1.symm, e.1.2.symm⟩
    · cases e.symm.trans hb

theorem wit_BarriersJoin_wide : ∀ w ∈ [LSt.bar .barc 0, .run], ∃ (p : LT) (s : State) (v : View), Plain s v ∧ Ready s v (uses (.barc p)) ∧ AllArrive v
    ∧ handLanes v.g = 0 ∧ NoBars s v ∧ v.g.exited = false ∧ v.tm.st = .resident ∧ v.tm.launch = v.g.launch ∧ v.is.gid ∈ v.tm.groups
    ∧ joined s v .barc = [0, 1] ∧ v.is.gid = 0 ∧ ∃ g, group? s 1 = some g ∧ (barArrived g isBarc = true ↔ w = .bar .barc 0) ∧ handLanes g = 0 := by
  intro w hw
  let p := lt 0 0 0 .i32
  let s := barState (.barc p) w 0
  obtain ⟨v, r, pl, q⟩ := issueD (s := s) (u := uses (.barc p)) (fun v =>
      (∀ L ∈ List.range 32, v.exec.getLsbD L = false → (laneGet v.g L).st = .dead ∧ v.is.lanes.getLsbD L = false) ∧ handLanes v.g = 0
      ∧ v.g.exited = false ∧ v.tm.st = .resident ∧ v.tm.launch = v.g.launch ∧ v.is.gid ∈ v.tm.groups ∧ joined s v .barc = [0, 1] ∧ v.is.gid = 0
      ∧ (∀ x ∈ v.tm.groups, ((group? s x).all fun g => (List.range 32).all fun L => match (laneGet g L).st with | .bar (.bar _ _) _ => false | _ => true) = true)
      ∧ ((group? s 1).any fun g => (barArrived g isBarc == decide (w = .bar .barc 0)) && handLanes g == 0) = true)
    (by simp only [List.mem_cons, List.not_mem_nil, or_false] at hw; obtain rfl | rfl := hw <;> decide)
  obtain ⟨q1, q2, q3, q4, q5, q6, q7, q8, q9, q10⟩ := q
  obtain ⟨g, hg, k⟩ := (Option.any_eq_true _ _).1 q10
  simp only [Bool.and_eq_true, beq_iff_eq] at k
  refine ⟨p, s, v, pl, r, fun L h => q1 L (List.mem_range.2 h), q2, fun x y L b n c hx hy hL hb => ?_, q3, q4, q5, q6, q7, q8, g, hg, by rw [k.1]; simp, k.2⟩
  have := q9 x hx
  rw [hy, Option.all_some, List.all_eq_true] at this
  have := this L (List.mem_range.2 hL)
  rw [hb] at this
  cases this

theorem wit_BarriersJoin :
    (∃ (i : Instr) (w : BWhy) (M : Nat) (s : State) (v : View), BarWord v i w ∧ Plain s v ∧ Ready s v (uses i) ∧ Alone v ∧
      M < 32 ∧ v.exec.getLsbD M = false ∧ (laneGet v.g M).st ≠ .dead ∧ ∀ x c, (laneGet v.g M).st ≠ .bar x c)
    ∧ (∃ (i : Instr) (w : BWhy) (s : State) (v : View), BarWord v i w ∧ Plain s v ∧ Ready s v (uses i) ∧ Alone v ∧ AloneAt s v w ∧
      (∀ L, L < 32 → v.exec.getLsbD L = false → (laneGet v.g L).st = .dead ∧ v.is.lanes.getLsbD L = false) ∧
      (∀ L, v.exec.getLsbD L = true → (laneGet v.g L).hand = false) ∧ i = .gsync (lt 0 0 0 .i32))
    ∧ ∃ (p : LT) (s : State) (v : View), Ready s v (uses (.bar p)) ∧ 64 < (bsval v.g p.b).toNat := by
  refine ⟨?_, ?_, ?_⟩
  · let p := { lt 0 15 0 .i32 with b := .imm 64 }
    obtain ⟨v, r, pl, q⟩ := issueD (s := fewLanes (.bar p) 2) (u := uses (.bar p)) (fun v => (bsval v.g p.b).toNat = 64 ∧ aloneB v = true
      ∧ v.exec.getLsbD 1 = false ∧ (laneGet v.g 1).st = .run) (by decide)
    exact ⟨_, _, 1, _, v, .bar p (by decide) (by rw [q.1]; first | done | decide), pl, r, alone_of q.2.1, by decide, q.2.2.1, by simp [q.2.2.2],
      fun x c => by simp [q.2.2.2]⟩
  · let p := lt 0 0 0 .i32
    obtain ⟨v, r, pl, q⟩ := issueD (s := fewLanes (.gsync p) 1) (u := uses (.gsync p)) (fun v => aloneB v = true
      ∧ ((((fewLanes (.gsync p) 1).teams.filter fun e => e.2.launch == v.tm.launch) = [(v.g.team, v.tm)])
        ∧ v.ln.gridX * v.ln.gridY * v.ln.gridZ = 1 + v.ln.retired.length ∧ v.ln.kern.ordered = false)
      ∧ (∀ L ∈ List.range 32, v.exec.getLsbD L = false → (laneGet v.g L).st = .dead ∧ v.is.lanes.getLsbD L = false)
      ∧ ∀ L ∈ List.range 32, v.exec.getLsbD L = true → (laneGet v.g L).hand = false) (by decide)
    exact ⟨_, _, _, v, .gsync p, pl, r, alone_of q.1, q.2.1, fun L h => q.2.2.1 L (List.mem_range.2 h), allLanesOf q.2.2.2, rfl⟩
  · let p := { lt 0 15 0 .i32 with b := .imm 65 }
    obtain ⟨v, r, q⟩ := issueR (s := one (.bar p)) (u := uses (.bar p)) (fun v => 64 < (bsval v.g p.b).toNat) (by decide)
    exact ⟨p, _, v, r, q⟩

/-- A state whose team holds an object at offset 16, with scalar 6 that offset. -/
def objState (i : Instr) (b : BObj) (n : Word) : State :=
  modTeam (oneWith i fun g => sset (sset g 6 16) 7 n) 0 fun t => bobjPut { t with scrBytes := 32 } 16 b

/-- The conditions of `OwnObj`, as a check. -/
def ownObjB (v : View) (a : Nat) (b : BObj) : Bool :=
  (sget v.g a).toNat + 16 ≤ v.tm.scrBytes && (sget v.g a).toNat % 16 == 0 && lineAbsent v.tm (sget v.g a).toNat 16 == none
    && bobjGet v.tm (sget v.g a).toNat == b

theorem ownObj_of {v : View} {a : Nat} {b : BObj} (h : ownObjB v a b = true) : OwnObj v a b := by
  simp only [ownObjB, Bool.and_eq_true, beq_iff_eq, decide_eq_true_eq] at h
  exact ⟨h.1.1.1, h.1.1.2, h.1.2, h.2⟩

/-- A live object with some arrivals to come. -/
def obj (earr parr : Nat) (pbytes : Int) : BObj :=
  { earr := earr, parr := parr, ecause := 0, can := false, err := false, valid := true, phase := false, ebytes := 0, pbytes := pbytes, rest := 0 }

/-- The operands of an instruction on the object of `objState`. -/
def ol : LT := { lt 1 6 0 .i32 with b := .scal 7 }

theorem wit_ObjectUpdates : (∃ b s v, ObjUpd (bsval v.g ol.b).toNat b (.binit ol) ol (obj 65535 65535 0) false
      ∧ Ready s v (uses (.binit ol)) ∧ NoWeirs s v ∧ OwnObj v ol.a b)
    ∧ (∃ b c s v, ObjUpd (bsval v.g ol.b).toNat b (.barrive ol) ol c true ∧ Ready s v (uses (.barrive ol)) ∧ NoWeirs s v ∧ OwnObj v ol.a b)
    ∧ (∃ b c s v, ObjUpd (bsval v.g ol.b).toNat b (.bdrop ol) ol c true ∧ Ready s v (uses (.bdrop ol)) ∧ NoWeirs s v ∧ OwnObj v ol.a b)
    ∧ ∃ b c s v, ObjUpd (bsval v.g ol.b).toNat b (.bexpect ol) ol c false ∧ Ready s v (uses (.bexpect ol)) ∧ NoWeirs s v ∧ OwnObj v ol.a b := by
  refine ⟨?_, ?_, ?_, ?_⟩
  · obtain ⟨v, r, pl, q⟩ := issueD (s := objState (.binit ol) (obj 1 1 0) 65535) (u := uses (.binit ol))
      (fun v => (bsval v.g ol.b).toNat = 65535 ∧ ownObjB v ol.a (obj 1 1 0) = true) (by decide +kernel)
    have h := ObjUpd.binit (n := 65535) (b := obj 1 1 0) ol (by decide) (by decide)
    exact ⟨_, _, v, by rw [q.1] at *; exact h, r, pl.weirs, ownObj_of q.2⟩
  · obtain ⟨v, r, pl, q⟩ := issueD (s := objState (.barrive ol) (obj 2 1 0) 1) (u := uses (.barrive ol))
      (fun v => (bsval v.g ol.b).toNat = 1 ∧ ownObjB v ol.a (obj 2 1 0) = true) (by decide +kernel)
    exact ⟨_, _, _, v, .barrive ol rfl rfl (by omega) (by rw [q.1]; first | done | decide), r, pl.weirs, ownObj_of q.2⟩
  · obtain ⟨v, r, pl, q⟩ := issueD (s := objState (.bdrop ol) (obj 2 1 0) 1) (u := uses (.bdrop ol))
      (fun v => (bsval v.g ol.b).toNat = 1 ∧ ownObjB v ol.a (obj 2 1 0) = true) (by decide +kernel)
    exact ⟨_, _, _, v, .bdrop ol rfl rfl (by omega) (by rw [q.1]; first | done | decide) (by rw [q.1]; first | done | decide), r, pl.weirs, ownObj_of q.2⟩
  · obtain ⟨v, r, pl, q⟩ := issueD (s := objState (.bexpect ol) (obj 2 1 (-1)) 0x7FFFFFFF) (u := uses (.bexpect ol))
      (fun v => (bsval v.g ol.b).toNat = 0x7FFFFFFF ∧ ownObjB v ol.a (obj 2 1 (-1)) = true) (by decide +kernel)
    exact ⟨_, _, _, v, .bexpect ol rfl rfl (by rw [q.1]; first | done | decide), r, pl.weirs, ownObj_of q.2⟩

theorem wit_ObjectWaits :
    (∃ b s v, b.valid = true ∧ OwnObj v ol.a b ∧ Ready s v (uses (.bwait ol)) ∧ Plain s v ∧ b.phase ≠ (bsval v.g ol.b).getLsbD 0 ∧ b.err = false)
    ∧ (∃ b s v, b.valid = true ∧ OwnObj v ol.a b ∧ Ready s v (uses (.bwait ol)) ∧ Plain s v ∧ b.phase = (bsval v.g ol.b).getLsbD 0)
    ∧ (∃ b s v, b.valid = true ∧ OwnObj v ol.a b ∧ Ready s v (uses (.btest ol)) ∧ NoWeirs s v ∧ b.err = false)
    ∧ ∃ b s v, b.valid = true ∧ OwnObj v ol.a b ∧ Ready s v (uses (.binv ol)) ∧ Plain s v
      ∧ (∀ j g L, group? s j = some g → L < 32 → ∀ x a c, (laneGet g L).st ≠ .bar (.obj x a) c)
      ∧ ∀ L x a c, L < 32 → (laneGet v.g L).st ≠ .bar (.obj x a) c := by
  refine ⟨?_, ?_, ?_, ?_⟩
  · obtain ⟨v, r, pl, q⟩ := issueD (s := objState (.bwait ol) (obj 2 1 0) 1) (u := uses (.bwait ol))
      (fun v => ownObjB v ol.a (obj 2 1 0) = true ∧ (obj 2 1 0).phase ≠ (bsval v.g ol.b).getLsbD 0) (by decide +kernel)
    exact ⟨_, _, v, rfl, ownObj_of q.1, r, pl, q.2, rfl⟩
  · obtain ⟨v, r, pl, q⟩ := issueD (s := objState (.bwait ol) (obj 2 1 0) 2) (u := uses (.bwait ol))
      (fun v => ownObjB v ol.a (obj 2 1 0) = true ∧ (obj 2 1 0).phase = (bsval v.g ol.b).getLsbD 0) (by decide +kernel)
    exact ⟨_, _, v, rfl, ownObj_of q.1, r, pl, q.2⟩
  · obtain ⟨v, r, pl, q⟩ := issueD (s := objState (.btest ol) (obj 2 1 0) 0) (u := uses (.btest ol))
      (fun v => ownObjB v ol.a (obj 2 1 0) = true) (by decide +kernel)
    exact ⟨_, _, v, rfl, ownObj_of q, r, pl.weirs, rfl⟩
  · obtain ⟨v, r, pl, q⟩ := issueD (s := objState (.binv ol) (obj 2 1 0) 0) (u := uses (.binv ol))
      (fun v => ownObjB v ol.a (obj 2 1 0) = true ∧ (∀ e ∈ (objState (.binv ol) (obj 2 1 0) 0).groups, ∀ L ∈ List.range 32, (laneGet e.2 L).st = .run)
        ∧ ∀ L ∈ List.range 32, (laneGet v.g L).st = .run) (by decide +kernel)
    have k (L : Nat) (hL : L < 32) := q.2.2 L (List.mem_range.2 hL)
    exact ⟨_, _, v, rfl, ownObj_of q.1, r, pl, fun j g L hg hL x a c => by simp [q.2.1 _ (mget?_mem hg) L (List.mem_range.2 hL)],
      fun L x a c hL => by simp [k L hL]⟩

theorem wit_ObjectTraps :
    (∃ p s v, Ready s v (uses (.bwait p)) ∧ v.tm.scrBytes < (sget v.g p.a).toNat + 16)
    ∧ (∃ p s v, Ready s v (uses (.binit p)) ∧ (sget v.g p.a).toNat + 16 ≤ v.tm.scrBytes ∧ (sget v.g p.a).toNat % 16 ≠ 0)
    ∧ (∃ b s v, Ready s v (uses (.btest ol)) ∧ OwnObj v ol.a b ∧ b.valid = false)
    ∧ (∃ b s v, Ready s v (uses (.binit ol)) ∧ OwnObj v ol.a b ∧ 65535 < (bsval v.g ol.b).toNat)
    ∧ (∃ b s v, Ready s v (uses (.barrive ol)) ∧ OwnObj v ol.a b ∧ b.valid = true ∧ b.parr < (bsval v.g ol.b).toNat)
    ∧ (∃ b s v, Ready s v (uses (.bdrop ol)) ∧ OwnObj v ol.a b ∧ b.valid = true ∧ b.earr ≤ (bsval v.g ol.b).toNat)
    ∧ ∃ b s v, Ready s v (uses (.bexpect ol)) ∧ OwnObj v ol.a b ∧ b.valid = true ∧ 2 ^ 31 - 1 < b.pbytes + (bsval v.g ol.b).toNat := by
  refine ⟨?_, ?_, ?_, ?_, ?_, ?_, ?_⟩
  · obtain ⟨v, r, q⟩ := issueR (s := oneWith (.bwait ol) (sset · 6 1)) (u := uses (.bwait ol)) (fun v => v.tm.scrBytes < (sget v.g ol.a).toNat + 16)
      (by decide)
    exact ⟨ol, _, v, r, q⟩
  · obtain ⟨v, r, q⟩ := issueR (s := modGroup (objState (.binit ol) (obj 1 1 0) 1) 0 (sset · 6 8)) (u := uses (.binit ol))
      (fun v => (sget v.g ol.a).toNat + 16 ≤ v.tm.scrBytes ∧ (sget v.g ol.a).toNat % 16 ≠ 0) (by decide +kernel)
    exact ⟨ol, _, v, r, q⟩
  · obtain ⟨v, r, q⟩ := issueR (s := objState (.btest ol) { obj 1 1 0 with valid := false } 1) (u := uses (.btest ol))
      (fun v => ownObjB v ol.a { obj 1 1 0 with valid := false } = true) (by decide +kernel)
    exact ⟨_, _, v, r, ownObj_of q, rfl⟩
  · obtain ⟨v, r, q⟩ := issueR (s := objState (.binit ol) (obj 1 1 0) 65536) (u := uses (.binit ol))
      (fun v => ownObjB v ol.a (obj 1 1 0) = true ∧ 65535 < (bsval v.g ol.b).toNat) (by decide +kernel)
    exact ⟨_, _, v, r, ownObj_of q.1, q.2⟩
  · obtain ⟨v, r, q⟩ := issueR (s := objState (.barrive ol) (obj 3 1 0) 2) (u := uses (.barrive ol))
      (fun v => ownObjB v ol.a (obj 3 1 0) = true ∧ (obj 3 1 0).parr < (bsval v.g ol.b).toNat) (by decide +kernel)
    exact ⟨_, _, v, r, ownObj_of q.1, rfl, q.2⟩
  · obtain ⟨v, r, q⟩ := issueR (s := objState (.bdrop ol) (obj 1 1 0) 1) (u := uses (.bdrop ol))
      (fun v => ownObjB v ol.a (obj 1 1 0) = true ∧ (obj 1 1 0).earr ≤ (bsval v.g ol.b).toNat) (by decide +kernel)
    exact ⟨_, _, v, r, ownObj_of q.1, rfl, q.2⟩
  · obtain ⟨v, r, q⟩ := issueR (s := objState (.bexpect ol) (obj 1 1 1) 0x7FFFFFFF) (u := uses (.bexpect ol))
      (fun v => ownObjB v ol.a (obj 1 1 1) = true ∧ 2 ^ 31 - 1 < (obj 1 1 1).pbytes + (bsval v.g ol.b).toNat) (by decide +kernel)
    exact ⟨_, _, v, r, ownObj_of q.1, rfl, q.2⟩

theorem wit_StscbCounts : ∃ (p : LT) (at_ : Nat → Nat × Nat) (s : State) (v : View), Ready s v (uses (.stscb p)) ∧ NoWeirs s v ∧
    (let o := (bsval v.g p.b).toNat
     let n := tyBytes p.ty
     let sent (id : Nat) : Nat := ((lanesOf v.exec).countP fun L => (at_ L).1 == id) * n
     (∀ L, v.exec.getLsbD L = true → clusterAt s v.tm (vget v.g p.a L).toNat n = some (at_ L) ∧ (vget v.g p.a L).toNat % tyAlign p.ty = 0
      ∧ ∃ tt, Grant s (at_ L).1 (at_ L).2 n tt ∧ Grant s (at_ L).1 o 16 tt ∧ o + 16 ≤ tt.scrBytes ∧ o % 16 = 0
        ∧ ((at_ L).2 + n ≤ o ∨ o + 16 ≤ (at_ L).2) ∧ (bobjGet tt o).valid = true ∧ (bobjGet tt o).err = false
        ∧ -(2 ^ 31) ≤ (bobjGet tt o).pbytes - sent (at_ L).1)) ∧
    (∀ L j, v.exec.getLsbD L = true → j < tyN p.ty → ∃ tt, Grant s (at_ L).1 ((at_ L).2 + j * cbytes p.ty) (cbytes p.ty) tt) := by
  let p := { lt 0 6 4 .f64 with b := .scal 7 }
  let s := modGroup (objState (.stscb p) (obj 1 1 (32 * 8)) 16) 0 fun g => (List.range 32).foldl (fun g L => vset g 6 L 8) g
  obtain ⟨v, r, pl, q⟩ := issueD (s := s) (u := uses (.stscb p)) (fun v => team? s 0 = some v.tm ∧ v.tm.st = .resident ∧
    (let o := (bsval v.g p.b).toNat
     let n := tyBytes p.ty
     (∀ L ∈ List.range 32, v.exec.getLsbD L = true → clusterAt s v.tm (vget v.g p.a L).toNat n = some (0, 8) ∧ (vget v.g p.a L).toNat % tyAlign p.ty = 0)
     ∧ lineAbsent v.tm 8 n = none ∧ lineAbsent v.tm o 16 = none ∧ o + 16 ≤ v.tm.scrBytes ∧ o % 16 = 0
        ∧ (8 + n ≤ o ∨ o + 16 ≤ 8) ∧ (bobjGet v.tm o).valid = true ∧ (bobjGet v.tm o).err = false
        ∧ -(2 ^ 31) ≤ (bobjGet v.tm o).pbytes - (((lanesOf v.exec).countP fun _ => (0 : Nat) == 0) * n : Nat))
     ∧ ∀ j ∈ List.range (tyN p.ty), lineAbsent v.tm (8 + j * cbytes p.ty) (cbytes p.ty) = none) (by decide +kernel)
  obtain ⟨q1, q2, ⟨q3, q4, q5, q6⟩, q7⟩ := q
  exact ⟨p, fun _ => (0, 8), s, v, r, pl.weirs, fun L hL => ⟨(allLanesOf q3 L hL).1, (allLanesOf q3 L hL).2, v.tm, ⟨q1, q2, q4⟩, ⟨q1, q2, q5⟩, q6⟩,
    fun L j hL hj => ⟨v.tm, q1, q2, q7 j (List.mem_range.2 hj)⟩⟩

/-! ### The copy engines -/

/-- An instruction of the engines with its descriptor, or its elements, at scalar 8. -/
def le (sk dk : Nat) (b : Src) (c : Nat) : LE := { d := 3, a := 8, b := b, c := c, sk := sk, dk := dk, w := 1, dep := some 0 }

/-- A group with consecutive scalars from 8 on. -/
def scalars8 (xs : List Nat) (g : Group) : Group := ((List.range xs.length).foldl (fun g i => sset g (8 + i) (BitVec.ofNat 32 (xs.getD i 0))) g)

/-- Two rows of 128 bytes from memory to the own grant. -/
def copyRegs : List Nat := [0x1800, 0, 0x100, 0, 128, 2, 256, 128]

theorem copyFits_of {p : LE} {v : View} (h : copyDesc v.g p.a = { src := 0x1800, dst := 0x100, bytes := 128, rows := 2, ss := 256, ds := 128 }) :
    CopyFits p (copyDesc v.g p.a) := by
  rw [h]; constructor <;> simp

theorem here_of {s : State} {v : View} {w : Bool} (h : v.cx.regions = []) : CopyEnd s v w 0 0x1800 256 128 2 .glob 0x1800 :=
  .here rfl (by decide) fun r hr => ⟨by omega, fun _ x hx => by simp [h] at hx⟩

theorem linesFree_of {s : State} {id : Nat} {tt : Team} {P : Nat → Prop} (h1 : team? s id = some tt) (h2 : tt.absent = [])
    (h3 : tstBusy s id = fun _ => false) : LinesFree s id P := by
  intro x l hx _
  rw [h1] at hx; cases hx
  exact ⟨by rw [h2]; rfl, by rw [h3]⟩

theorem wit_CopiesBegin :
    (∃ (p : LE) (se de : End) (sa da : Nat) (objs : List (Nat × Nat)) (s : State) (v : View), Ready s v (uses (.acopy p)) ∧ NoWeirs s v ∧
      v.ln.owns = [] ∧ CopyFits p (copyDesc v.g p.a) ∧
      (let c := copyDesc v.g p.a
       let s' := fillPeers s v [if p.sk = 0 then c.src else 0, if p.dk = 0 then c.dst else 0]
       CopyEnd s' v false p.sk c.src c.ss c.bytes c.rows se sa ∧ CopyEnd s' v true p.dk c.dst c.ds c.bytes c.rows de da ∧
       (copyPlace v p.sk c.src).1 ≠ (copyPlace v p.dk c.dst).1 ∧
       (∀ id, de = .team id → LinesFree s id (RowLine da c.ds c.bytes c.rows)) ∧
       ObjsOf s v p.c [match de with | .team id => id | .glob => v.g.team] objs))
    ∧ ∃ (p : LE) (f : Nat → Nat) (objs : List (Nat × Nat)) (s : State) (v : View), Ready s v (uses (.acopym p)) ∧ NoWeirs s v ∧
      v.ln.owns = [] ∧ CopyFits p (copyDesc v.g p.a) ∧ p.sk = 0 ∧ p.dk = 1 ∧
      (let c := copyDesc v.g p.a
       let m := (bsval v.g p.b).toNat
       let size := v.ln.kern.cluW * v.ln.kern.cluH
       let ts := ((List.range size).filter fun r => m.testBit r).map f
       isRemote c.src = false ∧ CopyEnd s v false 0 c.src c.ss c.bytes c.rows .glob c.src ∧ m ≠ 0 ∧ m < 2 ^ size ∧
       (∀ r, m.testBit r = true → teamOfRank s v.tm.launch v.tm.cluster r = some (f r)
         ∧ ∃ x, team? s (f r) = some x ∧ x.st ≠ .retired ∧ c.dst + ((c.rows - 1) * c.ds + c.bytes) ≤ x.scrBytes) ∧
       (∀ id, id ∈ ts → LinesFree s id (RowLine c.dst c.ds c.bytes c.rows)) ∧ ObjsOf s v p.c ts objs) := by
  refine ⟨?_, ?_⟩
  · let p := le 0 1 (.imm 0) 0x80
    let s := scrState (.acopy p) (scalars8 copyRegs)
    obtain ⟨v, r, pl, q⟩ := issueD (s := s) (u := uses (.acopy p)) (fun v => v.ln.owns = []
      ∧ copyDesc v.g p.a = { src := 0x1800, dst := 0x100, bytes := 128, rows := 2, ss := 256, ds := 128 } ∧ v.cx.regions = []
      ∧ v.tm.scrBytes = 2048 ∧ team? s v.g.team = some v.tm ∧ v.tm.absent = [] ∧ v.tm.crank = 0
      ∧ (s.quads.isEmpty && s.joints.isEmpty) = true ∧ v.g.team = 0) (by decide)
    obtain ⟨q1, q2, q3, q4, q5, q6, q7, q8, q9⟩ := q
    refine ⟨p, .glob, .team v.g.team, 0x1800, 0x100, [], s, v, r, pl.weirs, q1, copyFits_of q2, ?_⟩
    rw [q2]
    refine ⟨here_of q3, .scr _ _ (.own rfl (by rw [q4]; first | done | decide)), by simp [copyPlace, p, le]; omega, ?_, .none rfl⟩
    intro id hid
    cases hid
    exact linesFree_of q5 q6 (by rw [q9]; funext l; rfl)
  · let p := le 0 1 (.imm 1) 0x80
    let s := modLaunch (scrState (.acopym p) (scalars8 copyRegs)) 0 fun l => { l with kern := { l.kern with cluW := 1, cluH := 1 } }
    obtain ⟨v, r, pl, q⟩ := issueD (s := s) (u := uses (.acopym p)) (fun v => v.ln.owns = []
      ∧ copyDesc v.g p.a = { src := 0x1800, dst := 0x100, bytes := 128, rows := 2, ss := 256, ds := 128 } ∧ v.cx.regions = []
      ∧ v.tm.scrBytes = 2048 ∧ team? s 0 = some v.tm ∧ v.tm.absent = [] ∧ (bsval v.g p.b).toNat = 1 ∧ v.ln.kern.cluW * v.ln.kern.cluH = 1
      ∧ teamOfRank s v.tm.launch v.tm.cluster 0 = some 0 ∧ v.tm.st = .resident) (by decide)
    obtain ⟨q1, q2, q3, q4, q5, q6, q7, q8, q9, q10⟩ := q
    refine ⟨p, fun _ => 0, [], s, v, r, pl.weirs, q1, copyFits_of q2, rfl, rfl, ?_⟩
    rw [q2, q7, q8]
    refine ⟨by decide, here_of q3, by decide, by decide, fun r hr => ?_, fun id hid => ?_, .none rfl⟩
    · have : r = 0 := by
        rcases Nat.eq_zero_or_pos r with h | h
        · exact h
        · rw [Nat.testBit_lt_two_pow (Nat.one_lt_two_pow (by omega))] at hr; cases hr
      subst this
      exact ⟨q9, v.tm, q5, by rw [q10]; first | done | decide, by rw [q4]; first | done | decide⟩
    · have : id = 0 := by simp only [List.mem_map] at hid; exact hid.choose_spec.2.symm
      subst this
      exact linesFree_of q5 q6 (by funext l; rfl)

theorem wit_ElementCopiesBegin :
    (∃ (p : LE) (id o0 : Nat) (objs : List (Nat × Nat)) (s : State) (v : View), NoWeirs s v ∧ v.ln.owns = [] ∧ p.w ≤ 2 ∧
      (let w := 4 * 2 ^ p.w
       let span := ((lanesOf v.exec).foldl max 0 + 1) * w
       (∀ e, e ∈ elemsOf v p → e.2 + w ≤ 2 ^ 57 ∧ e.2 % w = 0) ∧
       Ready s v (uses (.agath p)) ∧ p.sk = 0 ∧ ScrEnd s v p.dk (sget v.g p.d).toNat span id o0 ∧ LinesFree s id (ElemLine v o0 w) ∧
       ObjsOf s v p.c [id] objs))
    ∧ ∃ (p : LE) (id o0 : Nat) (objs : List (Nat × Nat)) (s : State) (v : View), NoWeirs s v ∧ v.ln.owns = [] ∧ p.w ≤ 2 ∧
      (let w := 4 * 2 ^ p.w
       let span := ((lanesOf v.exec).foldl max 0 + 1) * w
       (∀ e, e ∈ elemsOf v p → e.2 + w ≤ 2 ^ 57 ∧ e.2 % w = 0) ∧
       Ready s v (uses (.ascat p)) ∧ p.sk = 1 ∧ p.dk = 0 ∧ ScrEnd s v 1 (sget v.g p.d).toNat span id o0 ∧
       (∀ e, e ∈ elemsOf v p → ∀ x, x ∈ v.cx.regions → x.kind = 2 ∨ x.kind = 4 → x.limit ≤ e.2 ∨ e.2 + w ≤ x.base) ∧
       ObjsOf s v p.c [v.g.team] objs) := by
  refine ⟨?_, ?_⟩
  · let p := le 0 1 (.reg 4) 0x80
    let s := modTeam (oneWith (.agath p) fun g => sset (scalars8 [0x1800] g) 3 (2048 - 256)) 0 fun t => { t with scrBytes := 2048 }
    obtain ⟨v, r, pl, q⟩ := issueD (s := s) (u := uses (.agath p)) (fun v => v.ln.owns = []
      ∧ (∀ e ∈ elemsOf v p, e.2 + 8 ≤ 2 ^ 57 ∧ e.2 % 8 = 0) ∧ (sget v.g p.d).toNat + ((lanesOf v.exec).foldl max 0 + 1) * 8 ≤ v.tm.scrBytes
      ∧ team? s v.g.team = some v.tm ∧ v.tm.absent = [] ∧ v.g.team = 0) (by decide)
    obtain ⟨q1, q2, q3, q4, q5, q6⟩ := q
    exact ⟨p, v.g.team, _, [], s, v, pl.weirs, q1, by decide, q2, r, rfl, .own rfl q3, linesFree_of q4 q5 (by rw [q6]; funext l; rfl), .none rfl⟩
  · let p := le 1 0 (.reg 4) 0x80
    let s := modTeam (oneWith (.ascat p) fun g => sset (scalars8 [0x1800] g) 3 (2048 - 256)) 0 fun t => { t with scrBytes := 2048 }
    obtain ⟨v, r, pl, q⟩ := issueD (s := s) (u := uses (.ascat p)) (fun v => v.ln.owns = []
      ∧ (∀ e ∈ elemsOf v p, e.2 + 8 ≤ 2 ^ 57 ∧ e.2 % 8 = 0) ∧ (sget v.g p.d).toNat + ((lanesOf v.exec).foldl max 0 + 1) * 8 ≤ v.tm.scrBytes
      ∧ v.cx.regions = []) (by decide)
    obtain ⟨q1, q2, q3, q4⟩ := q
    exact ⟨p, v.g.team, _, [], s, v, pl.weirs, q1, by decide, q2, r, rfl, rfl, .own rfl q3, by simp [q4], .none rfl⟩

/-- An operation of group 0 of `n` bytes, from memory to memory or to its grant. -/
def op0 (d : End) (n done : Nat) : EngOp :=
  { id := 7, gid := 0, team := 0, ctx := 0, launch := 0, core := 0, seq := 3, ins := .acopy (le 0 1 (.imm 0) 0x80), pc := 0x1004, w0 := 0, w1 := 0,
    exec := 1, kind := .rows, src := .glob, dsts := [d], srcAddr := 0x1000, dstAddr := 0x100, bytes := n, done := done }

/-- A state in which an operation is in flight and is the one that the event names. -/
def opState (i : Instr) (o : EngOp) : State :=
  let s := scrState i id
  { s with ops := [(7, o)], ev := { s.ev with a := 7 } }

theorem wit_CancelEnds : ∃ (p : LE) (s : State) (v : View) (k : Nat) (o : EngOp), Ready s v (uses (.acancel p)) ∧ NoWeirs s v ∧ (k, o) ∈ s.ops
    ∧ o.gid = v.is.gid ∧ (p.c = 0x80 ∨ o.objOff = some (sget v.g p.c).toNat) := by
  let p := { le 0 0 (.imm 0) 3 with d := 0, a := 0, w := 0 }
  let o := { op0 .glob 128 0 with objOff := some 0 }
  obtain ⟨v, r, pl, q⟩ := issueD (s := opState (.acancel p) o) (u := uses (.acancel p)) (fun v => v.is.gid = 0 ∧ (sget v.g p.c).toNat = 0) (by decide)
  exact ⟨p, _, v, 7, o, r, pl.weirs, by simp [opState], q.1.symm, .inr (by rw [q.2])⟩

theorem quiet_of {s : State} (h : s.cores = []) : ∀ gid, QuietCore s gid := by
  intro gid g tm _ _
  unfold coreAt
  rw [h]
  rfl

/-- A request of group 0, outstanding. -/
def rem0 (op : RemOp) : Rem :=
  { id := 0, who := .lanes 0 0 1, ctx := 0, dev := 1, rclass := 0, addr := 0, msg := { op := op, ectx := 0, win := 0, key := 0, off := 0, width := 4, data := [], cmp := 0 }, since := 0 }

/-- A state with an operation and a peer entry that grants everything. -/
def opPeer (o : EngOp) : State :=
  { opState .nop o with slots := [(0, { peerCfg := 1 })], tabs := [(4096, 2 ^ 63 + 15 * 2 ^ 59)] }

/-- What a beat of the operation `o` needs, its destinations apart, as a check. -/
def beatB (s : State) (o : EngOp) (bs : List Nat) (bad : List Bool) : Bool :=
  let p := engPiece o o.done
  engReady s o && decide (engTouch s o p = s) && (bs.all fun b => b < 256) && (bad.all fun x => x == false)
    && endRead s o (endAt s o o.src p.src p.n false) p.n == some (bs, bad)

theorem beat_of {s : State} {o : EngOp} {bs : List Nat} {bad : List Bool} (h : beatB s o bs bad = true) : engReady s o = true
    ∧ engTouch s o (engPiece o o.done) = s ∧ (∀ b, b ∈ bs → b < 256) ∧ (∀ x, x ∈ bad → x = false)
    ∧ endRead s o (endAt s o o.src (engPiece o o.done).src (engPiece o o.done).n false) (engPiece o o.done).n = some (bs, bad) := by
  simp only [beatB, Bool.and_eq_true, decide_eq_true_eq, List.all_eq_true, beq_iff_eq] at h
  exact ⟨h.1.1.1.1, h.1.1.1.2, h.1.1.2, h.1.2, h.2⟩

/-- A trap of an engine. -/
def tr4 : TrapRec := { cause := 4, pc := 0, npc := 0, cl := none, tlanes := 1, exec := 1, w0 := 0, w1 := none }

/-- A beat finds its source and one destination in memory, two in the grant of a team, or one with a peer; or its source is a peer's. -/
theorem wit_EnginesMove_beat : let bs := readBytes (one .nop) 0x1000 64
    let bad := List.replicate 16 false
    (∀ o ∈ [{ op0 .glob 128 0 with dstAddr := 0x1F80 }, op0 (.team 0) 128 0], QuietCore (opState .nop o) o.gid ∧ LinesWhole (opState .nop o)
      ∧ mget? (opState .nop o).ops (opState .nop o).ev.a = some o ∧ o.id = (opState .nop o).ev.a ∧ beatB (opState .nop o) o bs bad = true
      ∧ (ctx? (opState .nop o) o.ctx).isSome = true
      ∧ (o.dsts = [.glob] → endAt (opState .nop o) o .glob 0x1F80 64 true = .key 0x1F80 0x1F80)
      ∧ (o.dsts = [0].map End.team → [0].Nodup ∧ endAt (opState .nop o) o (.team 0) 0x100 64 true = .grant 0 0x100))
    ∧ (let o := { op0 .glob 128 0 with dstAddr := 2 ^ 63 }
      beatB (opPeer o) o bs bad = true ∧ endAt (opPeer o) o .glob (2 ^ 63) 64 true = .remote (2 ^ 63)
        ∧ (peerGrants (opPeer o) 0 (2 ^ 63) (remPerm .st)).isSome = true)
    ∧ (let o := { op0 .glob 128 0 with srcAddr := 2 ^ 63, dstAddr := 0x1F80 }
      engReady (opPeer o) o = true ∧ endAt (opPeer o) o .glob (2 ^ 63) 64 false = .remote (2 ^ 63)
        ∧ endAt (opPeer o) o .glob 0x1F80 64 true = .key 0x1F80 0x1F80 ∧ (peerGrants (opPeer o) 0 (2 ^ 63) (remPerm .ld)).isSome = true) := by
  refine ⟨fun o ho => ?_, ⟨?_, ?_, ?_⟩, ⟨?_, ?_, ?_, ?_⟩⟩
  · simp only [List.mem_cons, List.not_mem_nil, or_false] at ho
    obtain rfl | rfl := ho <;>
      exact ⟨quiet_of rfl _, linesWhole_nil rfl, rfl, rfl, by decide +kernel, rfl, fun h => by first | (cases h; done) | decide +kernel,
        fun h => by first | (cases h; done) | exact ⟨by decide, by decide +kernel⟩⟩
  all_goals decide +kernel

theorem wit_EnginesMove :
    (∃ s o id x tt, mget? s.ops s.ev.a = some o ∧ o.id = s.ev.a ∧ QuietCore s o.gid ∧ engTotal o ≤ o.done ∧ o.err = none ∧ o.objs = [(id, x)]
      ∧ team? s id = some tt ∧ (bobjGet tt x).valid = true ∧ (bobjGet tt x).err = false ∧ -(2 ^ 31) ≤ (bobjGet tt x).pbytes - engTotal o
      ∧ (team? (engDone s o) id).isSome = true)
    ∧ (∃ s o tr g, mget? s.ops s.ev.a = some o ∧ o.id = s.ev.a ∧ QuietCore s o.gid ∧ o.err = some tr ∧ o.objs = [] ∧ group? s o.gid = some g
      ∧ g.exited = false)
    ∧ (∃ s o tr g id x tt, mget? s.ops s.ev.a = some o ∧ o.id = s.ev.a ∧ QuietCore s o.gid ∧ o.err = some tr ∧ group? s o.gid = some g
      ∧ g.exited = false ∧ o.objs = [(id, x)] ∧ team? s id = some tt ∧ (bobjGet tt x).valid = true ∧ (bobjGet tt x).err = false ∧ tr.cause < 256
      ∧ -(2 ^ 31) ≤ (bobjGet tt x).pbytes - engTotal o ∧ (∀ q y, q ∈ tt.groups → group? s q = some y → bwaiters y x = 0)
      ∧ ∀ k, k < engTotal o → (engPiece o k).dst + (engPiece o k).n ≤ x ∨ x + 16 ≤ (engPiece o k).dst)
    ∧ ∀ ans ∈ [RemAns.ack, .poison, .data (List.replicate 64 1)], ∃ (s : State) (r : Rem) (o : EngOp), mget? s.rems s.ev.a = some r ∧ r.id = s.ev.a
      ∧ r.who = .op o.id ∧ mget? s.ops o.id = some o ∧ o.gid ∈ mkeys s.groups ∧ QuietCore s o.gid ∧ r.ready = some ans ∧ r.msg.op = .ld
      ∧ (engPiece o o.done).n = 64 ∧ o.dsts = [.team 0] ∧ endAt s o (.team 0) (engPiece o o.done).dst 64 true = .grant 0 (engPiece o o.done).dst := by
  have hq (o : EngOp) (s : State) (gid : Nat) (h : s.cores = []) : QuietCore s gid := quiet_of h gid
  let o1 := { op0 (.team 0) 128 128 with objs := [(0, 16)] }
  let s1 := { objState .nop (obj 1 1 0) 1 with ops := [(7, o1)], ev := { (objState .nop (obj 1 1 0) 1).ev with a := 7 } }
  let o2 := { op0 (.team 0) 128 0 with err := some tr4, objs := [(0, 16)] }
  let s2 := { objState .nop (obj 1 1 0) 1 with ops := [(7, o2)], ev := { (objState .nop (obj 1 1 0) 1).ev with a := 7 } }
  refine ⟨⟨s1, o1, 0, 16, _, rfl, rfl, quiet_of rfl _, by decide, rfl, rfl, rfl, by decide, by decide, by decide, by decide +kernel⟩,
    ⟨opState .nop { op0 (.team 0) 128 0 with err := some tr4 }, _, _, _, rfl, rfl, quiet_of rfl _, rfl, rfl, rfl, rfl⟩,
    ⟨s2, o2, tr4, _, 0, 16, _, rfl, rfl, quiet_of rfl _, rfl, rfl, rfl, rfl, rfl, by decide, by decide, by decide, by decide, ?_, ?_⟩, fun ans ha => ?_⟩
  · intro q y hq hy
    have h : ∀ e ∈ s2.groups, bwaiters e.2 16 = 0 := by decide
    exact h _ (mget?_mem hy)
  · intro k hk
    have hk : k < 128 := hk
    right
    show 32 ≤ 0x100 + k / 128 * 0 + k % 128
    omega
  · let o := { op0 (.team 0) 128 0 with req := some 0 }
    let s := { opState .nop o with rems := [(7, { rem0 .ld with id := 7, who := .op 7, ready := some ans })] }
    simp only [List.mem_cons, List.not_mem_nil, or_false] at ha
    obtain rfl | rfl | rfl := ha <;>
      exact ⟨s, _, o, rfl, rfl, rfl, rfl, by decide, quiet_of rfl _, rfl, rfl, by decide, rfl, by decide +kernel⟩

/-! ### Matrix operations and tiles -/

/-- The fields of a matrix or tile instruction. -/
def lx (d a : Nat) (b : Src) (c : Nat) (aty cty : Ty) : LX := { d := d, a := a, b := b, c := c, aty := aty, cty := cty, sp := 0, dep := some 7 }

/-- A team that holds the first `n` blocks of quad 0. -/
def heldState (i : Instr) (n : Nat) (f : Group → Group) : State :=
  modLaunch (modTeam (oneWith i f) 0 fun t => { t with blocks := (List.range n).map fun b => (b, true), scrBytes := 2048 }) 0
    fun l => { l with kern := { l.kern with quartets := 1 } }

/-- What every matrix word needs of its issue. -/
abbrev mmaOk (v : View) (p : LX) (cty : Ty) (joint r : Bool) : Prop :=
  v.exec = allLanes ∧ bitsOf (wordOf v p.d) 24 8 = 0 ∧ (wordOf v p.d).testBit 15 = false ∧ placeBad v.tm (quadOf v.g) (wordOf v p.d) cty joint r = false

/-- An operation that another member has captured. -/
def matOp0 (i : Instr) (word : Nat) : MatOp :=
  { gid := 0, seq := 9, ins := i, team := 0, core := 0, quad := 0, exec := allLanes, pc := 0x1004, npc := 0x100C, w0 := 0, w1 := none, word := word, begun := true }

/-- A joint .i8 matrix word, and a state in which a joint operation of its quartet is pending. -/
def jp : LX := lx 3 0 (.reg 48) 0 .i8 .i32
def jpar : List Nat := [0x69, 0, 6, 0, 0]
def jointState (par : List Nat) (ms : List Nat) : State :=
  let s := heldState (.mmaj jp 0 false) 1 id
  { s with joints := [(0, { team := 0, quartet := 0, params := par, members := ms.map fun m => (m, matOp0 (.mmaj jp 0 false) 0) })] }

theorem wit_MatrixWordsIssue :
    (∃ (i : Instr) (p : LX) (sh : Nat) (r : Bool) (s : State) (v : View), MmaWord i p sh r false ∧ Ready s v (uses i) ∧ NoWeirs s v ∧
      v.exec = allLanes ∧ bitsOf (wordOf v p.d) 24 8 = 0 ∧ (wordOf v p.d).testBit 15 = false ∧
      placeBad v.tm (quadOf v.g) (wordOf v p.d) p.cty false r = false)
    ∧ (∃ (s : State) (v : View), MmaWord (.mmaj jp 0 false) jp 0 false true ∧ Ready s v (uses (.mmaj jp 0 false)) ∧ NoWeirs s v ∧
      mmaOk v jp jp.cty true false ∧ v.g.idx < 4 * v.ln.kern.quartets ∧ mget? s.joints (jointKey v.g.team (v.g.idx / 4)) = none)
    ∧ ∀ par ms, (par, ms) ∈ [([0x69, 1, 6, 0, 0], [1]), (jpar, [1, 2]), (jpar, [1, 2, 3])] →
      ∃ (s : State) (v : View) (j : Joint), Ready s v (uses (.mmaj jp 0 false)) ∧ NoWeirs s v ∧ mmaOk v jp jp.cty true false ∧
        v.g.idx < 4 * v.ln.kern.quartets ∧ mget? s.joints (jointKey v.g.team (v.g.idx / 4)) = some j ∧ mget? j.members (v.g.idx % 4) = none
        ∧ j.params = par ∧ j.members.length = ms.length ∧ j.team = v.g.team ∧ j.quartet = v.g.idx / 4
        ∧ (par = jpar ↔ par = [opOf v.w0.toNat, 0 + (if false then 16 else 0), tyCode jp.aty, tyCode jp.cty, jp.sp]) := by
  refine ⟨?_, ?_, ?_⟩
  · let p := lx 3 0 (.reg 48) 0 .f16 .f64
    obtain ⟨v, r, pl, q⟩ := issueD (s := heldState (.mma p 1 true) 2 (sset · 3 0x106000)) (u := uses (.mma p 1 true)) (fun v => mmaOk v p p.cty false true)
      (by decide)
    exact ⟨_, p, _, true, _, v, .mma p 1 true, r, pl.weirs, q⟩
  · obtain ⟨v, r, pl, q⟩ := issueD (s := heldState (.mmaj jp 0 false) 1 id) (u := uses (.mmaj jp 0 false)) (fun v => mmaOk v jp jp.cty true false
      ∧ v.g.idx < 4 * v.ln.kern.quartets ∧ mget? (heldState (.mmaj jp 0 false) 1 id).joints (jointKey v.g.team (v.g.idx / 4)) = none) (by decide)
    exact ⟨_, v, .mmaj jp 0 false, r, pl.weirs, q⟩
  · intro par ms h
    obtain ⟨v, r, pl, q⟩ := issueD (s := jointState par ms) (u := uses (.mmaj jp 0 false)) (fun v => mmaOk v jp jp.cty true false
      ∧ v.g.idx < 4 * v.ln.kern.quartets ∧ ((mget? (jointState par ms).joints (jointKey v.g.team (v.g.idx / 4))).any fun j =>
        mget? j.members (v.g.idx % 4) == none && j.params == par && j.members.length == ms.length && j.team == v.g.team && j.quartet == v.g.idx / 4) = true
      ∧ (par = jpar ↔ par = [opOf v.w0.toNat, 0 + (if false then 16 else 0), tyCode jp.aty, tyCode jp.cty, jp.sp]))
      (by simp only [List.mem_cons, Prod.mk.injEq, List.not_mem_nil, or_false] at h
          obtain ⟨rfl, rfl⟩ | ⟨rfl, rfl⟩ | ⟨rfl, rfl⟩ := h <;> decide)
    obtain ⟨q1, q2, q3, q4⟩ := q
    obtain ⟨j, hj, k⟩ := (Option.any_eq_true _ _).1 q3
    simp only [Bool.and_eq_true, beq_iff_eq] at k
    exact ⟨_, v, j, r, pl.weirs, q1, q2, hj, k.1.1.1.1, k.1.1.1.2, k.1.1.2, k.1.2, k.2, q4⟩

theorem wit_TileBlocks :
    (∃ (p : LX) (s : State) (v : View), NoWeirs s v ∧ Ready s v (uses (.talloc p)) ∧ reqResv (wordOf v p.a) = false ∧ RequestOk v.g (wordOf v p.a)
      ∧ (∀ q b, InRequest v.g (wordOf v p.a) q b → blockHeld v.tm q b = false)
      ∧ ∀ q, q ∈ (reqOf v.g (wordOf v p.a)).1 → (reqOf v.g (wordOf v p.a)).2.2 ≤ freeBlocks s v.tm.core q)
    ∧ (∃ (p : LX) (s : State) (v : View), NoWeirs s v ∧ Ready s v (uses (.talloc p)) ∧ RequestOk v.g (wordOf v p.a)
      ∧ (∀ q b, InRequest v.g (wordOf v p.a) q b → blockHeld v.tm q b = false)
      ∧ ¬ ∀ q, q ∈ (reqOf v.g (wordOf v p.a)).1 → (reqOf v.g (wordOf v p.a)).2.2 ≤ freeBlocks s v.tm.core q)
    ∧ (∃ (p : LX) (s : State) (v : View), NoWeirs s v ∧ Ready s v (uses (.tfree p)) ∧ RequestOk v.g (wordOf v p.a)
      ∧ (∀ q b, InRequest v.g (wordOf v p.a) q b → mget? v.tm.blocks (q * 16 + b) = some true)
      ∧ blocksBusy s v.g.team v.tm.core (reqOf v.g (wordOf v p.a)).1 (reqOf v.g (wordOf v p.a)).2.1 (reqOf v.g (wordOf v p.a)).2.2 = false)
    ∧ (∃ (p : LX) (s : State) (v : View), NoWeirs s v ∧ Ready s v (uses (.tstat p)) ∧ p.b = .imm 0)
    ∧ ∃ (p : LX) (s : State) (v : View), NoWeirs s v ∧ Ready s v (uses (.tstat p)) ∧ p.b ≠ .imm 0 := by
  refine ⟨?_, ?_, ?_, ?_, ?_⟩
  · let p := { lx 3 4 (.imm 0) 0 .i32 .i32 with dep := none }
    let s := heldState (.talloc p) 1 (sset · 4 0xF1)
    obtain ⟨v, r, pl, q⟩ := issueD (s := s) (u := uses (.talloc p)) (fun v => v.tm.blocks = [(0, true)] ∧ wordOf v p.a = 0xF1
      ∧ v.tm.core = 0 ∧ (∀ q ∈ (reqOf v.g 0xF1).1, (reqOf v.g 0xF1).2.2 ≤ freeBlocks s v.tm.core q)
      ∧ (reqOf v.g 0xF1).1 = [0] ∧ (reqOf v.g 0xF1).2.1 = 1 ∧ (reqOf v.g 0xF1).2.2 = 15) (by decide)
    obtain ⟨q1, q2, q3, q4, q5, q6, q7⟩ := q
    refine ⟨p, s, v, pl.weirs, r, by rw [q2]; first | done | decide, ⟨by rw [q2]; first | done | decide, by rw [q2, q7]; first | done | decide, by rw [q2, q6, q7]; first | done | decide⟩, fun q b h => ?_, by rw [q2]; exact q4⟩
    rw [q2] at h
    unfold InRequest at h
    rw [q5, q6, q7] at h
    obtain ⟨h1, h2, h3⟩ := h
    simp only [List.mem_singleton] at h1
    subst h1
    unfold blockHeld
    rw [q1, mget?, if_neg (by omega)]
    rfl
  · let p := { lx 3 4 (.imm 0) 0 .i32 .i32 with dep := none }
    let s0 := heldState (.talloc p) 1 (sset · 4 0xF1)
    let s := { s0 with teams := mput s0.teams 1 { launch := 0, ctx := 0, t := 1, cluster := 0, crank := 0, core := 0, blocks := [(15, true)] } }
    obtain ⟨v, r, pl, q⟩ := issueD (s := s) (u := uses (.talloc p)) (fun v => v.tm.blocks = [(0, true)] ∧ wordOf v p.a = 0xF1
      ∧ v.tm.core = 0 ∧ ¬ (∀ q ∈ (reqOf v.g 0xF1).1, (reqOf v.g 0xF1).2.2 ≤ freeBlocks s v.tm.core q)
      ∧ (reqOf v.g 0xF1).1 = [0] ∧ (reqOf v.g 0xF1).2.1 = 1 ∧ (reqOf v.g 0xF1).2.2 = 15) (by decide)
    obtain ⟨q1, q2, q3, q4, q5, q6, q7⟩ := q
    refine ⟨p, s, v, pl.weirs, r, ⟨by rw [q2]; first | done | decide, by rw [q2, q7]; first | done | decide, by rw [q2, q6, q7]; first | done | decide⟩, fun q b h => ?_, by rw [q2]; exact q4⟩
    rw [q2] at h
    unfold InRequest at h
    rw [q5, q6, q7] at h
    obtain ⟨h1, h2, h3⟩ := h
    simp only [List.mem_singleton] at h1
    subst h1
    unfold blockHeld
    rw [q1, mget?, if_neg (by omega)]
    rfl
  · let p := { lx 0 4 (.imm 0) 0 .i32 .i32 with dep := none }
    let s := heldState (.tfree p) 16 (sset · 4 0x1F)
    obtain ⟨v, r, pl, q⟩ := issueD (s := s) (u := uses (.tfree p)) (fun v => (∀ b ∈ List.range 16, mget? v.tm.blocks b = some true) ∧ wordOf v p.a = 0x1F
      ∧ v.g.team = 0 ∧ v.tm.core = 0 ∧ (reqOf v.g 0x1F).1 = [0] ∧ (reqOf v.g 0x1F).2.1 = 15 ∧ (reqOf v.g 0x1F).2.2 = 1) (by decide)
    obtain ⟨q1, q2, q3, q4, q5, q6, q7⟩ := q
    refine ⟨p, s, v, pl.weirs, r, ⟨by rw [q2]; first | done | decide, by rw [q2, q7]; first | done | decide, by rw [q2, q6, q7]; first | done | decide⟩, fun q b h => ?_,
      by rw [q2, q3, q4, q5, q6, q7]; first | done | decide⟩
    rw [q2] at h
    unfold InRequest at h
    rw [q5, q6, q7] at h
    obtain ⟨h1, h2, h3⟩ := h
    simp only [List.mem_singleton] at h1
    subst h1
    simpa using q1 b (List.mem_range.2 (by omega))
  · let p := { lx 3 0 (.imm 0) 0 .i32 .i32 with dep := none }
    obtain ⟨v, r, pl⟩ := issueOf (.tstat p) (by decide)
    exact ⟨p, _, v, pl.weirs, r, rfl⟩
  · let p := { lx 3 0 (.imm 1) 0 .i32 .i32 with dep := none }
    obtain ⟨v, r, pl⟩ := issueOf (.tstat p) (by decide)
    exact ⟨p, _, v, pl.weirs, r, by decide⟩

/-- An instruction of the tile store with its word in scalar 4. -/
def tx (d : Nat) (b : Src) (c : Nat) (ty : Ty) : LX := { lx d 4 b c .i32 ty with dep := some 7 }

/-- What a rectangle between the grant and the tile store needs. -/
abbrev movedOk (v : View) (p : LX) : Prop :=
  rectResv (wordOf v p.a) = false ∧ (bsval v.g p.b).toNat + ((rectOf (wordOf v p.a)).last - (rectOf (wordOf v p.a)).row) * wordOf v p.c
      + (rectOf (wordOf v p.a)).ncol * 4 ≤ v.tm.scrBytes ∧ (bsval v.g p.b).toNat % 4 = 0 ∧ wordOf v p.c % 4 = 0
    ∧ rectBad v.tm (quadOf v.g) (rectOf (wordOf v p.a)) = false
    ∧ ∀ y, y ≤ (rectOf (wordOf v p.a)).last - (rectOf (wordOf v p.a)).row →
        lineAbsent v.tm ((bsval v.g p.b).toNat + y * wordOf v p.c) ((rectOf (wordOf v p.a)).ncol * 4) = none

theorem wit_TileWordsIssue :
    (∃ (p : LX) (s : State) (v : View), NoWeirs s v ∧ Ready s v (uses (.tzero p)) ∧ bitsOf (wordOf v p.a) 13 19 = 0
      ∧ bitsOf (wordOf v p.a) 0 8 % 16 = 0 ∧ 1 ≤ bitsOf (wordOf v p.a) 8 5 ∧ bitsOf (wordOf v p.a) 8 5 ≤ 16
      ∧ bitsOf (wordOf v p.a) 0 8 + 16 * bitsOf (wordOf v p.a) 8 5 ≤ 256
      ∧ rowsHeld v.tm (quadOf v.g) (bitsOf (wordOf v p.a) 0 8) (bitsOf (wordOf v p.a) 0 8 + 16 * bitsOf (wordOf v p.a) 8 5 - 1) = true)
    ∧ (∃ (p : LX) (s : State) (v : View), NoWeirs s v ∧ Ready s v (uses (.tld p)) ∧ movedOk v p)
    ∧ (∃ (p : LX) (s : State) (v : View), NoWeirs s v ∧ Ready s v (uses (.tst p)) ∧ movedOk v p
      ∧ ((rectOf (wordOf v p.a)).row < (rectOf (wordOf v p.a)).last → (rectOf (wordOf v p.a)).ncol * 4 ≤ wordOf v p.c))
    ∧ (∀ i p, (i, p) ∈ [(Instr.tread (tx 8 (.imm 0) 0 .i32), tx 8 (.imm 0) 0 .i32), (.twrite (tx 8 (.imm 0) 0 .i32), tx 8 (.imm 0) 0 .i32)] →
      ∃ (s : State) (v : View), NoWeirs s v ∧ Ready s v (uses i) ∧ bitsOf (wordOf v p.a) 15 17 = 0 ∧ bitsOf (wordOf v p.a) 0 8 + 16 ≤ 256
        ∧ bitsOf (wordOf v p.a) 8 7 + 16 ≤ 128 ∧ rowsHeld v.tm (quadOf v.g) (bitsOf (wordOf v p.a) 0 8) (bitsOf (wordOf v p.a) 0 8 + 15) = true)
    ∧ ∃ (p : LX) (s : State) (v : View), NoWeirs s v ∧ Ready s v (uses (.tscale p)) ∧ rectResv (wordOf v p.a) = false
      ∧ rectBad v.tm (quadOf v.g) (rectOf (wordOf v p.a)) = false
      ∧ (p.cty = .f64 → (rectOf (wordOf v p.a)).col % 2 = 0 ∧ (rectOf (wordOf v p.a)).ncol % 2 = 0) := by
  have rows {v : View} {p : LX} {n : Nat} (h : (rectOf (wordOf v p.a)).last - (rectOf (wordOf v p.a)).row < n ∧ ∀ y ∈ List.range n,
      lineAbsent v.tm ((bsval v.g p.b).toNat + y * wordOf v p.c) ((rectOf (wordOf v p.a)).ncol * 4) = none) (y : Nat)
      (hy : y ≤ (rectOf (wordOf v p.a)).last - (rectOf (wordOf v p.a)).row) :
      lineAbsent v.tm ((bsval v.g p.b).toNat + y * wordOf v p.c) ((rectOf (wordOf v p.a)).ncol * 4) = none :=
    h.2 y (List.mem_range.2 (by omega))
  refine ⟨?_, ?_, ?_, ?_, ?_⟩
  · let p := tx 0 (.imm 0) 0 .i32
    obtain ⟨v, r, pl, q⟩ := issueD (s := heldState (.tzero p) 16 (sset · 4 0x1000)) (u := uses (.tzero p)) (fun v => bitsOf (wordOf v p.a) 13 19 = 0
      ∧ bitsOf (wordOf v p.a) 0 8 % 16 = 0 ∧ 1 ≤ bitsOf (wordOf v p.a) 8 5 ∧ bitsOf (wordOf v p.a) 8 5 ≤ 16
      ∧ bitsOf (wordOf v p.a) 0 8 + 16 * bitsOf (wordOf v p.a) 8 5 ≤ 256
      ∧ rowsHeld v.tm (quadOf v.g) (bitsOf (wordOf v p.a) 0 8) (bitsOf (wordOf v p.a) 0 8 + 16 * bitsOf (wordOf v p.a) 8 5 - 1) = true) (by decide)
    exact ⟨p, _, v, pl.weirs, r, q⟩
  · let p := tx 0 (.scal 5) 6 .i32
    obtain ⟨v, r, pl, q⟩ := issueD (s := heldState (.tld p) 16 fun g => sset (sset (sset g 4 0x03020080) 5 2024) 6 4) (u := uses (.tld p))
      (fun v => (rectResv (wordOf v p.a) = false ∧ (bsval v.g p.b).toNat + ((rectOf (wordOf v p.a)).last - (rectOf (wordOf v p.a)).row) * wordOf v p.c
          + (rectOf (wordOf v p.a)).ncol * 4 ≤ v.tm.scrBytes ∧ (bsval v.g p.b).toNat % 4 = 0 ∧ wordOf v p.c % 4 = 0
        ∧ rectBad v.tm (quadOf v.g) (rectOf (wordOf v p.a)) = false)
        ∧ (rectOf (wordOf v p.a)).last - (rectOf (wordOf v p.a)).row < 8 ∧ ∀ y ∈ List.range 8,
          lineAbsent v.tm ((bsval v.g p.b).toNat + y * wordOf v p.c) ((rectOf (wordOf v p.a)).ncol * 4) = none) (by decide)
    obtain ⟨⟨a, b, c, d, e⟩, f⟩ := q
    exact ⟨p, _, v, pl.weirs, r, a, b, c, d, e, rows f⟩
  · let p := tx 0 (.scal 5) 6 .i32
    obtain ⟨v, r, pl, q⟩ := issueD (s := heldState (.tst p) 16 fun g => sset (sset (sset g 4 0x03020080) 5 2000) 6 16) (u := uses (.tst p))
      (fun v => (rectResv (wordOf v p.a) = false ∧ (bsval v.g p.b).toNat + ((rectOf (wordOf v p.a)).last - (rectOf (wordOf v p.a)).row) * wordOf v p.c
          + (rectOf (wordOf v p.a)).ncol * 4 ≤ v.tm.scrBytes ∧ (bsval v.g p.b).toNat % 4 = 0 ∧ wordOf v p.c % 4 = 0
        ∧ rectBad v.tm (quadOf v.g) (rectOf (wordOf v p.a)) = false)
        ∧ ((rectOf (wordOf v p.a)).last - (rectOf (wordOf v p.a)).row < 8 ∧ ∀ y ∈ List.range 8,
          lineAbsent v.tm ((bsval v.g p.b).toNat + y * wordOf v p.c) ((rectOf (wordOf v p.a)).ncol * 4) = none)
        ∧ ((rectOf (wordOf v p.a)).row < (rectOf (wordOf v p.a)).last → (rectOf (wordOf v p.a)).ncol * 4 ≤ wordOf v p.c)) (by decide)
    obtain ⟨⟨a, b, c, d, e⟩, f, g⟩ := q
    exact ⟨p, _, v, pl.weirs, r, ⟨a, b, c, d, e, rows f⟩, g⟩
  · intro i p h
    obtain ⟨v, r, pl, q⟩ := issueD (s := heldState i 16 (sset · 4 0x70F0)) (u := uses i) (fun v => bitsOf (wordOf v p.a) 15 17 = 0
      ∧ bitsOf (wordOf v p.a) 0 8 + 16 ≤ 256 ∧ bitsOf (wordOf v p.a) 8 7 + 16 ≤ 128
      ∧ rowsHeld v.tm (quadOf v.g) (bitsOf (wordOf v p.a) 0 8) (bitsOf (wordOf v p.a) 0 8 + 15) = true)
      (by simp only [List.mem_cons, Prod.mk.injEq, List.not_mem_nil, or_false] at h
          obtain ⟨rfl, rfl⟩ | ⟨rfl, rfl⟩ := h <;> decide)
    exact ⟨_, v, pl.weirs, r, q⟩
  · let p := tx 0 (.imm 5) 0 .f64
    obtain ⟨v, r, pl, q⟩ := issueD (s := heldState (.tscale p) 16 (sset · 4 0x01007EFF)) (u := uses (.tscale p)) (fun v => rectResv (wordOf v p.a) = false
      ∧ rectBad v.tm (quadOf v.g) (rectOf (wordOf v p.a)) = false
      ∧ (p.cty = .f64 → (rectOf (wordOf v p.a)).col % 2 = 0 ∧ (rectOf (wordOf v p.a)).ncol % 2 = 0)) (by decide)
    exact ⟨p, _, v, pl.weirs, r, q⟩

/-- A state in which an operation stands at the head of the array of quad 0 of core 0. -/
def headState (o : MatOp) : State :=
  let s := heldState .nop 16 id
  { s with quads := [(0, { queue := [o] })] }

theorem noFly : (heldState .nop 16 id).groups.all (fun e => e.2.fly.isEmpty) = true := by decide

theorem head_of (o : MatOp) (h1 : o.begun = true) (h2 : o.team = 0) : ∃ tt, Head (headState o) o tt :=
  ⟨_, ⟨⟨[], rfl⟩, h1, by rw [h2]; rfl, fun g f hg hf => by
    have k := List.all_eq_true.1 noFly (_, g) (mget?_mem (m := (heldState .nop 16 id).groups) hg)
    rw [List.isEmpty_iff] at k
    rw [k] at hf
    cases hf⟩⟩

theorem wit_TileOperationsEnd : ∀ o ∈ [matOp0 (.tzero (tx 0 (.imm 0) 0 .i32)) 0x1000, matOp0 (.tld (tx 0 (.imm 0) 0 .i32)) 0x030200FD,
      { matOp0 (.tst (tx 0 (.imm 0) 0 .i32)) 0x030200FD with arg2 := 16 }, matOp0 (.tread (tx 8 (.imm 0) 0 .i32)) 0x70F0,
      matOp0 (.twrite (tx 8 (.imm 0) 0 .i32)) 0x70F0, matOp0 (.tscale (tx 0 (.imm 0) 0 .f32)) 0x00007FFF],
    (∃ tt, Head (headState o) o tt) ∧ o.jid = 0 ∧ (group? (headState o) o.gid).isSome = true
    ∧ match o.ins with
      | .tzero _ => bitsOf o.word 0 8 + 16 * bitsOf o.word 8 5 ≤ 256
      | .tld _ => (rectOf o.word).last < 256 ∧ (rectOf o.word).col + (rectOf o.word).ncol ≤ 128
      | .tst _ => (rectOf o.word).last < 256 ∧ (rectOf o.word).col + (rectOf o.word).ncol ≤ 128
          ∧ ((rectOf o.word).row < (rectOf o.word).last → (rectOf o.word).ncol * 4 ≤ o.arg2)
      | .tread _ | .twrite _ => bitsOf o.word 0 8 + 16 ≤ 256 ∧ bitsOf o.word 8 7 + 16 ≤ 128
      | .tscale p => p.cty = .f32 ∧ (rectOf o.word).last < 256 ∧ (rectOf o.word).col + (rectOf o.word).ncol ≤ 128
      | _ => False := by
  intro o h
  simp only [List.mem_cons, List.not_mem_nil, or_false] at h
  obtain rfl | rfl | rfl | rfl | rfl | rfl := h <;> exact ⟨head_of _ rfl rfl, rfl, by decide, by dsimp only [matOp0]; decide⟩

theorem wit_MatrixOperationsEnd :
    (∃ (s : State) (o : MatOp) (r : List MatOp), (quad s (quadKey s.ev.a s.ev.b)).queue = o :: r ∧ o.begun = false)
    ∧ (∃ (s : State) (o : MatOp) (tt : Team) (p : LX) (sh : Nat), Head s o tt ∧ o.jid = 0 ∧ o.ins = .mma p sh false ∧ p.aty = .i8 ∧
      p.cty = .i32 ∧ p.sp = 0 ∧ Placed o .i32 false false)
    ∧ ∃ (s : State) (o : MatOp) (tt : Team) (x : MPar), Head s o tt ∧ o.jid = 0 ∧ mPar o.ins = some x ∧ x.joint = false ∧
      x.p.aty ≠ .i8 ∧ x.p.cty ∈ [Ty.f64, .f32, .f16, .bf16] ∧ Placed o x.p.cty false x.r := by
  refine ⟨⟨headState { matOp0 .nop 0 with begun := false }, _, _, rfl, rfl⟩, ?_, ?_⟩
  · obtain ⟨tt, h⟩ := head_of (matOp0 (.mma (lx 3 0 (.reg 48) 0 .i8 .i32) 3 false) 0x70F0) rfl rfl
    exact ⟨_, _, tt, _, _, h, rfl, rfl, rfl, rfl, rfl, by decide, by decide, by decide⟩
  · obtain ⟨tt, h⟩ := head_of (matOp0 (.mmas { lx 3 0 (.reg 48) 52 .f16 .f64 with sp := 1 } 0 true) 0xF06000) rfl rfl
    exact ⟨_, _, tt, _, h, rfl, rfl, rfl, by decide, by decide, by decide, by decide, by decide⟩

/-! ### Remote accesses, counters, collectives and layers -/

/-- A state whose slot 0 has peer entry 0, valid with all permissions, at scalar pair 6 the remote address `off` of that peer. -/
def remState (i : Instr) (off : Nat) (perm : Nat) : State :=
  let s := oneWith i fun g => sset (sset g 6 (BitVec.ofNat 32 off)) 7 0x80000000
  { s with slots := [(0, { peerCfg := 1, expCnt := 0x1001 })], tabs := [(4096, 2 ^ 63 + perm * 2 ^ 59)] }

/-- The checks of `RemPasses`. -/
def remPassesB (s' : State) (v : View) (t : Ty) (ea : Nat → Nat) (op : RemOp) : Bool :=
  (List.range 32).all fun L => isRemote (ea L) && ea L % tyAlign t == 0 && (peerGrants s' v.g.ctx (ea L) (remPerm op)).isSome

theorem remPasses_of {s' : State} {v : View} {t : Ty} {ea : Nat → Nat} {op : RemOp} (h : remPassesB s' v t ea op = true) :
    RemPasses s' v t ea op := by
  intro L hL
  have := List.all_eq_true.1 h L (List.mem_range.2 (BitVec.lt_of_getLsbD hL))
  simpa [Bool.and_eq_true, and_assoc] using this

theorem wit_RemoteRequests :
    (∃ (i : Instr) (dep : Option Nat) (ty : Ty) (ea : Nat → Nat) (op : RemOp) (data : Nat → List Nat) (s : State) (v : View),
      RemWord v i dep ty ea op data ∧ Ready s v (uses i) ∧ RemPasses (peersRead s v ea) v ty ea op ∧ Plain s v)
    ∧ (∃ (i : Instr) (dep : Option Nat) (ty : Ty) (ea : Nat → Nat) (op : RemOp) (data : Nat → List Nat) (s : State) (v : View),
      RemWord v i dep ty ea op data ∧ Ready s v (uses i) ∧ v.exec.getLsbD 0 = true ∧ isRemote (ea 0) = false)
    ∧ (∃ (i : Instr) (dep : Option Nat) (ty : Ty) (ea : Nat → Nat) (op : RemOp) (data : Nat → List Nat) (s : State) (v : View),
      RemWord v i dep ty ea op data ∧ Ready s v (uses i) ∧ (∀ L, v.exec.getLsbD L = true → ¬ isRemote (ea L) = false)
        ∧ v.exec.getLsbD 0 = true ∧ ea 0 % tyAlign ty ≠ 0)
    ∧ ∃ (i : Instr) (dep : Option Nat) (ty : Ty) (ea : Nat → Nat) (op : RemOp) (data : Nat → List Nat) (s : State) (v : View),
      RemWord v i dep ty ea op data ∧ Ready s v (uses i)
        ∧ (∀ L, v.exec.getLsbD L = true → ¬ isRemote (ea L) = false ∧ ¬ ea L % tyAlign ty ≠ 0)
        ∧ v.exec.getLsbD 0 = true ∧ peerGrants (peersRead s v ea) v.g.ctx (ea 0) (remPerm op) = none := by
  refine ⟨?_, ?_, ?_, ?_⟩
  · let p := lm 2 6 (.reg 4) 8 .f64
    obtain ⟨v, r, pl, q⟩ := issueD (s := remState (.rst p) 0 4) (u := uses (.rst p)) (fun v =>
      remPassesB (peersRead (remState (.rst p) 0 4) v (eaOf2 v p)) v p.ty (eaOf2 v p) .st = true) (by decide +kernel)
    exact ⟨_, _, _, _, _, _, _, v, .rst p, r, remPasses_of q, pl⟩
  · let p := lm 2 6 (.reg 4) 0 .n32
    obtain ⟨v, r, pl, q⟩ := issueD (s := one (.rld p)) (u := uses (.rld p)) (fun v => v.exec.getLsbD 0 = true ∧ isRemote (eaOf2 v p 0) = false)
      (by decide)
    exact ⟨_, _, _, _, _, _, _, v, .rld p, r, q⟩
  · let p := lm 2 6 (.reg 4) 0xFF01 .n32
    obtain ⟨v, r, pl, q⟩ := issueD (s := remState (.rstCnt p) 1 15) (u := uses (.rstCnt p)) (fun v =>
      (∀ L ∈ List.range 32, v.exec.getLsbD L = true → ¬ isRemote (((sget64 v.g p.a).toNat + idxOf v.g p.b L) % 2 ^ 64) = false)
      ∧ v.exec.getLsbD 0 = true ∧ (((sget64 v.g p.a).toNat + idxOf v.g p.b 0) % 2 ^ 64) % tyAlign p.ty ≠ 0) (by decide)
    exact ⟨_, _, _, _, _, _, _, v, .rstCnt p, r, allLanesOf q.1, q.2⟩
  · let p := lm 2 6 (.reg 4) 0 .n8
    obtain ⟨v, r, pl, q⟩ := issueD (s := remState (.rld p) 1 7) (u := uses (.rld p)) (fun v =>
      (∀ L ∈ List.range 32, v.exec.getLsbD L = true → ¬ isRemote (eaOf2 v p L) = false ∧ ¬ eaOf2 v p L % tyAlign p.ty ≠ 0)
      ∧ v.exec.getLsbD 0 = true ∧ peerGrants (peersRead (remState (.rld p) 1 7) v (eaOf2 v p)) v.g.ctx (eaOf2 v p 0) (remPerm .ld) = none)
      (by decide +kernel)
    exact ⟨_, _, _, _, _, _, _, v, .rld p, r, allLanesOf q.1, q.2⟩

theorem wit_RemoteAtomics : ∃ (p : LT) (fn : AtomFn) (s : State) (v : View), Ready s v (uses (.ratom p fn)) ∧ Plain s v ∧
    RemPasses (peersRead s v (eaAtom v p)) v p.ty (eaAtom v p) (.atom fn p.ty) := by
  let p := lt 2 6 4 .n64
  obtain ⟨v, r, pl, q⟩ := issueD (s := remState (.ratom p .cas) 8 2) (u := uses (.ratom p .cas)) (fun v =>
    remPassesB (peersRead (remState (.ratom p .cas) 8 2) v (eaAtom v p)) v p.ty (eaAtom v p) (.atom .cas p.ty) = true) (by decide +kernel)
  exact ⟨p, .cas, _, v, r, pl, remPasses_of q⟩

/-- The operands of a system or remote form. -/
def ls (d a : Nat) (b : Src) (c : Nat) : LS := { d := d, a := a, b := b, c := c, order := 0, dep := none }

theorem wit_RemoteFence :
    (∃ (p : LS) (s : State) (v : View), Ready s v (uses (.rfence p)) ∧ Plain s v
      ∧ (∀ e g q m, e ∈ s.rems → e.2.who = .lanes g q m → g = v.is.gid → e.2.msg.op = .ld)
      ∧ (∀ e, e ∈ s.ops → e.2.gid = v.is.gid → isRemote e.2.dstAddr = false) ∧ s.rems ≠ [])
    ∧ ∃ (p : LS) (s : State) (v : View) (e : Nat × Rem) (q : Nat) (m : Word), Ready s v (uses (.rfence p)) ∧ Plain s v
      ∧ e ∈ s.rems ∧ e.2.who = .lanes v.is.gid q m ∧ q < s.nextId ∧ e.2.msg.op ≠ .ld := by
  let p := ls 0 0 (.imm 0) 0
  refine ⟨?_, ?_⟩
  · obtain ⟨v, r, pl⟩ := issueD (s := { one (.rfence p) with rems := [(0, rem0 .ld)] }) (u := uses (.rfence p)) (fun _ => True) (by decide)
    refine ⟨p, _, v, r, pl.1, fun e g q m (he : e ∈ [(0, rem0 .ld)]) _ _ => by rw [List.mem_singleton.1 he]; rfl, fun e he => ?_, by decide⟩
    have k : e ∈ ([] : List (Nat × EngOp)) := he
    cases k
  · obtain ⟨v, r, pl, q⟩ := issueD (s := { one (.rfence p) with rems := [(0, rem0 .st)], nextId := 1 }) (u := uses (.rfence p))
      (fun v => v.is.gid = 0) (by decide)
    exact ⟨p, _, v, (0, rem0 .st), 0, 1, r, pl, by simp, by rw [q]; rfl, by decide, by decide⟩

/-- A counter's page, as a core's L1 TLB answers it. -/
def hitB (s : State) (cr pasid a : Nat) (need : Need) (k : Nat) : Bool :=
  match entOf (coreTlb s cr) pasid a with
  | some tr => useTrans tr a need == .ok k false
  | none => false

theorem hit_of {s : State} {cr pasid a k : Nat} {need : Need} (h : hitB s cr pasid a need k = true) :
    ∃ tr host, entOf (coreTlb s cr) pasid a = some tr ∧ useTrans tr a need = .ok k host := by
  unfold hitB at h
  split at h
  · exact ⟨_, false, ‹_›, by simpa using h⟩
  · cases h

theorem wit_CompletionCounters :
    (∀ n ∈ [0, 1], ∃ (p : LS) (k : Nat) (s : State) (v : View), Ready s v (uses (.cwait p)) ∧ Plain s v ∧ OwnCounter s v (bsval v.g p.b).toNat k .rd ∧ poisoned s k 8 = false
      ∧ (n = 0 ∧ (sget64 v.g p.a).toNat ≤ readNat s k 8 ∨ n = 1 ∧ readNat s k 8 < (sget64 v.g p.a).toNat))
    ∧ (∃ (p : LS) (k : Nat) (s : State) (v : View), Ready s v (uses (.cnote p)) ∧ Plain s v ∧ OwnCounter s v (bsval v.g p.b).toNat k .rw ∧ WaitsRead s v ∧ (∃ e ∈ s.groups, cwaitsFor e.2 = [127])
      ∧ (sget64 v.g p.a).toNat = 0)
    ∧ (∃ (p : LS) (s : State) (v : View), Ready s v (uses (.cnote p)) ∧ Plain s v ∧ (bsval v.g p.b).toNat ≤ 255
      ∧ isRemote (sget64 v.g p.a).toNat = true ∧ remOff (sget64 v.g p.a).toNat = 0
      ∧ (peerGrants (fillPeers s v [(sget64 v.g p.a).toNat]) v.g.ctx (sget64 v.g p.a).toNat (remPerm (.note (bsval v.g p.b).toNat))).isSome = true)
    ∧ ∀ i ∈ [Instr.cwait (ls 0 6 (.scal 5) 0), .cnote (ls 0 6 (.scal 5) 4)], ∃ (s : State) (v : View), Ready s v (uses i) ∧ 255 < (sget v.g 5).toNat := by
  refine ⟨?_, ?_, ?_, ?_⟩
  · intro n hn
    let p := ls 0 6 (.imm 127) 0
    let s := modGroup { one (.cwait p) with slots := [(0, { expCnt := 0x1001 })] } 0 (sset · 6 (BitVec.ofNat 32 n))
    obtain ⟨v, r, pl, q⟩ := issueD (s := s) (u := uses (.cwait p)) (fun v => (bsval v.g p.b).toNat = 127 ∧ counterAt s v.g.ctx 127 = some 0x13F8
      ∧ (hitB s v.tm.core v.cx.pasid 0x13F8 .rd 0x13F8 = true ∧ poisoned s 0x13F8 8 = false) ∧ deniedFor s (.fetch v.is.gid v.is.pc) 0x13F8 = false
      ∧ (n = 0 ∧ (sget64 v.g p.a).toNat ≤ readNat s 0x13F8 8 ∨ n = 1 ∧ readNat s 0x13F8 8 < (sget64 v.g p.a).toNat))
      (by simp only [List.mem_cons, List.not_mem_nil, or_false] at hn; obtain rfl | rfl := hn <;> decide +kernel)
    obtain ⟨q1, q2, q3, q4, q5⟩ := q
    obtain ⟨tr, host, h1, h2⟩ := hit_of q3.1
    exact ⟨p, _, s, v, r, pl, ⟨by rw [q1]; first | done | decide, _, tr, host, by rw [q1]; exact q2, h1, h2, q4⟩, q3.2, q5⟩
  · let p := ls 0 6 (.imm 127) 4
    let s := { one (.cnote p) with slots := [(0, { expCnt := 0x1001 })],
                                   groups := (one (.cnote p)).groups.flatMap fun e => [e, (1, laneMod { e.2 with idx := 1 } 2 fun _ l => { l with st := .park (.cwait 127 5) })] }
    obtain ⟨v, r, pl, q⟩ := issueD (s := s) (u := uses (.cnote p)) (fun v => (bsval v.g p.b).toNat = 127 ∧ counterAt s v.g.ctx 127 = some 0x13F8
      ∧ hitB s v.tm.core v.cx.pasid 0x13F8 .rw 0x13F8 = true ∧ deniedFor s (.fetch v.is.gid v.is.pc) 0x13F8 = false
      ∧ (sget64 v.g p.a).toNat = 0 ∧ v.g.ctx = 0 ∧ (∃ e ∈ s.groups, cwaitsFor e.2 = [127]) ∧ ∀ e ∈ s.groups, ∀ c ∈ cwaitsFor e.2, c = 127
        ∧ hitB s (coreOf s e.2) v.cx.pasid 0x13F8 .rd 0x13F8 = true ∧ poisoned s 0x13F8 8 = false) (by decide +kernel)
    obtain ⟨q1, q2, q3, q4, q5, q6, q7, q8⟩ := q
    obtain ⟨tr, host, h1, h2⟩ := hit_of q3
    refine ⟨p, _, s, v, r, pl, ⟨by rw [q1]; first | done | decide, _, tr, host, by rw [q1]; exact q2, h1, h2, q4⟩, fun e c a he _ hc ha => ?_, q7, q5⟩
    obtain ⟨rfl, k2, k3⟩ := q8 e he c hc
    rw [q2] at ha; cases ha
    obtain ⟨tr, host, h1, h2⟩ := hit_of k2
    exact ⟨tr, _, host, h1, h2, k3⟩
  · let p := ls 0 6 (.scal 5) 4
    obtain ⟨v, r, pl, q⟩ := issueD (s := modGroup (remState (.cnote p) 0 1) 0 (sset · 5 255)) (u := uses (.cnote p)) (fun v => (bsval v.g p.b).toNat ≤ 255
      ∧ isRemote (sget64 v.g p.a).toNat = true ∧ remOff (sget64 v.g p.a).toNat = 0
      ∧ (peerGrants (fillPeers (modGroup (remState (.cnote p) 0 1) 0 (sset · 5 255)) v [(sget64 v.g p.a).toNat]) v.g.ctx (sget64 v.g p.a).toNat
          (remPerm (.note (bsval v.g p.b).toNat))).isSome = true) (by decide +kernel)
    exact ⟨p, _, v, r, pl, q⟩
  · intro i hi
    obtain ⟨v, r, q⟩ := issueR (s := oneWith i (sset · 5 256)) (u := uses i) (fun v => 255 < (sget v.g 5).toNat)
      (by simp only [List.mem_cons, List.not_mem_nil, or_false] at hi; obtain rfl | rfl := hi <;> decide)
    exact ⟨_, v, r, q⟩

/-- The state of a COLL whose words stand at scalar 8, with communicator 0 of 2 members in slot 0. -/
def collState (i : Instr) (xs : List Nat) : State :=
  { oneWith i (scalars8 xs) with slots := [(0, { commCfg := 1, expCnt := 0x1001 })], tabs := [(3 * 4096, 1 + 2 * 2 ^ 32 + 5 * 2 ^ 96)] }

/-- A collective posted as a bucket. -/
def coll0 : Coll :=
  { id := 4, slot := 0, comm := 0, cid := 5, seq := 0, m := 2, rank := 0, gid := 0, fly := 0, team := 0, launch := 0, core := 0, pc := 0, w0 := 0, w1 := 0,
    exec := 1, dreg := 3, src := 0, dst := 0, count := 64, op := 0, ty := .f32, block := false, bucket := true, root := 0, counter := none }

theorem wit_CollectivesPost :
    (∃ (p : LS) (e : CommEnt) (t : Ty) (ns nd : Nat) (s : State) (v : View), Ready s v (uses (.coll p)) ∧ NoWeirs s v ∧ v.ln.owns = [] ∧
      (let c := collWords v.g p.a
       let s' := if (slotRegs s v.g.ctx).commCfg.testBit 0 then tabFill s v.g.ctx 3 c.comm (commKey s v.g.ctx c.comm) 32 else s
       CollFits s' v c e t ns nd) ∧
      (p.c ≠ 0x80 → (sget v.g p.c).toNat ≤ 255 ∧ (slotRegs s v.g.ctx).expCnt.testBit 0 = true))
    ∧ ∀ n ∈ [256, 257], ∃ (p : LS) (id : Nat) (c : Coll) (s : State) (v : View), Ready s v (uses (.bknote p)) ∧ NoWeirs s v ∧
      (let here (x : Coll) : Prop := x.slot = v.g.ctx ∧ x.comm = (sget v.g p.a).toNat ∧ x.seq = (bsval v.g p.b).toNat ∧ x.bucket = true
         ∧ x.started = false ∧ x.ended = none
       mget? s.colls id = some c ∧ here c ∧ (∀ e, e ∈ s.colls → here e.2 → e = (id, c))) ∧ (sget v.g p.c).toNat = n ∧ c.fill = 0
      ∧ collPay c.ty c.block c.count = 256 := by
  refine ⟨?_, ?_⟩
  · let p := ls 3 8 (.imm 0) 5
    let xs := [0x1800, 0, 0x1900, 0, 64, 8 * 2 ^ 16, 1, 0]
    obtain ⟨v, r, pl, q⟩ := issueD (s := collState (.coll p) xs) (u := uses (.coll p)) (fun v => v.ln.owns = []
      ∧ ((collWords v.g p.a).src = 0x1800 ∧ (collWords v.g p.a).dst = 0x1900 ∧ (collWords v.g p.a).count = 64 ∧ (collWords v.g p.a).comm = 0
        ∧ (collWords v.g p.a).op = 0 ∧ (collWords v.g p.a).ty = 8 ∧ (collWords v.g p.a).bucket = false ∧ (collWords v.g p.a).resv = 0
        ∧ (collWords v.g p.a).seq = 1 ∧ (collWords v.g p.a).root = 0)
      ∧ v.g.ctx = 0 ∧ v.cx.regions = [] ∧ (sget v.g p.c).toNat ≤ 255) (by decide)
    obtain ⟨q1, q2, q3, q4, q5⟩ := q
    obtain ⟨a, b, c, d, e, f, g, h, i, j⟩ := q2
    refine ⟨p, { m := 2, rank := 0, cid := 5, members := 0, rclass := 0 }, .f32, 256, 256, collState (.coll p) xs, v, r, pl.weirs, q1, ?_, fun _ => ⟨q5, by rw [q3]; first | done | decide⟩⟩
    generalize hw : collWords v.g p.a = w at *
    obtain ⟨_, _, _, _, _, _, _, _, _, _⟩ := w
    dsimp only at a b c d e f g h i j
    subst a b c d e f g h i j
    constructor
    · rw [q3]; decide +kernel
    · rfl
    · have := CollSizes.allReduce (t := .f32) (m := 2) (rank := 0) (count := 64); exact this
    · rfl
    · decide
    · decide
    · decide
    · decide
    · decide
    · rw [q3]; decide +kernel
    · intro e he
      rw [q3, if_pos (by decide)] at he
      have k : e ∈ ([] : List (Nat × Coll)) := he
      cases k
    · decide
    · decide
    · intro x hx; rw [q4] at hx; cases hx
  · intro n hn
    let p := ls 0 6 (.imm 0) 5
    obtain ⟨v, r, pl, q⟩ := issueD (s := { oneWith (.bknote p) (sset · 5 (BitVec.ofNat 32 n)) with colls := [(4, coll0)] }) (u := uses (.bknote p))
      (fun v => v.g.ctx = 0 ∧ (sget v.g p.a).toNat = 0 ∧ (bsval v.g p.b).toNat = 0 ∧ (sget v.g p.c).toNat = n)
      (by simp only [List.mem_cons, List.not_mem_nil, or_false] at hn; obtain rfl | rfl := hn <;> decide)
    obtain ⟨q1, q2, q3, q4⟩ := q
    exact ⟨p, 4, coll0, _, v, r, pl.weirs, ⟨rfl, ⟨q1.symm, q2.symm, q3.symm, rfl, rfl, rfl⟩, fun e he _ => List.mem_singleton.1 he⟩, q4, rfl, by decide⟩

theorem wit_BucketNotes_none : ∃ (p : LS) (s : State) (v : View), Ready s v (uses (.bknote p)) ∧ NoWeirs s v ∧ s.colls = [] :=
  have ⟨v, r, pl⟩ := issueOf (.bknote (ls 0 6 (.imm 0) 5)) (by decide)
  ⟨_, _, v, r, pl.weirs, rfl⟩

/-- A state whose launch is a model with one layer in some state, and a team that holds it. -/
def layState (i : Instr) (st : Nat) : State :=
  let ly : Layer := { src := 0, dst := 0x200000, bytes := 4096, flag := 0x100000, wlo := 0, whi := 0, kind := 0, pri := 0, state := st }
  modTeam (modLaunch (one i) 0 fun l => { l with model := some { layers := [ly], mpri := 0, klist := [], margSize := 0 } }) 0
    fun t => { t with holds := [0] }

/-- The same with the layer's flag word in the page that holds the code, poisoned. -/
def flagState (i : Instr) : State :=
  let s := modLaunch (layState i 2) 0 fun l => { l with model := l.model.map fun m => { m with layers := m.layers.map fun y => { y with flag := 0x1800 } } }
  { s with pois := [(0x1800 / 16, true)], tlb := [{ pasid := 0, va := 0x1000, size := 4096, pa := 0x1000, host := false, r := true, w := true, x := true }] }

theorem wit_LayerInstructions_poison : ∃ s v ly, Ready s v (uses (.lwait (ls 0 0 (.imm 0) 0))) ∧ Plain s v ∧ layer? s v.g.launch 0 = some ly
    ∧ layerState s v.cx ly = 8 := by
  let i := Instr.lwait (ls 0 0 (.imm 0) 0)
  obtain ⟨v, r, pl, q⟩ := issueD (s := flagState i) (u := uses i) (fun v =>
    ((layer? (flagState i) v.g.launch 0).any fun ly => layerState (flagState i) v.cx ly == 8) = true) (by decide +kernel)
  obtain ⟨ly, h1, h2⟩ := (Option.any_eq_true _ _).1 q
  exact ⟨_, v, ly, r, pl, h1, by simpa using h2⟩

theorem wit_LayerInstructions :
    (∀ x ∈ [Instr.lreq (ls 3 0 (.imm 1) 0), .lwait (ls 0 0 (.imm 1) 0), .lrel (ls 0 0 (.imm 1) 0), .lstat (ls 2 0 (.imm 1) 0)],
      ∃ s v, Ready s v (uses x) ∧ layer? s v.g.launch 1 = none ∧ (bsval v.g (.imm 1)).toNat = 1)
    ∧ ∀ x ∈ [Instr.lreq (ls 3 0 (.imm 0) 0), .lwait (ls 0 0 (.imm 0) 0), .lrel (ls 0 0 (.imm 0) 0), .lstat (ls 2 0 (.imm 0) 0)],
      ∀ st ∈ [0, 1, 2, 3, 4], ∃ s v ly, Ready s v (uses x) ∧ Plain s v ∧ (bsval v.g (.imm 0)).toNat = 0 ∧ layer? s v.g.launch 0 = some ly
        ∧ layerState s v.cx ly = st ∧ layerNow s v.g.launch ly = st ∧ ly.state = st ∧ 0 ∈ v.tm.holds ∧ mord s.teams = true
        ∧ ∀ e, e ∈ s.teams → e.1 ≠ v.g.team → e.2.launch = v.g.launch → 0 ∉ e.2.holds := by
  refine ⟨?_, ?_⟩
  · intro x hx
    obtain ⟨v, r, pl, q⟩ := issueD (s := layState x 0) (u := uses x) (fun v => layer? (layState x 0) v.g.launch 1 = none ∧ (bsval v.g (.imm 1)).toNat = 1)
      (by simp only [List.mem_cons, List.not_mem_nil, or_false] at hx; obtain rfl | rfl | rfl | rfl := hx <;> decide)
    exact ⟨_, v, r, q⟩
  · intro x hx st hst
    obtain ⟨v, r, pl, q⟩ := issueD (s := layState x st) (u := uses x) (fun v => (bsval v.g (.imm 0)).toNat = 0
      ∧ ((layer? (layState x st) v.g.launch 0).any fun ly => layerState (layState x st) v.cx ly == st && layerNow (layState x st) v.g.launch ly == st && ly.state == st) = true
      ∧ 0 ∈ v.tm.holds ∧ mord (layState x st).teams = true
      ∧ ∀ e ∈ (layState x st).teams, e.1 ≠ v.g.team → e.2.launch = v.g.launch → 0 ∉ e.2.holds)
      (by simp only [List.mem_cons, List.not_mem_nil, or_false] at hx hst
          obtain rfl | rfl | rfl | rfl := hx <;> obtain rfl | rfl | rfl | rfl | rfl := hst <;> decide)
    obtain ⟨q1, q2, q3⟩ := q
    obtain ⟨ly, h1, h2⟩ := (Option.any_eq_true _ _).1 q2
    simp only [Bool.and_eq_true, beq_iff_eq] at h2
    exact ⟨_, v, ly, r, pl, q1, h1, h2.1.1, h2.1.2, h2.2, q3⟩

/-! ### Traps, system instructions, weirs and inspection -/

/-- A state whose context has one frame of the trap area, at 0x1400 in the page that holds the code, and whose kernel has a handler. -/
def trapState (i : Instr) (entry : DWord) : State :=
  modLaunch (modCtx (one i) 0 fun c => { c with trapArea := 0x1400, trapSize := 1024 }) 0 fun l => { l with kern := { l.kern with trapEntry := entry } }

/-- A trap of lane 0 at the chosen word. -/
def tr0 (v : View) (cause : Nat) : TrapRec := { v.tr cause 1 with fpcls := [(0, 3)], detail := 5 }

theorem tr0_lane (v : View) (c : Nat) : (tr0 v c).tlanes.getLsbD 0 = true := by
  show (1 : Word).getLsbD 0 = true
  decide

theorem l1Data_nil {s : State} {cr pasid a : Nat} (h : s.l1 = []) : l1Data s cr pasid a = none := by simp [l1Data, h, mget?]

/-- The conditions of `CanTrap`, as a check. -/
def canTrapB (s : State) (v : View) (f k : Nat) : Bool :=
  v.cx.halt.isNone && v.ln.kern.trapEntry != 0 && (v.g.hnd.isNone && v.g.trap.isNone && handLanes v.g == 0)
    && (f < v.cx.trapSize / 1024 && (mget? v.cx.frames f).isNone && (List.range f).all fun j => (mget? v.cx.frames j).isSome)
    && v.g.fly.isEmpty && v.cx.trapArea + f * 0x400 < 2 ^ 57 && hitB s v.tm.core v.cx.pasid (v.cx.trapArea + f * 0x400) .wr k
    && s.l1.isEmpty && !deniedFor s (.frame v.is.gid) (v.cx.trapArea + f * 0x400)

theorem canTrap_of {s : State} {v : View} {f k : Nat} (h : canTrapB s v f k = true) : CanTrap s v f k := by
  simp only [canTrapB, Bool.and_eq_true, Option.isNone_iff_eq_none, bne_iff_ne, ne_eq, beq_iff_eq, decide_eq_true_eq, List.all_eq_true,
    List.mem_range, List.isEmpty_iff, Bool.not_eq_true'] at h
  obtain ⟨⟨⟨⟨⟨⟨⟨⟨h1, h2⟩, ⟨h3, h4⟩, h5⟩, ⟨h6, h7⟩, h8⟩, h9⟩, h10⟩, h11⟩, h13⟩, h12⟩ := h
  exact ⟨h1, h2, ⟨h3, h4, h5⟩, ⟨h6, h7, h8⟩, (fun x hx => by rw [h9] at hx; cases hx), h10, hit_of h11,
    ⟨linesWhole_nil h13, fun _ _ _ => l1Data_nil h13⟩, h12⟩

theorem wit_TrapsEnter :
    (∃ (s : State) (v : View) (tr : TrapRec) (f k : Nat), view s = some v ∧ v.is.step = none ∧ CanTrap s v f k ∧ tr.cause ≤ 0x0F ∧
      tr.cause ∉ [0x05, 0x08, 0x09, 0x0D, 0x0F] ∧ tr.reason < 256 ∧ tr.tlanes ≠ 0 ∧
      ∀ L, L < 32 → tr.tlanes.getLsbD L = true → (laneGet v.g L).st ≠ .dead)
    ∧ ∀ i ∈ [Instr.trap 0xFFFF, .bkpt 0], ∃ (f k : Nat) (s : State) (v : View), Ready s v (uses i) ∧ CanTrap s v f k ∧
      ∀ L, v.exec.getLsbD L = true → (laneGet v.g L).st ≠ .dead := by
  refine ⟨?_, ?_⟩
  · obtain ⟨v, hv, q⟩ := issueIs_view (s := trapState .nop 0x1800) (p := fun v => v.is.step.isNone && canTrapB (trapState .nop 0x1800) v 0 0x1400
      && (List.range 32).all fun L => (laneGet v.g L).st != .dead) (by decide +kernel)
    simp only [Bool.and_eq_true, List.all_eq_true, List.mem_range, bne_iff_ne, ne_eq, Option.isNone_iff_eq_none] at q
    exact ⟨_, v, tr0 v 0x0B, 0, 0x1400, hv, q.1.1, canTrap_of q.1.2, (by decide : 0x0B ≤ 0x0F), (by decide : 0x0B ∉ [0x05, 0x08, 0x09, 0x0D, 0x0F]),
      (by decide : 0 < 256), (by decide : (1 : Word) ≠ 0), fun L hL _ => q.2 L hL⟩
  · intro i hi
    obtain ⟨v, r, q⟩ := issueR (s := trapState i 0x1800) (u := uses i) (fun v => canTrapB (trapState i 0x1800) v 0 0x1400 = true
      ∧ ∀ L ∈ List.range 32, v.exec.getLsbD L = true → (laneGet v.g L).st ≠ .dead)
      (by simp only [List.mem_cons, List.not_mem_nil, or_false] at hi; obtain rfl | rfl := hi <;> decide +kernel)
    exact ⟨0, 0x1400, _, v, r, canTrap_of q.1, allLanesOf q.2⟩

/-- Its lanes run a handler of the trap with the frame at 0x1400. -/
def handState (i : Instr) : State :=
  modCtx (modGroup (trapState i 0x1800) 0 fun g => { laneMod g allLanes fun _ l => { l with hand := true } with
    hnd := some { frame := 0, tlanes := allLanes, cl := none, cause := 0x0E, lyr := none } }) 0 fun c => { c with frames := [(0, 0)] }

theorem wit_TrapsHalt : ∀ n ∈ [0, 1, 2, 3], ∃ (s : State) (v : View) (tr : TrapRec), view s = some v ∧ v.is.step = none ∧ v.cx.halt = none ∧
    v.g.ended = false ∧ (∃ L, L < 32 ∧ tr.tlanes.getLsbD L = true ∧ (laneGet v.g L).st ≠ .dead) ∧
    match n with
    | 0 => tr.cause = 0x0D ∧ v.ln.kern.trapEntry ≠ 0
    | 1 => tr.cause = 0x0E ∧ v.ln.kern.trapEntry = 0
    | 2 => tr.cause = 0x0E ∧ v.ln.kern.trapEntry ≠ 0 ∧ ∃ L, L < 32 ∧ tr.tlanes.getLsbD L = true ∧ (laneGet v.g L).hand = true ∧ (laneGet v.g L).st ≠ .dead
    | _ => tr.cause = 0x0E ∧ v.ln.kern.trapEntry ≠ 0 ∧ v.g.hnd = none ∧ v.g.trap = none
        ∧ ∀ f, f < v.cx.trapSize / 1024 → (mget? v.cx.frames f).isSome = true := by
  intro n hn
  simp only [List.mem_cons, List.not_mem_nil, or_false] at hn
  obtain rfl | rfl | rfl | rfl := hn
  · obtain ⟨v, hv, q⟩ := issueIs_view (s := trapState .nop 0x1800) (p := fun v => decide (v.is.step = none ∧ v.cx.halt = none ∧ v.g.ended = false
      ∧ (laneGet v.g 0).st ≠ .dead ∧ v.ln.kern.trapEntry ≠ 0)) (by decide)
    obtain ⟨a, b, c, d, e⟩ := of_decide_eq_true q
    exact ⟨_, v, tr0 v 0x0D, hv, a, b, c, ⟨0, by decide, tr0_lane v _, d⟩, rfl, e⟩
  · obtain ⟨v, hv, q⟩ := issueIs_view (s := trapState .nop 0) (p := fun v => decide (v.is.step = none ∧ v.cx.halt = none ∧ v.g.ended = false
      ∧ (laneGet v.g 0).st ≠ .dead ∧ v.ln.kern.trapEntry = 0)) (by decide)
    obtain ⟨a, b, c, d, e⟩ := of_decide_eq_true q
    exact ⟨_, v, tr0 v 0x0E, hv, a, b, c, ⟨0, by decide, tr0_lane v _, d⟩, rfl, e⟩
  · obtain ⟨v, hv, q⟩ := issueIs_view (s := handState .nop) (p := fun v => decide (v.is.step = none ∧ v.cx.halt = none ∧ v.g.ended = false
      ∧ (laneGet v.g 0).st ≠ .dead ∧ v.ln.kern.trapEntry ≠ 0 ∧ (laneGet v.g 0).hand = true)) (by decide +kernel)
    obtain ⟨a, b, c, d, e, f⟩ := of_decide_eq_true q
    exact ⟨_, v, tr0 v 0x0E, hv, a, b, c, ⟨0, by decide, tr0_lane v _, d⟩, rfl, e, 0, by decide, tr0_lane v _, f, d⟩
  · obtain ⟨v, hv, q⟩ := issueIs_view (s := modCtx (trapState .nop 0x1800) 0 fun c => { c with frames := [(0, 7)] })
      (p := fun v => decide (v.is.step = none ∧ v.cx.halt = none ∧ v.g.ended = false
        ∧ (laneGet v.g 0).st ≠ .dead ∧ v.ln.kern.trapEntry ≠ 0 ∧ v.g.hnd = none ∧ v.g.trap.isNone ∧ v.cx.trapSize / 1024 = 1
        ∧ (mget? v.cx.frames 0).isSome = true)) (by decide)
    obtain ⟨a, b, c, d, e, f, g, h, i⟩ := of_decide_eq_true q
    exact ⟨_, v, tr0 v 0x0E, hv, a, b, c, ⟨0, by decide, tr0_lane v _, d⟩, rfl, e, f, Option.isNone_iff_eq_none.1 g,
      fun f hf => by obtain rfl : f = 0 := by omega
                     exact i⟩

/-- Lane 0 jumps to an address that is not 4-byte aligned. -/
def strayState (i : Instr) (entry : DWord) : State := modGroup (trapState i entry) 0 fun g => vset g 4 0 2

/-- The lane 0 of an issue alone has a bad target, and every lane is alive. -/
def strayB (v : View) : Bool :=
  badTargets v (.reg 4) == 1 && v.exec.getLsbD 0 && (List.range 32).all fun L => (laneGet v.g L).st != .dead

theorem stray_of {v : View} (h : strayB v = true) : badTargets v (.reg 4) ≠ 0 ∧ LowestIn (badTargets v (.reg 4)) 0 ∧
    ∀ L, v.exec.getLsbD L = true → (laneGet v.g L).st ≠ .dead := by
  simp only [strayB, Bool.and_eq_true, beq_iff_eq, List.all_eq_true, List.mem_range, bne_iff_ne, ne_eq] at h
  rw [h.1.1]
  exact ⟨by decide, lowest0 (by decide), lanes_of h.2⟩

theorem wit_TransferTraps :
    (∀ i ∈ [Instr.brx (.reg 4), .ret (.reg 4), .callx 8 (.reg 4)], (∃ (s : State) (v : View), Ready s v (uses i) ∧ Plain s v ∧
        badTargets v (.reg 4) ≠ 0 ∧ (∀ L, v.exec.getLsbD L = true → (laneGet v.g L).st ≠ .dead) ∧ v.cx.halt = none ∧ v.ln.kern.trapEntry = 0)
      ∧ ∃ (s : State) (v : View), Ready s v (uses i) ∧ Plain s v ∧ badTargets v (.reg 4) ≠ 0 ∧
        (∀ L, v.exec.getLsbD L = true → (laneGet v.g L).st ≠ .dead) ∧ CanTrap s v 0 0x1400 ∧ LowestIn (badTargets v (.reg 4)) 0)
    ∧ ∀ i ∈ [Instr.call 8 0, .callx 8 (.reg 4)], ∃ (s : State) (v : View), Ready s v (uses i) ∧ (loopGet v.g 0).active = true
      ∧ (loopGet v.g 0).members &&& v.exec ≠ 0 := by
  refine ⟨fun i hi => ⟨?_, ?_⟩, fun i hi => ?_⟩
  · obtain ⟨v, r, pl, q⟩ := issueD (s := strayState i 0) (u := uses i) (fun v => strayB v = true ∧ v.cx.halt = none ∧ v.ln.kern.trapEntry = 0)
      (by simp only [List.mem_cons, List.not_mem_nil, or_false] at hi; obtain rfl | rfl | rfl := hi <;> decide +kernel)
    exact ⟨_, v, r, pl, (stray_of q.1).1, (stray_of q.1).2.2, q.2⟩
  · obtain ⟨v, r, pl, q⟩ := issueD (s := strayState i 0x1800) (u := uses i) (fun v => strayB v = true ∧ canTrapB (strayState i 0x1800) v 0 0x1400 = true)
      (by simp only [List.mem_cons, List.not_mem_nil, or_false] at hi; obtain rfl | rfl | rfl := hi <;> decide +kernel)
    exact ⟨_, v, r, pl, (stray_of q.1).1, (stray_of q.1).2.2, canTrap_of q.2, (stray_of q.1).2.1⟩
  · obtain ⟨v, r, q⟩ := issueR (s := oneWith i fun g => { g with loops := [(0, { active := true, members := 1 })] }) (u := uses i)
      (fun v => (loopGet v.g 0).active = true ∧ (loopGet v.g 0).members &&& v.exec ≠ 0)
      (by simp only [List.mem_cons, List.not_mem_nil, or_false] at hi; obtain rfl | rfl := hi <;> decide +kernel)
    exact ⟨_, v, r, q⟩

/-- FDIV of 1 by 0 in lane 0, with the trap of a division by zero enabled. -/
def divState (entry : DWord) : State :=
  modGroup (trapState (.fdiv (wl 2 4 (.reg 6) 0 .f32 0)) entry) 0 fun g => { vset g 4 0 0x3F800000 with fptrap := 63 }

theorem wit_FloatTraps : ∀ e ∈ [(0 : DWord), 0x1800], ∃ v i t d f s, FloatLone v i t d f ∧ Ready s v (uses i) ∧ Plain s v
    ∧ (maskOf fun L => v.exec.getLsbD L && Nat.land (f L).fl v.g.fptrap != 0) ≠ 0 ∧ (∀ L, v.exec.getLsbD L = true → (laneGet v.g L).st ≠ .dead)
    ∧ (if e = 0 then v.cx.halt = none ∧ v.ln.kern.trapEntry = 0 else CanTrap s v 0 0x1400) := by
  intro e he
  obtain ⟨v, r, p, q⟩ := issueD (s := divState e) (u := uses (.fdiv (wl 2 4 (.reg 6) 0 .f32 0)))
    (fun v => (maskOf fun L => v.exec.getLsbD L && Nat.land (fDiv .f32 .rne (uOf v (wl 2 4 (.reg 6) 0 .f32 0) L) (fdec .f32 (vbits v.g .f32 4 L))
      (fdec .f32 (bbits v.g .f32 (.reg 6) L))).fl v.g.fptrap != 0) ≠ 0 ∧ (∀ L ∈ List.range 32, v.exec.getLsbD L = true → (laneGet v.g L).st ≠ .dead)
      ∧ if e = 0 then v.cx.halt = none ∧ v.ln.kern.trapEntry = 0 else canTrapB (divState e) v 0 0x1400 = true)
    (by simp only [List.mem_cons, List.not_mem_nil, or_false] at he; obtain rfl | rfl := he <;> decide +kernel)
  refine ⟨v, _, _, _, _, _, .fdiv _, r, p, q.1, allLanesOf q.2.1, ?_⟩
  have k := q.2.2
  split at k
  · rwa [if_pos ‹_›]
  · rw [if_neg ‹_›]; exact canTrap_of k

/-- The lanes of an issue are in a handler, or, for a word that is not for handlers only, its group is an inspector's. -/
def allowedB (s : State) (v : View) (b : Bool) : Bool :=
  (!b && isInspector s v.g.ctx)
    || (v.is.lanes != 0 && (List.range 32).all fun L => !v.is.lanes.getLsbD L || ((laneGet v.g L).hand && (laneGet v.g L).st != .dead))

theorem allowed_iff {s : State} {v : View} {b : Bool} : Allowed s v b ↔ allowedB s v b = true := by
  simp only [Allowed, allowedB, Bool.or_eq_true, Bool.and_eq_true, Bool.not_eq_true', bne_iff_ne, ne_eq, List.all_eq_true, List.mem_range]
  constructor
  · rintro (h | h)
    · exact .inl h
    · exact .inr ⟨h.1, fun L _ => (Bool.eq_false_or_eq_true (v.is.lanes.getLsbD L)).elim (fun e => .inr (h.2 L e)) .inl⟩
  · rintro (h | h)
    · exact .inl h
    · exact .inr ⟨h.1, fun L e => (h.2 L (BitVec.lt_of_getLsbD e)).resolve_left (by simp [e])⟩

theorem wit_TretReturns :
    (∃ (s : State) (v : View) (x : Hnd), Ready s v (uses .tret) ∧ Allowed s v true ∧ Plain s v ∧ v.g.hnd = some x ∧ v.g.held = []
      ∧ ∃ L, L < 32 ∧ v.exec.getLsbD L = false ∧ (laneGet v.g L).st ≠ .dead ∧ (laneGet v.g L).hand = true ∧ (laneGet v.g L).tret = false)
    ∧ ∃ (s : State) (v : View) (x : Hnd) (k : Nat), Ready s v (uses .tret) ∧ Allowed s v true ∧ Plain s v ∧ v.g.hnd = some x ∧ v.g.held = [] ∧
      (¬ ∃ L, L < 32 ∧ v.exec.getLsbD L = false ∧ (laneGet v.g L).st ≠ .dead ∧ (laneGet v.g L).hand = true ∧ (laneGet v.g L).tret = false) ∧
      v.cx.trapArea + x.frame * 0x400 < 2 ^ 57 ∧ deniedFor s (.frame v.is.gid) (v.cx.trapArea + x.frame * 0x400) = false ∧
      (∃ host, translate s (some v.tm.core) v.cx.pasid (v.cx.trapArea + x.frame * 0x400) .rw = .ok k host) ∧ seenPois s v k 0x400 = false ∧
      (x.cause = 0x09 → stillFailed s v.cx x.lyr = false) ∧ seenNat s v (k + 0x8) 8 % 4 = 0 ∧
      (seenNat s v (k + 0x12) 2).testBit 0 = true ∧ bitsOf (seenNat s v (k + 0x20) 4) 17 8 < v.ln.kern.vregs := by
  let x : Hnd := { frame := 0, tlanes := allLanes, cl := none, cause := 0x0E, lyr := none }
  refine ⟨?_, ?_⟩
  · obtain ⟨v, r, pl, q⟩ := issueD (s := lanesOnly (handState .tret) 1) (u := uses .tret) (fun v => allowedB (lanesOnly (handState .tret) 1) v true = true
      ∧ (v.g.hnd = some x ∧ v.g.held = []) ∧ v.exec.getLsbD 1 = false ∧ (laneGet v.g 1).st ≠ .dead ∧ (laneGet v.g 1).hand = true
      ∧ (laneGet v.g 1).tret = false) (by decide +kernel)
    exact ⟨_, v, x, r, allowed_iff.2 q.1, pl, q.2.1.1, q.2.1.2, 1, by decide, q.2.2⟩
  · let s := { handState .tret with mem := writeCells (handState .tret).mem 0x1408 [4, 0x20, 0, 0, 0, 0, 0, 0, 0, 0, 1] }
    obtain ⟨v, r, pl, q⟩ := issueD (s := s) (u := uses .tret) (fun v => allowedB s v true = true
      ∧ (v.g.hnd = some x ∧ v.g.held = []) ∧ (∀ L ∈ List.range 32, v.exec.getLsbD L = true) ∧ (v.cx.trapArea + x.frame * 0x400 < 2 ^ 57 ∧
      deniedFor s (.frame v.is.gid) (v.cx.trapArea + x.frame * 0x400) = false) ∧
      translate s (some v.tm.core) v.cx.pasid (v.cx.trapArea + x.frame * 0x400) .rw = .ok 0x1400 false ∧ seenPois s v 0x1400 0x400 = false ∧
      seenNat s v (0x1400 + 0x8) 8 % 4 = 0 ∧
      (seenNat s v (0x1400 + 0x12) 2).testBit 0 = true ∧ bitsOf (seenNat s v (0x1400 + 0x20) 4) 17 8 < v.ln.kern.vregs) (by decide +kernel)
    obtain ⟨q1, ⟨q2, q3⟩, q4, ⟨q5, q6⟩, q7, q8, q9, q10, q11⟩ := q
    exact ⟨s, v, x, 0x1400, r, allowed_iff.2 q1, pl, q2, q3, (fun ⟨L, hL, h, _⟩ => by rw [q4 L (List.mem_range.2 hL)] at h; cases h), q5, q6, ⟨_, q7⟩,
      q8, fun h => absurd h (by decide), q9, q10, q11⟩

theorem wit_PrivilegeTraps : ∀ e ∈ [(Instr.tret, true), (.hrd (ls 2 4 (.imm 0) 0), false)], ∃ (s : State) (v : View), Privileged e.1 e.2 ∧ view s = some v
    ∧ ¬ Allowed s v e.2 := by
  intro e he
  obtain ⟨v, hv, q⟩ := issueIs_view (s := one e.1) (p := fun v => !allowedB (one e.1) v e.2)
    (by simp only [List.mem_cons, List.not_mem_nil, or_false] at he; obtain rfl | rfl := he <;> decide)
  refine ⟨_, v, ?_, hv, fun h => by rw [allowed_iff.1 h] at q; cases q⟩
  simp only [List.mem_cons, List.not_mem_nil, or_false] at he
  obtain rfl | rfl := he
  · exact .tret
  · exact .hrd _

theorem wit_PrivilegedRegisters :
    ∀ i ∈ [Instr.srdp (ls 3 6 (.imm 0) 0), .swrp (ls 0 3 (.imm 0) 0), .illrd (ls 8 0 (.imm 0) 0), .frmrd (ls 2 0 (.imm 0) 0)],
    ∃ (s : State) (v : View) (x : Hnd), Ready s v (uses i) ∧ Allowed s v true ∧ NoWeirs s v ∧ v.g.hnd = some x ∧ (6, x.tlanes.toNat) ∈ privTable s v := by
  intro i hi
  obtain ⟨v, r, pl, q⟩ := issueD (s := handState i) (u := uses i) (fun v => allowedB (handState i) v true = true
    ∧ v.g.hnd = some { frame := 0, tlanes := allLanes, cl := none, cause := 0x0E, lyr := none })
    (by simp only [List.mem_cons, List.not_mem_nil, or_false] at hi; obtain rfl | rfl | rfl | rfl := hi <;> decide +kernel)
  exact ⟨_, v, _, r, allowed_iff.2 q.1, pl.weirs, q.2, by simp [privTable, q.2]⟩

theorem wit_HostCalls : ∀ n ∈ [0, 1, 2, 3], ∃ (p : SI) (s : State) (v : View), Ready s v (uses (.hcall p)) ∧ NoWeirs s v ∧
    let full : Prop := (s.dev.hcProd + 2 ^ 64 - s.dev.hcCons) % 2 ^ 64 = 64 * 2 ^ s.dev.hcLogn
    match n with
    | 0 => s.dev.hcEn = false
    | 1 => s.dev.hcEn = true ∧ s.dev.hcPend = [] ∧ full
    | 2 => s.dev.hcEn = true ∧ s.dev.hcPend ≠ [] ∧ full
    | _ => s.dev.hcEn = true ∧ ¬ full := by
  intro n hn
  let p : SI := { d := 4, imm := 0xFFFF }
  have h (f : Dev → Dev) : ∃ v, Ready (modDev (one (.hcall p)) f) v (uses (.hcall p)) ∧ NoWeirs (modDev (one (.hcall p)) f) v := by
    obtain ⟨v, r, pl⟩ := issueOf (.hcall p) (by decide)
    exact ⟨v, ⟨r.1, r.2, r.3, r.4, r.5⟩, pl.weirs⟩
  simp only [List.mem_cons, List.not_mem_nil, or_false] at hn
  obtain rfl | rfl | rfl | rfl := hn
  · obtain ⟨v, r, w⟩ := h fun d => { d with hcEn := false }; exact ⟨p, _, v, r, w, rfl⟩
  · obtain ⟨v, r, w⟩ := h fun d => { d with hcEn := true, hcPend := [], hcProd := 64, hcCons := 0, hcLogn := 0 }
    exact ⟨p, _, v, r, w, rfl, rfl, by show (64 + 2 ^ 64 - 0) % 2 ^ 64 = 64 * 2 ^ 0; decide⟩
  · obtain ⟨v, r, w⟩ := h fun d => { d with hcEn := true, hcPend := [[]], hcProd := 63, hcCons := 2 ^ 64 - 1, hcLogn := 0 }
    exact ⟨p, _, v, r, w, rfl, List.cons_ne_nil _ _, by show (63 + 2 ^ 64 - (2 ^ 64 - 1)) % 2 ^ 64 = 64 * 2 ^ 0; decide⟩
  · obtain ⟨v, r, w⟩ := h fun d => { d with hcEn := true, hcPend := [], hcProd := 63, hcCons := 0, hcLogn := 0 }
    exact ⟨p, _, v, r, w, rfl, by show ¬ (63 + 2 ^ 64 - 0) % 2 ^ 64 = 64 * 2 ^ 0; decide⟩

/-- Context 0 holds its partition's turn, and context `c` has work there. -/
def yieldState (c : Nat) : State :=
  let p := ls 0 0 (.imm 0) 0
  let s := one (.ctxyield p)
  { s with parts := [(0, { turn := some 0 })], ctxs := s.ctxs ++ (if c = 0 then [] else [(c, { pasid := 1, part := 0 })]),
           launches := s.launches ++ (if c = 0 then [] else [(1, { chain := 0, record := 0, seq := 1, ctx := c, kern := {} })]) }

theorem wit_ContextYields : ∀ c ∈ [0, 1], ∃ (p : LS) (s : State) (v : View), Ready s v (uses (.ctxyield p)) ∧ Plain s v ∧
    (part s v.cx.part).exch = none ∧ (part s v.cx.part).turn = some v.g.ctx ∧ nextWorker s v.cx.part = some c ∧ v.g.ctx = 0
    ∧ v.cx.onPart = true ∧ v.cx.part < 16 := by
  intro c hc
  let p := ls 0 0 (.imm 0) 0
  obtain ⟨v, r, pl, q⟩ := issueD (s := yieldState c) (u := uses (.ctxyield p)) (fun v => ((part (yieldState c) v.cx.part).exch.isNone = true ∧
    (part (yieldState c) v.cx.part).turn = some v.g.ctx) ∧ nextWorker (yieldState c) v.cx.part = some c ∧ v.g.ctx = 0 ∧ v.cx.onPart = true ∧ v.cx.part < 16)
    (by simp only [List.mem_cons, List.not_mem_nil, or_false] at hc; obtain rfl | rfl := hc <;> decide)
  exact ⟨p, _, v, r, pl, Option.isNone_iff_eq_none.1 q.1.1, q.1.2, q.2⟩

/-- A weir on stores to an address range, with its words at scalar 8. -/
def weirWords : List Nat := [0x1000, 0, 0x1001, 0, 0x100, 0, 0, 0x24200000]

/-- A core whose weir `n` is in some state. -/
def weirState (i : Instr) (n : Nat) (w : Weir) : State :=
  { oneWith i (scalars8 weirWords) with cores := [(0, { weirs := [(n, w)] })] }

theorem wit_WeirInstructions :
    (∃ (p : LS) (s : State) (v : View), Ready s v (uses (.weirset p)) ∧ (bsval v.g p.b).toNat = 31
      ∧ (mget (coreAt s v.tm.core).weirs {} 31).st = 0
      ∧ WeirFits 31 { cmp0 := (sget64 v.g p.a).toNat, cmp1 := (sget64 v.g (p.a + 2)).toNat, qual := (sget64 v.g (p.a + 4)).toNat,
                      ctl := (sget64 v.g (p.a + 6)).toNat })
    ∧ (∃ (p : LS) (s : State) (v : View), Ready s v (uses (.weirset p)) ∧ (bsval v.g p.b).toNat = 32)
    ∧ (∃ (p : LS) (s : State) (v : View), Ready s v (uses (.weirset p)) ∧ (bsval v.g p.b).toNat = 1
      ∧ (mget (coreAt s v.tm.core).weirs {} 1).st = 2 ∧ (mget (coreAt s v.tm.core).weirs {} 1).owner ≠ v.g.ctx)
    ∧ (∃ (p : LS) (s : State) (v : View), Ready s v (uses (.weirclr p)) ∧ (bsval v.g p.b).toNat = 1
      ∧ (mget (coreAt s v.tm.core).weirs {} 1).st = 2 ∧ (mget (coreAt s v.tm.core).weirs {} 1).owner = v.g.ctx)
    ∧ (∀ sel ∈ [0, 5, 8], ∃ (p : LS) (s : State) (v : View), Ready s v (uses (.weirrd p)) ∧ p.c = sel ∧ (sel = 8 → NoWeirs s v)
      ∧ (sel ≠ 8 → (bsval v.g p.b).toNat = 1 ∧ ∃ x, WeirReads (mget (coreAt s v.tm.core).weirs {} 1) v.g.ctx sel x)) := by
  have w (st owner : Nat) : Weir := { st := st, owner := owner, launches := [0] }
  refine ⟨?_, ?_, ?_, ?_, ?_⟩
  · let p := ls 0 8 (.imm 31) 0
    obtain ⟨v, r, q⟩ := issueR (s := weirState (.weirset p) 0 { st := 2 }) (u := uses (.weirset p)) (fun v => (bsval v.g p.b).toNat = 31
      ∧ (mget (coreAt (weirState (.weirset p) 0 { st := 2 }) v.tm.core).weirs {} 31).st = 0 ∧ (sget64 v.g p.a).toNat = 0x1000
      ∧ (sget64 v.g (p.a + 2)).toNat = 0x1001 ∧ (sget64 v.g (p.a + 4)).toNat = 0x100 ∧ (sget64 v.g (p.a + 6)).toNat = 0x2420000000000000) (by decide)
    obtain ⟨q1, q2, q3, q4, q5, q6⟩ := q
    refine ⟨p, _, v, r, q1, q2, ?_⟩
    rw [q3, q4, q5, q6]
    constructor <;> simp [weirCtl, bitsOf] <;> decide
  · let p := ls 0 8 (.imm 32) 0
    obtain ⟨v, r, q⟩ := issueR (s := one (.weirset p)) (u := uses (.weirset p)) (fun v => (bsval v.g p.b).toNat = 32) (by decide)
    exact ⟨p, _, v, r, q⟩
  · let p := ls 0 8 (.imm 1) 0
    obtain ⟨v, r, q⟩ := issueR (s := weirState (.weirset p) 1 { st := 2, owner := 9 }) (u := uses (.weirset p)) (fun v => (bsval v.g p.b).toNat = 1
      ∧ (mget (coreAt (weirState (.weirset p) 1 { st := 2, owner := 9 }) v.tm.core).weirs {} 1).st = 2
      ∧ (mget (coreAt (weirState (.weirset p) 1 { st := 2, owner := 9 }) v.tm.core).weirs {} 1).owner ≠ v.g.ctx) (by decide)
    exact ⟨p, _, v, r, q⟩
  · let p := ls 0 0 (.imm 1) 0
    obtain ⟨v, r, q⟩ := issueR (s := weirState (.weirclr p) 1 { st := 2, owner := 0 }) (u := uses (.weirclr p)) (fun v => (bsval v.g p.b).toNat = 1
      ∧ (mget (coreAt (weirState (.weirclr p) 1 { st := 2, owner := 0 }) v.tm.core).weirs {} 1).st = 2
      ∧ (mget (coreAt (weirState (.weirclr p) 1 { st := 2, owner := 0 }) v.tm.core).weirs {} 1).owner = v.g.ctx) (by decide)
    exact ⟨p, _, v, r, q⟩
  · intro sel hs
    simp only [List.mem_cons, List.not_mem_nil, or_false] at hs
    obtain rfl | rfl | rfl := hs
    · let p := ls 2 0 (.imm 1) 0
      obtain ⟨v, r, q⟩ := issueR (s := weirState (.weirrd p) 1 { st := 2, owner := 0 }) (u := uses (.weirrd p)) (fun v => (bsval v.g p.b).toNat = 1
        ∧ (mget (coreAt (weirState (.weirrd p) 1 { st := 2, owner := 0 }) v.tm.core).weirs {} 1).st ≠ 0
        ∧ (mget (coreAt (weirState (.weirrd p) 1 { st := 2, owner := 0 }) v.tm.core).weirs {} 1).owner = v.g.ctx) (by decide)
      exact ⟨p, _, v, r, rfl, fun h => absurd h (by decide), fun _ => ⟨q.1, _, .cmp0 q.2.1 q.2.2⟩⟩
    · let p := ls 2 0 (.imm 1) 5
      obtain ⟨v, r, q⟩ := issueR (s := weirState (.weirrd p) 1 { st := 2, owner := 4 }) (u := uses (.weirrd p)) (fun v => (bsval v.g p.b).toNat = 1
        ∧ (mget (coreAt (weirState (.weirrd p) 1 { st := 2, owner := 4 }) v.tm.core).weirs {} 1).st ≠ 0
        ∧ (mget (coreAt (weirState (.weirrd p) 1 { st := 2, owner := 4 }) v.tm.core).weirs {} 1).owner ≠ v.g.ctx) (by decide)
      exact ⟨p, _, v, r, rfl, fun h => absurd h (by decide), fun _ => ⟨q.1, _, .taken q.2.1 q.2.2⟩⟩
    · let p := ls 8 0 (.imm 0) 8
      obtain ⟨v, r, pl⟩ := issueOf (.weirrd p) (by decide)
      exact ⟨p, _, v, r, rfl, fun _ => pl.weirs, fun h => absurd rfl h⟩

theorem wit_MarksAndCounters :
    (∃ (p : LS) (s : State) (v : View), Ready s v (uses (.trcmark p)) ∧ Plain s v ∧
      (let pl := mget s.plume {} (v.tm.core / 96)
       pl.recording = true ∧ pl.core = v.tm.core % 96 ∧ mget? pl.recs (pl.head * 16 + v.g.slice) = none))
    ∧ ∀ n ∈ [0, 0x12, 0x10, 0x13, 0x414, 0x415, 0xC00], ∃ (p : LS) (s : State) (v : View), Ready s v (uses (.cntrd p)) ∧ NoWeirs s v
      ∧ (bsval v.g p.b).toNat = n := by
  refine ⟨?_, ?_⟩
  · let p := ls 0 0 (.imm 127) 255
    obtain ⟨v, r, pl, q⟩ := issueD (s := { one (.trcmark p) with plume := [(0, { recording := true })] }) (u := uses (.trcmark p)) (fun v => v.tm.core = 0
      ∧ v.g.slice = 0) (by decide)
    exact ⟨p, _, v, r, pl, by rw [q.1]; rfl, by rw [q.1]; rfl, by rw [q.1]; rfl⟩
  · intro n hn
    let p := ls 2 0 (.scal 5) 0
    obtain ⟨v, r, pl, q⟩ := issueD (s := oneWith (.cntrd p) (sset · 5 (BitVec.ofNat 32 n))) (u := uses (.cntrd p)) (fun v => (bsval v.g p.b).toNat = n)
      (by simp only [List.mem_cons, List.not_mem_nil, or_false] at hn; obtain rfl | rfl | rfl | rfl | rfl | rfl | rfl := hn <;> decide)
    exact ⟨p, _, v, r, pl.weirs, q⟩

/-- A group in a handler, and a second group on slice 1 whose lanes stand still, or run; scalar 4 holds a target word. -/
def inspState (i : Instr) (w : Nat) (st : LSt) : State :=
  let s := modGroup (handState i) 0 fun g => sset (sset g 4 (BitVec.ofNat 32 w)) 5 0
  let c := placedClause 32 0
  let g : Group := { team := 0, launch := 0, ctx := 0, slice := 1, lanes := [(0, { pc := c.addr + 4, cl := some c, st := st, waited := true })] }
  { s with groups := s.groups ++ [(1, g)] }

/-- A check of an issue in a handler with its target. -/
def inspB (s : State) (v : View) (w : Nat) (f : Target → Bool) : Bool :=
  allowedB s v false && (sget v.g 4).toNat == w && (match target? s v (sget v.g 4).toNat with | some t => f t | none => false)

theorem insp_of {s : State} {v : View} {w : Nat} {f : Target → Bool} (h : inspB s v w f = true) :
    Allowed s v false ∧ (sget v.g 4).toNat = w ∧ ∃ t, target? s v (sget v.g 4).toNat = some t ∧ f t = true := by
  simp only [inspB, Bool.and_eq_true, beq_iff_eq] at h
  refine ⟨allowed_iff.2 h.1.1, h.1.2, ?_⟩
  have k := h.2
  split at k
  · exact ⟨_, ‹_›, k⟩
  · cases k

theorem wit_InspectionAccess :
    (∀ i ∈ [Instr.hrd (ls 2 4 (.imm 0) 0), .hwr (ls 0 4 (.scal 6) 0), .hprd (ls 3 4 (.imm 0) 0)], ∃ (s : State) (v : View), Allowed s v false ∧
      Ready s v (uses i) ∧ bitsOf (sget v.g 4).toNat 4 8 ≠ 0)
    ∧ (∀ k ∈ [0, 1, 2, 3, 4, 5, 6, 7], ∃ (s : State) (v : View) (t : Target) (x : Nat), Allowed s v false ∧ Ready s v (uses (.hrd (ls 2 4 (.imm 0) 0))) ∧
      NoWeirs s v ∧ target? s v (sget v.g 4).toNat = some t ∧ t.rkind = k ∧ t.regOk = true ∧ (laneGet t.g t.lane).st = .halted ∧ t.g.fly = [] ∧
      NamedValue t x)
    ∧ (∀ k ∈ [0, 1, 2, 3, 5, 6, 7], ∃ (s : State) (v : View) (t : Target), Allowed s v false ∧ Ready s v (uses (.hwr (ls 0 4 (.scal 6) 0))) ∧
      NoWeirs s v ∧ target? s v (sget v.g 4).toNat = some t ∧ t.rkind = k ∧ t.regOk = true ∧ (laneGet t.g t.lane).st = .halted ∧ t.g.fly = [] ∧
      (sget64 v.g 6).toNat = 0 ∧ t.reg ≠ 0x80 ∧ NoLoops t.g)
    ∧ ∀ i ∈ [Instr.hrd (ls 2 4 (.imm 0) 0), .hwr (ls 0 4 (.scal 6) 0), .hprd (ls 3 4 (.imm 0) 0)], ∃ (s : State) (v : View) (t : Target),
      Allowed s v false ∧ Ready s v (uses i) ∧ target? s v (sget v.g 4).toNat = some t ∧ t.dead = false ∧ t.g.frozen = false
      ∧ ∀ L, L < 32 → (laneGet t.g L).st ≠ .halted := by
  refine ⟨?_, ?_, ?_, ?_⟩
  · intro i hi
    obtain ⟨v, r, q⟩ := issueR (s := inspState i 0x10 .halted) (u := uses i) (fun v => allowedB (inspState i 0x10 .halted) v false = true
      ∧ bitsOf (sget v.g 4).toNat 4 8 ≠ 0)
      (by simp only [List.mem_cons, List.not_mem_nil, or_false] at hi; obtain rfl | rfl | rfl := hi <;> decide +kernel)
    exact ⟨_, v, allowed_iff.2 q.1, r, q.2⟩
  · intro k hk
    let w := 1 + k * 2 ^ 21
    obtain ⟨v, r, pl, q⟩ := issueD (s := inspState (.hrd (ls 2 4 (.imm 0) 0)) w .halted) (u := uses (.hrd (ls 2 4 (.imm 0) 0)))
      (fun v => inspB (inspState (.hrd (ls 2 4 (.imm 0) 0)) w .halted) v w (fun t => t.rkind == k && t.regOk && (laneGet t.g t.lane).st == .halted
        && t.g.fly.isEmpty && t.reg == 0) = true)
      (by simp only [List.mem_cons, List.not_mem_nil, or_false] at hk
          obtain rfl | rfl | rfl | rfl | rfl | rfl | rfl | rfl := hk <;> decide +kernel)
    obtain ⟨a, -, t, ht, h⟩ := insp_of q
    simp only [Bool.and_eq_true, beq_iff_eq, List.isEmpty_iff] at h
    obtain ⟨⟨⟨⟨h1, h2⟩, h3⟩, h4⟩, h5⟩ := h
    have hx : ∃ x, NamedValue t x := by
      simp only [List.mem_cons, List.not_mem_nil, or_false] at hk
      rw [← h1] at hk
      obtain e | e | e | e | e | e | e | e := hk
      · exact ⟨_, .v e⟩
      · exact ⟨_, .s e (by omega)⟩
      · exact ⟨_, .p e⟩
      · exact ⟨_, .k e⟩
      · exact ⟨_, .d e⟩
      · exact ⟨_, .lc e⟩
      · exact ⟨_, .fstat e⟩
      · exact ⟨_, .pc e⟩
    exact ⟨_, v, t, hx.choose, a, r, pl.weirs, ht, h1, h2, h3, h4, hx.choose_spec⟩
  · intro k hk
    let w := 1 + k * 2 ^ 21
    obtain ⟨v, r, pl, q⟩ := issueD (s := inspState (.hwr (ls 0 4 (.scal 6) 0)) w .halted) (u := uses (.hwr (ls 0 4 (.scal 6) 0)))
      (fun v => inspB (inspState (.hwr (ls 0 4 (.scal 6) 0)) w .halted) v w (fun t => t.rkind == k && t.regOk && (laneGet t.g t.lane).st == .halted
        && t.g.fly.isEmpty && t.reg == 0 && (List.range 3).all fun n => !(loopGet t.g n).active) = true ∧ (sget64 v.g 6).toNat = 0)
      (by simp only [List.mem_cons, List.not_mem_nil, or_false] at hk
          obtain rfl | rfl | rfl | rfl | rfl | rfl | rfl := hk <;> decide +kernel)
    obtain ⟨a, -, t, ht, h⟩ := insp_of q.1
    simp only [Bool.and_eq_true, beq_iff_eq, List.isEmpty_iff, List.all_eq_true, List.mem_range, Bool.not_eq_true'] at h
    obtain ⟨⟨⟨⟨⟨h1, h2⟩, h3⟩, h4⟩, h5⟩, h6⟩ := h
    exact ⟨_, v, t, a, r, pl.weirs, ht, h1, h2, h3, h4, q.2, by omega, h6⟩
  · intro i hi
    obtain ⟨v, r, q⟩ := issueR (s := inspState i 1 .run) (u := uses i)
      (fun v => inspB (inspState i 1 .run) v 1 (fun t => !t.dead && !t.g.frozen && (List.range 32).all fun L => (laneGet t.g L).st != .halted) = true)
      (by simp only [List.mem_cons, List.not_mem_nil, or_false] at hi; obtain rfl | rfl | rfl := hi <;> decide +kernel)
    obtain ⟨a, -, t, ht, h⟩ := insp_of q
    simp only [Bool.and_eq_true, Bool.not_eq_true', List.all_eq_true, List.mem_range, bne_iff_ne, ne_eq] at h
    exact ⟨_, v, t, a, r, ht, h.1.1, h.1.2, h.2⟩

theorem wit_InspectionLists : ∀ i ∈ [Instr.hfront (ls 8 4 (.scal 5) 0), .hscb (ls 8 4 (.scal 5) 0)], ∃ (s : State) (v : View) (t : Target),
    Allowed s v false ∧ Ready s v (uses i) ∧ NoWeirs s v ∧ target? s v (sget v.g 4).toNat = some t ∧ (bsval v.g (.scal 5)).toNat = 0
    ∧ (heldFrontier t.g).length = 1 ∧ (t.g.fly.flatMap fun f => f.regs.map fun r => (f, r)).length = 0 := by
  intro i hi
  obtain ⟨v, r, pl, q⟩ := issueD (s := inspState i 1 .halted) (u := uses i) (fun v => inspB (inspState i 1 .halted) v 1 (fun t =>
    (heldFrontier t.g).length == 1 && (t.g.fly.flatMap fun f => f.regs.map fun r => (f, r)).length == 0) = true ∧ (bsval v.g (.scal 5)).toNat = 0)
    (by simp only [List.mem_cons, List.not_mem_nil, or_false] at hi; obtain rfl | rfl := hi <;> decide +kernel)
  obtain ⟨a, -, t, ht, h⟩ := insp_of q.1
  simp only [Bool.and_eq_true, beq_iff_eq] at h
  exact ⟨_, v, t, a, r, pl.weirs, ht, q.2, h⟩

theorem wit_StepsIssue :
    (∃ (p : LS) (t : Target) (s : State) (v : View), Ready s v (uses (.hstep p)) ∧ Plain s v ∧ Allowed s v false ∧
      target? s v (sget v.g p.a).toNat = some t ∧ (laneGet t.g t.lane).st ≠ .halted)
    ∧ (∃ (p : LS) (t : Target) (s : State) (v : View) (tr : TrapRec), Ready s v (uses (.hstep p)) ∧ Plain s v ∧ Allowed s v false ∧
      target? s v (sget v.g p.a).toNat = some t ∧ (laneGet t.g t.lane).st = .halted ∧ t.dead = false ∧ mget? t.g.fpPend t.lane = some tr)
    ∧ (∃ (p : LS) (t : Target) (s : State) (v : View) (c : Clause), Ready s v (uses (.hstep p)) ∧ Plain s v ∧ Allowed s v false ∧
      target? s v (sget v.g p.a).toNat = some t ∧ (laneGet t.g t.lane).st = .halted ∧ t.dead = false ∧ mget? t.g.fpPend t.lane = none
      ∧ (laneGet t.g t.lane).cl = some c ∧ (laneGet t.g t.lane).waited = true ∧ (laneGet t.g t.lane).pc ≠ c.addr ∧ t.g.fly = [])
    ∧ ∃ (s : State) (v : View) (j d L : Nat) (x : Group), view s = some v ∧ v.is.step = some (j, d) ∧ v.is.lanes = lbit L ∧ L < 32 ∧ Plain s v ∧
      j ≠ v.is.gid ∧ group? s j = some x ∧ (laneGet v.g L).st = .halted ∧ ∀ M n, M < 32 → (laneGet v.g M).st ≠ .waitK n := by
  let p := ls 3 4 (.imm 0) 0
  refine ⟨?_, ?_, ?_, ?_⟩
  · obtain ⟨v, r, pl, q⟩ := issueD (s := inspState (.hstep p) 1 .run) (u := uses (.hstep p))
      (fun v => inspB (inspState (.hstep p) 1 .run) v 1 (fun t => (laneGet t.g t.lane).st != .halted) = true) (by decide +kernel)
    obtain ⟨a, -, t, ht, h⟩ := insp_of q
    exact ⟨p, t, _, v, r, pl, a, ht, by simpa using h⟩
  · let s := modGroup (inspState (.hstep p) 1 .halted) 1 fun g => { g with fpPend := [(0, { cause := 0x0A, pc := 0, npc := 0, tlanes := 1 })] }
    obtain ⟨v, r, pl, q⟩ := issueD (s := s) (u := uses (.hstep p))
      (fun v => inspB s v 1 (fun t => (laneGet t.g t.lane).st == .halted && !t.dead && (mget? t.g.fpPend t.lane).isSome) = true) (by decide +kernel)
    obtain ⟨a, -, t, ht, h⟩ := insp_of q
    simp only [Bool.and_eq_true, beq_iff_eq, Bool.not_eq_true', Option.isSome_iff_exists] at h
    obtain ⟨⟨h1, h2⟩, tr, h3⟩ := h
    exact ⟨p, t, _, v, tr, r, pl, a, ht, h1, h2, h3⟩
  · obtain ⟨v, r, pl, q⟩ := issueD (s := inspState (.hstep p) 1 .halted) (u := uses (.hstep p))
      (fun v => inspB (inspState (.hstep p) 1 .halted) v 1 (fun t => (laneGet t.g t.lane).st == .halted && !t.dead && (mget? t.g.fpPend t.lane).isNone
        && (laneGet t.g t.lane).cl == some (placedClause 32 0) && (laneGet t.g t.lane).waited && (laneGet t.g t.lane).pc != (placedClause 32 0).addr
        && t.g.fly.isEmpty) = true) (by decide +kernel)
    obtain ⟨a, -, t, ht, h⟩ := insp_of q
    simp only [Bool.and_eq_true, beq_iff_eq, Bool.not_eq_true', Option.isNone_iff_eq_none, bne_iff_ne, ne_eq, List.isEmpty_iff] at h
    obtain ⟨⟨⟨⟨⟨⟨h1, h2⟩, h3⟩, h4⟩, h5⟩, h6⟩, h7⟩ := h
    exact ⟨p, t, _, v, _, r, pl, a, ht, h1, h2, h3, h4, h5, h6, h7⟩
  · let s0 : State := lanesOnly (oneWith .nop fun g => { g with lanes := g.lanes.map fun (e : Nat × Lane) => (e.1, { e.2 with st := if e.1 = 5 then .halted else e.2.st }) }) (lbit 5)
    let s : State := { s0 with sel := s0.sel.map fun (i : Issue) => { i with step := some (1, 3) }, groups := s0.groups ++ [(1, { team := 0, launch := 0, ctx := 0 })] }
    obtain ⟨v, hv, q⟩ := issueIs_view (s := s) (p := fun v => plainB s v && (decide (v.is.step = some (1, 3) ∧ v.is.lanes = lbit 5 ∧ 1 ≠ v.is.gid
      ∧ (laneGet v.g 5).st = .halted) && (List.range 32).all fun M => (laneGet v.g M).st == .run || (laneGet v.g M).st == .halted)) (by decide +kernel)
    simp only [Bool.and_eq_true, List.all_eq_true, List.mem_range, Bool.or_eq_true, beq_iff_eq, decide_eq_true_eq] at q
    obtain ⟨q1, ⟨q2, q3, q4, q5⟩, q6⟩ := q
    exact ⟨s, v, 1, 3, 5, { team := 0, launch := 0, ctx := 0 }, hv, q2, q3, by decide, plain_of q1, q4, by decide +kernel, q5,
      fun M n hM h => by rcases q6 M hM with e | e <;> rw [e] at h <;> cases h⟩

theorem wit_ResumesRun : ∀ m ∈ [0, 1, 2, 3], ∃ (p : LS) (t : Target) (s : State) (v : View), Ready s v (uses (.hresume p)) ∧ Plain s v ∧
    Allowed s v false ∧ target? s v (sget v.g p.a).toNat = some t ∧ t.dead = false ∧ group? s t.gid = some t.g ∧ (bsval v.g p.b).toNat = m
    ∧ (laneGet t.g t.lane).st = .halted := by
  intro m hm
  let p := ls 0 4 (.imm m) 0
  obtain ⟨v, r, pl, q⟩ := issueD (s := inspState (.hresume p) 1 .halted) (u := uses (.hresume p))
    (fun v => inspB (inspState (.hresume p) 1 .halted) v 1 (fun t => !t.dead && decide (group? (inspState (.hresume p) 1 .halted) t.gid = some t.g)
      && (laneGet t.g t.lane).st == .halted) = true ∧ (bsval v.g p.b).toNat = m)
    (by simp only [List.mem_cons, List.not_mem_nil, or_false] at hm; obtain rfl | rfl | rfl | rfl := hm <;> decide +kernel)
  obtain ⟨a, -, t, ht, h⟩ := insp_of q.1
  simp only [Bool.and_eq_true, beq_iff_eq, Bool.not_eq_true', decide_eq_true_eq] at h
  exact ⟨p, t, _, v, r, pl, a, ht, h.1.1, h.1.2, q.2, h.2⟩

/-! ### The device's registers, contexts and chains -/

/-- The device after reset and startup, with an event of some operands. -/
def devState (a b c : Nat) (f : State → State) : State :=
  let s : State := { State.reset with dev := { State.reset.dev with state := 1 }, ev := { State.reset.ev with a := a, b := b, c := c } }
  f s

theorem wit_RegistersWritten :
    (∀ o w : Nat, (o, w) ∈ [(0x1000, 2 ^ 64 - 1), (0x3A00, 600), (0x3A00, 599), (0x4000 + 32 * 511, 1), (0x100000 + 64 * 255, 5)] →
      ∃ s t : State, Accepts s ∧ RegSets s o w t ∧ w < 2 ^ 64 ∧ regRead s o < 2 ^ 64 ∧ s.ev.a = o ∧ s.ev.b = 8 ∧ s.ev.c = w)
    ∧ (∃ (s : State) (i n : Nat), Accepts s ∧ 0 < n ∧ i + n ≤ 8 ∧ s.ev.a = 0x1000 + i ∧ s.ev.b = n)
    ∧ (∃ s : State, ¬ Accepts s ∧ s.ev.b ≤ 8 ∧ (s.ev.a + s.ev.b ≤ 0x200 ∨ 0x1000 ≤ s.ev.a))
    ∧ (∃ s : State, Accepts s ∧ GranulesKept s (s.ev.a % 8) (bitsOf s.ev.c 0 8)) ∧ (∃ s : State, Accepts s ∧ ¬ GranulesKept s (s.ev.a % 8) (bitsOf s.ev.c 0 8))
    ∧ (∃ s : State, Accepts s ∧ BasinIgnored s s.ev.c) ∧ (∃ s : State, Accepts s ∧ ¬ BasinIgnored s s.ev.c ∧ s.ev.c.testBit 0 = true)
    ∧ ∃ s : State, Accepts s ∧ s.ev.c.testBit 0 = true ∧ bitsOf s.ev.c 2 9 ≠ bitsOf s.ev.c 11 9
      ∧ (∃ c, ctx? s (bitsOf s.ev.c 2 9) = some c ∧ c.part = s.ev.a % 8) ∧ (∃ c, ctx? s (bitsOf s.ev.c 11 9) = some c ∧ c.part = s.ev.a % 8)
      ∧ (part s (s.ev.a % 8)).insp = false := by
  have acc (a b c : Nat) : Accepts (devState a b c id) := ⟨by show (1 : Nat) ≠ 0; decide, by show (1 : Nat) ≠ 2; decide⟩
  refine ⟨?_, ⟨devState 0x1003 5 0 id, 3, 5, acc _ _ _, by decide, by decide, rfl, rfl⟩, ⟨State.reset, fun h => h.1 rfl, by decide, by decide⟩,
    ⟨devState 1 8 3 fun s => { s with parts := [(0, { granules := 1 })] }, ⟨by decide, by decide⟩, .inl ⟨0, by decide, by decide, by decide⟩⟩,
    ⟨devState 1 8 3 id, acc _ _ _, ?_⟩, ⟨devState 0 8 1 id, acc _ _ _, .inr ⟨by decide, .inl (by decide)⟩⟩,
    ⟨devState 0 8 (1 + 16 * 16 + 0x100000) id, acc _ _ _, ?_, by decide⟩,
    ⟨devState 0 8 (1 + 1 * 4 + 2 * 2048) fun s => { s with ctxs := [(1, { pasid := 1, part := 0 }), (2, { pasid := 2, part := 0 })] },
      ⟨by decide, by decide⟩, by decide, by decide, ⟨_, rfl, rfl⟩, ⟨_, rfl, rfl⟩, rfl⟩⟩
  · intro o w h
    simp only [List.mem_cons, Prod.mk.injEq, List.not_mem_nil, or_false] at h
    obtain ⟨rfl, rfl⟩ | ⟨rfl, rfl⟩ | ⟨rfl, rfl⟩ | ⟨rfl, rfl⟩ | ⟨rfl, rfl⟩ := h
    · exact ⟨devState _ 8 _ id, _, acc _ _ _, .ctxbase _, by decide, by decide, rfl, rfl, rfl⟩
    · exact ⟨devState _ 8 _ id, _, acc _ _ _, .plimit _ (by decide) (by decide), by decide, by decide, rfl, rfl, rfl⟩
    · exact ⟨devState _ 8 _ id, _, acc _ _ _, .plimitBad _ (by decide), by decide, by decide, rfl, rfl, rfl⟩
    · exact ⟨devState _ 8 _ id, _, acc _ _ _, .peercfg 511 _ (by decide) rfl, by decide, by decide, rfl, rfl, rfl⟩
    · exact ⟨devState _ 8 _ id, _, acc _ _ _, .chbase 255 _ (by decide) rfl, by decide, by decide, rfl, rfl, rfl⟩
  · rintro (⟨q, hq, -, h⟩ | ⟨e, he, -⟩)
    · have : ∀ q ∈ List.range 8, Nat.land (part (devState 1 8 3 id) q).granules (bitsOf 3 0 8) = 0 := by decide
      exact h (this q (List.mem_range.2 hq))
    · have k : e ∈ ([] : List (Nat × Ctx)) := he
      cases k
  · rintro (h | ⟨-, h⟩)
    · exact h rfl
    · revert h; decide

/-- The bytes of a context descriptor: PASID 1, partition 0, its region table at 0x1000 and one trap frame at 0x1400. -/
def descBytes : List Nat :=
  [1, 0, 88, 67, 1, 0, 0, 0, 0, 0, 0, 0, 0, 0, 0, 0, 0, 16, 0, 0, 0, 0, 0, 0, 0, 20, 0, 0, 0, 0, 0, 0, 0, 4, 0, 0] ++ List.replicate 88 0
    ++ [245, 79, 218, 232]

/-- CTXCMD is loading slot 5 from a descriptor. -/
def loadState (ctxs : AMap Ctx) (granules : Nat) (ok : Bool) : State :=
  devState 0 0 0 fun s => { s with
    dev := { s.dev with ctxBusy := true, ctxOp := 1, ctxSlot := 5 }
    ctxs := ctxs
    parts := [(0, { granules := granules })]
    tlb := [{ pasid := 1, va := 0x1000, size := 4096, pa := 0x1000, host := false, r := true, w := true, x := true }]
    mem := if ok then writeCells [] (hostBase + 5 * 128) descBytes else [] }

/-- The conditions of `DescGood`, as a check. -/
def descGoodB (b : List Nat) : Bool :=
  fieldAt b 0 4 == 0x43580001 && fieldAt b 0x7C 4 == crc32c (b.take 0x7C) && (1 ≤ fieldAt b 4 4 && fieldAt b 4 4 < 2 ^ 20) && fieldAt b 8 1 < 8
    && fieldAt b 9 1 < 2 && (fieldAt b 0xA 1 == 0 || (20 ≤ fieldAt b 0xA 1 && fieldAt b 0xA 1 ≤ 40)) && fieldAt b 0xB 1 < 64
    && (fieldAt b 0xC 4 == 0 && (List.range 0x7C).all fun i => i < 0x24 || fieldAt b i 1 == 0) && fieldAt b 0x10 8 % 64 == 0
    && fieldAt b 0x18 8 % 1024 == 0 && (fieldAt b 0x20 4 != 0 && fieldAt b 0x20 4 % 1024 == 0)

theorem descGood_of {b : List Nat} (h : descGoodB b = true) : DescGood b := by
  simp only [descGoodB, Bool.and_eq_true, Bool.or_eq_true, beq_iff_eq, decide_eq_true_eq, List.all_eq_true, List.mem_range, bne_iff_ne, ne_eq] at h
  obtain ⟨⟨⟨⟨⟨⟨⟨⟨⟨⟨h1, h2⟩, h3⟩, h4⟩, h5⟩, h6⟩, h7⟩, h8, h8'⟩, h9⟩, h10⟩, h11⟩ := h
  exact ⟨h1, h2, h3, h4, h5, h6, h7, ⟨h8, fun i a b => (h8' i b).resolve_left (by omega)⟩, h9, h10, h11⟩

theorem notPoisoned {s : State} (h : s.pois = []) (a n : Nat) : poisoned s a n = false := by simp [poisoned, h, mget, mget?]

theorem loadDesc : descOf (loadState [] 0 true) 5 = descBytes := by decide +kernel

theorem loadGood (ctxs : AMap Ctx) (g : Nat) : poisoned (loadState ctxs g true) (ridKey (loadState ctxs g true) ((0 + 5 * 128) % 2 ^ 64)) 128 = false
    ∧ DescGood (descOf (loadState ctxs g true) 5) ∧ fieldAt (descOf (loadState ctxs g true) 5) 4 4 = 1
    ∧ fieldAt (descOf (loadState ctxs g true) 5) 8 1 = 0 ∧ fieldAt (descOf (loadState ctxs g true) 5) 0x10 8 = 0x1000 := by
  have e : descOf (loadState ctxs g true) 5 = descOf (loadState [] 0 true) 5 := rfl
  rw [e, loadDesc]
  refine ⟨?_, descGood_of (by decide +kernel), by decide +kernel, by decide +kernel, by decide +kernel⟩
  have : poisoned (loadState [] 0 true) (ridKey (loadState [] 0 true) ((0 + 5 * 128) % 2 ^ 64)) 128 = false := by decide +kernel
  exact this

theorem leNat_zeros (n : Nat) : leNat (List.replicate n 0) = 0 := by
  induction n with
  | zero => rfl
  | succ n ih => rw [List.replicate_succ, leNat, ih]

theorem regionsOf_zeros (n : Nat) : regionsOf (List.replicate n 0) = some [] := by
  have f (i k : Nat) : fieldAt (List.replicate n 0) i k = 0 := by simp [fieldAt, slice, leNat_zeros]
  have r (i : Nat) : regionOf (List.replicate n 0) i = { base := 0, limit := 0, kind := 0, nol1 := false } := by simp [regionOf, f]
  have o (i : Nat) : regionOk (List.replicate n 0) i = true := by simp [regionOk, r, f, slice]
  have l : ((List.range 64).map (regionOf (List.replicate n 0))).filter (fun r => r.kind != 0) = [] := by
    rw [List.filter_eq_nil_iff]
    intro x hx
    obtain ⟨i, -, rfl⟩ := List.mem_map.1 hx
    simp [r]
  simp [regionsOf, o, l, disjointAll]

theorem mget?_low {α : Type} {m : AMap α} {b k : Nat} (h : m.all (fun e => b ≤ e.1) = true) (hk : k < b) : mget? m k = none := by
  induction m with
  | nil => rfl
  | cons e r ih =>
    simp only [List.all_cons, Bool.and_eq_true, decide_eq_true_eq] at h
    rw [mget?, if_neg (by omega), ih h.2]

theorem readLow {a n : Nat} (h : a + n ≤ hostBase) : readBytes (loadState [] 1 true) a n = List.replicate n 0 := by
  have m : (loadState [] 1 true).mem.all (fun e => hostBase ≤ e.1) = true := by decide +kernel
  rw [List.eq_replicate_iff]
  refine ⟨by simp [readBytes], fun x hx => ?_⟩
  obtain ⟨i, hi, rfl⟩ := List.mem_map.1 hx
  have : i < n := List.mem_range.1 hi
  show (mget (loadState [] 1 true).mem 0 (a + i)).toNat = 0
  rw [mget, mget?_low m (by omega)]
  rfl

theorem vaRead_low {s : State} {p va n k : Nat} {bs : List Nat} (h1 : vaCut va n = [(va, n)]) (h2 : vaKey s p va false = some k) (h3 : s.pois = [])
    (h4 : readBytes s k n = bs) : vaRead s none p va n = (bs, false) := by
  unfold vaRead
  simp [h1, h2, h4, notPoisoned h3]

theorem readRegions_zeros {s : State} (slot : Nat) {p va k : Nat} {host : Bool} {bs : List Nat} (h1 : va + 2048 ≤ 2 ^ 57)
    (h2 : vaCut va 2048 = [(va, 2048)]) (h3 : translate s none p va .rd = .ok k host) (h4 : vaRead s none p va 2048 = (bs, false))
    (h5 : regionsOf bs = some []) : readRegions s slot p va = .ok [] := by
  unfold readRegions
  rw [if_neg (by omega)]
  simp [h2, h3, h4, h5]

theorem wit_ContextCommands :
    (∃ s : State, s.dev.ctxBusy = true) ∧ (∃ s : State, s.dev.state = 1 ∧ s.dev.ctxBusy = false)
    ∧ (∃ s : State, Accepts s ∧ s.dev.ctxBusy = false ∧ ctx? s (s.ev.a % 512) = none)
    ∧ (∃ (s : State) (c : Ctx), Accepts s ∧ s.dev.ctxBusy = false ∧ ctx? s (s.ev.a % 512) = some c ∧ c.halt = none)
    ∧ (∀ n ∈ [0, 1, 2, 3, 4], ∃ s : State, s.dev.ctxBusy = true ∧ s.dev.ctxOp = 1 ∧ waiting s .ctxLoad = false ∧ s.dev.ctxSlot = 5 ∧
        let b := descOf s 5
        let poor := poisoned s (ridKey s ((s.dev.ctxBase + 5 * 128) % 2 ^ 64)) 128 = true ∨ ¬ DescGood b
        match n with
        | 0 => (ctx? s 5).isSome = true
        | 1 => ctx? s 5 = none ∧ poor
        | 2 => ctx? s 5 = none ∧ ¬ poor ∧ ∃ e, e ∈ s.ctxs ∧ e.2.pasid = fieldAt b 4 4
        | 3 => ctx? s 5 = none ∧ ¬ poor ∧ (∀ e, e ∈ s.ctxs → e.2.pasid ≠ fieldAt b 4 4) ∧ (part s (fieldAt b 8 1)).granules = 0
        | _ => ctx? s 5 = none ∧ ¬ poor ∧ (∀ e, e ∈ s.ctxs → e.2.pasid ≠ fieldAt b 4 4) ∧ (part s (fieldAt b 8 1)).granules ≠ 0
            ∧ readRegions s 5 (fieldAt b 4 4) (fieldAt b 0x10 8) = .ok [])
    ∧ (∃ s : State, s.dev.ctxBusy = true ∧ s.dev.ctxOp = 2 ∧ ctx? s s.dev.ctxSlot = none)
    ∧ ∃ (s : State) (c : Ctx) (h : Halt), s.dev.ctxBusy = true ∧ s.dev.ctxOp = 2 ∧ ctx? s s.dev.ctxSlot = some c ∧ c.halt = some h ∧ h.done = true := by
  have good (ctxs : AMap Ctx) (g : Nat) := loadGood ctxs g
  have np (ctxs : AMap Ctx) (g : Nat) : ¬ (poisoned (loadState ctxs g true) (ridKey (loadState ctxs g true) ((0 + 5 * 128) % 2 ^ 64)) 128 = true
      ∨ ¬ DescGood (descOf (loadState ctxs g true) 5)) := fun h => h.elim (fun e => by rw [(good ctxs g).1] at e; cases e) fun e => e (good ctxs g).2.1
  refine ⟨⟨loadState [] 0 false, rfl⟩, ⟨devState 0 0 0 id, rfl, rfl⟩, ⟨devState 0 0 0 id, ⟨by decide, by decide⟩, rfl, rfl⟩,
    ⟨devState 5 0 0 fun s => { s with ctxs := [(5, { pasid := 1, part := 0 })] }, _, ⟨by decide, by decide⟩, rfl, rfl, rfl⟩, fun n hn => ?_,
    ⟨devState 0 0 0 fun s => { s with dev := { s.dev with ctxBusy := true, ctxOp := 2 } }, rfl, rfl, rfl⟩,
    ⟨devState 0 0 0 fun s => { s with
      dev := { s.dev with ctxBusy := true, ctxOp := 2 }
      ctxs := [(0, { pasid := 1, part := 0, halt := some { cause := 0x0D, done := true } })] }, _, _, rfl, rfl, rfl, rfl, rfl⟩⟩
  simp only [List.mem_cons, List.not_mem_nil, or_false] at hn
  obtain rfl | rfl | rfl | rfl | rfl := hn
  · exact ⟨loadState [(5, { pasid := 3, part := 0 })] 0 false, rfl, rfl, rfl, rfl, rfl⟩
  · refine ⟨loadState [] 0 false, rfl, rfl, rfl, rfl, rfl, .inr fun h => ?_⟩
    have : fieldAt (descOf (loadState [] 0 false) 5) 0 4 ≠ 0x43580001 := by decide +kernel
    exact this h.magic
  · exact ⟨loadState [(4, { pasid := 1, part := 0 })] 0 true, rfl, rfl, rfl, rfl, rfl, np _ _, (4, { pasid := 1, part := 0 }),
      List.mem_singleton.2 rfl, (good _ _).2.2.1.symm⟩
  · refine ⟨loadState [] 0 true, rfl, rfl, rfl, rfl, rfl, np _ _, fun e he => ?_, ?_⟩
    · have k : e ∈ ([] : List (Nat × Ctx)) := he
      cases k
    · rw [(good _ _).2.2.2.1]; rfl
  · refine ⟨loadState [] 1 true, rfl, rfl, rfl, rfl, rfl, np _ _, fun e he => ?_, ?_, ?_⟩
    · have k : e ∈ ([] : List (Nat × Ctx)) := he
      cases k
    · rw [(good _ _).2.2.2.1]; decide
    · rw [(good _ _).2.2.1, (good _ _).2.2.2.2]
      have h2 : vaCut 0x1000 2048 = [(0x1000, 2048)] := by decide
      have h3 : translate (loadState [] 1 true) none 1 0x1000 .rd = .ok 0x1000 false := by decide
      have h1 : vaKey (loadState [] 1 true) 1 4096 false = some 4096 := by decide
      exact readRegions_zeros 5 (by decide) h2 h3 (vaRead_low h2 h1 rfl (readLow (by decide))) (regionsOf_zeros 2048)

theorem wit_HaltsComplete :
    (∀ n ∈ [2 ^ 26, 2 ^ 26 - 1], ∃ (s : State) (g : Group) (tm : Team) (c : Ctx) (w : Watch), group? s s.ev.a = some g ∧ g.ended = false ∧ g.wdFor = some w ∧
      team? s g.team = some tm ∧ ctx? s g.ctx = some c ∧ c.halt = none ∧ c.suspended = false ∧ ctxHere s g.ctx = true ∧ g.wd = n ∧ 2 ^ c.wdlog = 2 ^ 26)
    ∧ (∃ (s : State) (c : Ctx) (h : Halt), ctx? s s.ev.a = some c ∧ c.halt = some h ∧ h.done = true ∧ c.unloading = false)
    ∧ ∃ (s : State) (c : Ctx) (h : Halt), ctx? s s.ev.a = some c ∧ c.halt = some h ∧ h.done = false ∧ h.unload = false ∧ c.unloading = false
      ∧ ctxMats s s.ev.a = false ∧ (∀ e, e ∈ s.launches → e.2.ctx ≠ s.ev.a) ∧ (part s c.part).haltEn = true ∧ (part s c.part).haltValid = false
      ∧ (part s c.part).haltBase * 2 ^ 16 + 2 ^ 16 ≤ hbmSize := by
  refine ⟨fun n _ => ⟨modGroup (one .nop) 0 fun g => { g with wd := n, wdFor := some { kind := 1, id := 0 } }, _, _, _, _, rfl, rfl, rfl, rfl, rfl, rfl, rfl,
      rfl, rfl, rfl⟩,
    ⟨devState 0 0 0 fun s => { s with ctxs := [(0, { pasid := 1, part := 0, halt := some { cause := 0x0D, done := true } })] }, _, _, rfl, rfl, rfl, rfl⟩,
    ⟨devState 0 0 0 fun s => { s with parts := [(0, { haltEn := true })], ctxs := [(0, { pasid := 1, part := 0, halt := some { cause := 0x0D } })] },
      _, _, rfl, rfl, rfl, rfl, rfl, rfl, fun e he => ?_, rfl, rfl, by decide⟩⟩
  have k : e ∈ ([] : List (Nat × Launch)) := he
  cases k

/-- Two contexts of a partition with a launch each: context 0 has the turn since cycle 0. -/
def turnState (now : Nat) (f : State → State) : State :=
  devState 0 0 0 fun s => f { s with
    now := now
    parts := [(0, { turn := some 0, slicep := 0 })]
    ctxs := [(0, { pasid := 1, part := 0, onPart := true }), (7, { pasid := 2, part := 0 })]
    launches := [(0, { chain := 0, record := 0, seq := 1, ctx := 0, kern := {} }), (1, { chain := 0, record := 1, seq := 2, ctx := 7, kern := {} })] }

theorem turnWorks {s : State} {n : Nat} (w : Works s 0 n) (h : s.ctxs = (turnState 0 id).ctxs) : n = 0 ∨ n = 7 := by
  obtain ⟨⟨c, hc, -⟩, -⟩ := w
  unfold ctx? at hc
  rw [h] at hc
  have := mget?_mem hc
  simp [turnState, devState] at this
  omega

theorem wit_TurnsPass :
    (∀ now ∈ [240000, 239999], ∃ (s : State) (h n : Nat), mord s.ctxs = true ∧ (part s s.ev.a).exch = none ∧ (part s s.ev.a).turn = some h
      ∧ hasWork s h = true ∧ NextAfter s s.ev.a (some h) n ∧ n ≠ h ∧ s.now = now ∧ (part s s.ev.a).turnAt + max 1 (part s s.ev.a).slicep * 240000 = 240000)
    ∧ (∃ (s : State) (n : Nat), mord s.ctxs = true ∧ (part s s.ev.a).exch = none ∧ (∀ h, (part s s.ev.a).turn = some h → hasWork s h = false)
      ∧ NextAfter s s.ev.a (if (part s s.ev.a).turn.isSome then (part s s.ev.a).turn else (part s s.ev.a).lastCtx) n)
    ∧ (∃ s : State, (part s s.ev.a).exch = none)
    ∧ (∃ (s : State) (e : Exch) (n : Nat) (c : Ctx), (part s s.ev.a).exch = some e ∧ (∀ o, e.out = some o → ctxMats s o = false) ∧ e.inn = some n
      ∧ ctx? s n = some c ∧ c.part = s.ev.a ∧ c.halt = none ∧ c.suspended = false ∧ c.unloading = false)
    ∧ (∃ s : State, s.dev.xBusy = true)
    ∧ ∀ n ∈ [0, 1, 2, 3, 4], ∃ s : State, Accepts s ∧ s.dev.xBusy = false ∧ match n with
      | 0 => ctx? s (s.ev.a % 512) = none
      | 1 => ∃ c, ctx? s (s.ev.a % 512) = some c ∧ c.halt.isSome = true
      | 2 => ∃ c, ctx? s (s.ev.a % 512) = some c ∧ c.halt = none ∧ c.suspended = true
      | 3 => ∃ c, ctx? s (s.ev.a % 512) = some c ∧ c.halt = none ∧ c.suspended = false ∧ (part s c.part).exch = none ∧ (part s c.part).turn ≠ some (s.ev.a % 512)
      | _ => ∃ c, ctx? s (s.ev.a % 512) = some c ∧ c.halt = none ∧ c.suspended = false ∧ (part s c.part).exch = none
          ∧ (part s c.part).turn = some (s.ev.a % 512) ∧ c.onPart = true := by
  refine ⟨fun now _ => ⟨turnState now id, 0, 7, rfl, rfl, rfl, rfl, ⟨⟨⟨_, rfl, rfl⟩, rfl⟩, .inl ⟨by decide, fun m hm h => ?_⟩⟩, by decide, rfl, by show 0 + max 1 0 * 240000 = 240000; decide⟩,
    ⟨turnState 0 fun s => { s with launches := s.launches.filter fun e => e.2.ctx == 7 }, 7, rfl, rfl, fun h e => ?_,
      ⟨⟨⟨_, rfl, rfl⟩, by decide⟩, .inl ⟨by decide, fun m hm h => ?_⟩⟩⟩,
    ⟨devState 0 0 0 id, rfl⟩,
    ⟨turnState 0 fun s => { s with parts := [(0, { turn := some 0, exch := some { out := some 0, inn := some 7 } })] }, _, 7, _, rfl, fun _ _ => rfl, rfl,
      rfl, rfl, rfl, rfl, rfl⟩,
    ⟨devState 0 0 0 fun s => { s with dev := { s.dev with xBusy := true } }, rfl⟩, fun n hn => ?_⟩
  · obtain rfl | rfl := turnWorks hm rfl
    · exact absurd h (by decide)
    · exact Nat.le_refl 7
  · have : e = e := rfl
    cases e
    decide
  · obtain rfl | rfl := turnWorks hm rfl
    · exact absurd h (by decide)
    · exact Nat.le_refl 7
  · simp only [List.mem_cons, List.not_mem_nil, or_false] at hn
    obtain rfl | rfl | rfl | rfl | rfl := hn
    · exact ⟨devState 511 0 0 id, ⟨by decide, by decide⟩, rfl, rfl⟩
    · exact ⟨devState 0 0 0 fun s => { s with ctxs := [(0, { pasid := 1, part := 0, halt := some { cause := 0x0D } })] }, ⟨by decide, by decide⟩, rfl, _, rfl, rfl⟩
    · exact ⟨devState 0 0 0 fun s => { s with ctxs := [(0, { pasid := 1, part := 0, suspended := true })] }, ⟨by decide, by decide⟩, rfl, _, rfl, rfl, rfl⟩
    · exact ⟨devState 0 0 0 fun s => { s with ctxs := [(0, { pasid := 1, part := 0 })] }, ⟨by decide, by decide⟩, rfl, _, rfl, rfl, rfl, rfl, by decide⟩
    · exact ⟨turnState 0 id, ⟨by decide, by decide⟩, rfl, _, rfl, rfl, rfl, rfl, rfl, rfl⟩

theorem wit_ChainsObey :
    (∀ e ∈ [(5, 6), (6, 5), (5, 5)], ∃ s : State, (chain s s.ev.a).tail = e.1 ∧ s.ev.c = e.2)
    ∧ (∃ s : State, ¬ Accepts s) ∧ (∃ s : State, s.ev.a = 256)
    ∧ (∀ st ∈ [0, 1, 2], ∃ s : State, Accepts s ∧ (chain s s.ev.a).state = st ∧ NoneInFlight s s.ev.a ∧ mord s.launches = true
        ∧ RunOf (chain s s.ev.a) (((chain s s.ev.a).word + 2 ^ 64 - (chain s s.ev.a).s0) % 2 ^ 64) 1)
    ∧ ∃ s : State, Accepts s ∧ (chain s s.ev.a).state = 1 ∧ ¬ NoneInFlight s s.ev.a ∧ mord s.launches = true
        ∧ (∃ id ln, launch? s id = some ln ∧ ln.chain = s.ev.a ∧ ln.status = none ∧ ln.nextClu = 0)
        ∧ ∃ id ln, launch? s id = some ln ∧ ln.chain = s.ev.a ∧ ln.status = none ∧ ln.nextClu ≠ 0 := by
  have run : ∀ ch : Chain, ch.recs = [(0, 0)] → RunOf ch 0 1 := by
    intro ch h
    constructor
    · intro j hj; obtain rfl : j = 0 := by omega
      rw [h]; rfl
    · rw [h]; rfl
  refine ⟨fun e _ => ⟨devState 3 0 e.2 fun s => { s with chains := [(3, { tail := e.1 })] }, rfl, rfl⟩, ⟨State.reset, fun h => h.1 rfl⟩, ⟨devState 256 0 0 id, rfl⟩,
    fun st _ => ⟨devState 255 0 0 fun s => { s with chains := [(255, { state := st, recs := [(0, 0)] })] }, ⟨by show (1 : Nat) ≠ 0; decide, by show (1 : Nat) ≠ 2; decide⟩, rfl, fun e he => ?_,
      rfl, by show RunOf _ ((0 + 2 ^ 64 - 0) % 2 ^ 64) 1
              rw [show (0 + 2 ^ 64 - 0) % 2 ^ 64 = 0 from by decide]
              exact run _ rfl⟩,
    ⟨devState 0 0 0 fun s => { s with
        chains := [(0, { state := 1 })]
        launches := [(0, { chain := 0, record := 0, seq := 1, ctx := 0, kern := {}, nextClu := 1 }), (1, { chain := 0, record := 1, seq := 2, ctx := 7, kern := {} })] },
      ⟨by decide, by decide⟩, rfl, fun h => ?_, rfl, ⟨1, _, rfl, rfl, rfl, rfl⟩, ⟨0, _, rfl, rfl, rfl, by decide⟩⟩⟩
  · have k : e ∈ ([] : List (Nat × Launch)) := he
    cases k
  · have := h _ (List.mem_cons_self ..) rfl
    revert this; decide

/-! ### Launches and placement -/

/-- A kernel descriptor of one team of one group, entered at 0x2000. -/
def kernBytes : List Nat :=
  [1, 0, 68, 75, 0, 0, 0, 0, 0, 32] ++ List.replicate 38 0 ++ [32, 0, 16, 0, 1, 0] ++ List.replicate 11 0 ++ [1, 1, 0, 1, 0, 0, 0, 1, 0, 0, 0, 1]
    ++ List.replicate 175 0 ++ [93, 154, 125, 16]

/-- The launch record of that kernel: sequence number 1, context 7, its completion record at 0x4000. -/
def recBytes : List Nat :=
  [1, 0, 65, 76, 0, 0, 7, 0, 1, 0, 0, 0, 0, 0, 0, 0, 0, 16] ++ List.replicate 31 0 ++ [64] ++ List.replicate 74 0 ++ [26, 75, 202, 251]

/-- Chain 3 offers a record, context 7 is loaded, and its kernel descriptor is in place. -/
def takeState (hasRec : Bool) : State :=
  devState 0 0 0 fun s => { s with
    chains := [(3, { en := true, state := 1, tail := 1, seg := 0x3000, prio := 5, comp := 0x5000 })]
    parts := [(0, { granules := 1 })]
    ctxs := [(7, { pasid := 2, part := 0, onPart := true })]
    tlb := [{ pasid := 2, va := 0x1000, size := 4096, pa := 0x1000, host := false, r := true, w := true, x := true }]
    mem := if hasRec then writeCells (writeCells [] 0x1000 kernBytes) (hostBase + 0x3000) recBytes else [] }

/-- The launch that a read gives, with a property. -/
def givesB {α : Type} (x : Except FeStop α) (p : α → Bool) : Bool := match x with | .ok a => p a | .error _ => false

theorem gives_of {α : Type} {x : Except FeStop α} {p : α → Bool} (h : givesB x p = true) : ∃ a, x = .ok a ∧ p a = true := by
  unfold givesB at h
  split at h
  · exact ⟨_, rfl, h⟩
  · cases h

/-- A model of two kernels without layers. -/
def model0 (o : Bool) : Model := { layers := [], mpri := 0, klist := [0x1000, 0x1000], margSize := 0, open_ := o }

/-- A launch of context 7 on a chain. -/
def launch7 (c : Nat) : Launch := { chain := c, record := 0, seq := 1, ctx := 7 }

/-- Model launch 4 of context 7, its header read, and streams of later launches that are open. -/
def modelState (need : Bool) (kidx : Nat) (done : Bool) (opens : Nat) : State :=
  devState 4 0 0 fun s => { takeState true with
    dev := s.dev
    ev := s.ev
    launches := (4, { launch7 3 with needKern := need, kidx := kidx, retired := if done then [0] else [], model := some (model0 false) })
      :: (List.range opens).map fun i => (i + 5, { launch7 4 with model := some (model0 true) }) }

theorem wit_LaunchesRun :
    (∃ (s : State) (c : Nat), mord s.chains = true ∧ s.feChain = none ∧ pickChain s = some c ∧ recBad s (chain s c) (recordOf s (chain s c)) = true)
    ∧ (∃ s : State, s.feChain = none ∧ pickChain s = none)
    ∧ (∃ (s : State) (c : Nat) (ln : Launch), mord s.chains = true ∧ s.feChain = none ∧ pickChain s = some c ∧ c < 2 ^ 16
        ∧ recBad s (chain s c) (recordOf s (chain s c)) = false
        ∧ (∀ x, ctx? s ((recordOf s (chain s c)).f 6 2) = some x → x.halt = none) ∧ (∃ x, ctx? s ((recordOf s (chain s c)).f 6 2) = some x)
        ∧ checkTake s c (chain s c) (recordOf s (chain s c)) = .ok ln ∧ ln.model = none)
    ∧ (∀ n ∈ [7, 8], ∃ (s : State) (ln : Launch) (m : Model), launch? s s.ev.a = some ln ∧ ln.model = some m ∧ openStreams s = n ∧ nextStream s = some s.ev.a)
    ∧ (∃ (s : State) (ln : Launch) (m : Model) (c : Ctx) (k : KernRead), launch? s s.ev.a = some ln ∧ ln.model = some m ∧ ln.status = none ∧
        ctx? s ln.ctx = some c ∧ c.halt = none ∧ ln.needKern = true ∧ waiting s (.kern s.ev.a) = false ∧
        readKern s (.kern s.ev.a) ln.ctx c.part (m.klist.getD ln.kidx 0) (0, 0, 0) (some m.margSize) = .ok k)
    ∧ (∀ b, ∃ (s : State) (ln : Launch) (m : Model) (c : Ctx), launch? s s.ev.a = some ln ∧ ln.model = some m ∧ ln.status = none ∧
        ctx? s ln.ctx = some c ∧ c.halt = none ∧ ln.needKern = false ∧ kernelOver s s.ev.a ln = b ∧ ln.kidx + 1 < m.klist.length ∧ ln.cancelled = false)
    ∧ (∃ (s : State) (ln : Launch), launch? s s.ev.a = some ln ∧ kernelOver s s.ev.a ln = false)
    ∧ ∃ (s : State) (ln : Launch), launch? s s.ev.a = some ln ∧ kernelOver s s.ev.a ln = true ∧ ln.model = none ∧ (chain s ln.chain).state = 1
      ∧ (chain s ln.chain).s0 < 2 ^ 64 ∧ ((chain s ln.chain).word + 2 ^ 64 - (chain s ln.chain).s0) % 2 ^ 64 = ln.record
      ∧ mget? (chain s ln.chain).recs (ln.record + 1) = none ∧ ln.crAddr ≠ 0 ∧ Apart (ridKey s ln.crAddr) 32 (ridKey s (chain s ln.chain).comp) 8 := by
  refine ⟨⟨takeState false, 3, rfl, rfl, by decide +kernel, by decide +kernel⟩, ⟨devState 0 0 0 id, rfl, by decide⟩, ?_, fun n hn => ?_, ?_, fun b => ?_,
    ?_,
    ⟨devState 4 0 0 fun s => { takeState true with
      dev := s.dev
      ev := s.ev
      chains := [(3, { en := true, state := 1, tail := 1, seg := 0x3000, comp := 0x5000, s0 := 2 ^ 64 - 1, word := 2 ^ 64 - 1 })]
      launches := [(4, { chain := 3, record := 0, seq := 1, ctx := 7, crAddr := 0x4000, retired := [0] })] },
      _, rfl, by decide +kernel, rfl, rfl, by decide, by decide, rfl, by decide, .inl (by decide)⟩⟩
  · have b : givesB (checkTake (takeState true) 3 (chain (takeState true) 3) (recordOf (takeState true) (chain (takeState true) 3))) (fun ln => ln.model.isNone) = true := by
      decide +kernel
    obtain ⟨ln, h, m⟩ := gives_of b
    have f : (recordOf (takeState true) (chain (takeState true) 3)).f 6 2 = 7 := by decide +kernel
    refine ⟨takeState true, 3, ln, rfl, rfl, by decide +kernel, by decide, by decide +kernel, fun x hx => ?_, ?_, h, by simpa using m⟩
    · rw [f] at hx
      cases hx
      rfl
    · rw [f]; exact ⟨_, rfl⟩
  · simp only [List.mem_cons, List.not_mem_nil, or_false] at hn
    obtain rfl | rfl := hn
    · exact ⟨modelState true 0 false 7, _, _, rfl, rfl, by decide, by decide⟩
    · exact ⟨modelState true 0 false 8, _, _, rfl, rfl, by decide, by decide⟩
  · have b : givesB (readKern (modelState true 0 false 0) (.kern 4) 7 0 0x1000 (0, 0, 0) (some 0)) (fun _ => true) = true := by decide +kernel
    obtain ⟨k, h, -⟩ := gives_of b
    exact ⟨modelState true 0 false 0, _, _, _, k, rfl, rfl, rfl, rfl, rfl, rfl, rfl, h⟩
  · cases b
    · exact ⟨modelState false 0 false 0, _, _, _, rfl, rfl, rfl, rfl, rfl, rfl, by decide, by decide, rfl⟩
    · exact ⟨modelState false 0 true 0, _, _, _, rfl, rfl, rfl, rfl, rfl, rfl, by decide, by decide, rfl⟩
  · refine ⟨modelState false 0 false 0, _, rfl, ?_⟩
    decide

/-- That record with bytes at 0x1000 and at 0x1400 of its context, its own bytes as given, and its context halted where asked. -/
def takeWith (rec at0 at4 : List Nat) (halt : Option Halt) : State :=
  { takeState false with
    ctxs := [(7, { pasid := 2, part := 0, onPart := true, halt := halt })]
    mem := writeCells (writeCells (writeCells [] 0x1000 at0) 0x1400 at4) (hostBase + 0x3000) rec }

/-- The same record for the model header at 0x1400. -/
def recModel : List Nat :=
  [1, 0, 65, 76, 1, 0, 7, 0, 1, 0, 0, 0, 0, 0, 0, 0, 0, 20] ++ List.replicate 31 0 ++ [64] ++ List.replicate 74 0 ++ [58, 195, 153, 249]

/-- A model header of one layer and one kernel, its layer table at 0x1440 and its KLIST at 0x1480. -/
def modelBytes : List Nat :=
  [1, 0, 0x44, 0x4D, 1, 0, 0, 1, 0x40, 0x14, 0, 0, 0, 0, 0, 0, 0x80, 0x14] ++ List.replicate 42 0 ++ [197, 32, 75, 113]
    ++ (leBytes 8 0x40000 ++ leBytes 8 0x20000 ++ leBytes 8 128 ++ leBytes 8 0x1488 ++ leBytes 8 0x20000 ++ leBytes 8 0x21000 ++ List.replicate 16 0)
    ++ leBytes 8 0x1000

/-- What a failed read stops with. -/
def failsB {α : Type} (x : Except FeStop α) (n : Nat) : Bool := match x with | .error (.bad k) => k == n | _ => false

theorem fails_of {α : Type} {x : Except FeStop α} {n : Nat} (h : failsB x n = true) : x = .error (.bad n) := by
  unfold failsB at h
  split at h
  · rw [beq_iff_eq.1 h]
  · cases h

/-- The record of chain 3 is good, but for what `p` says of its checks. -/
def takeB (s : State) (p : Except FeStop Launch → Bool) : Bool :=
  s.feChain.isNone && pickChain s == some 3 && !recBad s (chain s 3) (recordOf s (chain s 3)) && (recordOf s (chain s 3)).f 6 2 == 7
    && p (checkTake s 3 (chain s 3) (recordOf s (chain s 3)))

theorem wit_LaunchesRun_takes :
    (∀ n ∈ [1, 2], ∃ s : State, mord s.chains = true ∧ s.feChain = none ∧ pickChain s = some 3 ∧ recBad s (chain s 3) (recordOf s (chain s 3)) = false ∧
      (∀ x, ctx? s ((recordOf s (chain s 3)).f 6 2) = some x → x.halt = none) ∧
      checkTake s 3 (chain s 3) (recordOf s (chain s 3)) = .error (.bad n))
    ∧ (∀ u, ∃ (s : State) (x : Ctx) (h : Halt), mord s.chains = true ∧ s.feChain = none ∧ pickChain s = some 3 ∧
      recBad s (chain s 3) (recordOf s (chain s 3)) = false ∧ ctx? s ((recordOf s (chain s 3)).f 6 2) = some x ∧ x.halt = some h ∧ h.cause < 256 ∧ h.unload = u)
    ∧ ∃ (s : State) (ln : Launch) (m : Model), mord s.chains = true ∧ s.feChain = none ∧ pickChain s = some 3 ∧
      recBad s (chain s 3) (recordOf s (chain s 3)) = false ∧ (∀ x, ctx? s ((recordOf s (chain s 3)).f 6 2) = some x → x.halt = none) ∧
      checkTake s 3 (chain s 3) (recordOf s (chain s 3)) = .ok ln ∧ ln.model = some m ∧ m.layers.length = 1 ∧ mord s.launches = true
      ∧ ∀ e, e ∈ s.launches → e.1 < s.nextId := by
  have ok {s : State} {p : Except FeStop Launch → Bool} (h : takeB s p = true) : s.feChain = none ∧ pickChain s = some 3 ∧
      recBad s (chain s 3) (recordOf s (chain s 3)) = false ∧ (recordOf s (chain s 3)).f 6 2 = 7 ∧ p (checkTake s 3 (chain s 3) (recordOf s (chain s 3))) = true := by
    simp only [takeB, Bool.and_eq_true, beq_iff_eq, Option.isNone_iff_eq_none, Bool.not_eq_true'] at h
    exact ⟨h.1.1.1.1, h.1.1.1.2, h.1.1.2, h.1.2, h.2⟩
  have nohalt {s : State} (h : (recordOf s (chain s 3)).f 6 2 = 7) (k : ctx? s 7 = some { pasid := 2, part := 0, onPart := true, halt := none }) :
      ∀ x, ctx? s ((recordOf s (chain s 3)).f 6 2) = some x → x.halt = none := by
    intro x hx
    rw [h, k] at hx
    cases hx
    rfl
  refine ⟨fun n hn => ?_, fun u => ?_, ?_⟩
  · simp only [List.mem_cons, List.not_mem_nil, or_false] at hn
    obtain rfl | rfl := hn
    · obtain ⟨a, b, c, d, e⟩ := ok (s := takeWith recBytes [] [] none) (p := fun x => failsB x 1) (by decide +kernel)
      exact ⟨_, rfl, a, b, c, nohalt d rfl, fails_of e⟩
    · obtain ⟨a, b, c, d, e⟩ := ok (s := takeWith recBytes ((kernBytes.set 0x2C 4).take 252 ++ [191, 23, 46, 10]) [] none) (p := fun x => failsB x 2)
        (by decide +kernel)
      exact ⟨_, rfl, a, b, c, nohalt d rfl, fails_of e⟩
  · have h : takeB (takeWith recBytes [] [] (some { cause := if u then 0 else 0x0D, unload := u })) (fun _ => true) = true := by cases u <;> decide +kernel
    obtain ⟨a, b, c, d, -⟩ := ok h
    exact ⟨_, _, _, rfl, a, b, c, by rw [d]; rfl, rfl, by cases u <;> decide, rfl⟩
  · obtain ⟨a, b, c, d, e⟩ := ok (s := takeWith recModel kernBytes modelBytes none)
      (p := fun x => givesB x fun ln => match ln.model with | some m => m.layers.length == 1 | none => false) (by decide +kernel)
    obtain ⟨ln, h, m⟩ := gives_of e
    split at m
    · rename_i md hm
      exact ⟨_, ln, md, rfl, a, b, c, nohalt d rfl, h, hm, by simpa using m, rfl, fun e he => by cases (he : e ∈ ([] : List (Nat × Launch)))⟩
    · cases m

/-- Model launch 4 of context 7, whose first kernel is over, with the kernels of `kl`. -/
def overState (kl : List Nat) (cancelled : Bool) : State :=
  devState 4 0 0 fun s => { takeState true with
    dev := s.dev
    ev := s.ev
    launches := [(4, { launch7 3 with retired := [0], cancelled := cancelled, crAddr := 0x4000, model := some { model0 false with klist := kl } })] }

theorem wit_LaunchesRun_ends :
    (∃ (s : State) (ln : Launch) (m : Model) (c : Ctx), launch? s s.ev.a = some ln ∧ ln.model = some m ∧ ln.status = none ∧ ctx? s ln.ctx = some c ∧
      c.halt = none ∧ ln.needKern = true ∧ waiting s (.kern s.ev.a) = false ∧ ln.kidx < 256 ∧
      readKern s (.kern s.ev.a) ln.ctx c.part (m.klist.getD ln.kidx 0) (0, 0, 0) (some m.margSize) = .error (.bad 1))
    ∧ ∀ x ∈ [(false, false), (true, false), (true, true)], ∃ (s : State) (ln : Launch), launch? s s.ev.a = some ln ∧ kernelOver s s.ev.a ln = true ∧
      xfersAsked ln = false ∧ moreKernels ln = x.1 ∧ ln.cancelled = x.2 ∧ ln.crAddr ≠ 0 ∧ Apart (ridKey s ln.crAddr) 32 (ridKey s (chain s ln.chain).comp) 8 := by
  refine ⟨⟨{ overState [] false with launches := [(4, { launch7 3 with needKern := true, kidx := 1, model := some { model0 false with klist := [0x1000, 0x1100] } })] },
    _, _, _, rfl, rfl, rfl, rfl, rfl, rfl, rfl, by decide, fails_of (by decide +kernel)⟩, fun x hx => ?_⟩
  simp only [List.mem_cons, List.not_mem_nil, or_false] at hx
  obtain rfl | rfl | rfl := hx
  · exact ⟨overState [0x1000] false, _, rfl, by decide +kernel, by decide, by decide, rfl, by decide, by unfold Apart; decide⟩
  · exact ⟨overState [0x1000, 0x1000] false, _, rfl, by decide +kernel, by decide, by decide, rfl, by decide, by unfold Apart; decide⟩
  · exact ⟨overState [0x1000, 0x1000] true, _, rfl, by decide +kernel, by decide, by decide, rfl, by decide, by unfold Apart; decide⟩

/-- Launch 4 of context 7 has a cluster to admit, and another of context 0 may be on core 0. -/
def placeState (k : Kern) (now : Nat) (f : Launch → Launch) : State :=
  { one .nop with
    now := now
    ctxs := [(0, { pasid := 0, part := 0, onPart := true }), (7, { pasid := 2, part := 0, onPart := true })]
    parts := [(0, { granules := 1 })]
    dev := { State.reset.dev with coresav := 1 }
    launches := [(0, { chain := 0, record := 0, seq := 1, ctx := 0, prio := 1, nextClu := 1 }), (4, f { launch7 3 with kern := k, prio := 2, order := 4 })] }

/-- The same with the team of launch 0 at a barrier and a grant. -/
def blockedState (bar : Bool) : State :=
  modTeam (modGroup (placeState { scrMin := 1048576, scrMax := 1048576 } 0 id) 0 fun g =>
    if bar then { g with lanes := g.lanes.map fun e => (e.1, { e.2 with st := .bar .barc 0 }) } else g) 0 fun t => { t with scrBytes := 1024 }

/-- Team 0 evicted, its group able to run or ended. -/
def evictedState (wake : Bool) : State :=
  modTeam (modGroup (placeState {} 0 id) 0 fun g => { g with ended := !wake }) 0 fun t => { t with st := .evicted }

/-- A launch whose logical cores 0 and 1 core 0 hosts. -/
def hostLaunch : Launch := { launch7 0 with ctx := 0, kern := { vgrid := 2 }, nextClu := 2, ran := [0], remap := [(0, 0), (1, 0)] }

/-- Its team that has the turn. -/
def hostTeam (turn : Nat) : Team :=
  { launch := 0, ctx := 0, t := 0, cluster := 0, crank := 0, core := 0, groups := [0], scrBytes := 1024, turn := turn }

/-- Core 0 hosts logical cores 0 and 1 of launch 0; team 0 has the turn. -/
def hostState (bar : Bool) (turn : Nat) : State :=
  { blockedState bar with launches := [(0, hostLaunch)], teams := [(0, hostTeam turn)] }

/-- The cluster that is placed. -/
def placesB (x : Option (Nat × Launch × Adm)) : Bool := match x with | some (_, _, .place _ cs) => !cs.isEmpty | _ => false

theorem places_of {x : Option (Nat × Launch × Adm)} (h : placesB x = true) : ∃ l ln an cs, x = some (l, ln, .place an cs) ∧ cs ≠ [] := by
  unfold placesB at h
  split at h
  · exact ⟨_, _, _, _, rfl, by simpa using h⟩
  · cases h

theorem wit_TeamsArePlaced :
    (∃ (s : State) (l : Nat) (ln : Launch) (an : Option Nat) (cs : List (Nat × Room)), mord s.launches = true ∧ readmitsIn s s.ev.a = false ∧
      firstFit s s.ev.a (admCands s s.ev.a) = some (l, ln, .place an cs) ∧ cs ≠ [])
    ∧ (∃ s : State, firstFit s s.ev.a (admCands s s.ev.a) = none)
    ∧ (∀ now ∈ [1048576, 1048575], ∃ (s : State) (l : Nat) (ln : Launch) (r : List (Nat × Launch)), admQueue s s.ev.a = (l, ln) :: r ∧ ln.passed = some 0
        ∧ s.now = now ∧ (part s s.ev.a).starved ≠ some l)
    ∧ (∃ (s : State) (tm : Team), team? s s.ev.a = some tm ∧ canRetire s s.ev.a tm = false)
    ∧ (∃ (s : State) (tm : Team) (ln : Launch), team? s s.ev.a = some tm ∧ canRetire s s.ev.a tm = true ∧ launch? s tm.launch = some ln)
    ∧ (∃ (s : State) (l v : Nat) (ln : Launch) (tm : Team) (q : List (Nat × Launch)) (r : List Nat), admQueue s s.ev.a = (l, ln) :: q ∧
        admitAt s s.ev.a l ln = .no ∧ victims s s.ev.a ln.prio = v :: r ∧ team? s v = some tm ∧ admitAt (saveTeam s v .evicted) s.ev.a l ln ≠ .no)
    ∧ (∃ s : State, evictFor s s.ev.a = none)
    ∧ (∃ (s : State) (tm : Team), team? s s.ev.a = some tm ∧ canReadmit s tm = false)
    ∧ (∃ (s : State) (tm : Team), team? s s.ev.a = some tm ∧ canReadmit s tm = true ∧ evictedMates s tm = [(s.ev.a, tm)])
    ∧ (∀ b, ∀ n ∈ [1048576, 1048575], ∃ (s u : State) (l tid : Nat) (ln : Launch) (tm : Team), mord s.teams = true ∧ (∀ e, e ∈ s.teams → e.1 < s.nextId)
        ∧ hostingLaunches s s.ev.a = [(l, ln)] ∧ residentOf s l s.ev.a = some (tid, tm) ∧ teamMats s tid = false
        ∧ (∃ x, x ∈ turnOrder ln s.ev.a (some tm.t) ∧ hostedReady s l ln x = true)
        ∧ nextTurn (saveTeam s tid .held) l ln s.ev.a (some tm.t) = some u ∧ tm.turn = n ∧ preemptible s tid tm = b)
    ∧ (∃ s : State, s.ev.flag = false)
    ∧ ∃ s : State, s.ev.flag = true ∧ s.ev.a = 383 ∧ (coreAt s s.ev.a).marked = false ∧ (∀ e, e ∈ s.launches → e.2.kern.vgrid = 0)
        ∧ (∀ e, e ∈ s.teams → e.2.core ≠ s.ev.a) ∧ s.dev.coresav.testBit s.ev.a = true := by
  refine ⟨?_, ⟨devState 0 0 0 id, by decide⟩, fun now hn => ?_, ⟨placeState {} 0 id, _, rfl, ?_⟩,
    ⟨modGroup (placeState {} 0 id) 0 fun g => { g with ended := true }, _, _, rfl, by decide +kernel, rfl⟩, ?_, ⟨devState 0 0 0 id, by decide⟩,
    ⟨evictedState false, _, rfl, ?_⟩, ⟨evictedState true, _, rfl, by decide +kernel, rfl⟩, fun b n hn => ?_, ⟨devState 0 0 0 id, rfl⟩,
    ⟨{ State.reset with ev := { State.reset.ev with a := 383, flag := true } }, rfl, rfl, by decide, fun e he => ?_, fun e he => ?_, by decide +kernel⟩⟩
  · have b : placesB (firstFit (placeState {} 0 id) 0 (admCands (placeState {} 0 id) 0)) = true := by decide +kernel
    obtain ⟨l, ln, an, cs, h, c⟩ := places_of b
    exact ⟨placeState {} 0 id, l, ln, an, cs, by decide, by decide +kernel, h, c⟩
  · refine ⟨placeState {} now fun l => { l with passed := some 0 }, 4, _, [], rfl, rfl, rfl, ?_⟩
    show (none : Option Nat) ≠ some 4
    decide
  · decide +kernel
  · exact ⟨blockedState true, 4, 0, _, _, [], [], rfl, by decide +kernel, by decide +kernel, rfl, by decide +kernel⟩
  · decide +kernel
  · have c : ∀ b, ∀ n ∈ [1048576, 1048575], (nextTurn (saveTeam (hostState b n) 0 .held) 0 hostLaunch 0 (some 0)).isSome = true
        ∧ preemptible (hostState b n) 0 (hostTeam n) = b ∧ hostedReady (hostState b n) 0 hostLaunch 1 = true := by decide +kernel
    obtain ⟨c1, c2, c3⟩ := c b n hn
    obtain ⟨u, hu⟩ := Option.isSome_iff_exists.1 c1
    refine ⟨hostState b n, u, 0, 0, hostLaunch, hostTeam n, rfl, fun e he => ?_, rfl, rfl, rfl, ⟨1, by show 1 ∈ turnOrder hostLaunch 0 (some 0); decide, c3⟩, hu, rfl, c2⟩
    have k : e ∈ [(0, hostTeam n)] := he
    rw [List.mem_singleton.1 k]
    exact Nat.zero_lt_one
  · have k : e ∈ ([] : List (Nat × Launch)) := he
    cases k
  · have k : e ∈ ([] : List (Nat × Team)) := he
    cases k

/-- Core 0, whose location fails again, hosts logical cores 0 and 1 of launch 0; core 1 is there too; a matrix operation of its team may be
outstanding. -/
def moveState (mat : Bool) : State :=
  let s := hostState false 0
  { s with
    ev := { s.ev with a := 0, flag := true }
    dev := { s.dev with coresav := 3 }
    quads := if mat then
      [(0, { queue := [{ gid := 0, seq := 5, ins := .nop, team := 0, core := 0, quad := 0, exec := 1, pc := 0, npc := 0, w0 := 0, w1 := none }] })] else [] }

theorem wit_TeamsArePlaced_moves :
    (∀ mat, ∃ (s : State) (l : Nat) (ln : Launch) (c : Ctx) (e : Nat × Team), MovesFrom s 0 l ln c ∧ e ∈ hostedTeams s l 0 ∧ teamMats s e.1 = mat ∧
      (∀ x, x ∈ hostedTeams s l 0 → teamMats s x.1 = mat) ∧ ((partCores s c.part).filter fun d => d != 0 && !(coreAt s d).marked) ≠ [] ∧ hostedCores ln 0 = [0, 1]
      ∧ team? s e.1 = some e.2 ∧ e.2.launch = l ∧ e.2.core = 0 ∧ e.2.st = .resident ∧ e.2.t ∈ hostedCores ln 0
      ∧ ∀ x, x ∈ s.teams → x.2.launch = l → x.2.t = e.2.t → x.1 = e.1)
    ∧ ∃ (s : State) (l tid : Nat) (ln : Launch) (tm : Team), hostingLaunches s s.ev.a = [(l, ln)] ∧ residentOf s l s.ev.a = some (tid, tm) ∧
      (∀ x, x ∈ turnOrder ln s.ev.a (some tm.t) → hostedReady s l ln x = false) ∧ tm.turn = 1048576 := by
  refine ⟨fun mat => ⟨moveState mat, 0, hostLaunch, { pasid := 0, part := 0, onPart := true }, (0, hostTeam 0), ⟨⟨rfl, rfl, by decide, rfl⟩,
      ⟨rfl, rfl, rfl, rfl, by decide, fun e he _ _ => ?_⟩, rfl⟩, ?_, by cases mat <;> rfl, ?_, by cases mat <;> decide +kernel, by decide, rfl, rfl, rfl, rfl,
      by decide, ?_⟩,
    ⟨{ hostState false 1048576 with launches := [(0, { hostLaunch with retired := [1] })] }, 0, 0, _, hostTeam 1048576, rfl, rfl, fun x hx => ?_, rfl⟩⟩
  · have he : e ∈ [(0, hostLaunch)] := he
    rw [List.mem_singleton.1 he]
  · have k : hostedTeams (moveState mat) 0 0 = [(0, hostTeam 0)] := by cases mat <;> rfl
    rw [k]
    exact List.mem_singleton.2 rfl
  · have k : hostedTeams (moveState mat) 0 0 = [(0, hostTeam 0)] := by cases mat <;> rfl
    rw [k]
    intro x hx
    rw [List.mem_singleton.1 hx]
    cases mat <;> rfl
  · intro x hx _ _
    have hx : x ∈ [(0, hostTeam 0)] := hx
    rw [List.mem_singleton.1 hx]
  · have k : turnOrder { hostLaunch with retired := [1] } 0 (some 0) = [] := by decide
    have hx : x ∈ turnOrder { hostLaunch with retired := [1] } 0 (some 0) := hx
    rw [k] at hx
    cases hx

/-! ### The fabric, collectives, Sluice and translation -/

/-- A request for four bytes of window 0 of slot 0 arrives; the window is 64 KiB at 0x20000 with every permission. -/
def winState (op : RemOp) (ectx : Nat) (off : Nat := 8) : State :=
  devState 0 0 0 fun s => { s with
    ev := { s.ev with msg := some { op := op, ectx := ectx, win := 0, key := 0, off := off, width := 4, data := [1, 2, 3, 4], cmp := 0 } }
    ctxs := [(0, { pasid := 0, part := 0 })]
    slots := [(0, { expCfg := 1, expCnt := 0x1001 })]
    tabs := [(8192, 2 ^ 16 + 31 * 2 ^ 59 + 0x20000 * 2 ^ 64)]
    tlb := [{ pasid := 0, va := 0x1000, size := 4096, pa := 0x1000, host := false, r := true, w := true, x := true },
      { pasid := 0, va := 0x20000, size := 4096, pa := 0x20000, host := false, r := true, w := true, x := true },
      { pasid := 0, va := 0x21000, size := 4096, pa := 0x30000, host := false, r := true, w := true, x := true }] }

/-- A layer of 64 KiB from host memory in some state. -/
def layer0 (st : Nat) : Layer :=
  { src := 0x40000, dst := 0x20000, bytes := 65536, flag := 0x1000, wlo := 0x20000, whi := 0x30000, kind := 0, pri := 0, state := st }

/-- Launch 0 is a model of that layer, with a transfer. -/
def sluiceState (ly : Layer) (x : Option Xfer) : State :=
  devState 0 0 0 fun s => { s with
    parts := [(0, { granules := 1, turn := some 0 })]
    ctxs := [(0, { pasid := 0, part := 0, onPart := true })]
    launches := [(0, { launch7 0 with ctx := 0, model := some { model0 true with layers := [ly], initial := [0], cur := x } })] }

/-- Request 0 of a transfer of that model is outstanding. -/
def streamRem (now : Nat) (ready : Option RemAns) : State :=
  { sluiceState (layer0 1) (some { layer := 0, req := some 0 }) with now := now, rems := [(0, { rem0 .ld with who := .stream 0, ready := ready })] }

/-- Request 0 of an RLD of lane 3 is outstanding. -/
def laneRem (now : Nat) (ready : Option RemAns) (m : Word) : State :=
  let p := lm 2 6 (.reg 4) 0 .n32
  let s := oneWith (.rld p) fun g => { g with
    fly := [{ seq := 5, ins := .rld p, pc := 0, w0 := 0, w1 := some 0, lanes := lbit 3 ||| m, dep := none, left := lbit 3 ||| m }]
    lanes := g.lanes.map fun e => (e.1, { e.2 with st := .park (.remote 5) }) }
  { s with now := now, rems := [(0, { rem0 .ld with who := .lanes 0 5 (lbit 3), ready := ready })] }

theorem wit_RunnelGoesOn :
    (∃ s : State, s.dev.rmtBusy = true) ∧ (∃ s : State, Accepts s ∧ s.dev.rmtBusy = false) ∧ (∀ b, ∃ s : State, s.dev.reload = b)
    ∧ (∃ (s : State) (m : RemMsg), s.ev.a = 0 ∧ s.ev.msg = some m ∧ ctx? s m.ectx = none)
    ∧ (∃ (s : State) (m : RemMsg), s.ev.a = 0 ∧ s.ev.msg = some m ∧ ctx? s m.ectx ≠ none ∧ targetAddr (windowRead s m) m = none)
    ∧ (∀ off ∈ [8, 0xFFE], ∀ op ∈ [RemOp.ld, .st, .atom .add .n32], ∃ (s : State) (m : RemMsg) (a : Nat) (cx : Ctx) (ps : List (Nat × Nat)), s.ev.a = 0 ∧
        s.ev.msg = some m ∧ ctx? s m.ectx = some cx ∧ targetAddr (windowRead s m) m = some a ∧
        targetReady (windowRead s m) cx (.target s.nextId) m a = .go ps ∧ ps.length = (if off = 8 then 1 else 2) ∧
        (ps.Pairwise fun e f => Apart e.1 e.2 f.1 f.2) ∧ m.op = op ∧ m.poison = false ∧ m.data.length = m.width ∧ ∀ b, b ∈ m.data → b < 256)
    ∧ (∃ (s : State) (m : RemMsg) (a : Nat) (cx : Ctx), s.ev.a = 0 ∧ s.ev.msg = some m ∧ ctx? s m.ectx = some cx ∧
        targetAddr (windowRead s m) m = some a ∧ targetReady (windowRead s m) cx (.target s.nextId) m a = .poison)
    ∧ (∃ (s : State) (m : RemMsg) (a : Nat) (cx : Ctx), s.ev.a = 0 ∧ s.ev.msg = some m ∧ ctx? s m.ectx = some cx ∧
        targetAddr (windowRead s m) m = some a ∧ targetReady (windowRead s m) cx (.target s.nextId) m a = .page a .rd)
    ∧ (∃ (s : State) (m : RemMsg) (a : Nat) (cx : Ctx) (ps : List (Nat × Nat)) (c x k : Nat) (host : Bool), s.ev.a = 0 ∧ s.ev.msg = some m ∧
        ctx? s m.ectx = some cx ∧ targetAddr (windowRead s m) m = some a ∧ targetReady (windowRead s m) cx (.target s.nextId) m a = .go ps ∧
        m.op = .note c ∧ counterAt (windowRead s m) m.ectx c = some x ∧ translate (windowRead s m) none cx.pasid x .rw = .ok k host ∧
        ∀ e, e ∈ s.groups → e.2.ctx = m.ectx → cwaitsFor e.2 = [])
    ∧ (∃ s : State, s.ev.a ≠ 0 ∧ canLoop s s.ev.a = false) ∧ (∃ s : State, mget? s.rems s.ev.a = none)
    ∧ (∃ (s : State) (r : Rem) (gid q L : Nat) (f : Fly) (g : Group) (p : LM) (bs : List Nat), mget? s.rems s.ev.a = some r ∧ r.id = s.ev.a ∧
        r.who = .lanes gid q (lbit L) ∧ L < 32 ∧ r.msg.op = .ld ∧ r.ready = some (.data bs) ∧ group? s gid = some g ∧ flyOf g q = some f ∧
        f.ins = .rld p ∧ p.ty = .n32)
    ∧ (∃ (s : State) (r : Rem) (l i : Nat), mget? s.rems s.ev.a = some r ∧ r.id = s.ev.a ∧ r.ready = some .poison ∧ StreamReq s r l i)
    ∧ (∀ n ∈ [2400000, 2399999], ∃ (s : State) (r : Rem) (l i : Nat), mget? s.rems s.ev.a = some r ∧ r.id = s.ev.a ∧ StreamReq s r l i
        ∧ r.since = 0 ∧ s.now = n)
    ∧ ∃ (s : State) (r : Rem) (gid q : Nat) (m : Word) (f : Fly) (g : Group), mget? s.rems s.ev.a = some r ∧ r.id = s.ev.a ∧
        r.since + 2400000 ≤ s.now ∧ r.who = .lanes gid q m ∧ group? s gid = some g ∧ flyOf g q = some f ∧ f.left &&& ~~~m ≠ 0 := by
  refine ⟨⟨devState 0 0 0 fun s => { s with dev := { s.dev with rmtBusy := true } }, rfl⟩, ⟨devState 0 0 0 id, ⟨by decide, by decide⟩, rfl⟩,
    fun b => ⟨devState 0 0 0 fun s => { s with dev := { s.dev with reload := b } }, rfl⟩, ⟨winState .ld 511, _, rfl, rfl, by decide⟩,
    ⟨{ winState .ld 0 with slots := [] }, _, rfl, rfl, by decide, by decide⟩, fun off h op k => ?_,
    ⟨{ winState .ld 0 with pois := [(0x2000, true)] }, _, 0x20008, _, rfl, rfl, rfl, by decide, by decide⟩,
    ⟨{ winState .ld 0 with tlb := [] }, _, 0x20008, _, rfl, rfl, rfl, by decide, by decide⟩,
    ⟨winState (.note 255) 0, _, 0x20008, _, [], 255, 0x17F8, 0x17F8, false, rfl, rfl, rfl, by decide, by decide, rfl, by decide, by decide,
      fun e he => by cases (he : e ∈ ([] : List (Nat × Group)))⟩,
    ⟨devState 1 0 0 id, by decide, by decide⟩,
    ⟨devState 1 0 0 id, by decide⟩,
    ⟨laneRem 0 (some (.data [1, 2, 3, 4])) 0, _, 0, 5, 3, _, _, _, [1, 2, 3, 4], rfl, rfl, rfl, by decide, rfl, rfl, rfl, rfl, rfl, rfl⟩,
    ⟨streamRem 0 (some .poison), _, 0, 0, rfl, rfl, rfl, rfl, rfl, _, rfl, rfl, rfl⟩,
    fun n _ => ⟨streamRem n none, _, 0, 0, rfl, rfl, ⟨rfl, rfl, _, rfl, rfl, rfl⟩, rfl, rfl⟩,
    ⟨laneRem 2400000 none 1, _, 0, 5, lbit 3, _, _, rfl, rfl, by decide, rfl, rfl, rfl, by decide⟩⟩
  simp only [List.mem_cons, List.not_mem_nil, or_false] at h
  simp only [List.mem_cons, List.not_mem_nil, or_false] at k
  obtain rfl | rfl := h
  · exact ⟨winState op 0, _, 0x20008, _, [(0x20008, 4)], rfl, rfl, rfl, by obtain rfl | rfl | rfl := k <;> decide,
      by obtain rfl | rfl | rfl := k <;> decide, rfl, by simp, rfl, rfl, rfl, (by decide : ∀ b ∈ [1, 2, 3, 4], b < 256)⟩
  · exact ⟨winState op 0 0xFFE, _, 0x20FFE, _, [(0x20FFE, 2), (0x30000, 2)], rfl, rfl, rfl, by obtain rfl | rfl | rfl := k <;> decide,
      by obtain rfl | rfl | rfl := k <;> decide, rfl, by simp [Apart], rfl, rfl, rfl, (by decide : ∀ b ∈ [1, 2, 3, 4], b < 256)⟩

/-- The range is ready for a unit. -/
def readyOk : VaRes → Bool
  | .ok => true
  | _ => false
theorem readyOk_of {r : VaRes} (h : readyOk r = true) : r = .ok := by cases r <;> first | rfl | cases h
/-- The range is denied. -/
def readyNo : VaRes → Bool
  | .denied => true
  | _ => false
theorem readyNo_of {r : VaRes} (h : readyNo r = true) : r = .denied := by cases r <;> first | rfl | cases h

/-- An all-reduce of two 32-bit integers with SEQ 1 on communicator 0 of slot 0. -/
def coll1 (started : Bool) (ended : Option Nat) : Coll :=
  { coll0 with seq := 1, ty := .i32, count := 2, bucket := false, src := 0x1000, dst := 0x1200, started := started, ended := ended, mine := [1, 0, 0, 0, 2, 0, 0, 0] }

/-- That collective is posted; the other rank's contribution is here. -/
def postState (c : Coll) (r : Bool) : State :=
  { one .nop with
    ev := { State.reset.ev with a := 0, b := 0, c := 1 }
    colls := [(4, c)]
    cmsgs := [{ slot := 0, comm := 0, seq := 1, rank := 1, bytes := [3, 0, 0, 0, 255, 255, 255, 255], poison := false }]
    tlb := [{ pasid := 0, va := 0x1000, size := 4096, pa := 0x1000, host := false, r := r, w := true, x := false }] }

/-- The result of two values of .f32. -/
def collF : Coll := { coll1 true none with ty := .f32, mine := [0, 0, 128, 63, 0, 0, 0, 64] }

theorem wit_CollectivesRun :
    (∃ s : State, collOf s s.ev.a s.ev.b s.ev.c = none)
    ∧ (∃ (s : State) (c : Coll), collOf s s.ev.a s.ev.b s.ev.c = some c ∧ coll? s c.id = some c ∧ canStart s c = false ∧ canFinish s c = false)
    ∧ (∃ (s : State) (c : Coll) (cx : Ctx) (bs : List Nat) (po : Bool), collOf s s.ev.a s.ev.b s.ev.c = some c ∧ coll? s c.id = some c ∧ canStart s c = true
        ∧ ctx? s c.slot = some cx ∧ vaReady s (.coll c.id) c.slot c.src (collReads c) false = .ok ∧ vaRead s (some c.core) cx.pasid c.src (collReads c) = (bs, po))
    ∧ (∃ (s : State) (c : Coll), collOf s s.ev.a s.ev.b s.ev.c = some c ∧ coll? s c.id = some c ∧ canStart s c = true
        ∧ vaReady s (.coll c.id) c.slot c.src (collReads c) false = .denied)
    ∧ (∃ (s : State) (c : Coll) (st : Nat) (g : Group), collOf s s.ev.a s.ev.b s.ev.c = some c ∧ coll? s c.id = some c ∧ canFinish s c = true
        ∧ c.counter = none ∧ c.ended = some st ∧ group? s c.gid = some g ∧ g.exited = false)
    ∧ (∃ (s : State) (c : Coll) (g : Group) (cx : Ctx) (k : Nat) (host : Bool) (bs : List Nat), collOf s s.ev.a s.ev.b s.ev.c = some c ∧
        coll? s c.id = some c ∧ canFinish s c = true ∧ c.counter = none ∧ c.ended = none ∧ c.op ≤ 1 ∧ (∀ cr, (coreAt s cr).weirs = []) ∧
        (∀ r, r < c.m → ∃ b, contrib s c r = some (b, false)) ∧ group? s c.gid = some g ∧ g.exited = false ∧ ctx? s c.slot = some cx ∧
        vaReady s (.coll c.id) c.slot c.dst (collDstLen c.op c.m c.rank (collUnits c.count c.block) (collPay c.ty c.block c.count)
          (collUnit c.ty c.block)) true = .ok ∧
        collResult s c = [(bs, false)] ∧ c.dst % 4096 + bs.length ≤ 4096 ∧ (∀ b, b ∈ bs → b < 256) ∧ translate s none cx.pasid c.dst .wr = .ok k host)
    ∧ (∃ (s : State) (c : Coll) (a b : List Nat), c.ty = .f32 ∧ c.op = 0 ∧ c.block = false ∧ c.m = 2 ∧ contrib s c 0 = some (a, false) ∧
        contrib s c 1 = some (b, false))
    ∧ (∃ s : State, cidHome s s.ev.a = none)
    ∧ (∃ (s : State) (n i : Nat), cidHome s s.ev.a = some (n, i) ∧ (∀ e, e ∈ s.cmsgs → e.seq ≠ s.ev.b))
    ∧ ∃ (s : State) (n i id : Nat) (c : Coll), cidHome s s.ev.a = some (n, i) ∧ (∃ x, x ∈ s.cmsgs ∧ x.slot = n ∧ x.comm = i ∧ x.seq = s.ev.b ∧ x.rank = s.ev.c)
        ∧ mord s.colls = true ∧ coll? s id = some c ∧ c.slot = n ∧ c.comm = i ∧
        c.seq = s.ev.b ∧ c.ended = none := by
  have nw {s : State} (h : s.cores = []) (cr : Nat) : (coreAt s cr).weirs = [] := by simp [coreAt, h, mget, mget?]
  let home (a b c : Nat) : State := { collState .nop [] with
    ev := { State.reset.ev with a := a, b := b, c := c }
    colls := [(4, coll1 true none)]
    cmsgs := [{ slot := 0, comm := 0, seq := 1, rank := 1, bytes := [], poison := false }] }
  refine ⟨⟨devState 0 0 0 id, rfl⟩, ⟨postState { coll1 false none with seq := 1, bucket := true } true, _, rfl, rfl, by decide, by decide⟩,
    ⟨postState (coll1 false none) true, _, _, _, _, rfl, rfl, by decide, rfl, readyOk_of (by decide), rfl⟩,
    ⟨postState (coll1 false none) false, _, rfl, rfl, by decide, readyNo_of (by decide)⟩,
    ⟨postState (coll1 true (some 4)) true, _, _, _, rfl, rfl, by decide, rfl, rfl, rfl, rfl⟩,
    ⟨postState (coll1 true none) true, _, _, _, 0x1200, false, [4, 0, 0, 0, 1, 0, 0, 0], rfl, rfl, by decide, rfl, rfl, by decide, nw rfl, fun r hr => ?_, rfl, rfl,
      rfl, readyOk_of (by decide), by decide +kernel, by decide, by decide, by decide⟩,
    ⟨postState collF true, collF, _, _, rfl, rfl, rfl, rfl, rfl, rfl⟩, ⟨devState 0 0 0 id, by decide⟩,
    ⟨home 5 2 1, 0, 0, by decide +kernel, fun e he => ?_⟩,
    ⟨home 5 1 1, 0, 0, 4, _, by decide +kernel, ⟨_, List.mem_singleton.2 rfl, rfl, rfl, rfl, rfl⟩, rfl, rfl, rfl, rfl, rfl, rfl⟩⟩
  · have : r = 0 ∨ r = 1 := by have : r < 2 := hr; omega
    obtain rfl | rfl := this
    · exact ⟨_, rfl⟩
    · exact ⟨_, rfl⟩
  · rw [List.mem_singleton.1 he]; show (1 : Nat) ≠ 2; decide

/-- The transfer of a layer has `n` bytes to go, and the source's page can be read as `r` says. -/
def beatState (n : Nat) (r pois : Bool) : State :=
  { sluiceState (layer0 1) (some { layer := 0, done := 65536 - n }) with
    tlb := [{ pasid := 0, va := 0x20000, size := 65536, pa := 0x20000, host := false, r := true, w := true, x := false },
      { pasid := 0, va := 0x40000, size := 65536, pa := 0x40000, host := true, r := r, w := true, x := false }]
    pois := if pois then [((hostBase + 0x4FF80) / 16, true)] else [] }

/-- A record of the host-call ring. -/
def hcRec (f : Bool) : State :=
  devState 0 0 0 fun s => { s with dev := { s.dev with hcPend := [List.replicate 24 7], hcProd := 63 }, ev := { s.ev with flag := f } }

/-- A pool of 1 MiB, in which another layer of 1 MiB lies. -/
def poolState (ev : List Nat) : State :=
  let m : Model := { model0 true with layers := [layer0 0, { layer0 2 with bytes := 0x100000, counted := true, dst := 0x100000 }], initial := [0], evicting := ev }
  { sluiceState (layer0 0) none with
    parts := [(0, { granules := 1, pool := 1, turn := some 0 })]
    launches := [(0, { launch7 0 with ctx := 0, model := some m })] }

theorem wit_SluiceRuns :
    (∀ n ∈ [0, 1, 2], ∃ (s : State) (ln : Launch) (m : Model) (c : Ctx) (i : Nat) (asked : Bool) (ly : Layer), launch? s s.ev.a = some ln ∧
      ln.model = some m ∧ ctx? s ln.ctx = some c ∧ streamLive s ln = true ∧ m.cur = none ∧ streamHead m = some (i, asked) ∧ m.layers[i]? = some ly ∧
      match n with
      | 0 => ly.state = 4
      | 1 => ly.state ≠ 4 ∧ poolSize s c.part ≠ 0 ∧ poolSize s c.part < ly.bytes
      | _ => ly.state ≠ 4 ∧ poolSize s c.part ≠ 0 ∧ poolUsed s c.part + ly.bytes ≤ poolSize s c.part)
    ∧ (∃ (s : State) (ln : Launch) (m : Model) (c : Ctx) (i : Nat) (asked : Bool) (ly : Layer) (l k : Nat) (x : Layer) (r : List (Nat × Nat × Layer)),
      launch? s s.ev.a = some ln ∧ ln.model = some m ∧ ctx? s ln.ctx = some c ∧ streamLive s ln = true ∧ m.cur = none ∧ streamHead m = some (i, asked) ∧
      m.layers[i]? = some ly ∧ ly.state ≠ 4 ∧ poolSize s c.part ≠ 0 ∧ ly.bytes ≤ poolSize s c.part ∧
      poolSize s c.part < poolUsed s c.part + ly.bytes ∧ evictingIn s c.part = false ∧ evictCands s c.part = (l, k, x) :: r ∧
      poolUsed s c.part + ly.bytes ≤ poolSize s c.part + (evictCands s c.part).foldl (fun a e => a + e.2.2.bytes) 0 ∧ (layer? s l k).isSome = true)
    ∧ (∃ s : State, launch? s s.ev.a = none)
    ∧ (∀ b, ∃ (s : State) (x : Xfer) (ly : Layer), xferOf s s.ev.a = some x ∧ layer? s s.ev.a x.layer = some ly ∧ decide (x.done < ly.bytes) = b)
    ∧ (∃ (s : State) (x : Xfer) (ly : Layer), xferOf s s.ev.a = some x ∧ layer? s s.ev.a x.layer = some ly ∧ ly.bytes ≤ x.done
        ∧ ∃ e, e ∈ s.teams ∧ e.2.launch = s.ev.a ∧ x.layer ∈ e.2.holds)
    ∧ (∀ b, ∃ (s : State) (ly : Layer), layer? s s.ev.a s.ev.b = some ly ∧ isEvicting s s.ev.a s.ev.b = b)
    ∧ (∃ s : State, ∀ e, e ∈ s.launches → canBeat s e.1 e.2 = false)
    ∧ (∀ n ∈ [0, 1, 2], ∃ (s : State) (id : Nat) (ln : Launch) (x : Xfer) (ly : Layer) (c : Ctx) (bs : List Nat) (po : Bool),
      (s.launches.filter fun e => canBeat s e.1 e.2) = [(id, ln)] ∧ launch? s id = some ln ∧ xferOf s id = some x ∧ layer? s id x.layer = some ly ∧
      ctx? s ln.ctx = some c ∧ ly.kind ≠ 1 ∧ ly.src + ly.bytes ≤ 2 ^ 57 ∧
      (let n' := min 4096 (ly.bytes - x.done)
       vaReady s (.stream id) ln.ctx (ly.dst + x.done) n' true = .ok ∧
       match n with
       | 0 => vaReady s (.stream id) ln.ctx (ly.src + x.done) n' false = .denied
       | 1 => vaReady s (.stream id) ln.ctx (ly.src + x.done) n' false = .ok ∧ vaRead s none c.pasid (ly.src + x.done) n' = (bs, po) ∧ po = true
       | _ => vaReady s (.stream id) ln.ctx (ly.src + x.done) n' false = .ok ∧ vaRead s none c.pasid (ly.src + x.done) n' = (bs, po) ∧ po = false
           ∧ (ly.dst + x.done) % 4096 + n' ≤ 4096 ∧ ∃ k host, translate s none c.pasid (ly.dst + x.done) .wr = .ok k host ∧ Unheld s k n'))
    ∧ (∃ s : State, s.dev.hcPend = [])
    ∧ ∀ f, ∃ (s : State) (r : List Nat) (q : List (List Nat)), s.dev.hcPend = r :: q ∧ r.length = 24 ∧ (∀ b, b ∈ r → b < 256) ∧ s.ev.flag = f := by
  refine ⟨fun n hn => ?_, ⟨poolState [], _, _, _, 0, false, _, 0, 1, _, _, rfl, rfl, rfl, rfl, rfl, rfl, rfl, by decide, by decide, by decide, by decide, by decide,
      rfl, by decide, rfl⟩,
    ⟨devState 0 0 0 id, rfl⟩, fun b => ?_,
    ⟨{ sluiceState (layer0 1) (some { layer := 0, done := 65536 }) with teams := [(0, { launch := 0, ctx := 0, t := 0, cluster := 0, crank := 0, core := 0, holds := [0] })] },
      _, _, rfl, rfl, by decide, _, List.mem_singleton.2 rfl, rfl, by decide⟩,
    fun b => ?_, ⟨devState 0 0 0 id, fun e he => ?_⟩, fun n hn => ?_, ⟨devState 0 0 0 id, rfl⟩,
    fun f => ⟨hcRec f, _, _, rfl, by decide, by decide, rfl⟩⟩
  · simp only [List.mem_cons, List.not_mem_nil, or_false] at hn
    obtain rfl | rfl | rfl := hn
    · exact ⟨sluiceState (layer0 4) none, _, _, _, 0, false, _, rfl, rfl, rfl, rfl, rfl, rfl, rfl, rfl⟩
    · exact ⟨{ sluiceState { layer0 0 with bytes := 0x200000 } none with parts := [(0, { pool := 1 })] }, _, _, _, 0, false, _, rfl, rfl, rfl, rfl, rfl, rfl, rfl,
        by decide, by decide, by decide⟩
    · exact ⟨{ sluiceState { layer0 0 with bytes := 0x100000 } none with parts := [(0, { pool := 1 })] }, _, _, _, 0, false, _, rfl, rfl, rfl, rfl, rfl, rfl, rfl,
        by decide, by decide, by decide⟩
  · cases b
    · exact ⟨sluiceState (layer0 1) (some { layer := 0, done := 65536 }), _, _, rfl, rfl, by decide⟩
    · exact ⟨sluiceState (layer0 1) (some { layer := 0, done := 65408 }), _, _, rfl, rfl, by decide⟩
  · cases b
    · exact ⟨poolState [], _, rfl, by decide⟩
    · exact ⟨poolState [0], _, rfl, by decide⟩
  · have k : e ∈ ([] : List (Nat × Launch)) := he
    cases k
  · simp only [List.mem_cons, List.not_mem_nil, or_false] at hn
    obtain rfl | rfl | rfl := hn
    · exact ⟨beatState 128 false false, 0, _, _, _, _, [], true, by decide, rfl, rfl, rfl, rfl, by decide, by decide, readyOk_of (by decide), readyNo_of (by decide)⟩
    · exact ⟨beatState 128 true true, 0, _, _, _, _, _, true, rfl, rfl, rfl, rfl, rfl, by decide, by decide, readyOk_of (by decide), readyOk_of (by decide), rfl, rfl⟩
    · exact ⟨beatState 128 true false, 0, _, _, _, _, _, false, rfl, rfl, rfl, rfl, rfl, by decide, by decide, readyOk_of (by decide), readyOk_of (by decide), rfl, rfl,
        by decide, _, _, rfl, unheld_nil rfl⟩

/-- Lane 3 of group 0 waits at a load for its page, whose translation has come to a stage. -/
def pageState (st : PStage) (now : Nat) (f : State → State) : State :=
  let p := lm 2 6 (.reg 4) 0 .n32
  let s := oneWith (.ld p) fun g => { g with
    fly := [{ seq := 5, ins := .ld p, pc := 0, w0 := 0, w1 := some 0, lanes := lbit 3, dep := none, left := lbit 3 }]
    accs := [{ seq := 5, lane := 3, op := .load, ty := .n32, space := .global, comps := [(0x7FFC, 4)], dst := some (.v 2), ctx := 0, launch := 0 }]
    stallAt := some 0
    lanes := g.lanes.map fun e => (e.1, if e.1 = 3 then { e.2 with st := .park (.access 5) } else e.2) }
  f { s with now := now, ev := { s.ev with c := 0x7000 }, waits := [{ id := 9, who := .lanes 0 5, ctx := 0, pasid := 0, page := 0x7000, lanes := lbit 3, stage := st }] }

/-- The answer of ATS or PRI. -/
def withAns (a : AtsAnswer) (r : PriCode) (s : State) : State := { s with ev := { s.ev with ats := a, pri := r } }

/-- The translation of that page. -/
def withPage (s : State) : State :=
  { s with ctlb := [(0, [{ set := 0, tr := { pasid := 0, va := 0x7000, size := 4096, pa := 0x7000, host := false, r := true, w := false, x := false } }])] }

/-- As many page request groups of context 0 as it may have. -/
def withFull (s : State) : State :=
  { s with waits := s.waits ++ List.replicate 512 { id := 10, who := .lanes 0 6, ctx := 0, pasid := 0, page := 0x9000, stage := .pri } }

theorem wit_PagesArrive :
    (∃ (s : State) (pa size : Nat) (host r w x : Bool), s.ev.ats = .grant pa size host r w x ∧ NoneStalled s ∧ (∃ p, AtsWait s s.ev.a s.ev.c p) ∧
      (∀ p, AtsWait s s.ev.a s.ev.c p →
        (∃ cr tm, waiterTeam s p.who = some (cr, tm)) ∧ (p.r = true → r = true) ∧ (p.w = true → w = true) ∧ (p.x = true → x = true)) ∧
      Grantable s (granted s.ev.a s.ev.c pa size host r w x))
    ∧ (∃ (s : State) (p : PWait) (pa size : Nat) (host r w x : Bool), s.ev.ats = .grant pa size host r w x ∧ NoneStalled s ∧
      (s.waits.filter fun q => q.pasid == s.ev.a && q.page == s.ev.c && (q.stage == .ats || q.stage == .again)) = [p] ∧
      waiterTeam s p.who = none ∧ ((p.r = true → r = true) ∧ (p.w = true → w = true) ∧ (p.x = true → x = true)) ∧
      Grantable s (granted s.ev.a s.ev.c pa size host r w x))
    ∧ (∀ n ∈ [0, 1, 2, 3], ∃ (s : State) (p : PWait) (gid seq : Nat) (g : Group),
      (s.waits.filter fun q => q.pasid == s.ev.a && q.page == s.ev.c && (q.stage == .ats || q.stage == .again)) = [p] ∧ OneWait s p gid seq g ∧
      NoneStalled s ∧ PageAbsent s p ∧ match n with
      | 0 => p.stage = .ats ∧ s.ev.ats = .absent ∧ replayUsed s (coreOf s g, g.slice) < 64 ∧ priCount s p.ctx < 512
      | 1 => p.stage = .ats ∧ s.ev.ats ≠ .absent ∧ replayUsed s (coreOf s g, g.slice) < 64 ∧ priCount s p.ctx < 512
      | 2 => p.stage = .ats ∧ priCount s p.ctx = 512
      | _ => p.stage = .again)
    ∧ (∀ n ∈ [1, 2, 3, 4], ∃ (s : State) (p : PWait) (gid seq : Nat) (g : Group) (c : Ctx),
      (s.waits.filter fun q => q.pasid == s.ev.a && q.page == s.ev.c && (q.stage == .ats || q.stage == .again)) = [p] ∧ LaneWait s p gid seq g c ∧
      NoneStalled s ∧ match n with
      | 1 => s.ev.ats = .error
      | 2 => p.since + 2400000 = s.now
      | 3 => s.now + 1 = p.since + 2400000
      | _ => ∃ pa size host r w x, s.ev.ats = .grant pa size host r w x ∧ ¬ Grantable s (granted p.pasid p.page pa size host r w x))
    ∧ (∀ n ∈ [0, 1, 2, 3], ∃ (s : State) (p : PWait) (gid seq : Nat) (g : Group) (c : Ctx),
      (s.waits.filter fun q => q.pasid == s.ev.a && q.page == s.ev.c && q.stage == .pri) = [p] ∧ LaneWait s p gid seq g c ∧
      NoneStalled s ∧ match n with
      | 0 => s.ev.pri = .success
      | 1 => s.ev.pri = .failure
      | 2 => p.since + 1200000000 = s.now
      | _ => s.now + 1 = p.since + 1200000000)
    ∧ (∃ s : State, (s.ev.a, s.ev.c) ∈ s.invs) ∧ (∃ s : State, (s.ev.a, s.ev.c) ∉ s.invs)
    ∧ (∃ (s : State) (p : PWait) (u : Trans), s.waits[0]? = some p ∧ p.tr = some u ∧ HitBy u s.ev.a s.ev.c (max 4096 s.ev.b))
    ∧ (∀ n ∈ [120000, 119999], ∃ (s : State) (g : Group), group? s s.ev.a = some g ∧ g.stallAt = some 0 ∧ s.now = n)
    ∧ (∃ (s : State) (g : Group), group? s s.ev.a = some g ∧ groupLive s g = false)
    ∧ (∃ (s : State) (g : Group), group? s s.ev.a = some g ∧ groupLive s g = true ∧ g.trap = none ∧ g.hnd = none ∧ answeredWaits s s.ev.a = [] ∧
        pageStalled s s.ev.a = false)
    ∧ ∃ (s : State) (g : Group) (p : PWait) (q L r ea k : Nat) (a : Acc) (tm : Team) (ln : Launch) (c : Ctx) (host : Bool), group? s s.ev.a = some g ∧
        groupLive s g = true ∧ g.trap = none ∧ g.hnd = none ∧ s.waits = [p] ∧ p.who = .lanes s.ev.a q ∧ p.stage = .ok ∧ p.lanes = lbit L ∧ L < 32 ∧
        g.accs = [a] ∧ a.seq = q ∧ a.lane = L ∧ a.shared = 0 ∧ a.op = .load ∧ a.ty = .n32 ∧ a.space = .global ∧ a.comps = [(ea, 4)] ∧
        a.dst = some (.v r) ∧ a.obj = none ∧ team? s g.team = some tm ∧ launch? s a.launch = some ln ∧ ctx? s a.ctx = some c ∧ ln.owns = [] ∧
        regionKind c ea ≠ 4 ∧ translateFor s (some tm.core) (.lanes s.ev.a q) c.pasid ea .rd = .ok k host ∧ corePois s tm.core c.pasid k 4 = false ∧
        (∀ f, f ∈ g.fly → f.fl = [] ∧ f.cnt = []) ∧ (coreAt s tm.core).weirs = [] := by
  have ns (st : PStage) (now : Nat) (h : st ≠ .stalled) (f : State → State) (e : (pageState st now f).waits = (pageState st now id).waits) :
      NoneStalled (pageState st now f) := by
    intro p hp
    rw [e] at hp
    rw [List.mem_singleton.1 hp]
    exact h
  have one (s : State) (h : (s.waits.map fun q => q.id) = [9]) (p : PWait) (hp : p ∈ s.waits) : ∀ q, q ∈ s.waits → q.id = p.id → q = p := by
    obtain ⟨a, e, -⟩ := List.map_eq_singleton_iff.1 h
    rw [e] at hp ⊢
    intro q hq _
    rw [List.mem_singleton.1 hp, List.mem_singleton.1 hq]
  let g4 (pa : Nat) (host r : Bool) : AtsAnswer := .grant pa 4096 host r false false
  let held : PWait := { id := 9, who := .ctxLoad, ctx := 0, pasid := 0, page := 0x7000, stage := .ok }
  let t64 : Trans := { pasid := 0, va := 0, size := 65536, pa := 0, host := true, r := true, w := true, x := true }
  let unit (s : State) : State := { withAns (g4 0 true true) .success s with waits := [{ id := 9, who := .ctxLoad, ctx := 0, pasid := 0, page := 0x7000 }] }
  refine ⟨⟨pageState .ats 0 (withAns (g4 0 true true) .success), _, _, _, _, _, _, rfl, ns _ _ (by decide) _ rfl,
      ⟨_, List.mem_singleton.2 rfl, rfl, rfl, .inl rfl⟩, fun p hp => ?_, .inl rfl⟩,
    ⟨pageState .ats 0 unit, _, _, _, _, _, _, _, rfl, fun p hp => by rw [List.mem_singleton.1 hp]; decide, rfl, rfl, by decide, .inl rfl⟩,
    fun n hn => ?_, fun n hn => ?_, fun n hn => ?_,
    ⟨devState 3 0 0x1000 fun s => { s with invs := [(3, 0x1000)] }, List.mem_singleton.2 rfl⟩,
    ⟨devState 3 0 0x1000 fun s => { s with invs := [(3, 0x2000)] }, by decide⟩,
    ⟨devState 0 0 0x7000 fun s => { s with waits := [{ held with tr := some t64 }] }, _, _, rfl, rfl, rfl, by decide, by decide⟩,
    fun n _ => ⟨pageState .pri n id, _, rfl, rfl, rfl⟩,
    ⟨modTeam (pageState .ok 0 id) 0 fun t => { t with st := .evicted }, _, rfl, rfl⟩,
    ⟨{ pageState .ok 0 id with waits := [] }, _, rfl, rfl, rfl, rfl, rfl, rfl⟩,
    ⟨pageState .ok 0 withPage, _, _, 5, 3, 2, 0x7FFC, 0x7FFC, _, _, _, _, false, rfl, rfl, rfl, rfl, rfl, rfl, rfl, rfl, by decide, rfl, rfl, rfl, rfl, rfl, rfl, rfl,
      rfl, rfl, rfl, rfl, rfl, rfl, rfl, by decide, by decide, by decide, fun f hf => ?_, rfl⟩⟩
  · have : p ∈ (pageState .ats 0 id).waits := hp.1
    rw [List.mem_singleton.1 this]
    exact ⟨⟨_, _, rfl⟩, by decide, by decide, by decide⟩
  · simp only [List.mem_cons, List.not_mem_nil, or_false] at hn
    obtain rfl | rfl | rfl | rfl := hn
    · exact ⟨pageState .ats 0 (withAns .absent .success), _, 0, 5, _, rfl, ⟨rfl, rfl, ⟨_, rfl, rfl⟩, one _ rfl _ (List.mem_singleton.2 rfl)⟩,
        ns _ _ (by decide) _ rfl, .inl rfl, rfl, rfl, by decide, by decide⟩
    · exact ⟨pageState .ats 0 (withAns (g4 0 true false) .success), _, 0, 5, _, rfl, ⟨rfl, rfl, ⟨_, rfl, rfl⟩, one _ rfl _ (List.mem_singleton.2 rfl)⟩,
        ns _ _ (by decide) _ rfl, .inr ⟨_, _, _, _, _, _, rfl, .inl rfl, by decide⟩, rfl, by decide, by decide, by decide⟩
    · refine ⟨pageState .ats 0 fun s => withFull (withAns .absent .success s),
        { id := 9, who := .lanes 0 5, ctx := 0, pasid := 0, page := 0x7000, lanes := lbit 3 }, 0, 5, _, by decide +kernel,
        ⟨rfl, rfl, ⟨_, rfl, rfl⟩, fun q hq e => ?_⟩, fun q hq => ?_, .inl rfl, rfl, by decide +kernel⟩
      · rcases List.mem_append.1 hq with h | h
        · exact List.mem_singleton.1 h
        · rw [(List.mem_replicate.1 h).2] at e; exact absurd e (by decide)
      · rcases List.mem_append.1 hq with h | h
        · rw [List.mem_singleton.1 h]; decide
        · rw [(List.mem_replicate.1 h).2]; decide
    · exact ⟨pageState .again 0 (withAns .absent .success), _, 0, 5, _, rfl, ⟨rfl, rfl, ⟨_, rfl, rfl⟩, one _ rfl _ (List.mem_singleton.2 rfl)⟩,
        ns _ _ (by decide) _ rfl, .inl rfl, rfl⟩
  · simp only [List.mem_cons, List.not_mem_nil, or_false] at hn
    obtain rfl | rfl | rfl | rfl := hn
    · exact ⟨pageState .again 0 (withAns .error .success), _, 0, 5, _, _, rfl, ⟨rfl, rfl, rfl, rfl⟩, ns _ _ (by decide) _ rfl, rfl⟩
    · exact ⟨pageState .ats 2400000 id, _, 0, 5, _, _, rfl, ⟨rfl, rfl, rfl, rfl⟩, ns _ _ (by decide) _ rfl, rfl⟩
    · exact ⟨pageState .again 2399999 id, _, 0, 5, _, _, rfl, ⟨rfl, rfl, rfl, rfl⟩, ns _ _ (by decide) _ rfl, rfl⟩
    · exact ⟨pageState .ats 0 (withAns (g4 hbmSize false true) .success), _, 0, 5, _, _, rfl, ⟨rfl, rfl, rfl, rfl⟩, ns _ _ (by decide) _ rfl,
        _, _, _, _, _, _, rfl, fun h => h.elim (fun e => by cases e) fun e => absurd e.1 (by decide)⟩
  · simp only [List.mem_cons, List.not_mem_nil, or_false] at hn
    obtain rfl | rfl | rfl | rfl := hn
    · exact ⟨pageState .pri 0 id, _, 0, 5, _, _, rfl, ⟨rfl, rfl, rfl, rfl⟩, ns _ _ (by decide) _ rfl, rfl⟩
    · exact ⟨pageState .pri 0 (withAns .error .failure), _, 0, 5, _, _, rfl, ⟨rfl, rfl, rfl, rfl⟩, ns _ _ (by decide) _ rfl, rfl⟩
    · exact ⟨pageState .pri 1200000000 id, _, 0, 5, _, _, rfl, ⟨rfl, rfl, rfl, rfl⟩, ns _ _ (by decide) _ rfl, rfl⟩
    · exact ⟨pageState .pri 1199999999 id, _, 0, 5, _, _, rfl, ⟨rfl, rfl, rfl, rfl⟩, ns _ _ (by decide) _ rfl, rfl⟩
  · rw [List.mem_singleton.1 hf]; exact ⟨rfl, rfl⟩

/-! ### Traces, errors and management -/

/-- The Plume of die 3 in some condition, and the context of its dump, with pages at 0x8000 of which the given ones can be written. -/
def plumeState (p : Plume) (ctx : Bool) (pages : List (Nat × Bool)) : State :=
  devState 3 0 0 fun s => { s with
    plume := [(3, { p with dctx := 511, daddr := 0x8000 })]
    ctxs := if ctx then [(511, { pasid := 5, part := 0 })] else []
    tlb := pages.map fun (j, w) =>
      { pasid := 5, va := 0x8000 + j * 4096, size := 4096, pa := 0x18000 + j * 8192, host := false, r := true, w := w, x := true } }

/-- Where the pages of that dump lie. -/
def dumpKey (j : Nat) : Nat := 0x18000 + j * 8192

theorem dumpsTo_of {p : Plume} {pages : List (Nat × Bool)} {n : Nat} (h1 : p.busy = true) (h2 : p.recs = [])
    (h : ∀ j ∈ List.range n, translate (plumeState p true pages) none 5 (0x8000 / 4096 * 4096 + j * 4096) .wr = .ok (dumpKey j) false) :
    DumpsTo (plumeState p true pages) 3 { p with dctx := 511, daddr := 0x8000 } { pasid := 5, part := 0 } n dumpKey := by
  refine ⟨⟨h1, rfl, rfl⟩, fun e he => ?_, fun j hj => ⟨_, h j (List.mem_range.2 hj)⟩, fun i j _ _ ne => ?_⟩
  · have he : e ∈ p.recs := he
    rw [h2] at he
    cases he
  · simp only [dumpKey, Apart]
    omega

theorem wit_TracesRecord :
    (∀ held busy rec, ∃ s : State, Accepts s ∧ (plumeOf s (s.ev.a % 4)).held = held ∧ (plumeOf s (s.ev.a % 4)).busy = busy
      ∧ (plumeOf s (s.ev.a % 4)).recording = rec)
    ∧ (∀ rec wrapped wrap, ∃ s : State, (plumeOf s (s.ev.a % 4)).recording = rec ∧ (plumeOf s (s.ev.a % 4)).wrapped = wrapped
      ∧ (plumeOf s (s.ev.a % 4)).wrap = wrap)
    ∧ (∃ s : State, (plumeOf s (s.ev.a % 4)).busy = true ∧ waiting s (.dump (s.ev.a % 4)) = false ∧ ctx? s ((plumeOf s (s.ev.a % 4)).dctx % 512) = none)
    ∧ (∀ n ∈ [0, 1, 2], ∃ (s : State) (c : Ctx) (key : Nat → Nat), let p := plumeOf s (s.ev.a % 4)
      DumpsTo s (s.ev.a % 4) p c n key ∧ dumpLen p ≤ n * 4096 ∧ n * 4096 < dumpLen p + 4096)
    ∧ ∀ k ∈ [0, 1, 2, 3], ∃ (s : State) (c : Ctx) (n : Nat) (key : Nat → Nat), let d := s.ev.a % 4; let p := plumeOf s d
      let a := p.daddr / 4096 * 4096 + n * 4096
      DumpsTo s d p c n key ∧ n * 4096 < dumpLen p ∧ match k with
      | 0 => n = 0 ∧ p.wrapped = true ∧ translate s none c.pasid a .wr = .deny
      | 1 => n = 1 ∧ p.wrapped = true ∧ translate s none c.pasid a .wr = .deny
      | 2 => n = 1 ∧ translate s none c.pasid a .wr = .miss ∧ deniedFor s (.dump d) a = true
      | _ => n = 1 ∧ translate s none c.pasid a .wr = .miss ∧ deniedFor s (.dump d) a = false ∧ a < 2 ^ 57 := by
  refine ⟨fun held busy rec => ⟨plumeState { held := held, busy := busy, recording := rec } false [], ⟨by show (1 : Nat) ≠ 0; decide, by show (1 : Nat) ≠ 2; decide⟩, rfl, rfl, rfl⟩,
    fun rec wrapped wrap => ⟨plumeState { recording := rec, wrapped := wrapped, wrap := wrap } false [], rfl, rfl, rfl⟩,
    ⟨plumeState { busy := true } false [], rfl, rfl, rfl⟩, fun n hn => ?_, fun k hk => ?_⟩
  · simp only [List.mem_cons, List.not_mem_nil, or_false] at hn
    obtain rfl | rfl | rfl := hn
    · exact ⟨plumeState { busy := true, head := 0 } true [], _, dumpKey, dumpsTo_of rfl rfl (by decide), by decide, by decide⟩
    · exact ⟨plumeState { busy := true, head := 42 } true [(0, true)], _, dumpKey, dumpsTo_of rfl rfl (by decide), by decide, by decide⟩
    · exact ⟨plumeState { busy := true, head := 43 } true [(0, true), (1, true)], _, dumpKey, dumpsTo_of rfl rfl (by decide), by decide, by decide⟩
  · simp only [List.mem_cons, List.not_mem_nil, or_false] at hk
    obtain rfl | rfl | rfl | rfl := hk
    · exact ⟨plumeState { busy := true, wrapped := true } true [(0, false)], _, 0, dumpKey, dumpsTo_of rfl rfl (by decide), by decide, rfl, rfl, by decide⟩
    · exact ⟨plumeState { busy := true, wrapped := true } true [(0, true), (1, false)], _, 1, dumpKey, dumpsTo_of rfl rfl (by decide), by decide, rfl, rfl,
        by decide⟩
    · let p : Plume := { busy := true, head := 43 }
      have h := dumpsTo_of (p := p) (pages := [(0, true)]) (n := 1) rfl rfl (by decide)
      exact ⟨{ plumeState p true [(0, true)] with waits := [{ id := 0, who := .dump 3, ctx := 511, pasid := 5, page := 0x9000, stage := .deny }] }, _, 1, dumpKey,
        ⟨⟨rfl, rfl, rfl⟩, h.clean, h.pages, h.apart⟩, by decide, rfl, by decide, by decide⟩
    · exact ⟨plumeState { busy := true, head := 43 } true [(0, true)], _, 1, dumpKey, dumpsTo_of rfl rfl (by decide), by decide, rfl, by decide, by decide, by decide⟩

/-- A state after an event of some operands, ERRLOG open or closed. -/
def errState (a c : Nat) (flag : Bool) (log : Nat) : State :=
  devState a 0 c fun s => { s with ev := { s.ev with flag := flag, data := [1, 2] }, dev := { s.dev with errLog := log } }

theorem wit_ErrorsShow :
    (∀ a ∈ [0, 1, 2, 6, 7], ∀ log ∈ [0, 128], ∃ s : State, s.ev.a = a ∧ s.dev.errLog.testBit 7 = decide (log = 128))
    ∧ (∃ s : State, s.ev.a = 4 ∧ ∀ e, e ∈ s.launches → xferOf s e.1 = none)
    ∧ (∃ (s : State) (id : Nat) (ln : Launch) (x : Xfer) (ly : Layer) (c : Ctx) (va : Nat), s.ev.a = 4 ∧ s.launches = [(id, ln)] ∧ xferOf s id = some x ∧
      layer? s id x.layer = some ly ∧ ctx? s ln.ctx = some c ∧ vaOf s c.pasid s.ev.c = some va ∧ ly.dst ≤ va ∧ va < ly.dst + ly.bytes)
    ∧ (∀ f, ∃ s : State, s.ev.flag = f)
    ∧ (∀ f, ∃ s : State, s.ev.flag = f ∧ s.dev.bar4Gib * 2 ^ 30 + 1 = s.ev.c + (if s.ev.flag then s.ev.data.length else s.ev.a))
    ∧ (∀ f, ∃ s : State, s.ev.flag = f ∧ s.ev.c + (if s.ev.flag then s.ev.data.length else s.ev.a) = s.dev.bar4Gib * 2 ^ 30)
    ∧ ∃ (s : State) (i b : Nat), s.ev.flag = true ∧ s.ev.data[i]? = some b ∧ s.ev.c + 2 ≤ s.dev.bar4Gib * 2 ^ 30 ∧ BarHides s.dev (s.ev.c + i) := by
  refine ⟨fun a _ log hl => ⟨errState a 0 false log, rfl, ?_⟩, ⟨errState 4 0 false 0, rfl, fun e he => by cases (he : e ∈ ([] : List (Nat × Launch)))⟩,
    ⟨let s := beatState 128 true false
     { s with ev := { s.ev with a := 4, c := 0x2FFF0 } }, 0, _, _, _, _, 0x2FFF0, rfl, rfl, rfl, rfl, rfl, by decide, by decide, by decide⟩,
    fun f => ⟨errState 1 0 f 0, rfl⟩, fun f => ⟨errState 2 (2 ^ 39 - 1) f 0, rfl, by cases f <;> decide⟩,
    fun f => ⟨errState 2 (2 ^ 39 - 2) f 0, rfl, by cases f <;> decide⟩,
    ⟨let s := errState 2 0x1000 true 0
     { s with dev := { s.dev with basinEn := true, basinBase := 1, basinLogn := 0 } }, 1, 2, rfl, rfl, by decide, .inl (by decide)⟩⟩
  · simp only [List.mem_cons, List.not_mem_nil, or_false] at hl
    obtain rfl | rfl := hl
    · show Nat.testBit 0 7 = _; decide
    · show Nat.testBit 128 7 = _; decide

/-- The mailbox at a command with a slot, an offset and a length as its arguments; slot 1 is the booted one. -/
def mbState (op n off len : Nat) (verified : Bool) (state : Nat) : State :=
  devState 8 0 0 fun s => { s with dev := { s.dev with
    mbBusy := true, mbOp := op, mbArg := [(0, n), (1, off), (2, len)], slot := 1, state := state
    fwA := { used := true, verified := verified }, fwB := { used := true, verified := verified } } }

theorem wit_MailboxAnswers :
    (∀ b, ∃ s : State, s.dev.mbBusy = b ∧ 8 ≤ s.ev.a % 256) ∧ (∃ s : State, s.ev.a % 256 = 7)
    ∧ (∀ op ∈ [1, 8], ∃ s : State, s.dev.mbBusy = true ∧ s.dev.mbOp = op)
    ∧ (∀ op ∈ [2, 3, 4], ∀ r ∈ [2, 3], ∃ s : State, s.dev.mbBusy = true ∧ s.dev.mbOp = op ∧ SlotRefused s (mbArg s 0) r ∧ mbArg s 0 < 4 ∧ mbArg s 1 = 0
      ∧ mbArg s 2 = 1)
    ∧ (∀ op ∈ [2, 4], ∃ s : State, s.dev.mbBusy = true ∧ s.dev.mbOp = op ∧ (∀ r, ¬ SlotRefused s (mbArg s 0) r) ∧ mbArg s 0 < 4)
    ∧ (∀ l ∈ [0, 2049, 1], ∃ s : State, s.dev.mbBusy = true ∧ s.dev.mbOp = 3
        ∧ (mbArg s 1 % 2048 ≠ 0 ∨ mbArg s 2 = 0 ∨ 2048 < mbArg s 2 ∨ 2 ^ 25 < mbArg s 1 + mbArg s 2) ∧ mbArg s 2 = l)
    ∧ (∃ s : State, s.dev.mbBusy = true ∧ s.dev.mbOp = 3 ∧ ¬ (mbArg s 1 % 2048 ≠ 0 ∨ mbArg s 2 = 0 ∨ 2048 < mbArg s 2 ∨ 2 ^ 25 < mbArg s 1 + mbArg s 2)
        ∧ mbArg s 2 = 2048 ∧ ∀ r, ¬ SlotRefused s (mbArg s 0) r)
    ∧ (∀ v, ∀ n ∈ [1, 2], ∃ s : State, s.dev.mbBusy = true ∧ s.dev.mbOp = 5 ∧ mbArg s 0 = n ∧ (fwSlot s.dev n).verified = v)
    ∧ (∃ s : State, s.dev.mbBusy = true ∧ s.dev.mbOp = 5 ∧ mbArg s 0 = 3)
    ∧ ∀ op ∈ [6, 7], ∀ n ∈ [1, 3], ∃ s : State, s.dev.mbBusy = true ∧ s.dev.mbOp = op ∧ s.dev.state = n := by
  have good (op : Nat) : ∀ r, ¬ SlotRefused (mbState op 2 (2 ^ 25 - 2048) 2048 false 1) (mbArg (mbState op 2 (2 ^ 25 - 2048) 2048 false 1) 0) r := by
    have h : mbArg (mbState op 2 (2 ^ 25 - 2048) 2048 false 1) 0 = 2 := rfl
    rw [h]
    rintro r (⟨-, h, -⟩ | ⟨-, h, -⟩)
    · exact h rfl
    · have h : 2 = 1 := h
      omega
  refine ⟨fun b => ⟨devState 255 0 0 fun s => { s with dev := { s.dev with mbBusy := b } }, rfl, by show 8 ≤ 255 % 256; decide⟩, ⟨devState 7 0 0 id, rfl⟩,
    fun op _ => ⟨mbState op 0 0 0 false 1, rfl, rfl⟩, fun op _ r hr => ?_, fun op _ => ⟨_, rfl, rfl, good op, by show 2 < 4; decide⟩, fun l hl => ?_,
    ⟨_, rfl, rfl, by decide, by decide, good 3⟩, fun v n hn => ?_, ⟨mbState 5 3 0 0 false 1, rfl, rfl, by decide⟩,
    fun op _ n _ => ⟨mbState op 1 0 0 false n, rfl, rfl, rfl⟩⟩
  · simp only [List.mem_cons, List.not_mem_nil, or_false] at hr
    obtain rfl | rfl := hr
    · exact ⟨mbState op 0 0 1 false 1, rfl, rfl, .inl ⟨(by decide : (0 : Nat) ≠ 1), (by decide : (0 : Nat) ≠ 2), rfl⟩, (by decide : 0 < 4), rfl, rfl⟩
    · exact ⟨mbState op 1 0 1 false 1, rfl, rfl, .inr ⟨.inl rfl, rfl, rfl⟩, (by decide : 1 < 4), rfl, rfl⟩
  · simp only [List.mem_cons, List.not_mem_nil, or_false] at hl
    obtain rfl | rfl | rfl := hl
    · exact ⟨mbState 3 2 0 0 false 1, rfl, rfl, .inr (.inl (by decide)), by decide⟩
    · exact ⟨mbState 3 2 0 2049 false 1, rfl, rfl, .inr (.inr (.inl (by decide))), by decide⟩
    · exact ⟨mbState 3 2 (2 ^ 25) 1 false 1, rfl, rfl, .inr (.inr (.inr (by decide))), by decide⟩
  · simp only [List.mem_cons, List.not_mem_nil, or_false] at hn
    obtain rfl | rfl := hn
    · exact ⟨mbState 5 1 0 0 v 1, rfl, rfl, rfl, rfl⟩
    · exact ⟨mbState 5 2 0 0 v 1, rfl, rfl, rfl, rfl⟩

/-- The device draws `w` watts against a limit of 2000, its cores at a budget and the counts of intervals as given. -/
def powerState (w low high : Nat) (budget : Option Nat) : State :=
  devState 0 0 w fun s => { s with
    dev := { s.dev with lowCnt := low, highCnt := high }
    cores := match budget with | some b => (List.range' 0 384).map fun c => (c, { budget := b }) | none => [] }

theorem mget?_range {α : Type} (x : α) (n a k : Nat) : mget? ((List.range' a n).map fun c => (c, x)) k = if a ≤ k ∧ k < a + n then some x else none := by
  induction n generalizing a with
  | zero => rw [if_neg (by omega)]; rfl
  | succ n ih =>
    simp only [List.range'_succ, List.map_cons, mget?, ih]
    by_cases h : a = k
    · rw [if_pos h, if_pos (by omega)]
    · rw [if_neg h]
      by_cases g : a + 1 ≤ k ∧ k < a + 1 + n
      · rw [if_pos g, if_pos (by omega)]
      · rw [if_neg g, if_neg (by omega)]

theorem wit_DeviceIsManaged :
    (∀ n ∈ [0, 1, 2], ∃ s : State, s.dev.state = n)
    ∧ (∀ n ∈ [1, 2], ∃ s : State, s.dev.state = 0 ∧ s.dev.bootNext = n ∧ fwSvn s.dev n < s.dev.fusedMin)
    ∧ (∀ b ∈ [16, 24, 64], ∃ s : State, s.dev.limitW < s.ev.c % 65536 ∧ (coreAt s 383).budget = b)
    ∧ (∃ s : State, s.dev.limitW < s.ev.c % 65536 ∧ (∀ c, c < 384 → (coreAt s c).budget = 16) ∧ s.dev.highCnt + 1 = 100)
    ∧ (∃ s : State, s.dev.limitW < s.ev.c % 65536 ∧ ¬ ∀ c, c < 384 → (coreAt s c).budget = 16)
    ∧ (∀ w ∈ [2000, 1900], ∃ s : State, s.ev.c % 65536 ≤ s.dev.limitW ∧ s.dev.limitW ≤ s.ev.c % 65536 + 100 ∧ s.ev.c % 65536 = w)
    ∧ (∀ n ∈ [8, 9], ∃ s : State, s.ev.c % 65536 + 100 < s.dev.limitW ∧ s.dev.lowCnt = n)
    ∧ ∀ a ∈ [0, 1, 4, 5, 255], ∃ s : State, s.ev.a = a := by
  have bud (b c : Nat) (h : c < 384) : (coreAt (powerState 2001 0 99 (some b)) c).budget = b := by
    have : mget? (powerState 2001 0 99 (some b)).cores c = some { budget := b } := (mget?_range _ 384 0 c).trans (if_pos (by omega))
    rw [coreAt, mget, this]; rfl
  refine ⟨fun n _ => ⟨devState 0 0 0 fun s => { s with dev := { s.dev with state := n } }, rfl⟩,
    fun n hn => ⟨{ State.reset with dev := { State.reset.dev with bootNext := n, fusedMin := 1, fwA := { used := false }, fwB := { used := false } } }, rfl, rfl,
      by simp only [List.mem_cons, List.not_mem_nil, or_false] at hn; obtain rfl | rfl := hn <;> decide⟩,
    fun b _ => ⟨powerState 2001 0 99 (some b), by show 2000 < 2001 % 65536; decide, bud b 383 (by decide)⟩,
    ⟨powerState 2001 0 99 (some 16), by decide, fun c hc => bud 16 c hc, rfl⟩,
    ⟨powerState 65535 0 0 none, by decide, fun h => absurd (h 0 (by decide)) (by decide)⟩, fun w hw => ?_,
    fun n _ => ⟨powerState 1899 n 0 none, by show 1899 % 65536 + 100 < 2000; decide, rfl⟩, fun a _ => ⟨devState a 0 0 id, rfl⟩⟩
  simp only [List.mem_cons, List.not_mem_nil, or_false] at hw
  obtain rfl | rfl := hw
  · exact ⟨powerState 2000 0 0 none, by decide, by decide, rfl⟩
  · exact ⟨powerState 1900 0 0 none, by decide, by decide, rfl⟩

/-! ### Slices and waiting lanes, and the machine as a whole -/

/-- The placed instruction, with its clause still to be fetched, or fetched and not chosen. -/
def sliceState (i : Instr) (fetched : Bool) (f : Group → Group) : State :=
  let s := modGroup (one i) 0 fun g => f { g with lanes := g.lanes.map fun e => (e.1, if fetched then e.2 else { e.2 with cl := none }) }
  { s with sel := none, ev := { s.ev with c := placeAddr } }

/-- Lanes of group 0 in a state. -/
def lanesAt (st : LSt) (f : Lane → Lane) (g : Group) : Group := { g with lanes := g.lanes.map fun e => (e.1, f { e.2 with st := st }) }

/-- The code that memory holds at the placed address. -/
theorem codeAt_of {s : State} {c : Ctx} {cr n : Nat} (h1 : s.ilines = []) (h2 : s.pois = []) (h3 : n = codeWord (fun i => (readByte s (placeAddr + i)).toNat) 0 % 16)
    (h4 : placeAddr + 4 + 4 * n ≤ 2 ^ 57) (h5 : c.regions = [])
    (h6 : ∀ i ∈ List.range (4 + 4 * n), translate s (some cr) c.pasid (placeAddr + i) .ex = .ok (placeAddr + i) false) (h7 : placeAddr < 2 ^ 64) :
    CodeAt s c cr (BitVec.ofNat 64 placeAddr) placeAddr n fun i => (readByte s (placeAddr + i)).toNat := by
  have e : (BitVec.ofNat 64 placeAddr).toNat = placeAddr := by rw [BitVec.toNat_ofNat, Nat.mod_eq_of_lt h7]
  constructor
  · intro i _
    have : oldLine s cr c.pasid ((BitVec.ofNat 64 placeAddr).toNat + i) = none := by simp [oldLine, h1, mget?]
    rw [this]
    exact ⟨(readByte s (placeAddr + i)).isLt, rfl, notPoisoned h2 _ _⟩
  · exact h3
  · rw [e]; exact h4
  · intro i _; simp [regionKind, h5]
  · intro i hi; rw [e]; exact ⟨false, h6 i (List.mem_range.2 hi)⟩

theorem wit_SlicesGoOn :
    (∃ s : State, group? s s.ev.a = none)
    ∧ (∃ (s : State) (g : Group) (e : Entry), group? s s.ev.a = some g ∧ fetchEntry g (BitVec.ofNat 64 s.ev.c) = some e ∧ groupActs s s.ev.a g = false)
    ∧ (∃ (s : State) (g : Group) (e : Entry) (c : Ctx) (k n : Nat) (b : Nat → Nat), group? s s.ev.a = some g ∧ fetchEntry g (BitVec.ofNat 64 s.ev.c) = some e ∧
        groupActs s s.ev.a g = true ∧ ctx? s g.ctx = some c ∧ CodeAt s c (coreOf s g) e.pc k n b ∧ headerReason (codeWord b 0) = none)
    ∧ (∃ s : State, (coreAt s s.ev.a).did.getLsbD (s.ev.b % 16) = true) ∧ (∃ s : State, s.sel ≠ none)
    ∧ (∃ s : State, (coreAt s s.ev.a).did.getLsbD (s.ev.b % 16) = false ∧ s.sel = none ∧ sliceGroups s s.ev.a (s.ev.b % 16) = [])
    ∧ (∃ (s : State) (gid : Nat) (g : Group) (e : Entry) (c : Clause), (coreAt s s.ev.a).did.getLsbD (s.ev.b % 16) = false ∧ s.sel = none ∧
        OneEntry s s.ev.a (s.ev.b % 16) gid g e c)
    ∧ (∀ n ∈ [255, 256], ∃ (s : State) (g : Group), group? s s.ev.a = some g ∧ g.waitCnt = n ∧ g.promoted = none)
    ∧ (∀ n ∈ [63, 64], ∃ (s : State) (g : Group) (L : Nat), group? s s.ev.a = some g ∧ L < 32 ∧ (laneGet g L).pc = BitVec.ofNat 64 s.ev.c ∧
        (laneGet g L).st = .run ∧ (laneGet g L).skip = n)
    ∧ (∃ (s : State) (g : Group), group? s s.ev.a = some g ∧ flyOf g s.ev.b = none)
    ∧ (∃ (s : State) (g : Group) (f : Fly), group? s s.ev.a = some g ∧ flyOf g s.ev.b = some f ∧ f.left = 0 ∧ f.unit = false ∧ f.late = false ∧
        f.hold = false ∧ f.poison = 0 ∧ f.dep = some 2)
    ∧ (∃ (s : State) (g : Group) (f : Fly), group? s s.ev.a = some g ∧ flyOf g s.ev.b = some f ∧ f.left ≠ 0)
    ∧ (∃ (s : State) (g : Group), group? s s.ev.a = some g ∧ groupLive s g = false)
    ∧ (∃ (s : State) (g : Group), group? s s.ev.a = some g ∧ groupLive s g = true ∧ NoHandler g ∧ NoTests g ∧ (laneGet g 31).st = .park (.sleep 0))
    ∧ (∀ n ∈ [0, 1], ∃ (s : State) (g : Group) (x : Ctx) (k : Nat → Nat), group? s s.ev.a = some g ∧ mord s.groups = true ∧ g.ended = false ∧
        ctx? s g.ctx = some x ∧ x.halt = none ∧ NoHandler g ∧ NoTests g ∧ CountersRead s g.ctx x.pasid k ∧ (laneGet g 0).st = .park (.cwait 7 n)
        ∧ readNat s (k 7) 8 = 0)
    ∧ ∀ b, ∃ (s : State) (g : Group) (tid line seq : Nat) (tm : Team), group? s s.ev.a = some g ∧ groupLive s g = true ∧ g.ended = false ∧ g.trap = none ∧
        NoHandler g ∧ s.ev.b < 32 ∧ (laneGet g s.ev.b).st = .park (.line tid line seq) ∧ team? s tid = some tm ∧ tm.st = .resident
        ∧ (mget? tm.absent line).isSome = b := by
  have p : placeAddr < 2 ^ 64 := by decide
  have nt (g : Group) (h1 : g.loops = []) (h2 : ∀ L ∈ List.range 32, (match (laneGet g L).st with | .waitK _ | .loopEnd _ => false | _ => true) = true) : NoTests g := by
    refine ⟨fun n => ?_, fun L hL => ⟨fun k h => ?_, fun n h => ?_⟩⟩
    · simp [loopGet, h1, mget, mget?]
    · have := h2 L (List.mem_range.2 hL); rw [h] at this; cases this
    · have := h2 L (List.mem_range.2 hL); rw [h] at this; cases this
  have nh (g : Group) (h1 : g.hnd = none) (h2 : handLanes g = 0) (h3 : ∀ L ∈ List.range 32, (laneGet g L).wake = false) : NoHandler g :=
    ⟨h1, h2, fun L hL => h3 L (List.mem_range.2 hL)⟩
  let fl (left : Word) : Fly := { seq := 5, ins := .nop, pc := 0, w0 := 0, w1 := none, lanes := 1, dep := some 2, left := left }
  refine ⟨⟨State.reset, rfl⟩, ⟨sliceState .nop false fun g => { g with ended := true }, _, _, rfl, rfl, rfl⟩,
    ⟨sliceState .nop false id, _, _, _, placeAddr, 1, fun i => (readByte (sliceState .nop false id) (placeAddr + i)).toNat, rfl, rfl, by decide, rfl,
      codeAt_of rfl rfl (by decide +kernel) (by decide) rfl (by decide +kernel) p, by decide +kernel⟩,
    ⟨{ State.reset with cores := [(0, { did := 1 })] }, by decide⟩, ⟨one .nop, by show some _ ≠ none; exact Option.some_ne_none _⟩, ⟨State.reset, by decide, rfl, rfl⟩,
    ⟨sliceState (.iadd { d := 1, a := 2, b := .reg 3 }) true id, 0, _, _, _, by decide, rfl,
      ⟨⟨rfl, rfl, by decide, rfl⟩, ⟨by decide, rfl, rfl, rfl⟩, ⟨rfl, rfl, rfl⟩, rfl, ⟨rfl, by decide⟩, by decide +kernel, .inr (by decide +kernel)⟩⟩,
    fun n _ => ⟨sliceState .nop true fun g => { g with waitCnt := n }, _, rfl, rfl, rfl⟩,
    fun n _ => ⟨sliceState .nop true (lanesAt .run fun l => { l with skip := n }), _, 31, rfl, by decide, rfl, rfl, rfl⟩,
    ⟨one .nop, _, rfl, rfl⟩, ⟨{ oneWith .nop fun g => { g with fly := [fl 0] } with ev := { State.reset.ev with b := 5 } }, _, fl 0, rfl, rfl, rfl, rfl, rfl, rfl, rfl, rfl⟩,
    ⟨{ oneWith .nop fun g => { g with fly := [fl 1] } with ev := { State.reset.ev with b := 5 } }, _, fl 1, rfl, rfl, by decide⟩,
    ⟨oneWith .nop fun g => { g with frozen := true }, _, rfl, by decide⟩,
    ⟨sliceState .nop true (lanesAt (.park (.sleep 0)) id), _, rfl, by decide, nh _ rfl (by decide) (by decide), nt _ rfl (by decide), rfl⟩, fun x hx => ?_, fun b => ?_⟩
  · let s : State := { sliceState .nop true (lanesAt (.park (.cwait 7 x)) id) with slots := [(0, { expCnt := 0x1001 })] }
    have hc : ∀ e ∈ s.groups, ∀ c ∈ cwaitsFor e.2, c = 7 ∧ coreOf s e.2 = 0 := by
      simp only [List.mem_cons, List.not_mem_nil, or_false] at hx
      obtain rfl | rfl := hx <;> decide +kernel
    have hr : counterAt s 0 7 = some 0x1038 ∧ entOf (coreTlb s 0) 0 0x1038 =
        some { pasid := 0, va := placeAddr, size := 4096, pa := placeAddr, host := false, r := true, w := true, x := true }
        ∧ poisoned s 0x1038 8 = false := by
      simp only [List.mem_cons, List.not_mem_nil, or_false] at hx
      obtain rfl | rfl := hx <;> decide +kernel
    refine ⟨s, _, _, fun _ => 0x1038, rfl, by rfl, rfl, rfl, rfl, ?_, ?_, fun e c he _ h => ?_, rfl, ?_⟩
    · simp only [List.mem_cons, List.not_mem_nil, or_false] at hx
      obtain rfl | rfl := hx <;> exact nh _ rfl (by decide) (by decide)
    · simp only [List.mem_cons, List.not_mem_nil, or_false] at hx
      obtain rfl | rfl := hx <;> exact nt _ rfl (by decide)
    · obtain ⟨rfl, h0⟩ := hc e he c h
      rw [h0]
      exact ⟨0x1038, _, false, hr.1, hr.2.1, rfl, hr.2.2⟩
    · simp only [List.mem_cons, List.not_mem_nil, or_false] at hx
      obtain rfl | rfl := hx <;> decide +kernel
  · refine ⟨modTeam { sliceState .nop true (lanesAt (.park (.line 0 3 8)) id) with ev := { State.reset.ev with b := 31 } } 0 fun t =>
      { t with absent := if b then [(3, 9)] else [] }, _, 0, 3, 8, _, rfl, by rfl, rfl, rfl, nh _ rfl (by decide) (by decide), by show 31 < 32; decide, rfl, rfl, rfl, ?_⟩
    cases b <;> decide

theorem frameLines_nil {s : State} {c : Ctx} {cr a k : Nat} (h : s.l1 = []) : FrameLines s c cr a k :=
  ⟨linesWhole_nil h, fun _ _ _ => l1Data_nil h⟩

/-- Lanes 0 to 3 have a trap that is pending, and frame 0 may be written. -/
def pendState (page : Bool) (busy : Bool) : State :=
  let tr : TrapRec := { cause := 0x0E, pc := 0x1004, npc := 0x1008, tlanes := 15 }
  let s := oneWith .nop fun g => { g with
    trap := some { tr := tr, frame := 1, lanes := g.lanes }
    fly := if busy then [{ seq := 5, ins := .nop, pc := 0, w0 := 0, w1 := none, lanes := 1, dep := none, regs := [.v 3] }] else [] }
  { s with
    ctxs := [(0, { pasid := 0, part := 0, onPart := true, trapArea := 0x8000, trapSize := 2048 })]
    launches := [(0, { launch7 0 with ctx := 0, kern := { trapEntry := 0x2000 } })]
    ctlb := if page then
      [(0, [{ set := 0, tr := { pasid := 0, va := 0x8000, size := 4096, pa := 0x8000, host := false, r := true, w := true, x := false } }])] else [] }

theorem wit_PendingTrapsEnter :
    (∃ (s : State) (g : Group), group? s s.ev.a = some g ∧ g.trap = none)
    ∧ (∃ (s : State) (g : Group) (p : TrapPend) (f : Fly), group? s s.ev.a = some g ∧ g.trap = some p ∧ f ∈ g.fly ∧ f.regs ≠ [] ∧ p.tr.own ≠ some f.seq)
    ∧ ∃ (s : State) (g : Group) (p : TrapPend) (c : Ctx) (ln : Launch) (k : Nat) (host : Bool), group? s s.ev.a = some g ∧ g.trap = some p ∧
        (∀ f, f ∈ g.fly → f.regs = []) ∧ ctxRuns s g.ctx = true ∧ waiting s (.frame s.ev.a) = false ∧ ctx? s g.ctx = some c ∧
        launch? s g.launch = some ln ∧ deniedFor s (.frame s.ev.a) (c.trapArea + p.frame * 0x400) = false ∧ c.trapArea + p.frame * 0x400 < 2 ^ 57 ∧
        translate s (some (coreOf s g)) c.pasid (c.trapArea + p.frame * 0x400) .wr = .ok k host ∧
        FrameLines s c (coreOf s g) (c.trapArea + p.frame * 0x400) k ∧ p.tr.tlanes.getLsbD 0 = true ∧ p.tr.tlanes.getLsbD 4 = false := by
  refine ⟨⟨one .nop, _, rfl, rfl⟩, ⟨pendState true true, _, _, _, rfl, rfl, List.mem_singleton.2 rfl, by decide, by decide⟩,
    ⟨pendState true false, _, _, _, _, 0x8400, false, rfl, rfl, fun f hf => ?_, by decide, by decide, rfl, rfl, by decide, by decide, by decide,
      frameLines_nil rfl, by decide, by decide⟩⟩
  have k : f ∈ ([] : List Fly) := hf
  cases k

/-- The conditions of `Issues`, as a check. -/
def issuesB (v : View) (i : Instr) : Bool :=
  let op := opOf v.w0.toNat
  !opReserved op && classOf op == v.hdr.eclass && (!opLong op || v.wn.isSome) && (match decode v.w0.toNat (v.wn.getD 0).toNat with | .ok j => j == i | .error _ => false)
    && (!i.transfers || v.npc == clauseEnd v.is.cl)
    && (!v.hdr.fuse || (0x30 ≤ op && op ≤ 0x37 && (writesOf (uses i)).all fun r => !(readsOf (uses i)).contains r
      && (earlier v.is.cl v.is.pc 15 (v.is.cl.addr + 4)).all fun j => !(readsOf (uses j)).contains r && !(writesOf (uses j)).contains r))

theorem issues_of {v : View} {i : Instr} (h : issuesB v i = true) : Issues v i := by
  simp only [issuesB, Bool.and_eq_true, Bool.or_eq_true, Bool.not_eq_true', beq_iff_eq, decide_eq_true_eq, List.all_eq_true,
    Option.isSome_iff_ne_none] at h
  obtain ⟨⟨⟨⟨⟨h1, h2⟩, h3⟩, h4⟩, h5⟩, h6⟩ := h
  refine ⟨h1, h2, fun a => h3.resolve_left (by rw [a]; first | done | decide), ?_, fun a => h5.resolve_left (by rw [a]; first | done | decide), fun a => ?_⟩
  · split at h4
    · rename_i j hj; rw [hj, beq_iff_eq.1 h4]
    · cases h4
  · obtain ⟨⟨k1, k2⟩, k3⟩ := h6.resolve_left (by rw [a]; first | done | decide)
    refine ⟨k1, k2, fun r hr => ?_⟩
    obtain ⟨k4, k5⟩ := k3 r hr
    refine ⟨fun m => ?_, fun j hj => ⟨fun m => ?_, fun m => ?_⟩⟩
    · rw [List.contains_iff_mem.2 m] at k4; cases k4
    · have := (k5 j hj).1; rw [List.contains_iff_mem.2 m] at this; cases this
    · have := (k5 j hj).2; rw [List.contains_iff_mem.2 m] at this; cases this

/-- A clause of class 0 unless given, with some words, whose first word is chosen. -/
def wordsState (ws : List Word) : State :=
  let s := one .nop
  { s with sel := s.sel.map fun x => { x with cl := { addr := x.cl.addr, words := ws } } }

theorem wit_StepsRunDecoded :
    (∀ i ∈ [Instr.iadd { d := 1, a := 2, b := .scal 3 }, .bra 0x1FFFFFF, .imad (wl 4 5 (.reg 6) 7 .i32 0), .fadd (wl 4 5 (.reg 6) 0 .f32 0)],
      ∃ (s : State) (v : View), view s = some v ∧ Issues v i)
    ∧ (∃ (s : State) (v : View), view s = some v ∧ opReserved (opOf v.w0.toNat) = true)
    ∧ (∃ (s : State) (v : View), view s = some v ∧ opReserved (opOf v.w0.toNat) = false ∧ classOf (opOf v.w0.toNat) ≠ v.hdr.eclass)
    ∧ (∃ (s : State) (v : View), view s = some v ∧ opReserved (opOf v.w0.toNat) = false ∧ classOf (opOf v.w0.toNat) = v.hdr.eclass ∧
        opLong (opOf v.w0.toNat) = true ∧ v.wn = none)
    ∧ (∃ (s : State) (v : View) (r : Reason), view s = some v ∧ opReserved (opOf v.w0.toNat) = false ∧ classOf (opOf v.w0.toNat) = v.hdr.eclass ∧
        (opLong (opOf v.w0.toNat) = true → v.wn ≠ none) ∧ decode v.w0.toNat (v.wn.getD 0).toNat = .error r)
    ∧ (∃ (s : State) (v : View) (i : Instr), view s = some v ∧ opReserved (opOf v.w0.toNat) = false ∧ classOf (opOf v.w0.toNat) = v.hdr.eclass ∧
        (opLong (opOf v.w0.toNat) = true → v.wn ≠ none) ∧ decode v.w0.toNat (v.wn.getD 0).toNat = .ok i ∧ i.transfers = true ∧ v.npc ≠ clauseEnd v.is.cl)
    ∧ (∃ (s : State) (d : Due), s.sel = none ∧ s.agenda.find? (fun x => x.at_ ≤ s.now) = some d)
    ∧ ∃ (s : State) (e : Event), s.sel = none ∧ (∀ d, d ∈ s.agenda → s.now < d.at_) ∧ (mustEvents s).head? = some e := by
  have w (s : State) (p : View → Bool) (h : issueIs s p = true) := issueIs_view h
  refine ⟨fun i hi => ?_, ?_, ?_, ?_, ?_, ?_, ⟨{ State.reset with agenda := [{ at_ := 0, ins := .deviceReset, ev := {} }] }, _, rfl, rfl⟩, ?_⟩
  · obtain ⟨v, h, q⟩ := w (one i) (fun v => issuesB v i)
      (by simp only [List.mem_cons, List.not_mem_nil, or_false] at hi; obtain rfl | rfl | rfl | rfl := hi <;> decide +kernel)
    exact ⟨_, v, h, issues_of q⟩
  · obtain ⟨v, h, q⟩ := w (wordsState [0xB0000FC1, 0x1E000000]) (fun v => opReserved (opOf v.w0.toNat)) (by decide +kernel)
    exact ⟨_, v, h, q⟩
  · obtain ⟨v, h, q⟩ := w (wordsState [0xB0000FC1, 0x40000000]) (fun v => decide (opReserved (opOf v.w0.toNat) = false ∧ classOf (opOf v.w0.toNat) ≠ v.hdr.eclass)) (by decide +kernel)
    exact ⟨_, v, h, of_decide_eq_true q⟩
  · obtain ⟨v, h, q⟩ := w (wordsState [0xB0000F81, 0x58000000]) (fun v => decide (opReserved (opOf v.w0.toNat) = false ∧ classOf (opOf v.w0.toNat) = v.hdr.eclass ∧
        opLong (opOf v.w0.toNat) = true ∧ v.wn = none)) (by decide +kernel)
    exact ⟨_, v, h, of_decide_eq_true q⟩
  · obtain ⟨v, h, q⟩ := w (wordsState [0xB0000FC1, 0x00000001]) (fun v => (match decode v.w0.toNat (v.wn.getD 0).toNat with | .error _ => true | .ok _ => false) &&
        decide (opReserved (opOf v.w0.toNat) = false ∧ classOf (opOf v.w0.toNat) = v.hdr.eclass ∧ (opLong (opOf v.w0.toNat) = true → v.wn ≠ none))) (by decide +kernel)
    simp only [Bool.and_eq_true, decide_eq_true_eq] at q
    obtain ⟨q1, q2, q3, q4⟩ := q
    split at q1
    · exact ⟨_, v, _, h, q2, q3, q4, ‹_›⟩
    · cases q1
  · obtain ⟨v, h, q⟩ := w (wordsState [0xB0000FC2, 0x02000000, 0]) (fun v => (match decode v.w0.toNat (v.wn.getD 0).toNat with | .error _ => false | .ok i => i.transfers) &&
        decide (opReserved (opOf v.w0.toNat) = false ∧ classOf (opOf v.w0.toNat) = v.hdr.eclass ∧ (opLong (opOf v.w0.toNat) = true → v.wn ≠ none)
          ∧ v.npc ≠ clauseEnd v.is.cl)) (by decide +kernel)
    simp only [Bool.and_eq_true, decide_eq_true_eq] at q
    obtain ⟨q1, q2, q3, q4, q5⟩ := q
    split at q1
    · cases q1
    · exact ⟨_, v, _, h, q2, q3, q4, ‹_›, q1, q5⟩
  · have h : ((mustEvents { State.reset with plume := [(3, { recording := true, wrapped := true })] }).head?).isSome = true := by decide
    obtain ⟨e, he⟩ := Option.isSome_iff_exists.1 h
    refine ⟨_, e, rfl, fun d hd => ?_, he⟩
    have k : d ∈ ([] : List Due) := hd
    cases k

theorem wit_EncodingsAgree : (∀ i ∈ [Instr.iadd { d := 255, a := 255, b := .scal 127 }, .bra 0x1FFFFFF, .trap 0xFFFF, .imad (wl 255 255 (.reg 255) 255 .i32 0)],
      i.wf = true ∧ encode i ≠ [])
    ∧ ∃ (w e : Nat) (i : Instr), w < 2 ^ 32 ∧ e < 2 ^ 32 ∧ decode w e = .ok i :=
  ⟨by decide, 0, 2 ^ 32 - 1, .nop, by decide, by decide, rfl⟩

/-- An addition, and a joint matrix operation. -/
def addI : Instr := .iadd { d := 40, a := 41, b := .reg 42 }
def mmJ : Instr := .mmaj { d := 48, a := 52, b := .reg 56, c := 48, aty := .i8, cty := .i32, sp := 0, dep := some 7 } 0 false

theorem wit_EffectsAreGuarded :
    (∃ (i : Instr) (s : State) (v : View), encode i ≠ [] ∧ view s = some v ∧ (∀ b, ¬ Privileged i b) ∧ usesBad v.ln.kern (uses i) = true)
    ∧ (∃ (i : Instr) (s : State) (v : View), encode i ≠ [] ∧ view s = some v ∧ MatrixOp i true ∧ usesBad v.ln.kern (uses i) = false ∧ v.exec = 0)
    ∧ (∃ (i : Instr) (s : State) (v : View), encode i ≠ [] ∧ view s = some v ∧ (∀ b, ¬ MatrixOp i b) ∧ (∀ b, ¬ Privileged i b) ∧
        usesBad v.ln.kern (uses i) = false ∧ v.exec = 0 ∧ v.is.step = none ∧ Plain s v)
    ∧ (∃ (i : Instr) (s : State) (v : View), encode i ≠ [] ∧ view s = some v ∧ (∀ b, ¬ Privileged i b) ∧ usesBad v.ln.kern (uses i) = false ∧
        readsPoison v.g (uses i) v.exec = true ∧ (∀ p, i ≠ .pref p) ∧ ∀ b, ¬ MatrixOp i b)
    ∧ ∃ (i : Instr) (s : State) (v : View), encode i ≠ [] ∧ view s = some v ∧ usesBad v.ln.kern (uses i) = false ∧ readsPoison v.g (uses i) v.exec = true ∧
        MatrixOp i true ∧ v.exec = allLanes ∧ v.g.idx < 4 * v.ln.kern.quartets := by
  have np (b : Bool) : ¬ Privileged addI b := by unfold addI; intro h; cases h
  have nm (b : Bool) : ¬ MatrixOp addI b := by unfold addI; intro h; cases h
  refine ⟨?_, ?_, ?_, ?_, ?_⟩
  · obtain ⟨v, h, q⟩ := issueIs_view (s := modLaunch (one addI) 0 fun l => { l with kern := { l.kern with vregs := 32 } }) (p := fun v => usesBad v.ln.kern (uses addI))
      (by decide +kernel)
    exact ⟨addI, _, v, by decide, h, np, q⟩
  · obtain ⟨v, h, q⟩ := issueIs_view (s := lanesOnly (one mmJ) 0) (p := fun v => decide (usesBad v.ln.kern (uses mmJ) = false ∧ v.exec = 0)) (by decide +kernel)
    exact ⟨mmJ, _, v, by decide, h, .mmaj _ _ _, of_decide_eq_true q⟩
  · obtain ⟨v, h, q⟩ := issueIs_view (s := lanesOnly (one addI) 0)
      (p := fun v => decide (usesBad v.ln.kern (uses addI) = false ∧ v.exec = 0 ∧ v.is.step = none) && plainB (lanesOnly (one addI) 0) v) (by decide +kernel)
    simp only [Bool.and_eq_true, decide_eq_true_eq] at q
    exact ⟨addI, _, v, by decide, h, nm, np, q.1.1, q.1.2.1, q.1.2.2, plain_of q.2⟩
  · obtain ⟨v, h, q⟩ := issueIs_view (s := oneWith addI fun g => { g with vpois := [(41 * 32 + 31, true)] })
      (p := fun v => decide (usesBad v.ln.kern (uses addI) = false ∧ readsPoison v.g (uses addI) v.exec = true)) (by decide +kernel)
    obtain ⟨q1, q2⟩ := of_decide_eq_true q
    exact ⟨addI, _, v, by decide, h, np, q1, q2, (fun p hp => by unfold addI at hp; cases hp), nm⟩
  · obtain ⟨v, h, q⟩ := issueIs_view (s := modLaunch (oneWith mmJ fun g => { g with idx := 3, vpois := [(52 * 32, true)] }) 0 fun l =>
        { l with kern := { l.kern with quartets := 1 } })
      (p := fun v => decide (usesBad v.ln.kern (uses mmJ) = false ∧ readsPoison v.g (uses mmJ) v.exec = true ∧ v.exec = allLanes ∧ v.g.idx < 4 * v.ln.kern.quartets))
      (by decide +kernel)
    obtain ⟨q1, q2, q3⟩ := of_decide_eq_true q
    exact ⟨mmJ, _, v, by decide, h, q1, q2, .mmaj _ _ _, q3⟩

theorem wit_StepsKeepMemoryForm : ∃ s t : State, Memory.wf s.mem = true ∧ s.mem ≠ [] ∧ step s = .next t := by
  have h : (match step (one .nop) with | .next _ => true | _ => false) = true := by decide +kernel
  split at h
  · exact ⟨one .nop, _, by decide, by decide, ‹_›⟩
  · cases h

/-- The header at the placed address is 0, and frame 1 is the lowest free one. -/
def headerState : State :=
  let s := sliceState .nop false id
  { s with
    mem := []
    ctxs := [(0, { pasid := 0, part := 0, onPart := true, trapArea := 0x8000, trapSize := 2048, frames := [(0, 9)] })]
    launches := [(0, { launch7 0 with ctx := 0, kern := { trapEntry := 0x2000 } })]
    ctlb := mput s.ctlb 0 ({ set := 0, tr := { pasid := 0, va := 0x8000, size := 4096, pa := 0x8000, host := false, r := true, w := true, x := false } }
      :: coreTlb s 0) }

theorem wit_HeadersFail : ∃ (s : State) (g : Group) (e : Entry) (c : Ctx) (ln : Launch) (k n f kf : Nat) (b : Nat → Nat) (r : Reason) (host : Bool),
    group? s s.ev.a = some g ∧ fetchEntry g (BitVec.ofNat 64 s.ev.c) = some e ∧ groupActs s s.ev.a g = true ∧ ctx? s g.ctx = some c ∧
    launch? s g.launch = some ln ∧ CodeAt s c (coreOf s g) e.pc k n b ∧ headerReason (codeWord b 0) = some r ∧
    c.halt = none ∧ ln.kern.trapEntry ≠ 0 ∧ g.hnd = none ∧ handLanes g = 0 ∧ (∀ x, x ∈ g.fly → x.regs = []) ∧
    f < c.trapSize / 1024 ∧ mget? c.frames f = none ∧ (∀ j, j < f → (mget? c.frames j).isSome = true) ∧ c.trapArea + f * 0x400 < 2 ^ 57 ∧
    translate s (some (coreOf s g)) c.pasid (c.trapArea + f * 0x400) .wr = .ok kf host ∧ deniedFor s (.frame s.ev.a) (c.trapArea + f * 0x400) = false ∧
    FrameLines s c (coreOf s g) (c.trapArea + f * 0x400) kf ∧
    (∀ i, i < 4 + 4 * n → (entOf (coreTlb s (coreOf s g)) c.pasid (e.pc.toNat + i)).isSome = true) ∧ e.lanes.getLsbD 0 = true := by
  refine ⟨headerState, _, _, _, _, placeAddr, 0, 1, 0x8400, fun i => (readByte headerState (placeAddr + i)).toNat, .sig, false, rfl, rfl, by decide, rfl, rfl,
    codeAt_of rfl rfl (by decide +kernel) (by decide) rfl (by decide +kernel) (by decide), by decide +kernel, rfl, by decide, rfl, by decide, fun x hx => ?_,
    by decide, by decide, fun j hj => ?_, by decide, by decide, by decide, frameLines_nil rfl,
    fun i hi => (by decide : ∀ i ∈ List.range 4, (entOf (coreTlb headerState 0) 0 (placeAddr + i)).isSome = true) i (List.mem_range.2 hi), by decide⟩
  · have k : x ∈ ([] : List Fly) := hx
    cases k
  · obtain rfl : j = 0 := by omega
    rfl

end Sys2Proof.Tests
end

section
/-! Every step keeps memory in canonical form (R13; what an unlisted byte reads as: notes/assumptions/1.md). Memory is written by
`writeBytes`, `writePoison` and the write-back of an L1 line alone, and everything else reaches it through them: so each function of the
model that gives a state has one lemma here, which says that it keeps the canonical form, and which follows along the function's branches
from the lemmas of the functions that it calls. They stand in the order of the model. -/

namespace Sys2Proof.Machine

/-- The memory of a state is in canonical form (R13). -/
abbrev MemWf (s : State) : Prop := Memory.wf s.mem = true

/-- An outcome that goes on does so with memory in canonical form. -/
inductive NextWf : Host.Outcome State Fault Refusal → Prop
  | next {t : State} (ht : MemWf t) : NextWf (.next t)
  | fault (r : Fault) : NextWf (.fault r)
  | refused (r : Refusal) : NextWf (.refused r)

/-- An act's state has its memory in canonical form. -/
inductive ActWf : Act → Prop
  | run {t : State} (i : Instr) (ht : MemWf t) : ActWf (.run i t)
  | done {t : State} (ht : MemWf t) : ActWf (.done t)
  | stuck : ActWf .stuck

/-- A read of the front-end that stops to wait does so with memory in canonical form. -/
def WaitWf {α : Type} (x : Except FeStop α) : Prop := ∀ t, x = .error (.wait t) → MemWf t

/-! ### Branches, repetitions and waits -/

theorem memWf_ite {c : Prop} [Decidable c] {s t : State} (hs : MemWf s) (ht : MemWf t) : MemWf (if c then s else t) := by
  split
  · exact hs
  · exact ht

theorem memWf_getD {o : Option State} {s : State} (hs : MemWf s) (ho : ∀ t, o = some t → MemWf t) : MemWf (o.getD s) := by
  cases o with
  | none => exact hs
  | some t => exact ho t rfl

theorem memWf_foldl {α : Type} {f : State → α → State} (hf : ∀ s x, MemWf s → MemWf (f s x)) {s : State} (hs : MemWf s) (l : List α) :
    MemWf (l.foldl f s) := List.foldlRecOn l f hs fun s h x _ => hf s x h

theorem WaitWf.ok {α : Type} (a : α) : WaitWf (.ok a) := fun _ e => nomatch e
theorem WaitWf.bad (α : Type) (n : Nat) : WaitWf (.error (.bad n) : Except FeStop α) := fun _ e => nomatch e
theorem WaitWf.wait {α : Type} {t : State} (ht : MemWf t) : WaitWf (.error (.wait t) : Except FeStop α) := fun _ e => by cases e; exact ht

theorem WaitWf.bind {α β : Type} {x : Except FeStop α} {f : α → Except FeStop β} (hx : WaitWf x) (hf : ∀ a, WaitWf (f a)) :
    WaitWf (x >>= f) := by
  cases x with
  | ok a => exact hf a
  | error e => exact fun t h => hx t (by cases h; rfl)

theorem waitWf_need (b : Bool) : WaitWf (need b) := by
  unfold need
  split
  · exact .ok _
  · exact .bad _ _

section
variable {s : State} (hs : MemWf s)
include hs

/-! ### Machine/Ops -/

theorem memWf_raiseErr (bit) : MemWf (raiseErr s bit) := by grind [raiseErr, modDev_mem, emit_mem]
theorem memWf_monRecord (core cx src x) : MemWf (monRecord s core cx src x) := by grind [monRecord]
theorem memWf_fillCore (cr team t) : MemWf (fillCore s cr team t) := hs
theorem memWf_touchTlb (cr team pasid va) : MemWf (touchTlb s cr team pasid va) := by grind [touchTlb, memWf_fillCore]
theorem memWf_askPasid (who ctx pasid va n lanes) : MemWf (askPasid s who ctx pasid va n lanes) := by grind [askPasid, fresh, emit_mem]
theorem memWf_askPage (who ctx va n lanes) : MemWf (askPage s who ctx va n lanes) := by grind [askPage, memWf_askPasid]
omit hs in
theorem memWf_backFrom (base l i bs mem p) (h : Memory.wf mem = true) : Memory.wf (backFrom base l i bs (mem, p)).1 = true := by
  induction bs generalizing i mem p with
  | nil => exact h
  | cons b r ih => grind [backFrom, memWf_writeByte]
theorem memWf_writeBack1 (k) : MemWf (writeBack1 s k) := by grind [writeBack1, memWf_backFrom]
theorem memWf_evictLine (k) : MemWf (evictLine s k) := by grind [evictLine, memWf_writeBack1]
theorem memWf_writeBackAll (f) : MemWf (writeBackAll s f) := by grind [writeBackAll, memWf_writeBack1, memWf_foldl]
theorem memWf_dropClean (f) : MemWf (dropClean s f) := by grind [dropClean]
theorem memWf_l1Fill (cr c va key load) : MemWf (l1Fill s cr c va key load) := by grind [l1Fill]
theorem memWf_recallRange (key n) : MemWf (recallRange s key n) := by grind [recallRange, memWf_evictLine, memWf_foldl]
theorem memWf_recallLine (key) : MemWf (recallLine s key) := memWf_recallRange hs _ _
theorem memWf_dropLinesOf (pasid a n) : MemWf (dropLinesOf s pasid a n) := hs
theorem memWf_l1Write (cr c va key bs poison) : MemWf (l1Write s cr c va key bs poison) := by grind [l1Write]
theorem memWf_memWrite (key bs poison) : MemWf (memWrite s key bs poison) := by grind [memWrite, memWf_writePoison, memWf_writeBytes]
theorem memWf_takeLines (key n) : MemWf (takeLines s key n) := by grind [takeLines]
theorem memWf_homeWrite (key bs poison) : MemWf (homeWrite s key bs poison) := memWf_memWrite (memWf_takeLines hs _ _) _ _ _
theorem memWf_ridWrite (a bs) : MemWf (ridWrite s a bs) := memWf_homeWrite hs _ _ _
theorem memWf_ownLine (cr key) : MemWf (ownLine s cr key) := hs
theorem memWf_giveUp (cr c key) : MemWf (giveUp s cr c key) := by grind [giveUp, memWf_evictLine]
theorem memWf_coreWrite1 (cr c va key bs poison) : MemWf (coreWrite1 s cr c va key bs poison) := by
  grind [coreWrite1, memWf_l1Write, memWf_memWrite, memWf_ownLine, memWf_l1Fill, memWf_giveUp]
theorem memWf_coreWriteN (cr c poison n va key bs) : MemWf (coreWriteN cr c poison n s va key bs) := by
  induction n generalizing s va key bs with
  | zero => exact hs
  | succ n ih => grind [coreWriteN, memWf_coreWrite1]
theorem memWf_coreWrite (cr c va key bs poison) : MemWf (coreWrite s cr c va key bs poison) := memWf_coreWriteN hs _ _ _ _ _ _ _
theorem memWf_seen (g) : MemWf (seen s g) := hs
theorem memWf_raiseHalt (cx h) : MemWf (raiseHalt s cx h) := by grind [raiseHalt, mapGroups, modCtx_mem]
theorem memWf_haltGroup (gid cause pc) : MemWf (haltGroup s gid cause pc) := by grind [haltGroup, memWf_raiseErr, memWf_raiseHalt, memWf_seen]
theorem memWf_logIllegal (g tr) : MemWf (logIllegal s g tr) := by grind [logIllegal, modCore_mem]
theorem memWf_logTrap (g tr) : MemWf (logTrap s g tr) := by grind [logTrap, memWf_logIllegal]
theorem memWf_tryFrame (gid) : MemWf (tryFrame s gid) := by
  grind [tryFrame, memWf_haltGroup, memWf_touchTlb, dropWaits_mem, memWf_coreWrite, setGroup_mem, memWf_askPage]
theorem memWf_startTrap (gid g p) : MemWf (startTrap s gid g p) := by grind [startTrap, setGroup_mem, modCtx_mem, memWf_tryFrame]
theorem memWf_takeTrap (gid lanes0 tr0) : MemWf (takeTrap s gid lanes0 tr0) := by
  grind [takeTrap, memWf_seen, memWf_logTrap, memWf_haltGroup, setGroup_mem, memWf_startTrap]
theorem memWf_releaseHeld (gid) : MemWf (releaseHeld s gid) := by grind [releaseHeld, memWf_takeTrap, setGroup_mem]
theorem memWf_leaveHandler (gid) : MemWf (leaveHandler s gid) := by grind [leaveHandler, dropWaits_mem, setGroup_mem, memWf_releaseHeld, modCtx_mem]
theorem memWf_tryReturn (gid) : MemWf (tryReturn s gid) := by grind [tryReturn, memWf_haltGroup, setGroup_mem, memWf_askPage, memWf_leaveHandler]

/-! ### Machine/Commit -/

theorem memWf_stepStatus (v status) : MemWf (stepStatus s v status) := by grind [stepStatus, modGroup_mem]
theorem memWf_plumePut (core slice rec) : MemWf (plumePut s core slice rec) := by grind [plumePut]
theorem memWf_plumeRec (core slice rec) : MemWf (plumeRec s core slice rec) := by grind [plumeRec, memWf_plumePut]
theorem memWf_chargeLeaf (cr n) : MemWf (chargeLeaf s cr n) := hs
theorem memWf_stepRec (core slice rec) : MemWf (stepRec s core slice rec) := by grind [stepRec, memWf_plumePut]
theorem memWf_chargeIssue (v jumps mark) : MemWf (chargeIssue s v jumps mark) := by
  grind [chargeIssue, memWf_stepRec, memWf_chargeLeaf, memWf_plumeRec]
theorem memWf_chargeAt (core slice slot pc leaf) : MemWf (chargeAt s core slice slot pc leaf) := by
  grind [chargeAt, memWf_chargeLeaf, memWf_plumeRec]
theorem memWf_chargeStall (v leaf) : MemWf (chargeStall s v leaf) := memWf_chargeAt hs _ _ _ _ _
theorem memWf_markHits (g tm pc ws hits) : MemWf (markHits s g tm pc ws hits) := by grind [markHits, memWf_plumePut]
theorem memWf_weirEval (g tm m pc o pre counted) : MemWf (weirEval s g tm m pc o pre counted).1 := by
  grind [weirEval, memWf_markHits, modCore_mem, seen]
theorem memWf_plumeHalt (core) : MemWf (plumeHalt s core) := by grind [plumeHalt]
theorem memWf_freezeSlice (core slice cx) : MemWf (freezeSlice s core slice cx) := by grind [freezeSlice, memWf_plumeHalt, mapGroups]
theorem memWf_haltHits (gid g all) : MemWf (haltHits s gid g all) := by grind [haltHits, memWf_freezeSlice, modGroup_mem]
theorem memWf_pendIf (gid tr m) : MemWf (pendIf s gid tr m) := by grind [pendIf, modGroup_mem]
theorem memWf_trapIf (gid lanes0 tr m) : MemWf (trapIf s gid lanes0 tr m) := by grind [trapIf, memWf_takeTrap]
theorem memWf_actOn (gid lanes0 tr cls fp hits pre) : MemWf (actOn s gid lanes0 tr cls fp hits pre) := by
  grind [actOn, memWf_raiseHalt, memWf_plumeHalt, memWf_pendIf, memWf_haltHits, memWf_trapIf]
theorem memWf_commitWeirs (v e) : MemWf (commitWeirs s v e).1 := by grind [commitWeirs, memWf_weirEval]
theorem memWf_ownTraps (v e hits) : MemWf (ownTraps s v e hits) := by grind [ownTraps, memWf_takeTrap, memWf_actOn]
theorem memWf_stepEnd (v e hits g2) : MemWf (stepEnd s v e hits g2) := by grind [stepEnd, modGroup_mem, memWf_stepStatus]
theorem memWf_finish (v e) : MemWf (finish s v e) := by
  grind [finish, memWf_chargeIssue, memWf_commitWeirs, memWf_stepEnd, memWf_ownTraps, unchoose, setGroup_mem]
theorem memWf_trapIssue (v tr) : MemWf (trapIssue s v tr) := by
  grind [trapIssue, setGroup_mem, memWf_chargeIssue, memWf_takeTrap, modGroup_mem, memWf_stepStatus]
theorem memWf_trapAll (v cause detail) : MemWf (trapAll s v cause detail) := memWf_trapIssue hs _ _
theorem memWf_trapEntryLanes (v cause) : MemWf (trapEntryLanes s v cause) := memWf_trapIssue hs _ _
theorem memWf_trapIllegal (v r) : MemWf (trapIllegal s v r) := memWf_trapIssue hs _ _
theorem memWf_holdAs (leaf v) : MemWf (holdAs leaf s v) := by grind [holdAs, memWf_chargeStall, modGroup_mem, memWf_stepStatus]
theorem memWf_holdIssue (v) : MemWf (holdIssue s v) := memWf_holdAs hs _ _

/-! ### Machine/Exec -/

omit hs in
theorem nextWf_onIssue {f : View → State} (hf : ∀ v, MemWf (f v)) : NextWf (onIssue s f) := by
  unfold onIssue
  split
  · exact .fault _
  · exact .next (hf _)
theorem memWf_shell (v u) {t : State} (ht : MemWf t) : MemWf (shell s v u t) := by
  grind [shell, memWf_trapEntryLanes, memWf_finish, memWf_trapAll]
theorem nextWf_run (u) {f : View → State} (hf : ∀ v, MemWf (f v)) : NextWf (run s u f) :=
  nextWf_onIssue fun v => memWf_shell hs v u (hf v)
theorem memWf_alu (v g fl d n wide) : MemWf (alu s v g fl d n wide) := memWf_finish hs _ _
theorem nextWf_runV (u d f) : NextWf (runV s u d f) := nextWf_run hs _ (fun _ => memWf_alu hs _ _ _ _ _ _)
theorem nextWf_runT (u t d f) : NextWf (runT s u t d f) := nextWf_run hs _ (fun _ => memWf_alu hs _ _ _ _ _ _)
theorem nextWf_runS (u f) : NextWf (runS s u f) := nextWf_run hs _ (fun _ => memWf_finish hs _ _)
theorem nextWf_runP (u pd f) : NextWf (runP s u pd f) := nextWf_run hs _ (fun _ => memWf_finish hs _ _)

/-! ### Machine/Access -/

theorem memWf_requestLayer (launch layer) : MemWf (requestLayer s launch layer) := by grind [requestLayer, modLaunch_mem]
theorem memWf_askLayers (c ctx vas) : MemWf (askLayers s c ctx vas) := by grind [askLayers, memWf_requestLayer, memWf_foldl]
theorem memWf_takeHolds (team c ctx launch vas) : MemWf (takeHolds s team c ctx launch vas) := by grind [takeHolds, modTeam_mem, memWf_foldl]
theorem memWf_runWrite (w r) : MemWf (runWrite w s r) := by grind [runWrite, memWf_coreWrite, modTeam_mem]
theorem memWf_compWrite (w cut l) : MemWf (compWrite s w cut l) := by grind [compWrite, memWf_runWrite, memWf_foldl]
theorem memWf_fillFor (w op atHome cs) : MemWf (fillFor s w op atHome cs) := by
  grind [fillFor, memWf_touchTlb, memWf_recallLine, memWf_l1Fill, memWf_foldl]
theorem memWf_recordMiss (cr cx) : MemWf (recordMiss s cr cx) := by grind [recordMiss, memWf_monRecord]
theorem memWf_deferAcc (team gidx a tr l) : MemWf (deferAcc s team gidx a tr l) := hs
theorem memWf_perform (gid own tr a keys) : MemWf (perform s gid own tr a keys).s := by
  grind [perform, memWf_fillFor, memWf_compWrite, memWf_deferAcc, memWf_foldl, memWf_writeBytes, modGroup_mem, emit_mem]
theorem memWf_deferFlags (gid d fl) : MemWf (deferFlags s gid d fl) := by grind [deferFlags, modGroup_mem]
theorem memWf_deferPoison (team d) : MemWf (deferPoison s team d) := by grind [deferPoison, memWf_haltGroup, memWf_raiseHalt, memWf_raiseErr]
theorem memWf_applyDefer (team d) : MemWf (applyDefer s team d) := by
  grind [applyDefer, memWf_recallLine, memWf_writeBytes, memWf_deferFlags, memWf_deferPoison, memWf_foldl]
theorem memWf_wakeBwait (team o cause detail) : MemWf (wakeBwait s team o cause detail) := by
  fun_cases wakeBwait <;> grind [memWf_monRecord, setGroup_mem, memWf_takeTrap, memWf_foldl]
theorem memWf_bobjCommit (team o b) : MemWf (bobjCommit s team o b) := by grind [bobjCommit, modTeam_mem, memWf_wakeBwait]
theorem memWf_bobjCount (team o n) : MemWf (bobjCount s team o n) := by grind [bobjCount, memWf_bobjCommit]
theorem memWf_flyDone (gid seq) : MemWf (flyDone s gid seq) := by
  fun_cases flyDone <;> grind [memWf_foldl, memWf_bobjCount, memWf_weirEval, memWf_actOn, modGroup_mem]
theorem memWf_laneDone (gid a d) : MemWf (laneDone s gid a d) := hs
theorem memWf_laneTrap (gid seq as cause detail lyr) : MemWf (laneTrap s gid seq as cause detail lyr) := by
  grind [laneTrap, memWf_takeTrap, setGroup_mem, memWf_flyDone, memWf_foldl]
theorem memWf_doneAcc (gid g a keys) : MemWf (doneAcc s gid g a keys) := by
  grind [doneAcc, memWf_perform, memWf_haltGroup, memWf_recordMiss, memWf_laneDone, memWf_flyDone, modGroup_mem]
theorem memWf_retryAcc (gid a) : MemWf (retryAcc s gid a) := by
  fun_cases retryAcc <;> grind [memWf_askLayers, memWf_askPage, memWf_takeHolds, memWf_laneTrap, memWf_haltGroup, memWf_doneAcc, memWf_foldl]
theorem memWf_accTrap (v l cause m) : MemWf (accTrap s v l cause m) := memWf_trapIssue hs _ _
omit hs in
theorem memWf_passOne {p : Pass} (hp : MemWf p.s) (v seq a) : MemWf (passOne v seq p a).s := by
  grind [passOne, memWf_askLayers, memWf_foldl, memWf_askPage, memWf_takeHolds, memWf_perform, memWf_recordMiss]
theorem memWf_withOwners (v need) {f : State → State} (hf : ∀ t, MemWf t → MemWf (f t)) : MemWf (withOwners s v need f) := by
  unfold withOwners
  split
  · refine hf _ ?_
    split <;> exact hs
  · grind [memWf_foldl, memWf_askPage, memWf_holdAs, memWf_trapIssue, dropWaits_mem]
omit hs in
theorem memWf_accFinish {p : Pass} (hp : MemWf p.s) (v x seq pre stopped) : MemWf (accFinish v x seq pre stopped p) := by
  grind [accFinish, memWf_finish, memWf_foldl, memWf_bobjCount, setGroup_mem]
omit hs in
theorem memWf_foldl_passOne {p : Pass} (hp : MemWf p.s) (v seq l) : MemWf (List.foldl (passOne v seq) p l).s :=
  List.foldlRecOn (motive := fun p : Pass => MemWf p.s) _ _ hp fun _ hp _ _ => memWf_passOne hp _ _ _
theorem memWf_accIssue (v x) : MemWf (accIssue s v x) := by
  fun_cases accIssue
  · exact memWf_accTrap hs _ _ _ _
  · exact memWf_trapAll hs _ _ _
  · refine memWf_withOwners hs _ _ fun t ht => ?_
    generalize hr : weirEval t v.g v.tm v.exec v.is.pc _ true [] = r
    have hr1 : MemWf r.1 := hr ▸ memWf_weirEval ht _ _ _ _ _ _ _
    refine memWf_ite ?_ (memWf_ite ?_ (memWf_ite ?_ ?_))
    · exact memWf_accTrap hr1 _ _ _ _
    · exact memWf_trapAll hr1 _ _ _
    · exact memWf_trapAll hr1 _ _ _
    · exact memWf_accFinish (memWf_foldl_passOne (by exact hr1) _ _ _) _ _ _ _ _

/-! ### Machine/Mem -/

theorem nextWf_runAcc (i dep f) : NextWf (runAcc s i dep f) := nextWf_run hs _ (fun _ => memWf_accIssue hs _ _)
theorem nextWf_splitRun (i p op) : NextWf (splitRun s i p op) :=
  nextWf_run hs _ fun _ => by grind [memWf_trapAll, memWf_accTrap, memWf_accIssue]
theorem memWf_flyAt (v g i dep) : MemWf (flyAt s v g i dep).1 := by cases dep <;> exact hs
theorem nextWf_execLdc (p) : NextWf (execLdc p s) :=
  nextWf_run hs _ fun _ => by grind [memWf_trapIssue, memWf_flyAt, memWf_finish]
theorem memWf_prefLine (v ea) : MemWf (prefLine v s ea) := by grind [prefLine, memWf_l1Fill]
theorem nextWf_execPref (p) : NextWf (execPref p s) :=
  nextWf_onIssue fun _ => by grind [memWf_trapEntryLanes, memWf_finish, memWf_prefLine, memWf_foldl]

/-! ### Machine/Sync -/

theorem memWf_barRelease (f gid) : MemWf (barRelease s f gid) := by grind [barRelease, memWf_monRecord, setGroup_mem]
theorem memWf_barArrive (tid id gid) : MemWf (barArrive s tid id gid) := by
  grind [barArrive, memWf_takeTrap, memWf_barRelease, modTeam_mem, memWf_foldl]
theorem memWf_barTest (tid id) : MemWf (barTest s tid id) := by grind [barTest, modTeam_mem, memWf_barArrive, memWf_barRelease, memWf_foldl]
theorem memWf_barcTest (launch cluster) : MemWf (barcTest s launch cluster) := by grind [barcTest, memWf_barRelease, memWf_foldl]
theorem memWf_serialPhase (launch) : MemWf (serialPhase s launch) := by grind [serialPhase, memWf_applyDefer, modTeam_mem, memWf_foldl]
theorem memWf_gsyncTest (launch) : MemWf (gsyncTest s launch) := by grind [gsyncTest, memWf_serialPhase, memWf_barRelease, memWf_foldl]
theorem memWf_barTests (gid) : MemWf (barTests s gid) := by grind [barTests, memWf_barTest, memWf_gsyncTest, memWf_barcTest, memWf_foldl]
theorem memWf_barIssue (v w) : MemWf (barIssue s v w) := memWf_barTests (memWf_finish hs _ _) _
theorem nextWf_execBar (p) : NextWf (execBar p s) :=
  nextWf_run hs _ fun _ => by grind [memWf_trapAll, memWf_barIssue]
theorem nextWf_objRun (i a nv) {f : View → Nat → BObj → State} (hf : ∀ v o b, MemWf (f v o b)) : NextWf (objRun s i a nv f) :=
  nextWf_run hs _ fun _ => by grind [memWf_trapIssue, memWf_finish, memWf_trapAll, fresh]
theorem memWf_objFinish (v g o b) : MemWf (objFinish s v g o b) := memWf_bobjCommit (memWf_finish hs _ _) _ _ _
theorem nextWf_execBinit (p) : NextWf (execBinit p s) :=
  nextWf_objRun hs _ _ _ fun _ _ _ => by grind [memWf_trapAll, modTeam_mem, memWf_objFinish]
theorem nextWf_arriveRun (i p drop) : NextWf (arriveRun s i p drop) :=
  nextWf_objRun hs _ _ _ fun _ _ _ => by grind [memWf_trapAll, memWf_objFinish]
theorem nextWf_execBexpect (p) : NextWf (execBexpect p s) :=
  nextWf_objRun hs _ _ _ fun _ _ _ => by grind [memWf_trapAll, memWf_objFinish]
theorem memWf_objError (v o b) : MemWf (objError s v o b) := by grind [objError, memWf_trapAll, modGroup_mem]
theorem nextWf_execBwait (p) : NextWf (execBwait p s) :=
  nextWf_objRun hs _ _ _ fun _ _ _ => by grind [memWf_finish, memWf_objError]
theorem nextWf_execBtest (p) : NextWf (execBtest p s) :=
  nextWf_objRun hs _ _ _ fun _ _ _ => by grind [memWf_objError, memWf_finish]
theorem memWf_dropObjCounts (team o) : MemWf (dropObjCounts s team o) := hs
theorem nextWf_execBinv (p) : NextWf (execBinv p s) :=
  nextWf_objRun hs _ _ _ fun _ _ _ => by grind [memWf_dropObjCounts, memWf_finish, memWf_wakeBwait, modTeam_mem]
theorem nextWf_execStscb (p) : NextWf (execStscb p s) :=
  nextWf_run hs _ fun _ => by grind [memWf_accIssue, memWf_trapIssue, fresh, memWf_finish, memWf_trapAll]

/-! ### Machine/Control -/

theorem memWf_indirect (v b link) : MemWf (indirect s v b link) := memWf_finish hs _ _
theorem nextWf_execCall (d off) : NextWf (execCall d off s) :=
  nextWf_run hs _ fun _ => by grind [memWf_trapAll, memWf_finish, memWf_foldl]
theorem nextWf_execCallx (d b) : NextWf (execCallx d b s) :=
  nextWf_run hs _ fun _ => by grind [memWf_trapAll, memWf_indirect]
theorem memWf_fillLines (cr team pasid who va n) : MemWf (fillLines s cr team pasid who va n) := by grind [fillLines, memWf_touchTlb, memWf_foldl]
theorem memWf_parkIssue (v w) : MemWf (parkIssue s v w) := by grind [parkIssue, modGroup_mem, memWf_chargeStall, memWf_stepStatus]
theorem memWf_pageIssue (v who va n) : MemWf (pageIssue s v who va n) := memWf_holdAs (memWf_askPage hs _ _ _ _ _) _ _
theorem nextWf_execLoop (lc len cnt x) : NextWf (execLoop lc len cnt x s) :=
  nextWf_run hs _ fun _ => by grind [memWf_takeHolds, dropWaits_mem, memWf_fillLines, memWf_pageIssue, memWf_parkIssue, memWf_requestLayer,
    memWf_trapIssue, memWf_trapAll, memWf_finish]
theorem memWf_endGroup (gid) : MemWf (endGroup s gid) := by grind [endGroup, modCtx_mem, setGroup_mem, dropWaits_mem]
theorem memWf_afterExit (gid) : MemWf (afterExit s gid) := by grind [afterExit, memWf_endGroup, memWf_leaveHandler, memWf_tryReturn, memWf_barTests]
theorem memWf_tradeSets (n out inn) : MemWf (tradeSets s n out inn) := hs
theorem memWf_yieldGroup (gid) : MemWf (yieldGroup s gid) := by grind [yieldGroup, modGroup_mem, memWf_tradeSets]
theorem nextWf_execSleep (d imm x) : NextWf (execSleep d imm x s) :=
  nextWf_run hs _ fun _ => by grind [memWf_yieldGroup, memWf_finish]

/-! ### Machine/Remote -/

theorem memWf_tabFill (slot tab idx key n) : MemWf (tabFill s slot tab idx key n) := hs
theorem memWf_tabDrop (slot tab) : MemWf (tabDrop s slot tab) := hs
theorem memWf_sendReq (r) : MemWf (sendReq s r) := by grind [sendReq, fresh, emit_mem]
theorem memWf_cwaitOne (gid c) : MemWf (cwaitOne gid s c) := by
  fun_cases cwaitOne <;> grind [memWf_takeTrap, dropWaits_mem, setGroup_mem, memWf_askPage, memWf_foldl]
theorem memWf_cwaitTest (gid) : MemWf (cwaitTest s gid) := by grind [cwaitTest, memWf_cwaitOne, memWf_foldl]
theorem memWf_cwaitTests (ctx) : MemWf (cwaitTests s ctx) := by grind [cwaitTests, memWf_cwaitTest, memWf_foldl]
theorem memWf_counterAdd (who ctx c n) : MemWf (counterAdd s who ctx c n) := by grind [counterAdd, memWf_cwaitTests, memWf_homeWrite]
theorem memWf_segWrite (poison segs bs) : MemWf (segWrite poison s segs bs) := by
  induction segs generalizing s bs with
  | nil => exact hs
  | cons _ _ ih => exact ih (memWf_homeWrite hs _ _ _) _
theorem memWf_targetDo (who m segs) : MemWf (targetDo s who m segs).2 := by grind [targetDo, memWf_segWrite, memWf_counterAdd]
theorem memWf_answerReq (loop ans) : MemWf (answerReq s loop ans) := by grind [answerReq, emit_mem]
theorem memWf_targetTry (t) : MemWf (targetTry s t) := by
  grind [targetTry, memWf_answerReq, dropWaits_mem, memWf_tabFill, memWf_askPage, memWf_requestLayer, memWf_targetDo]
theorem memWf_rfenceTest (gid) : MemWf (rfenceTest s gid) := by grind [rfenceTest, setGroup_mem]
theorem memWf_remDone (gid seq) : MemWf (remDone s gid seq) := by grind [remDone, memWf_flyDone, setGroup_mem, modGroup_mem, memWf_takeTrap]
theorem memWf_answerLanes (gid seq m ea poison vals f) : MemWf (answerLanes s gid seq m ea poison vals f) := by
  grind [answerLanes, modGroup_mem, memWf_rfenceTest, memWf_remDone]
theorem memWf_lanesAnswered (r gid seq m ans) : MemWf (lanesAnswered s r gid seq m ans) := by
  fun_cases lanesAnswered <;> grind [memWf_answerLanes, memWf_sendReq, memWf_foldl]
theorem memWf_remIssue (v ins dep lanes reqs) : MemWf (remIssue s v ins dep lanes reqs) := by
  unfold remIssue
  dsimp only
  generalize h : lanes.foldl _ s = s0
  have hs0 : MemWf s0 := h ▸ memWf_foldl (fun _ _ h => by grind [memWf_tabFill]) hs _
  generalize hr : weirEval s0 v.g v.tm v.exec v.is.pc _ true [] = r
  have hr1 : MemWf r.1 := hr ▸ memWf_weirEval hs0 _ _ _ _ _ _ _
  refine memWf_ite ?_ (memWf_ite ?_ (memWf_ite ?_ ?_))
  · exact memWf_trapIssue hs0 _ _
  · exact memWf_trapIssue hs0 _ _
  · exact memWf_trapIssue hs0 _ _
  · refine memWf_finish (memWf_foldl (fun t x ht => ?_) (by exact hr1) _) _ _
    split
    · exact ht
    · exact memWf_sendReq ht _
theorem nextWf_execRfence (p) : NextWf (execRfence p s) :=
  nextWf_run hs _ fun _ => by grind [fresh, memWf_finish, memWf_flyAt]
theorem memWf_counterPage (v a n) {f : State → Nat → State} (hf : ∀ t k, MemWf t → MemWf (f t k)) : MemWf (counterPage s v a n f) := by
  grind [counterPage, memWf_trapIssue, memWf_touchTlb, memWf_pageIssue, dropWaits_mem]
theorem nextWf_execCwait (p) : NextWf (execCwait p s) :=
  nextWf_run hs _ fun _ => by grind [memWf_trapAll, memWf_counterPage, memWf_finish]
theorem nextWf_execCnote (p) : NextWf (execCnote p s) :=
  nextWf_run hs _ fun _ => by grind [memWf_trapAll, memWf_counterPage, memWf_cwaitTests, memWf_finish, memWf_homeWrite, memWf_trapIssue,
    memWf_remIssue]

/-! ### Machine/Engine -/

theorem memWf_modOp (id f) : MemWf (modOp s id f) := hs
theorem memWf_bobjMark (team o n ecause) : MemWf (bobjMark s team o n ecause) := by grind [bobjMark, memWf_bobjCommit]
theorem memWf_engPresent (id) : MemWf (engPresent s id) := hs
theorem memWf_engOver (o) : MemWf (engOver s o) := by grind [engOver, memWf_engPresent, dropWaits_mem, memWf_rfenceTest, modGroup_mem]
theorem memWf_engPut (o c va k bs poison) : MemWf (engPut o c s va k bs poison) := by grind [engPut, memWf_coreWrite, memWf_homeWrite]
theorem memWf_endWrite (o e bs poison) : MemWf (endWrite s o e bs poison) := by
  fun_cases endWrite <;> grind [modTeam_mem, memWf_engPut, memWf_foldl]
theorem memWf_engLeave (o f k) : MemWf (engLeave o f k s) := by
  induction f generalizing s k with
  | zero => exact hs
  | succ f ih => grind [engLeave, memWf_foldl, memWf_endWrite]
theorem memWf_engErr (o tr) : MemWf (engErr s o tr) := by
  grind [engErr, memWf_engOver, memWf_engLeave, memWf_haltGroup, modGroup_mem, memWf_bobjMark, memWf_foldl]
theorem memWf_engCancel (o) : MemWf (engCancel s o) := by grind [engCancel, memWf_bobjMark, memWf_engOver, memWf_engLeave, memWf_foldl]
theorem memWf_engDone (o) : MemWf (engDone s o) := by grind [engDone, memWf_bobjCount, memWf_engOver, memWf_foldl]
theorem memWf_engAct (gid hits mk pc objs) : MemWf (engAct s gid hits mk pc objs) := by
  have freeze (c : Prop) [Decidable c] (a b d) : MemWf (if c then freezeSlice s a b d else s) := memWf_ite (memWf_freezeSlice hs _ _ _) hs
  unfold engAct
  split
  · exact hs
  · exact memWf_ite (memWf_raiseHalt (memWf_plumeHalt hs _) _ _) (memWf_ite (memWf_ite (memWf_haltGroup (freeze _ _ _ _) _ _ _) (freeze _ _ _ _))
      (memWf_ite (freeze _ _ _ _) (memWf_ite (freeze _ _ _ _) (freeze _ _ _ _))))
theorem memWf_engWeirs (gid lanes pc spots counted) : MemWf (engWeirs s gid lanes pc spots counted).1 := by
  grind [engWeirs, memWf_weirEval]
theorem memWf_engWrote (id p) : MemWf (engWrote s id p) := by
  fun_cases engWrote <;> grind [memWf_foldl, memWf_modOp, memWf_engWeirs, memWf_engAct, dropWaits_mem, modTeam_mem]
theorem memWf_engFail (o cause p addr lyr) : MemWf (engFail s o cause p addr lyr) := memWf_modOp hs _ _
theorem memWf_engReq (o p a op data poison) : MemWf (engReq s o p a op data poison) := by grind [engReq, memWf_engFail, memWf_modOp, memWf_sendReq]
theorem memWf_engStore (o p bs poison) : MemWf (engStore s o p bs poison) := by
  grind [engStore, memWf_askPage, memWf_engFail, memWf_engReq, memWf_engWrote, memWf_endWrite, memWf_foldl]
theorem memWf_engTouch (o p) : MemWf (engTouch s o p) := by grind [engTouch, memWf_touchTlb, memWf_foldl]
theorem memWf_engBeat (id) : MemWf (engBeat s id) := by
  grind [engBeat, memWf_askPage, memWf_engFail, memWf_requestLayer, memWf_engReq, memWf_engStore, memWf_engTouch]
theorem memWf_engAnswered (r id ans) : MemWf (engAnswered s r id ans) := by
  grind [engAnswered, memWf_engFail, memWf_modOp, memWf_engStore, memWf_engWrote]
theorem nextWf_execEngineOpDone : NextWf (execEngineOpDone s) := .next (by grind [memWf_engDone])
theorem nextWf_execEngineOpError : NextWf (execEngineOpError s) := .next (by grind [memWf_engErr])
theorem memWf_engAccept (v ins dep o lines) : MemWf (engAccept s v ins dep o lines) := by
  grind [engAccept, fresh, modTeam_mem, memWf_finish, memWf_foldl]
theorem memWf_engObject (v ins dep o teams lines) : MemWf (engObject s v ins dep o teams lines) := by
  grind [engObject, memWf_trapIssue, memWf_holdAs, memWf_holdIssue, memWf_engAccept, fresh, memWf_finish]
theorem memWf_copyRows (v ins p ranks) : MemWf (copyRows s v ins p ranks) := by
  fun_cases copyRows
  case case9 => exact memWf_withOwners hs _ _ fun _ ht => memWf_engObject ht _ _ _ _ _ _
  all_goals exact memWf_trapIssue hs _ _
theorem memWf_fillPeers (v as) : MemWf (fillPeers s v as) := by grind [fillPeers, memWf_tabFill, memWf_foldl]
theorem nextWf_execAcopy (p) : NextWf (execAcopy p s) :=
  nextWf_run hs _ fun _ => by grind [memWf_fillPeers, memWf_copyRows, memWf_trapAll]
theorem nextWf_execAcopym (p) : NextWf (execAcopym p s) :=
  nextWf_run hs _ fun _ => by grind [memWf_copyRows, memWf_trapAll]
theorem memWf_copyElems (v ins p scatter) : MemWf (copyElems s v ins p scatter) := by
  fun_cases copyElems
  case case6 => exact memWf_withOwners hs _ _ fun _ ht => memWf_engObject ht _ _ _ _ _ _
  all_goals exact memWf_trapIssue hs _ _
theorem nextWf_execAgath (p) : NextWf (execAgath p s) :=
  nextWf_run hs _ fun _ => by grind [memWf_copyElems, memWf_trapAll]
theorem nextWf_execAscat (p) : NextWf (execAscat p s) :=
  nextWf_run hs _ fun _ => by grind [memWf_copyElems, memWf_trapAll]
theorem nextWf_execAcancel (p) : NextWf (execAcancel p s) :=
  nextWf_run hs _ fun _ => by grind [memWf_flyAt, memWf_engCancel, memWf_finish, memWf_foldl]

/-! ### Machine/Special -/

theorem nextWf_execSrd (p) : NextWf (execSrd p s) :=
  nextWf_run hs _ fun _ => by grind [memWf_finish, memWf_alu]
theorem nextWf_execSwr (p) : NextWf (execSwr p s) :=
  nextWf_run hs _ fun _ => by grind [memWf_finish, memWf_trapAll]

/-! ### Machine/LaneOps -/

theorem nextWf_execShfl (p mode) : NextWf (execShfl p mode s) :=
  nextWf_run hs _ fun _ => by grind [memWf_trapAll, memWf_alu]
theorem nextWf_execVote (p) : NextWf (execVote p s) :=
  nextWf_run hs _ fun _ => by grind [memWf_alu, memWf_finish]
theorem memWf_laneResults (v t d res) : MemWf (laneResults s v t d res) := memWf_alu hs _ _ _ _ _ _
theorem nextWf_execSplit (p) : NextWf (execSplit p s) :=
  nextWf_run hs _ fun _ => by grind [memWf_finish, memWf_trapAll]

/-! ### Machine/Float -/

theorem memWf_fLone (v t d writer f) : MemWf (fLone s v t d writer f) := memWf_alu hs _ _ _ _ _ _
theorem memWf_fPair (v t d f) : MemWf (fPair s v t d f) := memWf_laneResults hs _ _ _ _
theorem nextWf_arith2 (i p writer f) : NextWf (arith2 s i p writer f) :=
  nextWf_run hs _ fun _ => by grind [memWf_fPair, memWf_fLone]
theorem nextWf_short2 (i p f) : NextWf (short2 s i p f) := nextWf_run hs _ (fun _ => memWf_fLone hs _ _ _ _ _)
theorem nextWf_execFfma (p) : NextWf (execFfma p s) :=
  nextWf_run hs _ fun _ => by grind [memWf_fPair, memWf_fLone]
theorem nextWf_absNeg (i p isNeg) : NextWf (absNeg s i p isNeg) :=
  nextWf_run hs _ fun _ => by grind [memWf_fPair, memWf_fLone]
theorem nextWf_unary (i p f) : NextWf (unary s i p f) := nextWf_run hs _ (fun _ => memWf_fLone hs _ _ _ _ _)

/-! ### Machine/Matrix -/

theorem memWf_matPerform (o) : MemWf (matPerform s o).s := by grind [matPerform, modTeam_mem, modGroup_mem]
theorem memWf_matDone (gid seq) : MemWf (matDone s gid seq) := by grind [matDone, memWf_flyDone, modGroup_mem]
theorem memWf_matFlags (gid seq fl) : MemWf (matFlags s gid seq fl) := by grind [matFlags, modGroup_mem]
theorem nextWf_execMatrixOpBegin : NextWf (execMatrixOpBegin s) := .next (by grind [modGroup_mem, modQuad_mem])
theorem nextWf_execMatrixOpDone : NextWf (execMatrixOpDone s) :=
  .next (by grind [memWf_matPerform, modQuad_mem, memWf_matFlags, modGroup_mem, memWf_matDone, memWf_haltGroup, memWf_foldl])
theorem memWf_matFinish (v f pre) : MemWf (matFinish s v f pre) := memWf_finish hs _ _
theorem memWf_matAccept (v dep o acc pre) : MemWf (matAccept s v dep o acc pre) := by grind [matAccept, fresh, memWf_matFinish, modQuad_mem]
theorem memWf_trapWord (v cause w) : MemWf (trapWord s v cause w) := memWf_trapIssue hs _ _
theorem memWf_jointBegin (j) : MemWf (jointBegin s j) := by grind [jointBegin, fresh, modGroup_mem, modQuad_mem, memWf_foldl]
theorem memWf_jointIssue (v ins x o old) : MemWf (jointIssue s v ins x o old) := by grind [jointIssue, fresh, memWf_matFinish, memWf_jointBegin]
theorem nextWf_mmaRun (ins x) : NextWf (mmaRun s ins x) :=
  nextWf_onIssue fun _ => by grind [memWf_trapEntryLanes, memWf_trapAll, memWf_holdAs, memWf_trapWord, memWf_jointIssue, memWf_matAccept]
theorem nextWf_execTalloc (p) : NextWf (execTalloc p s) :=
  nextWf_run hs _ fun _ => by grind [memWf_trapAll, modTeam_mem, memWf_finish, memWf_foldl]
theorem nextWf_execTfree (p) : NextWf (execTfree p s) :=
  nextWf_run hs _ fun _ => by grind [memWf_trapAll, memWf_holdAs, modGroup_mem, modTeam_mem, memWf_finish, memWf_foldl]
theorem nextWf_execTzero (p) : NextWf (execTzero p s) :=
  nextWf_run hs _ fun _ => by grind [memWf_trapAll, memWf_matAccept]
theorem nextWf_tileMove (ins p store) : NextWf (tileMove s ins p store) :=
  nextWf_run hs _ fun _ => by grind [memWf_trapIssue, memWf_trapAll, memWf_weirEval, memWf_finish, fresh, memWf_matAccept, memWf_foldl]
theorem nextWf_tilePos (i p) {f : View → Nat → State} (hf : ∀ v w, MemWf (f v w)) : NextWf (tilePos s i p f) :=
  nextWf_run hs _ fun _ => by grind [memWf_trapAll]
theorem nextWf_execTscale (p) : NextWf (execTscale p s) :=
  nextWf_run hs _ fun _ => by grind [memWf_trapAll, memWf_matAccept]

/-! ### Machine/Layers -/

theorem memWf_modModel (launch f) : MemWf (modModel s launch f) := hs
theorem memWf_modLayer (launch i f) : MemWf (modLayer s launch i f) := memWf_modModel hs _ _
theorem memWf_pendFlag (launch i on) : MemWf (pendFlag s launch i on) := memWf_modModel hs _ _
theorem memWf_flushFlag (launch i) : MemWf (flushFlag s launch i) := by grind [flushFlag, memWf_pendFlag, memWf_homeWrite, memWf_askPage]
theorem memWf_writeFlag (launch i st) : MemWf (writeFlag s launch i st) := memWf_flushFlag (memWf_modLayer hs _ _ _) _ _
theorem nextWf_layerRun (i b) {f : View → Nat → Layer → State} (hf : ∀ v i ly, MemWf (f v i ly)) : NextWf (layerRun s i b f) :=
  nextWf_run hs _ fun _ => by grind [memWf_trapAll]
theorem memWf_reqLayer (launch i st) : MemWf (reqLayer s launch i st) := by grind [reqLayer, memWf_modModel, memWf_writeFlag]
theorem nextWf_execLwait (p) : NextWf (execLwait p s) :=
  nextWf_layerRun hs _ _ fun _ _ _ => by grind [memWf_finish, modTeam_mem, memWf_trapIssue, memWf_trapAll, memWf_requestLayer]
theorem memWf_holdDropped (launch i) : MemWf (holdDropped s launch i) := by grind [holdDropped, memWf_modLayer]
theorem nextWf_execLrel (p) : NextWf (execLrel p s) :=
  nextWf_layerRun hs _ _ fun _ _ _ => by grind [memWf_finish, memWf_holdDropped, modTeam_mem]

/-! ### Machine/System -/

theorem nextWf_runPriv (i ho) {f : View → State} (hf : ∀ v, MemWf (f v)) : NextWf (runPriv s i ho f) :=
  nextWf_onIssue fun v => by grind [memWf_shell, memWf_trapIllegal]
theorem memWf_hcSend (n) : MemWf (hcSend n s) := by
  induction n generalizing s with
  | zero => exact hs
  | succ n ih =>
    unfold hcSend
    split
    · exact hs
    · split
      · exact ih hs
      · exact hs
theorem nextWf_execHcall (p) : NextWf (execHcall p s) :=
  nextWf_run hs _ fun _ => by grind [memWf_finish, modDev_mem, memWf_hcSend]
theorem nextWf_execHcallWriteDone : NextWf (execHcallWriteDone s) := .next (by grind [modDev_mem, memWf_ridWrite, memWf_hcSend])
theorem nextWf_execIllrd (p) : NextWf (execIllrd p s) :=
  nextWf_runPriv hs _ _ fun _ => by grind [memWf_finish, modCore_mem]

/-! ### Machine/Watch -/

theorem memWf_putWeir (cr n w) : MemWf (putWeir s cr n w) := hs
theorem nextWf_execWeirset (p) : NextWf (execWeirset p s) :=
  nextWf_run hs _ fun _ => by grind [memWf_trapAll, memWf_putWeir, memWf_finish]
theorem nextWf_execWeirclr (p) : NextWf (execWeirclr p s) :=
  nextWf_run hs _ fun _ => by grind [memWf_trapAll, memWf_putWeir, memWf_finish]
theorem nextWf_execWeirrd (p) : NextWf (execWeirrd p s) :=
  nextWf_run hs _ fun _ => by grind [memWf_finish, modCore_mem, memWf_trapAll]
theorem memWf_freeWeirs (cr f) : MemWf (freeWeirs s cr f) := by grind [freeWeirs, modCore_mem]
theorem nextWf_execCntrd (p) : NextWf (execCntrd p s) :=
  nextWf_run hs _ fun _ => by grind [memWf_trapAll, memWf_finish]

/-! ### Machine/Frontier -/

theorem memWf_fetchStop (gid g e r) : MemWf (fetchStop s gid g e r) := by
  fun_cases fetchStop <;> grind [memWf_takeHolds, memWf_askPage, memWf_requestLayer, modGroup_mem, memWf_takeTrap, dropWaits_mem]
theorem memWf_fetchClause (gid g e) : MemWf (fetchClause s gid g e) := by
  grind [fetchClause, memWf_fetchStop, memWf_takeTrap, dropWaits_mem, memWf_fillLines, memWf_takeHolds, modGroup_mem]
theorem nextWf_execClauseFetch : NextWf (execClauseFetch s) := .next (by grind [memWf_fetchClause])
theorem nextWf_execOpComplete : NextWf (execOpComplete s) := .next (by grind [setGroup_mem, memWf_remDone])
theorem memWf_unparkLane (gid L) : MemWf (unparkLane s gid L) := by
  grind [unparkLane, memWf_monRecord, memWf_retryAcc, modGroup_mem, modTeam_mem, memWf_takeTrap]
theorem memWf_unparkAll (gid L) : MemWf (unparkAll s gid L) := by grind [unparkAll, memWf_unparkLane, memWf_foldl]
theorem nextWf_execCwaitPoll : NextWf (execCwaitPoll s) := .next (by grind [memWf_cwaitTests])
theorem nextWf_execTrapEntry : NextWf (execTrapEntry s) := .next (by grind [memWf_tryFrame])
theorem memWf_endStall (gid) : MemWf (endStall s gid) := by grind [endStall, modGroup_mem]
theorem memWf_dropReplayed (gid seq) : MemWf (dropReplayed s gid seq) := hs
theorem memWf_reissue (gid seq l) : MemWf (reissue s gid seq l) := by grind [reissue, memWf_dropReplayed, memWf_retryAcc, memWf_foldl]
theorem memWf_replayGroup (gid) : MemWf (replayGroup s gid) := by grind [replayGroup, memWf_tryReturn, memWf_endStall, memWf_reissue, memWf_foldl]

/-! ### Machine/Inspect -/

theorem nextWf_inspRun (i a) {f : View → Target → State} (hf : ∀ v t, MemWf (f v t)) : NextWf (inspRun s i a f) :=
  nextWf_runPriv hs _ _ fun _ => by grind [memWf_trapAll]
theorem nextWf_execHrd (p) : NextWf (execHrd p s) :=
  nextWf_inspRun hs _ _ fun _ _ => by grind [memWf_trapAll, memWf_holdIssue, memWf_finish]
theorem nextWf_execHwr (p) : NextWf (execHwr p s) :=
  nextWf_inspRun hs _ _ fun _ _ => by grind [memWf_trapAll, memWf_holdIssue, memWf_finish, setGroup_mem]
theorem nextWf_execHprd (p) : NextWf (execHprd p s) :=
  nextWf_inspRun hs _ _ fun _ _ => by grind [memWf_trapAll, memWf_holdIssue, memWf_finish, memWf_foldl]
theorem memWf_stepOver (v d status) : MemWf (stepOver s v d status) := memWf_finish hs _ _
theorem memWf_stepGo (v t d e c) : MemWf (stepGo s v t d e c) := by grind [stepGo, memWf_finish, modGroup_mem]
theorem nextWf_execHstep (p) : NextWf (execHstep p s) :=
  nextWf_inspRun hs _ _ fun _ _ => by grind [memWf_trapAll, memWf_stepOver, modGroup_mem, memWf_holdIssue, memWf_stepGo, memWf_takeHolds,
    dropWaits_mem, memWf_fillLines, memWf_holdAs, memWf_askPage, memWf_requestLayer]
theorem nextWf_execHresume (p) : NextWf (execHresume p s) :=
  nextWf_inspRun hs _ _ fun _ _ => by grind [memWf_trapAll, memWf_finish, modGroup_mem]

/-! ### Machine/Collect -/

theorem memWf_vaReady (who cx va n w t) (e : vaReady s who cx va n w = .wait t) : MemWf t := by
  grind [vaReady, memWf_askLayers, memWf_foldl, memWf_askPage]
theorem memWf_vaWrite (u pasid va bs poison) : MemWf (vaWrite s u pasid va bs poison) := by
  refine List.foldlRecOn (motive := fun r : State × List Nat => MemWf r.1) _ _ hs fun r hr x _ => ?_
  grind [memWf_coreWrite, memWf_homeWrite]
theorem memWf_modComm (slot i f) : MemWf (modComm s slot i f) := hs
theorem memWf_modColl (id f) : MemWf (modColl s id f) := hs
theorem memWf_endColls (status tell f) : MemWf (endColls s status tell f) := by
  grind [endColls, memWf_modColl, memWf_modComm, emit_mem, memWf_foldl]
theorem memWf_endSeq (slot i q status tell) : MemWf (endSeq s slot i q status tell) := memWf_endColls hs _ _ _
theorem memWf_endColl (c status tell) : MemWf (endColl s c status tell) := memWf_endSeq hs _ _ _ _ _
theorem nextWf_execCollEndNoticeReceive : NextWf (execCollEndNoticeReceive s) := .next (by grind [memWf_endSeq])
theorem nextWf_execColl (p) : NextWf (execColl p s) := by
  refine nextWf_run hs _ fun v => ?_
  dsimp only
  generalize h : (if (slotRegs s v.g.ctx).commCfg.testBit 0 = true then tabFill s v.g.ctx 3 _ _ _ else s) = s0
  have hs0 : MemWf s0 := h ▸ memWf_ite (memWf_tabFill hs _ _ _ _ _) hs
  split
  · exact memWf_trapAll hs0 _ _ _
  · exact memWf_trapAll hs0 _ _ _
  · iterate 8 refine memWf_ite (memWf_trapIssue hs0 _ _) ?_
    refine memWf_ite (memWf_trapAll hs0 _ _ _) (memWf_withOwners hs0 _ _ fun t ht => ?_)
    refine memWf_ite (memWf_holdIssue ht _) (memWf_finish (memWf_ite ?_ ?_) _ _)
    · exact memWf_endColl (by exact ht) _ _ _
    · exact ht
theorem nextWf_execBknote (p) : NextWf (execBknote p s) :=
  nextWf_run hs _ fun _ => by grind [memWf_trapAll, memWf_modColl, memWf_finish]
theorem memWf_startColl (c) : MemWf (startColl s c) := by
  grind [startColl, memWf_vaReady, memWf_endColl, memWf_modComm, memWf_modColl, dropWaits_mem, emit_mem]
theorem nextWf_execCollStart : NextWf (execCollStart s) := .next (by grind [memWf_startColl])
theorem nextWf_execCollMessage : NextWf (execCollMessage s) := .next (by grind [])
theorem memWf_collFree (c n) : MemWf (collFree s c n) := by grind [collFree, memWf_vaWrite]
theorem memWf_collWeirs (c n) : MemWf (collWeirs s c n) := by grind [collWeirs, memWf_engWeirs, memWf_engAct]
theorem memWf_collDone (c status) : MemWf (collDone s c status) := by
  grind [collDone, modGroup_mem, memWf_counterAdd, memWf_monRecord, dropWaits_mem]
theorem memWf_counterReady (c t) (e : counterReady s c = .wait t) : MemWf t := by grind [counterReady, memWf_vaReady]
/-- The received bytes go to memory one after the other. -/
theorem memWf_foldl_vaWrite (u pasid a) (l : List (List Nat × Bool)) :
    MemWf (l.foldl (fun (r : State × Nat) (bs, po) => (vaWrite r.1 u pasid r.2 bs po, r.2 + bs.length)) (s, a)).1 :=
  List.foldlRecOn (motive := fun r : State × Nat => MemWf r.1) _ _ hs fun _ hr _ _ => memWf_vaWrite hr _ _ _ _ _
theorem memWf_completeColl (c) : MemWf (completeColl s c) := by
  fun_cases completeColl
  case case7 => exact memWf_collDone (memWf_collWeirs (memWf_foldl_vaWrite hs _ _ _ _) _ _) _ _
  all_goals grind [memWf_counterReady, memWf_vaReady, memWf_collDone, memWf_collFree, memWf_endColl]
theorem nextWf_execCollComplete : NextWf (execCollComplete s) := .next (by grind [memWf_completeColl])

/-! ### Machine/Place -/

theorem memWf_freshNb (cr) : MemWf (freshNb s cr) := by grind [freshNb, modCore_mem]
theorem memWf_joinSlice (gid) : MemWf (joinSlice s gid) := by grind [joinSlice, setGroup_mem]
theorem memWf_loadWeirs (launch ln cr) : MemWf (loadWeirs s launch ln cr) := by grind [loadWeirs, modCore_mem, memWf_foldl]
theorem memWf_admitTeam (launch ln t clu rank cr r) : MemWf (admitTeam s launch ln t clu rank cr r) := by
  grind [admitTeam, fresh, memWf_loadWeirs, memWf_joinSlice, modTeam_mem, modCore_mem, memWf_foldl]
theorem memWf_admitCluster (p launch ln anchor cs) : MemWf (admitCluster s p launch ln anchor cs) := by
  grind [admitCluster, memWf_admitTeam, modLaunch_mem, modPart_mem, memWf_foldl]
theorem memWf_saveTeam (tid st) : MemWf (saveTeam s tid st) := by grind [saveTeam, memWf_freshNb, modTeam_mem, modGroup_mem, memWf_foldl]
theorem memWf_restoreTeam (tid o) : MemWf (restoreTeam s tid o) := by
  fun_cases restoreTeam <;> grind [modGroup_mem, modTeam_mem, memWf_loadWeirs, memWf_freshNb, memWf_joinSlice, memWf_foldl]
theorem memWf_readmitTeam (tid) : MemWf (readmitTeam s tid) := by grind [readmitTeam, modLaunch_mem, memWf_restoreTeam, memWf_foldl]
theorem memWf_clusterAdmit (p) : MemWf (clusterAdmit s p) := by grind [clusterAdmit, modLaunch_mem, memWf_admitCluster, modPart_mem]
theorem nextWf_execAdmissionStarvationLimit : NextWf (execAdmissionStarvationLimit s) := .next (by grind [modPart_mem])
theorem memWf_evictUntil (p launch ln l t) (e : evictUntil s p launch ln l = some t) : MemWf t := by
  induction l generalizing s with
  | nil => cases e
  | cons v r ih => grind [evictUntil, memWf_saveTeam]
theorem memWf_evictFor (p t) (e : evictFor s p = some t) : MemWf t := by grind [evictFor, memWf_evictUntil]
theorem nextWf_execTeamEvict : NextWf (execTeamEvict s) := .next (memWf_getD hs fun _ => memWf_evictFor hs _ _)
theorem memWf_leaveWeirs (launch cr) : MemWf (leaveWeirs s launch cr) := by grind [leaveWeirs, modCore_mem, memWf_freeWeirs]
theorem memWf_fenceCore (cr) : MemWf (fenceCore s cr) := by grind [fenceCore, memWf_raiseErr, modDev_mem]
theorem memWf_leaveL1 (launch cx cr) : MemWf (leaveL1 s launch cx cr) := by grind [leaveL1, memWf_writeBackAll]
theorem memWf_retireTeam (tid) : MemWf (retireTeam s tid) := by
  grind [retireTeam, modTeam_mem, memWf_holdDropped, modLaunch_mem, memWf_fenceCore, memWf_leaveL1, memWf_leaveWeirs, memWf_freshNb,
    memWf_gsyncTest, memWf_barcTest, memWf_serialPhase, memWf_foldl]
theorem memWf_hostedIn (launch ln cr l t) (e : hostedIn s launch ln cr l = some t) : MemWf t := by
  unfold hostedIn at e
  split at e <;> obtain ⟨_, -, rfl⟩ := Option.map_eq_some_iff.1 e
  · exact memWf_restoreTeam hs _ _
  · exact memWf_admitTeam hs _ _ _ _ _ _ _
theorem memWf_nextTurn (launch ln cr from_ t) (e : nextTurn s launch ln cr from_ = some t) : MemWf t := by
  obtain ⟨l, -, hl⟩ := List.exists_of_findSome?_eq_some e
  grind [memWf_hostedIn]
theorem memWf_turnOver (cr why t) (e : turnOver s cr why = some t) : MemWf t := by
  obtain ⟨x, -, hx⟩ := List.exists_of_findSome?_eq_some e
  grind [memWf_saveTeam, memWf_nextTurn, memWf_hostedIn]
theorem memWf_turnAgain (cr t) (e : turnAgain s cr = some t) : MemWf t := by
  obtain ⟨x, -, hx⟩ := List.exists_of_findSome?_eq_some e
  grind [modTeam_mem]
theorem memWf_quantumOver (cr t) (e : quantumOver s cr = some t) : MemWf t := by
  grind [quantumOver, memWf_turnOver, memWf_turnAgain]
theorem memWf_turnEnds (cr t) (e : turnEnds s cr = some t) : MemWf t := memWf_turnOver hs _ _ _ e
theorem nextWf_execVgridQuantumExpiry : NextWf (execVgridQuantumExpiry s) := .next (memWf_getD hs fun _ => memWf_quantumOver hs _ _)
theorem nextWf_execVgridTurnEnd : NextWf (execVgridTurnEnd s) := .next (memWf_getD hs fun _ => memWf_turnEnds hs _ _)
theorem memWf_remapLaunch (p launch cr) : MemWf (remapLaunch s p launch cr) := by
  fun_cases remapLaunch <;> grind [memWf_writeBackAll, memWf_saveTeam, modLaunch_mem, memWf_dropClean, modTeam_mem, memWf_foldl]
theorem memWf_clearCore (cr) : MemWf (clearCore s cr) := by grind [clearCore, memWf_leaveWeirs, memWf_remapLaunch, memWf_fenceCore, memWf_foldl]
theorem memWf_markCore (cr) : MemWf (markCore s cr) := by grind [markCore, memWf_clearCore, modCore_mem]
theorem memWf_clearMarked : MemWf (clearMarked s) := by grind [clearMarked, memWf_clearCore, memWf_foldl]
theorem nextWf_execDyxihanScrub : NextWf (execDyxihanScrub s) := .next (by grind [memWf_markCore])

/-! ### Machine/Front -/

theorem memWf_chainNext (c) : MemWf (chainNext s c) := by grind [chainNext, modChain_mem]
theorem memWf_doorbell (c v) : MemWf (doorbell s c v) := by grind [doorbell, memWf_chainNext, modChain_mem]
theorem memWf_clearLinkErr (c) : MemWf (clearLinkErr s c) := by grind [clearLinkErr, memWf_chainNext, modChain_mem]
theorem memWf_setWord (c w) : MemWf (setWord s c w) := by grind [setWord, memWf_ridWrite, modChain_mem]
theorem memWf_chainSettle (c) : MemWf (chainSettle s c) := by grind [chainSettle, modChain_mem, memWf_setWord]
theorem memWf_moveWord (c all) : MemWf (moveWord s c all) := by grind [moveWord, memWf_setWord, modChain_mem]
theorem memWf_chainEnable (c) : MemWf (chainEnable s c) := by grind [chainEnable, modChain_mem]
theorem memWf_chainDisable (c) : MemWf (chainDisable s c) := by grind [chainDisable, memWf_chainSettle, modChain_mem]
theorem memWf_chainResume (c) : MemWf (chainResume s c) := by grind [chainResume, memWf_chainNext, modChain_mem, memWf_moveWord]
theorem memWf_chainDone (c rec status) : MemWf (chainDone s c rec status) := by grind [chainDone, modChain_mem, memWf_chainSettle, memWf_moveWord]
theorem memWf_purgeTeams (id) : MemWf (purgeTeams s id) := hs
theorem memWf_dropLaunch (id ln status) : MemWf (dropLaunch s id ln status) := by
  grind [dropLaunch, dropWaits_mem, memWf_leaveWeirs, memWf_purgeTeams, memWf_foldl]
theorem memWf_completeLaunch (id status cause detail kidx) : MemWf (completeLaunch s id status cause detail kidx) := by
  grind [completeLaunch, memWf_ridWrite, modLaunch_mem, memWf_chainDone, memWf_dropLaunch]
theorem memWf_chainAbort (c) : MemWf (chainAbort s c) := by
  grind [chainAbort, modChain_mem, memWf_completeLaunch, modLaunch_mem, memWf_chainSettle, memWf_foldl]
theorem memWf_bar0Write {t : State} (ht : MemWf t) : MemWf (bar0Write s t) := by grind [bar0Write]
theorem memWf_onChain {f : Nat → State} (hf : ∀ c, MemWf (f c)) : MemWf (onChain s f) := by grind [onChain]
theorem nextWf_execChainEnable : NextWf (execChainEnable s) := .next (by grind [memWf_bar0Write, memWf_onChain, memWf_chainEnable])
theorem nextWf_execChainDisable : NextWf (execChainDisable s) := .next (by grind [memWf_bar0Write, memWf_onChain, memWf_chainDisable])
theorem nextWf_execChainResume : NextWf (execChainResume s) := .next (by grind [memWf_bar0Write, memWf_onChain, memWf_chainResume])
theorem nextWf_execChainAbort : NextWf (execChainAbort s) := .next (by grind [memWf_bar0Write, memWf_onChain, memWf_chainAbort])
theorem nextWf_execChstatLinkerrClear : NextWf (execChstatLinkerrClear s) := .next (by grind [memWf_bar0Write, memWf_onChain, memWf_clearLinkErr])
theorem waitWf_feRead (who cx va n st) : WaitWf (feRead s who cx va n st) := by
  unfold feRead
  split
  · exact .ok _
  · split
    · exact .bad _ _
    · split
      · exact .wait (memWf_vaReady hs _ _ _ _ _ _ ‹_›)
      · exact .bad _ _
      · exact .bad _ _
      · dsimp only
        split
        · exact .bad _ _
        · exact .ok _
theorem waitWf_readWeirs (who cx ptr) : WaitWf (readWeirs s who cx ptr) := by
  unfold readWeirs
  split
  · exact .ok _
  · exact (waitWf_feRead hs _ _ _ _ _).bind fun _ => (waitWf_need _).bind fun _ => (waitWf_feRead hs _ _ _ _ _).bind fun _ =>
      (waitWf_need _).bind fun _ => .ok _
theorem waitWf_readOwners (who cx ptr vgrid) : WaitWf (readOwners s who cx ptr vgrid) := by
  unfold readOwners
  split
  · exact .ok _
  · exact (waitWf_need _).bind fun _ => (waitWf_feRead hs _ _ _ _ _).bind fun _ => (waitWf_need _).bind fun _ =>
      (waitWf_feRead hs _ _ _ _ _).bind fun _ => (waitWf_need _).bind fun _ => (waitWf_need _).bind fun _ => (waitWf_need _).bind fun _ =>
      (waitWf_need _).bind fun _ => .ok _
theorem waitWf_readKern (who cx part va g argMax) : WaitWf (readKern s who cx part va g argMax) :=
  (waitWf_need _).bind fun _ => (waitWf_feRead hs _ _ _ _ _).bind fun _ => (waitWf_need _).bind fun _ => (waitWf_readWeirs hs _ _ _).bind fun _ =>
    (waitWf_need _).bind fun _ => (waitWf_readOwners hs _ _ _ _).bind fun _ => (waitWf_feRead hs _ _ _ _ _).bind fun _ => .ok _
theorem waitWf_readGen (who cx ly) : WaitWf (readGen s who cx ly) := by
  unfold readGen
  split
  · exact .bad _ _
  · split
    · exact .wait (memWf_vaReady hs _ _ _ _ _ _ ‹_›)
    · exact .bad _ _
    · exact .bad _ _
    · dsimp only
      split
      · exact .bad _ _
      · exact .ok _
theorem waitWf_mapM_readGen (who cx) (l : List Layer) : WaitWf (l.mapM (readGen s who cx)) := by
  induction l with
  | nil => exact .ok []
  | cons x r ih =>
    rw [List.mapM_cons]
    exact (waitWf_readGen hs _ _ _).bind fun _ => ih.bind fun _ => .ok _
theorem waitWf_readModel (who cx va) : WaitWf (readModel s who cx va) :=
  (waitWf_need _).bind fun _ => (waitWf_feRead hs _ _ _ _ _).bind fun _ => (waitWf_need _).bind fun _ => (waitWf_feRead hs _ _ _ _ _).bind fun _ =>
    (waitWf_need _).bind fun _ => (waitWf_need _).bind fun _ => (waitWf_feRead hs _ _ _ _ _).bind fun _ =>
    (waitWf_mapM_readGen hs _ _ _).bind fun _ => .ok _
theorem waitWf_readArgs (cx ptr n) : WaitWf (readArgs s cx ptr n) := by
  unfold readArgs
  split
  · exact .ok _
  · split
    · exact .bad _ _
    · exact waitWf_feRead hs _ _ _ _ _
theorem waitWf_checkTake (c ch r) : WaitWf (checkTake s c ch r) := by
  unfold checkTake
  dsimp only
  split
  · exact (waitWf_readModel hs _ _ _).bind fun _ => (waitWf_readArgs hs _ _ _).bind fun _ => .ok _
  · exact (waitWf_readKern hs _ _ _ _ _ _).bind fun _ => (waitWf_readArgs hs _ _ _).bind fun _ => .ok _
theorem memWf_enterLaunch (c ln) : MemWf (enterLaunch s c ln).2 := by grind [enterLaunch, fresh, memWf_chainNext, modChain_mem]
theorem memWf_badRecord (c r) : MemWf (badRecord s c r) := by grind [badRecord, memWf_ridWrite, memWf_chainSettle, modChain_mem]
theorem memWf_openFlags (id) : MemWf (openFlags s id) := by grind [openFlags, memWf_flushFlag, memWf_foldl]
theorem memWf_openStream (id) : MemWf (openStream s id) := by grind [openStream, memWf_modModel]
theorem memWf_dropLines (cx) : MemWf (dropLines s cx) := by grind [dropLines, memWf_dropClean]
theorem memWf_takeRecord (c) : MemWf (takeRecord s c) := by
  fun_cases takeRecord <;>
    grind [memWf_badRecord, memWf_enterLaunch, memWf_completeLaunch, memWf_dropLines, memWf_openFlags, memWf_openStream, waitWf_checkTake,
      WaitWf, dropWaits_mem]
theorem memWf_launchTake : MemWf (launchTake s) := by grind [launchTake, dropWaits_mem, memWf_takeRecord]
theorem memWf_nextKernel (id ln) : MemWf (nextKernel s id ln) := by
  fun_cases nextKernel <;> grind [waitWf_readKern, WaitWf, memWf_completeLaunch, modLaunch_mem, dropWaits_mem]
theorem memWf_modelNext (id) : MemWf (modelNext s id) := by grind [modelNext, memWf_nextKernel, modLaunch_mem, memWf_purgeTeams]
theorem memWf_launchComplete (id) : MemWf (launchComplete s id) := by grind [launchComplete, memWf_completeLaunch]

/-! ### Machine/Sluice -/

theorem memWf_layerFail (launch i fcause) : MemWf (layerFail s launch i fcause) := by
  grind [layerFail, memWf_modModel, memWf_writeFlag, memWf_modLayer, dropWaits_mem]
theorem memWf_evictStart (launch i) : MemWf (evictStart s launch i) := memWf_writeFlag (memWf_modModel hs _ _) _ _ _
theorem memWf_transferStart (launch t) (e : transferStart s launch = some t) : MemWf t := by
  revert e
  fun_cases transferStart <;> grind [memWf_layerFail, memWf_evictStart, memWf_writeFlag, memWf_modModel, memWf_modLayer]
theorem nextWf_execLayerTransferStart : NextWf (execLayerTransferStart s) := .next (memWf_getD hs fun _ => memWf_transferStart hs _ _)
theorem memWf_dropDst (pasid va n) : MemWf (dropDst s pasid va n) := by grind [dropDst, memWf_recallRange, memWf_dropLinesOf, memWf_foldl]
theorem memWf_evictBytes (cx ly) : MemWf (evictBytes s cx ly) := by
  unfold evictBytes
  split
  · exact hs
  · refine List.foldlRecOn (motive := fun r : State × Nat => MemWf r.1) _ _ (memWf_dropDst hs _ _ _) fun r hr x _ => ?_
    grind [memWf_homeWrite]
theorem memWf_evictDone (launch i) : MemWf (evictDone s launch i) := by
  grind [evictDone, memWf_modModel, memWf_evictBytes, memWf_writeFlag, memWf_modLayer]
theorem memWf_transferDone (launch) : MemWf (transferDone s launch) := by grind [transferDone, memWf_modModel, memWf_writeFlag, memWf_modLayer]
theorem memWf_beatWrite (launch cx x ly bs) : MemWf (beatWrite s launch cx x ly bs) := by
  fun_cases beatWrite <;> grind [memWf_vaReady, memWf_modModel, memWf_vaWrite, memWf_dropDst, memWf_layerFail]
theorem memWf_streamBeat (launch) : MemWf (streamBeat s launch) := by
  fun_cases streamBeat <;>
    grind [memWf_vaReady, memWf_modModel, memWf_sendReq, memWf_tabFill, memWf_beatWrite, memWf_layerFail]
theorem nextWf_execSluiceBeat : NextWf (execSluiceBeat s) := .next (by grind [memWf_streamBeat, memWf_foldl])
theorem memWf_streamAnswered (r launch ans) : MemWf (streamAnswered s r launch ans) := by
  grind [streamAnswered, memWf_beatWrite, memWf_modModel, memWf_layerFail]

/-! ### Machine/Context -/

theorem memWf_writeHaltBuf (p cx h) : MemWf (writeHaltBuf s p cx h) := by grind [writeHaltBuf, modPart_mem, memWf_writeBytes]
theorem memWf_haltFrame (gid) : MemWf (haltFrame s gid) := by grind [haltFrame, memWf_coreWrite]
theorem memWf_stopUnits (cx) : MemWf (stopUnits s cx) := hs
theorem memWf_closeColls (cx status) : MemWf (closeColls s cx status) := by
  grind [closeColls, memWf_endColls, memWf_counterReady, memWf_collDone, memWf_collFree, memWf_foldl]
theorem memWf_dropL1 (cx) : MemWf (dropL1 s cx) := by grind [dropL1, memWf_evictLine, memWf_foldl]
theorem memWf_forgetCtx (cx) : MemWf (forgetCtx s cx) := by
  grind [forgetCtx, memWf_dropL1, memWf_closeColls, memWf_stopUnits, memWf_targetTry, memWf_fenceCore, memWf_foldl]
theorem memWf_finishUnload (cx) : MemWf (finishUnload s cx) := by grind [finishUnload, memWf_completeLaunch, memWf_forgetCtx, memWf_foldl]
theorem memWf_haltComplete (cx) : MemWf (haltComplete s cx) := by
  grind [haltComplete, memWf_haltFrame, memWf_writeHaltBuf, memWf_writeBackAll, memWf_stopUnits, memWf_closeColls, modCtx_mem, memWf_completeLaunch,
    memWf_foldl]
theorem nextWf_execHaltComplete : NextWf (execHaltComplete s) := .next (by grind [memWf_haltComplete, memWf_finishUnload])
theorem waitWf_readRegions (slot pasid va) : WaitWf (readRegions s slot pasid va) := by
  unfold readRegions
  split
  · exact .bad _ _
  · dsimp only
    split
    · exact .bad _ _
    · split
      · exact .wait (memWf_foldl (fun _ _ h => memWf_askPasid h _ _ _ _ _ _) hs _)
      · split
        · exact .ok _
        · exact .bad _ _
theorem memWf_ctxResult (r) : MemWf (ctxResult s r) := hs
theorem memWf_loadCtx (slot) : MemWf (loadCtx s slot) := by
  unfold loadCtx
  dsimp only
  split
  · exact memWf_ctxResult hs _
  · split
    · exact memWf_ctxResult hs _
    · split
      · exact memWf_ctxResult hs _
      · split
        · exact memWf_ctxResult hs _
        · split
          · exact waitWf_readRegions hs _ _ _ _ ‹_›
          · exact memWf_ctxResult hs _
          · exact hs
theorem memWf_unloadCtx (slot) : MemWf (unloadCtx s slot) := by grind [unloadCtx, modCtx_mem, memWf_raiseHalt]
theorem memWf_ctxCmd (op slot) : MemWf (ctxCmd s op slot) := by grind [ctxCmd, modDev_mem, memWf_unloadCtx]
theorem nextWf_execCtxLoad : NextWf (execCtxLoad s) := .next (by grind [memWf_bar0Write, memWf_ctxCmd])
theorem nextWf_execCtxUnload : NextWf (execCtxUnload s) := .next (by grind [memWf_bar0Write, memWf_ctxCmd])
theorem memWf_ctxcmdDone : MemWf (ctxcmdDone s) := by grind [ctxcmdDone, memWf_ctxResult, memWf_loadCtx, memWf_finishUnload]
theorem memWf_leavePart (cx) : MemWf (leavePart s cx) := by grind [leavePart, modCtx_mem]
theorem memWf_enterPart (cx) : MemWf (enterPart s cx) := by grind [enterPart, memWf_freshNb, modCtx_mem, memWf_joinSlice, memWf_foldl]
theorem memWf_beginExch (p out inn cmd) : MemWf (beginExch s p out inn cmd) := by
  fun_cases beginExch
  grind [memWf_leavePart, modPart_mem]
theorem memWf_exchangeDone (p) : MemWf (exchangeDone s p) := by grind [exchangeDone, modDev_mem, modPart_mem, memWf_enterPart]
theorem nextWf_execTimeSliceExpiry : NextWf (execTimeSliceExpiry s) := .next (by grind [memWf_beginExch])
theorem nextWf_execTurnPass : NextWf (execTurnPass s) := .next (by grind [memWf_beginExch])
theorem nextWf_execCtxyield (p) : NextWf (execCtxyield p s) :=
  nextWf_run hs _ fun _ => by grind [memWf_finish, memWf_beginExch]
theorem memWf_xchgCmd (op slot) : MemWf (xchgCmd s op slot) := by grind [xchgCmd, modDev_mem, modCtx_mem, modPart_mem, memWf_beginExch]
theorem nextWf_execXchgOutIn : NextWf (execXchgOutIn s) := .next (by grind [memWf_bar0Write, memWf_xchgCmd])
theorem nextWf_execXchgSuspend : NextWf (execXchgSuspend s) := .next (by grind [memWf_bar0Write, memWf_xchgCmd])
theorem nextWf_execXchgResume : NextWf (execXchgResume s) := .next (by grind [memWf_bar0Write, memWf_xchgCmd])
theorem nextWf_execWatchdogExpiry : NextWf (execWatchdogExpiry s) := .next (by grind [memWf_raiseHalt])

/-! ### Machine/Translate -/

theorem memWf_fillBasin (t) : MemWf (fillBasin s t) := by grind [fillBasin]
theorem memWf_fillUnits (t) : MemWf (fillUnits s t) := hs
theorem memWf_dropTlb (pasid a n) : MemWf (dropTlb s pasid a n) := hs
theorem memWf_modWait (id f) : MemWf (modWait s id f) := hs
theorem memWf_answered (p) : MemWf (answered s p) := by grind [answered, memWf_modModel, memWf_flushFlag, memWf_targetTry, memWf_foldl]
theorem memWf_answerWait (p ok) : MemWf (answerWait s p ok) := by grind [answerWait, memWf_modWait, memWf_answered]
theorem memWf_grantWait (p t) : MemWf (grantWait s p t) := by grind [grantWait, memWf_fillBasin, memWf_answerWait, memWf_fillCore, memWf_fillUnits]
theorem memWf_lostWait (p) : MemWf (lostWait s p) := by grind [lostWait, memWf_answerWait, memWf_modWait, memWf_haltGroup, memWf_raiseHalt]
theorem memWf_sendPri (p) : MemWf (sendPri s p) := by grind [sendPri, emit_mem, memWf_modWait]
theorem memWf_takeFree (p0) : MemWf (takeFree s p0) := by grind [takeFree, memWf_sendPri, memWf_modWait]
theorem memWf_unstall : MemWf (unstall s) := by grind [unstall, memWf_takeFree, memWf_foldl]
theorem memWf_pageAbsent (p) : MemWf (pageAbsent s p) := by grind [pageAbsent, memWf_answerWait, memWf_modWait, memWf_unstall, modGroup_mem]
theorem memWf_takeAts (p ans) : MemWf (takeAts s p ans) := by
  fun_cases takeAts <;> grind [memWf_monRecord, memWf_lostWait, memWf_answerWait, memWf_pageAbsent, memWf_grantWait]
theorem memWf_atsResponse (pasid page ans) : MemWf (atsResponse s pasid page ans) := by
  grind [atsResponse, memWf_unstall, memWf_takeAts, memWf_foldl]
theorem nextWf_execAtsTimeout : NextWf (execAtsTimeout s) := .next (by grind [memWf_unstall, memWf_lostWait, memWf_foldl])
theorem memWf_takePri (p code) : MemWf (takePri s p code) := by
  fun_cases takePri <;> grind [memWf_monRecord, emit_mem, memWf_modWait, memWf_lostWait]
theorem nextWf_execPriResponse : NextWf (execPriResponse s) := .next (by grind [memWf_unstall, memWf_takePri, memWf_foldl])
theorem nextWf_execPriTimeout : NextWf (execPriTimeout s) := .next (by grind [memWf_unstall, memWf_lostWait, memWf_foldl])
theorem nextWf_execAtsInvalidation : NextWf (execAtsInvalidation s) := .next (by grind [memWf_dropLinesOf, memWf_dropTlb])
theorem nextWf_execAtsInvalidationDone : NextWf (execAtsInvalidationDone s) := .next (by grind [emit_mem])

/-! ### Machine/Fabric -/

theorem nextWf_execRemoteRequestArrive : NextWf (execRemoteRequestArrive s) := .next (by grind [fresh, memWf_targetTry])
theorem memWf_remAnswered (r ans) : MemWf (remAnswered s r ans) := by
  grind [remAnswered, memWf_monRecord, memWf_lanesAnswered, memWf_engAnswered, memWf_streamAnswered]
theorem nextWf_execRemoteAnswer : NextWf (execRemoteAnswer s) := .next (by grind [memWf_remAnswered])
theorem nextWf_execRemoteTimeout : NextWf (execRemoteTimeout s) := by
  refine .next ?_
  split
  · split
    · exact memWf_remAnswered hs _ _
    · exact hs
  · exact hs
theorem memWf_rmtinv (op slot) : MemWf (rmtinv s op slot) := by grind [rmtinv, modDev_mem, memWf_tabDrop, memWf_endColls]
theorem nextWf_execRmtinvPeer : NextWf (execRmtinvPeer s) := .next (by grind [memWf_bar0Write, memWf_rmtinv])
theorem nextWf_execRmtinvWindow : NextWf (execRmtinvWindow s) := .next (by grind [memWf_bar0Write, memWf_rmtinv])
theorem nextWf_execRmtinvComm : NextWf (execRmtinvComm s) := .next (by grind [memWf_bar0Write, memWf_rmtinv])
theorem nextWf_execRouteReload : NextWf (execRouteReload s) := .next (by grind [memWf_bar0Write, modDev_mem])
theorem memWf_routeReloadDone : MemWf (routeReloadDone s) := by grind [routeReloadDone, modDev_mem]
theorem memWf_linkFailure (l) : MemWf (linkFailure s l) := by grind [linkFailure, modDev_mem, memWf_raiseErr, memWf_endColls]

/-! ### Machine/Service -/

theorem memWf_softCount (n) : MemWf (softCount s n) := hs
theorem memWf_logUe (source unit ctx paddr) : MemWf (logUe s source unit ctx paddr) := hs
theorem memWf_errlogRead : MemWf (errlogRead s) := hs
theorem memWf_softRead (n) : MemWf (softRead s n) := hs
theorem nextWf_execEccCorrected : NextWf (execEccCorrected s) := .next (by grind [memWf_raiseErr, memWf_softCount])
theorem memWf_poisonL1 (cr pasid key) : MemWf (poisonL1 s cr pasid key) := by grind [poisonL1]
theorem memWf_poisonCode (cr pasid va) : MemWf (poisonCode s cr pasid va) := hs
theorem memWf_poisonCore (cr off loc) : MemWf (poisonCore s cr off loc) := by
  fun_cases poisonCore <;> grind [modGroup_mem, modTeam_mem, memWf_poisonL1, memWf_poisonCode]
theorem memWf_layerHit (pa) : MemWf (layerHit s pa) := by grind [layerHit, memWf_layerFail, memWf_foldl]
theorem memWf_poisonBasin (addr) : MemWf (poisonBasin s addr) := by grind [poisonBasin]
theorem memWf_poisonRem (id) : MemWf (poisonRem s id) := hs
theorem memWf_uncorrectable (source unit addr ctx loc) : MemWf (uncorrectable s source unit addr ctx loc) := by
  grind [uncorrectable, memWf_poisonBasin, memWf_poisonRem, memWf_poisonCore, memWf_layerHit, memWf_raiseErr, memWf_logUe, memWf_softCount]
theorem nextWf_execEccUncorrectable : NextWf (execEccUncorrectable s) := .next (by grind [memWf_uncorrectable])
theorem nextWf_execRillFlitFail : NextWf (execRillFlitFail s) := .next (by grind [memWf_raiseErr, memWf_softCount, memWf_uncorrectable])
theorem memWf_budgets (f) : MemWf (budgets s f) := by grind [budgets, modCore_mem, memWf_foldl]
theorem memWf_powerInterval (w) : MemWf (powerInterval s w) := by grind [powerInterval, modDev_mem, memWf_budgets, memWf_raiseErr]
theorem memWf_dyxUnload (cx) : MemWf (dyxUnload s cx) := by grind [dyxUnload, memWf_finishUnload, memWf_unloadCtx]
theorem memWf_unloadAll : MemWf (unloadAll s) := by grind [unloadAll, memWf_dyxUnload, memWf_foldl]
theorem nextWf_execThermalCritical : NextWf (execThermalCritical s) := .next (by grind [memWf_raiseErr, memWf_unloadAll, modDev_mem])
theorem memWf_firmwareVerified : MemWf (firmwareVerified s) := by grind [firmwareVerified, modDev_mem]
theorem memWf_deviceReset : MemWf (deviceReset s) := hs
theorem memWf_setArg (i x) : MemWf (setArg s i x) := hs
theorem memWf_mbResult (r) : MemWf (mbResult s r) := hs
theorem memWf_onFlash {f : State → State} (hf : ∀ t, MemWf t → MemWf (f t)) : MemWf (onFlash s f) := by
  grind [onFlash, memWf_mbResult]
theorem memWf_onSlot (n) {f : State → State} (hf : ∀ t, MemWf t → MemWf (f t)) : MemWf (onSlot s n f) := by
  grind [onSlot, memWf_mbResult, memWf_onFlash]
theorem memWf_mbDo (op) : MemWf (mbDo s op) := by
  fun_cases mbDo <;> grind [memWf_mbResult, memWf_setArg, memWf_onSlot, modDev_mem, memWf_onFlash, memWf_unloadAll]
theorem memWf_mbCmd (op ien) : MemWf (mbCmd s op ien) := by grind [mbCmd, modDev_mem]
theorem nextWf_execMbUnknownOp : NextWf (execMbUnknownOp s) := .next (by grind [memWf_mbCmd])
theorem nextWf_execMbCommandDone : NextWf (execMbCommandDone s) := .next (by grind [modDev_mem, memWf_mbDo, emit_mem])
theorem memWf_spdmHold (code hold) : MemWf (spdmHold s code hold) := hs
theorem memWf_spdm (code) : MemWf (spdm s code) := memWf_spdmHold hs _ _
theorem nextWf_execSpdmGetCertificate : NextWf (execSpdmGetCertificate s) := .next (by grind [emit_mem, memWf_spdm])
theorem nextWf_execSpdmGetMeasurements : NextWf (execSpdmGetMeasurements s) := .next (by grind [memWf_spdmHold, memWf_spdm])
theorem memWf_bar4Write (a bs poison) : MemWf (bar4Write s a bs poison) := by grind [bar4Write, memWf_homeWrite, memWf_foldl]
theorem memWf_bar4Read (a n) : MemWf (bar4Read s a n) := hs
theorem nextWf_execBar4Access : NextWf (execBar4Access s) := .next (by grind [memWf_bar4Write, memWf_bar4Read])

/-! ### Machine/Trace -/

theorem memWf_modPlume (die f) : MemWf (modPlume s die f) := hs
theorem memWf_plumeStart (die) : MemWf (plumeStart s die) := by grind [plumeStart, memWf_modPlume]
theorem memWf_plumeStop (die) : MemWf (plumeStop s die) := by grind [plumeStop, memWf_modPlume]
theorem memWf_plumeDiscard (die) : MemWf (plumeDiscard s die) := by grind [plumeDiscard, memWf_modPlume]
theorem memWf_plumeDump (die) : MemWf (plumeDump s die) := by grind [plumeDump, memWf_modPlume]
theorem memWf_dumpWrite (pasid p n) : MemWf (dumpWrite s pasid p n) := by grind [dumpWrite, memWf_vaWrite, memWf_foldl]
theorem memWf_dumpOver (die off trunc) : MemWf (dumpOver s die off trunc) := by grind [dumpOver, memWf_modPlume, dropWaits_mem]
theorem memWf_dumpDone (die) : MemWf (dumpDone s die) := by grind [dumpDone, memWf_dumpOver, memWf_dumpWrite, memWf_askPage]
theorem nextWf_execPlumeStart : NextWf (execPlumeStart s) := .next (by grind [memWf_bar0Write, memWf_plumeStart])
theorem nextWf_execPlumeStop : NextWf (execPlumeStop s) := .next (by grind [memWf_bar0Write, memWf_plumeStop])
theorem nextWf_execPlumeDump : NextWf (execPlumeDump s) := .next (by grind [memWf_bar0Write, memWf_plumeDump])
theorem nextWf_execPlumeDiscard : NextWf (execPlumeDiscard s) := .next (by grind [memWf_bar0Write, memWf_plumeDiscard])
theorem nextWf_execPlumeWindowFull : NextWf (execPlumeWindowFull s) := .next (by grind [memWf_modPlume])
theorem memWf_modMon (die m f) : MemWf (modMon s die m f) := hs
theorem nextWf_execMonClear : NextWf (execMonClear s) := .next (by grind [memWf_bar0Write, memWf_modMon])
theorem memWf_monTick : MemWf (monTick s) := by grind [monTick]

/-! ### Machine/Regs -/

theorem memWf_writePartcfg (p w) : MemWf (writePartcfg s p w) := hs
theorem memWf_writeBasincfg (w) : MemWf (writeBasincfg s w) := by grind [writeBasincfg, modDev_mem]
theorem memWf_writeSluicepool (p w) : MemWf (writeSluicepool s p w) := hs
theorem memWf_inspEnter (cx) : MemWf (inspEnter s cx) := by grind [inspEnter, memWf_joinSlice, memWf_foldl]
theorem memWf_inspLeave (cx) : MemWf (inspLeave s cx) := by grind [inspLeave]
theorem memWf_writeInspcfg (p w) : MemWf (writeInspcfg s p w) := by grind [writeInspcfg, memWf_inspEnter, modPart_mem, memWf_inspLeave]
theorem memWf_writeHaltbuf (p w x) : MemWf (writeHaltbuf s p w x) := hs
theorem memWf_writePlumectl (die w x) : MemWf (writePlumectl s die w x) := by
  grind [writePlumectl, memWf_modPlume, memWf_plumeStop, memWf_plumeDiscard, memWf_plumeStart, memWf_plumeDump]
theorem memWf_writePlume (die o w x) : MemWf (writePlume s die o w x) := by
  fun_cases writePlume <;> grind [memWf_writePlumectl, memWf_modPlume]
theorem memWf_writeChctl (c w m x) : MemWf (writeChctl s c w m x) := by
  grind [writeChctl, modChain_mem, memWf_chainEnable, memWf_chainDisable, memWf_chainAbort, memWf_chainResume]
theorem memWf_writeChstat (c x) : MemWf (writeChstat s c x) := by grind [writeChstat, modChain_mem, memWf_clearLinkErr]
theorem memWf_writeChain (c o w m x) : MemWf (writeChain s c o w m x) := by
  fun_cases writeChain <;> grind [modChain_mem, memWf_writeChstat, memWf_writeChctl]
theorem memWf_modSlot (id f) : MemWf (modSlot s id f) := hs
theorem memWf_writeSlot (slot o w) : MemWf (writeSlot s slot o w) := by
  fun_cases writeSlot <;> grind [memWf_modSlot]
theorem memWf_writeMoncfg (die n w x) : MemWf (writeMoncfg s die n w x) := memWf_modMon hs _ _ _
theorem memWf_writeErren (w) : MemWf (writeErren s w) := by grind [writeErren, modDev_mem, emit_mem]
theorem memWf_writeRoutectl (w x) : MemWf (writeRoutectl s w x) := hs
theorem memWf_writePart (o w x t) (e : writePart s o w x = some t) : MemWf t := by
  grind [writePart, memWf_writePartcfg, memWf_writeSluicepool, memWf_writeHaltbuf, memWf_writeInspcfg]
theorem memWf_writeOne (o w x) : MemWf (writeOne s o w x) := by
  fun_cases writeOne <;> grind [modDev_mem, memWf_ctxCmd, memWf_writeBasincfg, memWf_rmtinv, memWf_writeRoutectl, memWf_xchgCmd, memWf_writeErren]
theorem memWf_writeMailbox (o w m x) : MemWf (writeMailbox s o w m x) := by grind [writeMailbox, memWf_mbCmd, modDev_mem, memWf_setArg, memWf_foldl]
theorem memWf_regWord (o m v) : MemWf (regWord s o m v) := by
  grind [regWord, memWf_writeMailbox, memWf_writeChain, memWf_writeMoncfg, memWf_writeSlot, memWf_writePlume, memWf_writePart, memWf_writeOne]
theorem memWf_regWrite (off n v) : MemWf (regWrite s off n v) := by grind [regWrite, memWf_regWord]

/-! ### Machine/Cycle -/

theorem memWf_chargeIdle (cr slice) : MemWf (chargeIdle s cr slice) := by grind [chargeIdle, memWf_plumeRec, memWf_chargeLeaf]
theorem memWf_issueEntry (gid e) : MemWf (issueEntry s gid e) := by grind [issueEntry, memWf_takeTrap, modGroup_mem, memWf_foldl]
theorem memWf_occupy (cr slice g e) : MemWf (occupy s cr slice g e) := by grind [occupy, modCore_mem]
theorem memWf_engHalts (cr slice) : MemWf (engHalts s cr slice) := by grind [engHalts, modGroup_mem, memWf_foldl]
theorem memWf_markDid (cr slice) : MemWf (markDid s cr slice) := hs
theorem memWf_sliceCycle (cr slice) : MemWf (sliceCycle s cr slice) := by
  grind [sliceCycle, memWf_engHalts, modGroup_mem, memWf_markDid, memWf_chargeIdle, modCore_mem, memWf_issueEntry, memWf_occupy, memWf_chargeAt,
    memWf_foldl]
theorem memWf_moveSets (cr slice) : MemWf (moveSets s cr slice) := by grind [moveSets, modGroup_mem, memWf_tradeSets]
theorem memWf_sliceEnd (cr slice) : MemWf (sliceEnd s cr slice) := by grind [sliceEnd, modGroup_mem, memWf_moveSets, memWf_foldl]
theorem memWf_chargeCapped : MemWf (chargeCapped s) := by grind [chargeCapped, memWf_plumeRec, memWf_chargeLeaf, memWf_foldl]
theorem memWf_trimSet (k) : MemWf (trimSet s k) := by grind [trimSet, memWf_evictLine]
theorem memWf_trimL1 : MemWf (trimL1 s) := by grind [trimL1, memWf_trimSet, memWf_foldl]
theorem memWf_tick : MemWf (tick s) := by
  grind [tick, memWf_chargeCapped, memWf_sliceEnd, memWf_clearMarked, memWf_trimL1, memWf_unstall, memWf_monTick, memWf_foldl]

/-! ### Machine/Exact -/

theorem memWf_wordResults (v t d n res) : MemWf (wordResults s v t d n res) := memWf_alu hs _ _ _ _ _ _
theorem nextWf_twoWord (i p f) : NextWf (twoWord s i p f) := nextWf_run hs _ (fun _ => memWf_wordResults hs _ _ _ _ _)
theorem nextWf_splitWords (i p n) : NextWf (splitWords s i p n) := nextWf_run hs _ (fun _ => memWf_wordResults hs _ _ _ _ _)
theorem nextWf_xArith (i p op) : NextWf (xArith s i p op) := nextWf_run hs _ (fun _ => memWf_wordResults hs _ _ _ _ _)
theorem nextWf_xSignOp (i p isNeg) : NextWf (xSignOp s i p isNeg) := nextWf_run hs _ (fun _ => memWf_wordResults hs _ _ _ _ _)

/-! ### Machine/Scalar -/

theorem nextWf_scal3 (i p f) : NextWf (scal3 s i p f) := nextWf_runS hs _ _
theorem nextWf_scalL (i p f) : NextWf (scalL s i p f) := nextWf_runS hs _ _

/-! ### Machine/VecInt -/

theorem nextWf_vec3 (i p f) : NextWf (vec3 s i p f) := nextWf_runV hs _ _ _
theorem nextWf_vec1 (i p f) : NextWf (vec1 s i p f) := nextWf_runV hs _ _ _
theorem nextWf_execVrdi (d a) : NextWf (execVrdi d a s) :=
  nextWf_run hs _ fun _ => by grind [memWf_trapAll, memWf_alu]
theorem nextWf_execVwri (d a) : NextWf (execVwri d a s) :=
  nextWf_run hs _ fun _ => by grind [memWf_trapAll, memWf_alu]
theorem nextWf_vecL (i p f) : NextWf (vecL s i p f) := nextWf_runV hs _ _ _
theorem nextWf_execCvti (p) : NextWf (execCvti p s) := by
  unfold execCvti
  exact nextWf_runT hs _ _ _ _

/-! ### Machine/Dispatch -/

theorem nextWf_exec (i : Instr) : NextWf (exec i s) := by
  unfold exec
  cases i with
  | nop | bra _ | join _ | leave _ | waitk _ | pcrel _ _ | ptok _ _ | kact _ | fcmp _ | fstatWr _ _ | xcmp _ | fence _ | tstat _
  | trcmark _ => exact nextWf_run hs _ (fun _ => memWf_finish hs _ _)
  | brx _ | ret _ => exact nextWf_run hs _ (fun _ => memWf_indirect hs _ _ _)
  | call _ _ => exact nextWf_execCall hs _ _
  | callx _ _ => exact nextWf_execCallx hs _ _
  | loop _ _ _ _ => exact nextWf_execLoop hs _ _ _ _
  | exit => exact nextWf_run hs _ (fun _ => memWf_afterExit (memWf_finish hs _ _) _)
  | yield => exact nextWf_run hs _ (fun _ => memWf_yieldGroup (memWf_finish hs _ _) _)
  | sleep _ _ _ => exact nextWf_execSleep hs _ _ _
  | bkpt _ | trap _ => exact nextWf_run hs _ (fun _ => memWf_trapAll hs _ _ _)
  | sadd _ | ssub _ | smul _ | sand _ | sor _ | sxor _ | sshl _ | sshr _ | ssra _ => exact nextWf_scal3 hs _ _ _
  | smovi _ | smovh _ | smov _ _ | snot _ _ | spopc _ _ | sclz _ _ | saddr _ | kand _ | kor _ | kxor _ | knot _ | kpopc _ | kffs _ | kmov _
  | fstatRd _ | fstatClr _ => exact nextWf_runS hs _ _
  | smulh _ | smad _ | smin _ | smax _ | scmp _ | ssel _ => exact nextWf_scalL hs _ _ _
  | iadd _ | isub _ | imul _ | and _ | or _ | xor _ | shl _ | shr _ | sra _ => exact nextWf_vec3 hs _ _ _
  | icmp _ _ _ _ | icmpLong _ | pset _ _ | pnot _ _ | pmov _ _ | ktop _ _ => exact nextWf_runP hs _ _ _
  | movi _ | moviH _ | imad _ | bfi _ => exact nextWf_runV hs _ _ _
  | mov _ | not _ | popc _ | clz _ | brev _ | iabs _ | ineg _ => exact nextWf_vec1 hs _ _ _
  | vrdi _ _ => exact nextWf_execVrdi hs _ _
  | vwri _ _ => exact nextWf_execVwri hs _ _
  | iaddc _ | matchL _ | funpk _ _ => exact nextWf_run hs _ (fun _ => memWf_alu hs _ _ _ _ _ _)
  | imulh _ | rot _ | bfe _ => exact nextWf_vecL hs _ _ _
  | imadw _ | imin _ | imax _ | isel _ | fclass _ => exact nextWf_runT hs _ _ _ _
  | cvti _ => exact nextWf_execCvti hs _
  | srd _ => exact nextWf_execSrd hs _
  | swr _ => exact nextWf_execSwr hs _
  | shfl _ _ => exact nextWf_execShfl hs _ _
  | vote _ => exact nextWf_execVote hs _
  | reduce _ | scan _ | bcast _ | fcvt _ _ | fcvti _ _ | icvtf _ _ | fpack _ _ => exact nextWf_run hs _ (fun _ => memWf_laneResults hs _ _ _ _)
  | split _ => exact nextWf_execSplit hs _
  | faddF32 _ | fsubF32 _ | fmulF32 _ => exact nextWf_short2 hs _ _ _
  | ffmaF32 _ | fdiv _ | fscale _ => exact nextWf_run hs _ (fun _ => memWf_fLone hs _ _ _ _ _)
  | fadd _ | fsub _ | fmul _ | fmin _ | fmax _ | fminnum _ | fmaxnum _ => exact nextWf_arith2 hs _ _ _ _
  | ffma _ => exact nextWf_execFfma hs _
  | fabs _ | fneg _ => exact nextWf_absNeg hs _ _ _
  | fsqrt _ | frcp _ | frsq _ | fex2 _ | flg2 _ | fsin _ | fcos _ | frnd _ => exact nextWf_unary hs _ _ _
  | ftwosum _ | ffastsum _ | ftwoprod _ => exact nextWf_twoWord hs _ _ _
  | ffma3 _ | xren _ | xcomp _ | xcvt _ _ | rnd _ | rndg _ => exact nextWf_run hs _ (fun _ => memWf_wordResults hs _ _ _ _ _)
  | fsplit _ | fsplit3 _ => exact nextWf_splitWords hs _ _ _
  | xadd _ | xsub _ | xmul _ => exact nextWf_xArith hs _ _ _
  | xneg _ | xabs _ => exact nextWf_xSignOp hs _ _ _
  | ld _ | st _ | lds _ _ | sts _ _ | ldsc _ _ | stsc _ _ | atom _ _ | atoms _ _ | atomc _ | red _ _ => exact nextWf_runAcc hs _ _ _
  | ldx _ | stx _ => exact nextWf_splitRun hs _ _ _
  | ldc _ => exact nextWf_execLdc hs _
  | pld _ | pst _ => exact nextWf_run hs _ (fun _ => memWf_accIssue hs _ _)
  | pref _ => exact nextWf_execPref hs _
  | bar _ => exact nextWf_execBar hs _
  | barc _ | gsync _ => exact nextWf_run hs _ (fun _ => memWf_barIssue hs _ _)
  | binit _ => exact nextWf_execBinit hs _
  | barrive _ | bdrop _ => exact nextWf_arriveRun hs _ _ _
  | bexpect _ => exact nextWf_execBexpect hs _
  | bwait _ => exact nextWf_execBwait hs _
  | btest _ => exact nextWf_execBtest hs _
  | binv _ => exact nextWf_execBinv hs _
  | stscb _ => exact nextWf_execStscb hs _
  | acopy _ => exact nextWf_execAcopy hs _
  | agath _ => exact nextWf_execAgath hs _
  | ascat _ => exact nextWf_execAscat hs _
  | acopym _ => exact nextWf_execAcopym hs _
  | acancel _ => exact nextWf_execAcancel hs _
  | mma _ _ _ | mmaj _ _ _ | mmas _ _ _ | mmajs _ _ _ => exact nextWf_mmaRun hs _ _
  | talloc _ => exact nextWf_execTalloc hs _
  | tfree _ => exact nextWf_execTfree hs _
  | tzero _ => exact nextWf_execTzero hs _
  | tld _ | tst _ => exact nextWf_tileMove hs _ _ _
  | tread _ | twrite _ => exact nextWf_tilePos hs _ _ (fun _ _ => memWf_matAccept hs _ _ _ _ _)
  | tscale _ => exact nextWf_execTscale hs _
  | rld _ | rst _ | rstCnt _ | ratom _ _ => exact nextWf_run hs _ (fun _ => memWf_remIssue hs _ _ _ _ _)
  | rfence _ => exact nextWf_execRfence hs _
  | cwait _ => exact nextWf_execCwait hs _
  | cnote _ => exact nextWf_execCnote hs _
  | coll _ => exact nextWf_execColl hs _
  | bknote _ => exact nextWf_execBknote hs _
  | lreq _ => exact nextWf_layerRun hs _ _ (fun _ _ _ => memWf_finish (memWf_reqLayer hs _ _ _) _ _)
  | lwait _ => exact nextWf_execLwait hs _
  | lrel _ => exact nextWf_execLrel hs _
  | lstat _ => exact nextWf_layerRun hs _ _ (fun _ _ _ => memWf_finish hs _ _)
  | tret => exact nextWf_runPriv hs _ _ (fun _ => memWf_tryReturn (memWf_finish hs _ _) _)
  | hcall _ => exact nextWf_execHcall hs _
  | srdp _ | swrp _ | frmrd _ => exact nextWf_runPriv hs _ _ (fun _ => memWf_finish hs _ _)
  | ctxyield _ => exact nextWf_execCtxyield hs _
  | illrd _ => exact nextWf_execIllrd hs _
  | weirset _ => exact nextWf_execWeirset hs _
  | weirclr _ => exact nextWf_execWeirclr hs _
  | weirrd _ => exact nextWf_execWeirrd hs _
  | hrd _ => exact nextWf_execHrd hs _
  | hwr _ => exact nextWf_execHwr hs _
  | hprd _ => exact nextWf_execHprd hs _
  | hfront _ | hscb _ => exact nextWf_inspRun hs _ _ (fun _ _ => memWf_finish hs _ _)
  | hstep _ => exact nextWf_execHstep hs _
  | hresume _ => exact nextWf_execHresume hs _
  | cntrd _ => exact nextWf_execCntrd hs _
  | registerWrite | partcfgWrite | basincfgWrite | sluicepoolWrite | inspcfgWrite => exact .next (memWf_regWrite hs _ _ _)
  | ctxLoad => exact nextWf_execCtxLoad hs
  | ctxUnload => exact nextWf_execCtxUnload hs
  | ctxcmdDone => exact .next (memWf_ctxcmdDone hs)
  | doorbellWrite => exact .next (memWf_onChain hs (fun _ => memWf_doorbell hs _ _))
  | chainEnable => exact nextWf_execChainEnable hs
  | chainDisable => exact nextWf_execChainDisable hs
  | chainResume => exact nextWf_execChainResume hs
  | chainAbort => exact nextWf_execChainAbort hs
  | chstatLinkerrClear => exact nextWf_execChstatLinkerrClear hs
  | launchTake => exact .next (memWf_launchTake hs)
  | streamOpen => exact .next (memWf_openStream hs _)
  | modelNextKernel => exact .next (memWf_modelNext hs _)
  | launchComplete => exact .next (memWf_launchComplete hs _)
  | clusterAdmit => exact .next (memWf_clusterAdmit hs _)
  | admissionStarvationLimit => exact nextWf_execAdmissionStarvationLimit hs
  | teamReadmit => exact .next (memWf_readmitTeam hs _)
  | teamEvict => exact nextWf_execTeamEvict hs
  | teamRetire => exact .next (memWf_retireTeam hs _)
  | vgridQuantumExpiry => exact nextWf_execVgridQuantumExpiry hs
  | vgridTurnEnd => exact nextWf_execVgridTurnEnd hs
  | timeSliceExpiry => exact nextWf_execTimeSliceExpiry hs
  | turnPass => exact nextWf_execTurnPass hs
  | xchgOutIn => exact nextWf_execXchgOutIn hs
  | xchgSuspend => exact nextWf_execXchgSuspend hs
  | xchgResume => exact nextWf_execXchgResume hs
  | exchangeDone => exact .next (memWf_exchangeDone hs _)
  | rmtinvPeer => exact nextWf_execRmtinvPeer hs
  | rmtinvWindow => exact nextWf_execRmtinvWindow hs
  | rmtinvComm => exact nextWf_execRmtinvComm hs
  | rmtinvDone | faultStallBlocking | groupPromotion | entryOverdue | sleepWake => exact .next hs
  | routeReload => exact nextWf_execRouteReload hs
  | routeReloadDone => exact .next (memWf_routeReloadDone hs)
  | plumeStart => exact nextWf_execPlumeStart hs
  | plumeStop => exact nextWf_execPlumeStop hs
  | plumeDump => exact nextWf_execPlumeDump hs
  | plumeDumpDone => exact .next (memWf_dumpDone hs _)
  | plumeDiscard => exact nextWf_execPlumeDiscard hs
  | plumeWindowFull => exact nextWf_execPlumeWindowFull hs
  | monClear => exact nextWf_execMonClear hs
  | softCounterRead => exact .next (memWf_softRead hs _)
  | errlogRead => exact .next (memWf_errlogRead hs)
  | mbInfo | mbErase | mbWrite | mbVerify | mbActivate | mbRaisemin | mbReset => exact .next (memWf_mbCmd hs _ _)
  | mbUnknownOp => exact nextWf_execMbUnknownOp hs
  | mbCommandDone => exact nextWf_execMbCommandDone hs
  | spdmGetVersion | spdmGetCapabilities | spdmChallenge => exact .next (memWf_spdm hs _)
  | spdmNegotiateAlgorithms | spdmGetDigests => exact .next (memWf_spdmHold hs _ _)
  | spdmGetCertificate => exact nextWf_execSpdmGetCertificate hs
  | spdmGetMeasurements => exact nextWf_execSpdmGetMeasurements hs
  | deviceReset => exact .next (memWf_deviceReset hs)
  | firmwareVerified => exact .next (memWf_firmwareVerified hs)
  | thermalCritical => exact nextWf_execThermalCritical hs
  | powerInterval => exact .next (memWf_powerInterval hs _)
  | eccCorrected => exact nextWf_execEccCorrected hs
  | eccUncorrectable => exact nextWf_execEccUncorrectable hs
  | dyxihanScrub => exact nextWf_execDyxihanScrub hs
  | rillFlitFail => exact nextWf_execRillFlitFail hs
  | linkFailure => exact .next (memWf_linkFailure hs _)
  | collEndNoticeReceive => exact nextWf_execCollEndNoticeReceive hs
  | atsResponse => exact .next (memWf_atsResponse hs _ _ _)
  | atsTimeout => exact nextWf_execAtsTimeout hs
  | priResponse => exact nextWf_execPriResponse hs
  | priTimeout => exact nextWf_execPriTimeout hs
  | atsInvalidation => exact nextWf_execAtsInvalidation hs
  | atsInvalidationDone => exact nextWf_execAtsInvalidationDone hs
  | faultReplay => exact .next (memWf_replayGroup hs _)
  | bar4Access => exact nextWf_execBar4Access hs
  | clauseFetch => exact nextWf_execClauseFetch hs
  | sliceCycle => exact .next (memWf_sliceCycle hs _ _)
  | opComplete => exact nextWf_execOpComplete hs
  | laneUnpark => exact .next (memWf_unparkAll hs _ _)
  | cwaitPoll => exact nextWf_execCwaitPoll hs
  | trapEntry => exact nextWf_execTrapEntry hs
  | watchdogExpiry => exact nextWf_execWatchdogExpiry hs
  | haltComplete => exact nextWf_execHaltComplete hs
  | matrixOpBegin => exact nextWf_execMatrixOpBegin hs
  | matrixOpDone => exact nextWf_execMatrixOpDone hs
  | engineBeat => exact .next (memWf_engBeat hs _)
  | engineOpDone => exact nextWf_execEngineOpDone hs
  | engineOpError => exact nextWf_execEngineOpError hs
  | sluiceBeat => exact nextWf_execSluiceBeat hs
  | layerTransferStart => exact nextWf_execLayerTransferStart hs
  | layerTransferDone => exact .next (memWf_transferDone hs _)
  | layerEvictDone => exact .next (memWf_evictDone hs _ _)
  | remoteRequestArrive => exact nextWf_execRemoteRequestArrive hs
  | remoteAnswer => exact nextWf_execRemoteAnswer hs
  | remoteTimeout => exact nextWf_execRemoteTimeout hs
  | collStart => exact nextWf_execCollStart hs
  | collMessage => exact nextWf_execCollMessage hs
  | collComplete => exact nextWf_execCollComplete hs
  | hcallWriteDone => exact nextWf_execHcallWriteDone hs

/-! ### Machine/Schedule and Machine/Step -/

theorem actWf_issueAct : ActWf (issueAct s) := by
  unfold issueAct
  split
  · exact .stuck
  · split
    · exact .done (memWf_trapIllegal hs _ _)
    · split
      · exact .done (memWf_trapEntryLanes hs _ _)
      · exact .run _ hs

theorem actWf_chooseAct : ActWf (chooseAct s) := by
  unfold chooseAct
  dsimp only
  split
  · exact .run _ hs
  · split
    · exact .run _ hs
    · split
      · exact .run _ hs
      · exact .done (memWf_tick hs)

theorem actWf_nextAct : ActWf (nextAct s) := by
  unfold nextAct
  split
  · exact actWf_issueAct hs
  · split
    · exact .run _ hs
    · split
      · exact .run _ hs
      · exact actWf_chooseAct hs

theorem nextWf_step : NextWf (step s) := by
  have h := actWf_nextAct hs
  unfold step
  generalize nextAct s = a at h
  cases h with
  | run i ht => exact nextWf_exec ht i
  | done ht => exact .next ht
  | stuck => exact .fault _

end

/-- Settles O23: what a step runs leaves memory in canonical form, and choosing what it runs does not touch memory. -/
theorem stepsKeepMemoryForm : Obligations.StepsKeepMemoryForm := by
  intro s t hs e
  have h := nextWf_step hs
  rw [e] at h
  cases h with
  | next ht => exact ht

end Sys2Proof.Machine
end

section
/-! What a host write to a register of BAR0 leaves (R15): the word that a write of some bytes leaves, the function that each offset reaches,
and what the registers of RegSets take. -/

namespace Sys2Proof.Machine

open Sys2Proof.Stated

variable {s : State}

/-! ### The word that a write leaves -/

theorem testBit_sub_land (a b k : Nat) : (a - Nat.land a b).testBit k = (a.testBit k && !b.testBit k) := by
  show (a - (a &&& b)).testBit k = _
  have hle : a &&& b ≤ a := Nat.and_le_left
  have hmod : (a &&& b) % 2 = 1 ↔ a % 2 = 1 ∧ b % 2 = 1 := Nat.and_mod_two_eq_one
  induction k generalizing a b with
  | zero =>
    generalize a &&& b = c at hle hmod
    rw [Bool.eq_iff_iff]
    simp only [Nat.testBit_zero, Bool.and_eq_true, Bool.not_eq_true', decide_eq_true_eq, decide_eq_false_iff_not]
    omega
  | succ k ih =>
    have hdiv : (a - (a &&& b)) / 2 = a / 2 - (a / 2 &&& b / 2) := by
      rw [← Nat.and_div_two]
      omega
    rw [Nat.testBit_succ, Nat.testBit_succ a, Nat.testBit_succ b, hdiv]
    exact ih _ _ Nat.and_le_left Nat.and_mod_two_eq_one

theorem testBit_mergeW (old m v k : Nat) : (mergeW old m v).testBit k = if m.testBit k then v.testBit k else old.testBit k := by
  have h : (mergeW old m v).testBit k = ((old - Nat.land old m).testBit k || (v.testBit k && m.testBit k)) :=
    (Nat.testBit_or _ _ _).trans (congrArg _ (Nat.testBit_and _ _ _))
  rw [h, testBit_sub_land]
  cases m.testBit k <;> simp

/-- A write of all eight bytes leaves the fields of the word that is written. -/
theorem bitsOf_mergeW (old v : Nat) {k n : Nat} (h : k + n ≤ 64) : bitsOf (mergeW old (2 ^ 64 - 1) (v % 2 ^ 64)) k n = bitsOf v k n := by
  apply Nat.eq_of_testBit_eq
  intro i
  simp only [bitsOf, Nat.testBit_mod_two_pow, Nat.testBit_div_two_pow, testBit_mergeW, Nat.testBit_two_pow_sub_one]
  by_cases hi : i < n
  · simp [hi, show i + k < 64 by omega]
  · simp [hi]

theorem testBit_mergeW_word (old v : Nat) {k : Nat} (h : k < 64) : (mergeW old (2 ^ 64 - 1) (v % 2 ^ 64)).testBit k = v.testBit k := by
  rw [testBit_mergeW, Nat.testBit_two_pow_sub_one, Nat.testBit_mod_two_pow]
  simp [h]

theorem mergeW_word {old v : Nat} (ho : old < 2 ^ 64) (hv : v < 2 ^ 64) : mergeW old (2 ^ 64 - 1) v = v := by
  apply Nat.eq_of_testBit_eq
  intro i
  rw [testBit_mergeW, Nat.testBit_two_pow_sub_one]
  by_cases hi : i < 64
  · simp [hi]
  · have hp : 2 ^ 64 ≤ 2 ^ i := Nat.pow_le_pow_right (by omega) (by omega)
    simp [hi, Nat.testBit_lt_two_pow (Nat.lt_of_lt_of_le ho hp), Nat.testBit_lt_two_pow (Nat.lt_of_lt_of_le hv hp)]

theorem land_word {v : Nat} (hv : v < 2 ^ 64) : Nat.land v (2 ^ 64 - 1) = v :=
  (Nat.and_two_pow_sub_one_eq_mod v 64).trans (Nat.mod_eq_of_lt hv)

/-- A write of the eight bytes of one word. -/
theorem regWrite_word (s : State) {o : Nat} (h : o % 8 = 0) (v : Nat) : regWrite s o 8 v = regWord s o (2 ^ 64 - 1) (v % 2 ^ 64) := by
  have ho : o / 8 * 8 = o := by omega
  simp [regWrite, h, ho]

theorem bitsOf_zero_left (w n : Nat) : bitsOf w 0 n = w % 2 ^ n := by simp [bitsOf]

theorem clearBits_eq {e w x : Nat} (h : ∀ k, x.testBit k = (e.testBit k && !w.testBit k)) : clearBits e w = x :=
  Nat.eq_of_testBit_eq fun k => (testBit_sub_land e w k).trans (h k).symm

theorem testBit_div_mul_two_pow (x j k : Nat) : (x / 2 ^ j * 2 ^ j).testBit k = (decide (j ≤ k) && x.testBit k) := by
  rw [Nat.testBit_mul_two_pow, Nat.testBit_div_two_pow]
  by_cases h : j ≤ k
  · simp [h]
  · simp [h]

/-- The bits that a write of bytes of one word leaves. -/
theorem testBit_mergeW_bytes (old v i n : Nat) {k : Nat} (hk : k < 64) :
    (mergeW old ((2 ^ (8 * n) - 1) * 2 ^ (8 * i)) (v * 2 ^ (8 * i) % 2 ^ 64)).testBit k =
      if 8 * i ≤ k ∧ k < 8 * (i + n) then v.testBit (k - 8 * i) else old.testBit k := by
  rw [testBit_mergeW, Nat.testBit_mul_two_pow, Nat.testBit_two_pow_sub_one, Nat.testBit_mod_two_pow, Nat.testBit_mul_two_pow]
  by_cases h : 8 * i ≤ k ∧ k < 8 * (i + n)
  · simp [h, hk, show k - 8 * i < 8 * n by omega]
  · have h' : ¬ (8 * i ≤ k ∧ k - 8 * i < 8 * n) := by omega
    simp [h, h']

/-- The mask of bits that end within a word fits in the word. -/
theorem mask_lt_word {n k : Nat} (h : n + k ≤ 64) : (2 ^ n - 1) * 2 ^ k < 2 ^ 64 :=
  calc (2 ^ n - 1) * 2 ^ k < 2 ^ n * 2 ^ k := Nat.mul_lt_mul_of_pos_right (Nat.sub_lt (Nat.two_pow_pos n) Nat.one_pos) (Nat.two_pow_pos k)
    _ = 2 ^ (n + k) := (Nat.pow_add 2 n k).symm
    _ ≤ 2 ^ 64 := Nat.pow_le_pow_right Nat.two_pos h

/-- A write of bytes of one word. -/
theorem regWrite_bytes {o i n : Nat} (ho : o % 8 = 0) (hn : 0 < n) (h : i + n ≤ 8) (v : Nat) :
    regWrite s (o + i) n v = regWord s o ((2 ^ (8 * n) - 1) * 2 ^ (8 * i)) (v * 2 ^ (8 * i) % 2 ^ 64) := by
  have hlo : (o + i) / 8 * 8 = o := by omega
  have hi : (o + i) % 8 = i := by omega
  have hlt : (2 ^ (8 * n) - 1) * 2 ^ (8 * i) < 2 ^ 64 := mask_lt_word (by omega)
  have hpos : (2 ^ (8 * n) - 1) * 2 ^ (8 * i) ≠ 0 :=
    Nat.mul_ne_zero (Nat.sub_ne_zero_of_lt (Nat.one_lt_two_pow (by omega))) (Nat.ne_of_gt (Nat.two_pow_pos _))
  unfold regWrite
  dsimp only
  rw [hlo, hi, Nat.min_eq_left (by omega : n ≤ 8), Nat.mod_eq_of_lt hlt, if_neg hpos, Nat.div_eq_of_lt hlt, if_pos rfl]

/-- The word that a write of all 64 bits leaves in a register. -/
def wordLeft (s : State) (o v : Nat) : Nat := mergeW (regRead s o) (2 ^ 64 - 1) (v % 2 ^ 64)

theorem bitsOf_wordLeft (o v : Nat) {k n : Nat} (h : k + n ≤ 64) : bitsOf (wordLeft s o v) k n = bitsOf v k n := bitsOf_mergeW _ v h

theorem testBit_wordLeft (o v : Nat) {k : Nat} (h : k < 64) : (wordLeft s o v).testBit k = v.testBit k := testBit_mergeW_word _ v h

/-! ### What single registers take -/

theorem writeSlot_of_loaded {n : Nat} (h : (ctx? s n).isSome = true) (r w : Nat) : writeSlot s n r w = s := if_pos h

theorem writeErren_quiet {w : Nat} (h : ¬ (Nat.land s.dev.errStat s.dev.errEn = 0 ∧ Nat.land s.dev.errStat (w % 256) ≠ 0)) :
    writeErren s w = withDev s { s.dev with errEn := w % 256 } := by
  unfold writeErren
  rw [bitsOf_zero_left]
  exact if_neg h

theorem writeErren_sends {w : Nat} (h : Nat.land s.dev.errStat s.dev.errEn = 0 ∧ Nat.land s.dev.errStat (w % 256) ≠ 0) :
    writeErren s w = emit (withDev s { s.dev with errEn := w % 256 }) (.msix 0) := by
  unfold writeErren
  rw [bitsOf_zero_left]
  exact if_pos h

/-- The offsets of RegSets are multiples of 8. -/
theorem aligned_of_regSets {o w : Nat} {t : State} (h : RegSets s o w t) : o % 8 = 0 := by
  cases h <;> omega

/-! ### A write that is not accepted -/

theorem regWord_refused (h : ¬ Accepts s) {o : Nat} (ho : ¬ (0x200 ≤ o ∧ o < 0x1000)) (m v : Nat) : regWord s o m v = s := by
  have hst : s.dev.state = 0 ∨ s.dev.state = 2 := Classical.byContradiction fun hn => h (not_or.mp hn)
  unfold regWord
  dsimp only
  rw [if_neg ho, if_pos hst]

/-- Outside the mailbox, a write that BAR0 does not accept changes nothing. -/
theorem regWrite_refused (h : ¬ Accepts s) {a n : Nat} (hn : n ≤ 8) (ho : a + n ≤ 0x200 ∨ 0x1000 ≤ a) (v : Nat) : regWrite s a n v = s := by
  rcases Nat.eq_zero_or_pos n with rfl | hpos
  · simp [regWrite]
  have hlow : ∀ m x, regWord s (a / 8 * 8) m x = s := fun m x => regWord_refused h (by omega) m x
  unfold regWrite
  dsimp only
  rw [hlow, ite_self]
  split
  next => rfl
  next hspan =>
    have hlong : 8 < a % 8 + n := Nat.lt_of_not_ge fun hle => hspan (Nat.div_eq_of_lt (mask_lt_word (by omega)))
    exact regWord_refused h (by omega) _ _

/-! ### The function that an offset reaches -/

section accepted

variable (ha : Accepts s)
include ha

theorem regWord_chain {c r : Nat} (hc : c < 256) (hr : r < 64) (m v : Nat) :
    regWord s (0x100000 + 64 * c + r) m v = writeChain s c r (mergeW (regRead s (0x100000 + 64 * c + r)) m v) m (Nat.land v m) := by
  unfold regWord
  dsimp only
  rw [if_neg (by omega), if_neg (not_or.mpr ha), if_pos (by omega),
    show (0x100000 + 64 * c + r - 0x100000) / 64 = c by omega, show (0x100000 + 64 * c + r) % 64 = r by omega]

theorem regWord_slot {n r : Nat} (hn : n < 512) (hr : r < 32) (m v : Nat) :
    regWord s (0x4000 + 32 * n + r) m v = writeSlot s n r (mergeW (regRead s (0x4000 + 32 * n + r)) m v) := by
  unfold regWord
  dsimp only
  rw [if_neg (by omega), if_neg (not_or.mpr ha), if_neg (by omega), if_neg (by omega), if_pos (by omega),
    show (0x4000 + 32 * n + r - 0x4000) / 32 = n by omega, show (0x4000 + 32 * n + r) % 32 = r by omega]

theorem regWord_plume {d r : Nat} (hd : d < 4) (hr : r < 64) (m v : Nat) :
    regWord s (0x3800 + 64 * d + r) m v = writePlume s d r (mergeW (regRead s (0x3800 + 64 * d + r)) m v) (Nat.land v m) := by
  unfold regWord
  dsimp only
  rw [if_neg (by omega), if_neg (not_or.mpr ha), if_neg (by omega), if_neg (by omega), if_neg (by omega),
    if_pos (by omega), show (0x3800 + 64 * d + r - 0x3800) / 64 = d by omega, show (0x3800 + 64 * d + r) % 64 = r by omega]

/-- The offsets of the registers that stand alone, and of those of the partitions. -/
def lowReg (o : Nat) : Prop := 0x1000 ≤ o ∧ o < 0x3800 ∨ 0x3900 ≤ o ∧ o < 0x4000

theorem regWord_low {o : Nat} (ho : lowReg o) (m v : Nat) :
    regWord s o m v = (writePart s o (mergeW (regRead s o) m v) (Nat.land v m)).getD
      (writeOne s o (mergeW (regRead s o) m v) (Nat.land v m)) := by
  unfold lowReg at ho
  unfold regWord
  dsimp only
  rw [if_neg (by omega), if_neg (not_or.mpr ha), if_neg (by omega), if_neg (by omega), if_neg (by omega),
    if_neg (by omega)]
  cases writePart s o (mergeW (regRead s o) m v) (Nat.land v m) <;> rfl

/-! ### What a write of a whole word to a register leaves -/

section word

variable {o w : Nat} (hr : regRead s o < 2 ^ 64) (hw : w < 2 ^ 64)
include hr hw

theorem regWord_single (ho : lowReg o) (hp : writePart s o w w = none) : regWord s o (2 ^ 64 - 1) w = writeOne s o w w := by
  rw [regWord_low ha ho, mergeW_word hr hw, land_word hw, hp, Option.getD_none]

theorem regWord_chain_word {c r : Nat} (hc : c < 256) (hro : r < 64) (ho : o = 0x100000 + 64 * c + r) :
    regWord s o (2 ^ 64 - 1) w = writeChain s c r w (2 ^ 64 - 1) w := by
  subst ho
  rw [regWord_chain ha hc hro, mergeW_word hr hw, land_word hw]

theorem regWord_slot_word {n r : Nat} (hn : n < 512) (hro : r < 32) (ho : o = 0x4000 + 32 * n + r) :
    regWord s o (2 ^ 64 - 1) w = writeSlot s n r w := by
  subst ho
  rw [regWord_slot ha hn hro, mergeW_word hr hw]

theorem regWord_plume_word {d r : Nat} (hd : d < 4) (hro : r < 64) (ho : o = 0x3800 + 64 * d + r) :
    regWord s o (2 ^ 64 - 1) w = writePlume s d r w w := by
  subst ho
  rw [regWord_plume ha hd hro, mergeW_word hr hw, land_word hw]

end word

/-- A write of a word to a register leaves the state that its field map gives. -/
theorem regWord_of_regSets {o w : Nat} {t : State} (h : RegSets s o w t) (hr : regRead s o < 2 ^ 64) (hw : w < 2 ^ 64) :
    regWord s o (2 ^ 64 - 1) w = t := by
  cases h with
  | ctxbase => exact regWord_single ha hr hw (.inl (by omega)) rfl
  | routectl => exact regWord_single ha hr hw (.inl (by omega)) rfl
  | hcallring => exact regWord_single ha hr hw (.inl (by omega)) rfl
  | hcallcons => exact regWord_single ha hr hw (.inl (by omega)) rfl
  | hcallprod => exact regWord_single ha hr hw (.inl (by omega)) rfl
  | hcalldrop => exact regWord_single ha hr hw (.inl (by omega)) rfl
  | errstat _ x hx =>
    rw [← clearBits_eq hx]
    exact regWord_single ha hr hw (.inr (by omega)) rfl
  | erren _ h => exact (regWord_single ha hr hw (.inr (by omega)) rfl).trans (writeErren_quiet h)
  | errenSends _ h0 h1 => exact (regWord_single ha hr hw (.inr (by omega)) rfl).trans (writeErren_sends ⟨h0, h1⟩)
  | plimit _ h1 h2 =>
    refine (regWord_single ha hr hw (.inr (by omega)) rfl).trans ?_
    simp [writeOne, bitsOf_zero_left, h1, h2, modDev, withDev]
  | plimitBad _ h =>
    refine (regWord_single ha hr hw (.inr (by omega)) rfl).trans ?_
    simp [writeOne, bitsOf_zero_left, show ¬ (600 ≤ w % 65536 ∧ w % 65536 ≤ 2400) by omega]
  | pavg => exact regWord_single ha hr hw (.inr (by omega)) rfl
  | chbase c _ hc h => exact (regWord_chain_word ha hr hw hc (r := 0) (by omega) (by omega)).trans (if_pos h)
  | chcomp c _ hc h => exact (regWord_chain_word ha hr hw hc (r := 8) (by omega) (by omega)).trans (if_pos h)
  | chbaseOn c _ hc h => exact (regWord_chain_word ha hr hw hc (r := 0) (by omega) (by omega)).trans (if_neg h)
  | chcompOn c _ hc h => exact (regWord_chain_word ha hr hw hc (r := 8) (by omega) (by omega)).trans (if_neg h)
  | slotOn n _ k hn hk h => exact (regWord_slot_word ha hr hw hn (r := 8 * k) (by omega) (by omega)).trans (writeSlot_of_loaded h _ _)
  | peercfg n _ hn h => exact (regWord_slot_word ha hr hw hn (r := 0) (by omega) (by omega)).trans (by simp [writeSlot, h])
  | expcfg n _ hn h => exact (regWord_slot_word ha hr hw hn (r := 8) (by omega) (by omega)).trans (by simp [writeSlot, h])
  | expcnt n _ hn h => exact (regWord_slot_word ha hr hw hn (r := 16) (by omega) (by omega)).trans (by simp [writeSlot, h])
  | commcfg n _ hn h => exact (regWord_slot_word ha hr hw hn (r := 24) (by omega) (by omega)).trans (by simp [writeSlot, h])
  | daddr d _ hd => exact (regWord_plume_word ha hr hw hd (r := 8) (by omega) (by omega)).trans rfl
  | dctx d _ hd => exact (regWord_plume_word ha hr hw hd (r := 16) (by omega) (by omega)).trans rfl

theorem registerWrite_of_regSets {o w : Nat} {t : State} (h : RegSets s o w t) (hr : regRead s o < 2 ^ 64) (hw : w < 2 ^ 64) :
    regWrite s o 8 w = t := by
  rw [regWrite_word s (aligned_of_regSets h), Nat.mod_eq_of_lt hw, regWord_of_regSets ha h hr hw]

theorem regWord_ctxbase (m v : Nat) :
    regWord s 0x1000 m v = withDev s { s.dev with ctxBase := mergeW s.dev.ctxBase m v / 2 ^ 12 * 2 ^ 12 } :=
  regWord_low ha (.inl (by omega)) m v

/-! ### The registers of the partitions, and BASINCFG -/

theorem regWrite_low {o : Nat} (ho : lowReg o) (h8 : o % 8 = 0) (v : Nat) : ∃ x, regWrite s o 8 v =
    (writePart s o (wordLeft s o v) x).getD (writeOne s o (wordLeft s o v) x) :=
  ⟨_, (regWrite_word s h8 v).trans (regWord_low ha ho _ _)⟩

theorem regWrite_partcfg {p : Nat} (hp : p < 8) (v : Nat) : regWrite s (0x2000 + p * 8) 8 v = writePartcfg s p v := by
  obtain ⟨x, hx⟩ := regWrite_low ha (o := 0x2000 + p * 8) (.inl (by omega)) (by omega) v
  rw [hx, writePart, if_pos (by omega), show (0x2000 + p * 8) % 64 / 8 = p by omega]
  simp [writePartcfg, bitsOf_wordLeft]

theorem regWrite_sluicepool {p : Nat} (hp : p < 8) (v : Nat) : regWrite s (0x3100 + p * 8) 8 v = writeSluicepool s p v := by
  obtain ⟨x, hx⟩ := regWrite_low ha (o := 0x3100 + p * 8) (.inl (by omega)) (by omega) v
  rw [hx, writePart, if_neg (by omega), if_pos (by omega), show (0x3100 + p * 8) % 64 / 8 = p by omega]
  simp [writeSluicepool, bitsOf_wordLeft]

theorem regWrite_inspcfg {p : Nat} (hp : p < 8) (v : Nat) : regWrite s (0x3700 + p * 8) 8 v = writeInspcfg s p v := by
  obtain ⟨x, hx⟩ := regWrite_low ha (o := 0x3700 + p * 8) (.inl (by omega)) (by omega) v
  rw [hx, writePart, if_neg (by omega), if_neg (by omega), if_neg (by omega), if_pos (by omega),
    show (0x3700 + p * 8) % 64 / 8 = p by omega]
  simp only [Option.getD_some, writeInspcfg, bitsOf_wordLeft _ v (by omega : 11 + 9 ≤ 64), bitsOf_wordLeft _ v (by omega : 2 + 9 ≤ 64),
    testBit_wordLeft _ v (by omega : 0 < 64)]

theorem regWrite_basincfg (v : Nat) : regWrite s 0x3000 8 v = writeBasincfg s v := by
  obtain ⟨x, hx⟩ := regWrite_low ha (o := 0x3000) (.inl (by omega)) (by omega) v
  rw [hx]
  show writeBasincfg s (wordLeft s 0x3000 v) = writeBasincfg s v
  simp only [writeBasincfg, bitsOf_wordLeft _ v (by omega : 12 + 28 ≤ 64), bitsOf_wordLeft _ v (by omega : 4 + 5 ≤ 64),
    testBit_wordLeft _ v (by omega : 0 < 64)]

end accepted

/-! ### The registers' own rules -/

theorem partLoaded_iff (s : State) (p : Nat) : partLoaded s p = true ↔ ∃ e, e ∈ s.ctxs ∧ e.2.part = p := by
  simp [partLoaded]

theorem granulesKept_iff (s : State) (p gr : Nat) :
    ((List.range 8).any (fun q => q != p && Nat.land (part s q).granules gr != 0) || partLoaded s p) = true ↔ GranulesKept s p gr := by
  rw [Bool.or_eq_true, partLoaded_iff, GranulesKept]
  simp [List.any_eq_true]

theorem writePartcfg_kept {p v : Nat} (h : GranulesKept s p (bitsOf v 0 8)) :
    writePartcfg s p v = modPart s p fun x => { x with slicep := bitsOf v 8 16 } := by
  unfold writePartcfg
  refine congrArg (modPart s p) (funext fun x => ?_)
  rw [if_pos ((granulesKept_iff s p _).mpr h)]

theorem writePartcfg_set {p v : Nat} (h : ¬ GranulesKept s p (bitsOf v 0 8)) :
    writePartcfg s p v = modPart s p fun x => { x with slicep := bitsOf v 8 16, granules := bitsOf v 0 8 } := by
  unfold writePartcfg
  refine congrArg (modPart s p) (funext fun x => ?_)
  rw [if_neg (mt (granulesKept_iff s p _).mp h)]

theorem basinBad_iff (w : Nat) : (w.testBit 0 && (decide (bitsOf w 4 5 < 16) || decide (24 < bitsOf w 4 5) ||
      bitsOf w 12 28 * 2 ^ 12 % (2 ^ bitsOf w 4 5 * 16) != 0)) = true ↔
    w.testBit 0 = true ∧ (bitsOf w 4 5 < 16 ∨ 24 < bitsOf w 4 5 ∨ bitsOf w 12 28 * 4096 % (16 * 2 ^ bitsOf w 4 5) ≠ 0) := by
  simp [Nat.mul_comm 16, or_assoc]

theorem writeBasincfg_ignored {w : Nat} (h : BasinIgnored s w) : writeBasincfg s w = s := by
  unfold writeBasincfg
  dsimp only
  obtain hc | hb := h
  · exact if_pos (by simpa using hc)
  · rw [if_pos ((basinBad_iff w).mpr hb), ite_self]

theorem writeBasincfg_set {w : Nat} (h : ¬ BasinIgnored s w) : writeBasincfg s w =
    { s with dev := { s.dev with basinBase := bitsOf w 12 28, basinLogn := bitsOf w 4 5, basinEn := w.testBit 0 }
             basin := if w.testBit 0 then [] else s.basin } := by
  obtain ⟨hc, hb⟩ := not_or.mp h
  unfold writeBasincfg
  dsimp only
  rw [if_neg (by simpa using hc), if_neg (mt (basinBad_iff w).mp hb)]
  cases w.testBit 0 <;> rfl

/-! ### INSPCFG -/

/-- Two states that differ in no more than their groups. -/
def SameButGroups (s u : State) : Prop := ∃ gs, u = { s with groups := gs }

theorem SameButGroups.refl (s : State) : SameButGroups s s := ⟨s.groups, rfl⟩

theorem SameButGroups.trans {s u v : State} : SameButGroups s u → SameButGroups u v → SameButGroups s v := by
  rintro ⟨gs, rfl⟩ ⟨hs, rfl⟩
  exact ⟨hs, rfl⟩

theorem sameButGroups_joinSlice (s : State) (gid : Nat) : SameButGroups s (joinSlice s gid) := by
  unfold joinSlice
  split
  next => exact .refl s
  next g _ =>
    split
    next => exact .refl s
    next => exact ⟨_, rfl⟩

theorem sameButGroups_inspEnter (s : State) (cx : Nat) : SameButGroups s (inspEnter s cx) := by
  unfold inspEnter
  split
  next => exact .refl s
  next =>
    refine List.foldlRecOn (motive := SameButGroups s) _ _ (.refl s) fun u hu e _ => ?_
    split
    next =>
      split
      next => exact hu.trans (sameButGroups_joinSlice u _)
      next => exact hu
    next => exact hu

theorem sameButGroups_inspLeave (s : State) (cx : Nat) : SameButGroups s (inspLeave s cx) := by
  unfold inspLeave
  split
  next => exact .refl s
  next => exact ⟨_, rfl⟩

/-- Only a partition's registers and groups have changed. -/
def PartTo (s u : State) (p : Nat) (x : Part) : Prop :=
  part u p = x ∧ (∀ q, q ≠ p → part u q = part s q) ∧ u.ctxs = s.ctxs ∧ u.mem = s.mem ∧ u.dev = s.dev

theorem partTo_of_sameButGroups {u : State} {p : Nat} {f : Part → Part} (h : SameButGroups (modPart s p f) u) :
    PartTo s u p (f (part s p)) := by
  obtain ⟨gs, rfl⟩ := h
  exact ⟨(part_modPart s p p f).trans (if_pos rfl), fun q hq => (part_modPart s p q f).trans (if_neg hq), rfl, rfl, rfl⟩

/-- What INSPCFG asks for before an inspector is set: two contexts of the partition, and none set yet. -/
def InspGood (s : State) (p t i : Nat) : Prop :=
  i ≠ t ∧ (∃ c, ctx? s i = some c ∧ c.part = p) ∧ (∃ c, ctx? s t = some c ∧ c.part = p) ∧ (part s p).insp = false

/-- A slot's context stands, and is one of a partition. -/
def inPart (s : State) (p cx : Nat) : Bool := match ctx? s cx with
  | some c => c.part == p
  | none => false

theorem inPart_iff (s : State) (p cx : Nat) : inPart s p cx = true ↔ ∃ c, ctx? s cx = some c ∧ c.part = p := by
  unfold inPart
  cases ctx? s cx <;> simp

theorem inspRefused_iff (s : State) (p t i : Nat) : (decide (i = t) || !inPart s p i || !inPart s p t ||
    (part s p).insp) = true ↔ ¬ InspGood s p t i := by
  unfold InspGood
  rw [← inPart_iff, ← inPart_iff]
  simp only [Bool.or_eq_true, decide_eq_true_eq, Bool.not_eq_true', ne_eq, Classical.not_and_iff_not_or_not, Classical.not_not,
    Bool.not_eq_true, Bool.not_eq_false, or_assoc]

theorem writeInspcfg_on {p v : Nat} (hen : v.testBit 0 = true) : writeInspcfg s p v =
    if (decide (bitsOf v 2 9 = bitsOf v 11 9) || !inPart s p (bitsOf v 2 9) || !inPart s p (bitsOf v 11 9) ||
      (part s p).insp) = true then s
    else inspEnter (modPart s p fun x => { x with tctx := bitsOf v 11 9, ictx := bitsOf v 2 9, insp := true }) (bitsOf v 2 9) := if_pos hen

theorem writeInspcfg_ignored {p v : Nat} (hen : v.testBit 0 = true) (h : ¬ InspGood s p (bitsOf v 11 9) (bitsOf v 2 9)) :
    writeInspcfg s p v = s := by
  rw [writeInspcfg_on hen, if_pos ((inspRefused_iff s p _ _).mpr h)]

theorem writeInspcfg_enters {p v : Nat} (hen : v.testBit 0 = true) (h : InspGood s p (bitsOf v 11 9) (bitsOf v 2 9)) :
    PartTo s (writeInspcfg s p v) p { part s p with tctx := bitsOf v 11 9, ictx := bitsOf v 2 9, insp := true } := by
  rw [writeInspcfg_on hen, if_neg fun hr => (inspRefused_iff s p _ _).mp hr h]
  exact partTo_of_sameButGroups (sameButGroups_inspEnter _ _)

theorem writeInspcfg_leaves {p v : Nat} (hen : v.testBit 0 = false) :
    PartTo s (writeInspcfg s p v) p { part s p with tctx := bitsOf v 11 9, ictx := bitsOf v 2 9, insp := false } := by
  unfold writeInspcfg
  dsimp only
  rw [if_neg (by simp [hen])]
  split
  next => exact partTo_of_sameButGroups (sameButGroups_inspLeave _ _)
  next => exact partTo_of_sameButGroups (.refl _)

/-! ### The obligation -/

theorem mod_eight_lt (a : Nat) : a % 8 < 8 := Nat.mod_lt a (by decide)

/-- A write of bytes of CTXBASE changes the bits that it names, and leaves the low 12 bits 0 (log entry 43). -/
theorem regWrite_ctxbase (ha : Accepts s) {i n : Nat} (hn : 0 < n) (hi : i + n ≤ 8) (v : Nat) :
    ∃ x, regWrite s (0x1000 + i) n v = withDev s { s.dev with ctxBase := x } ∧ ∀ k, k < 64 →
      x.testBit k = (decide (12 ≤ k) && if 8 * i ≤ k ∧ k < 8 * (i + n) then v.testBit (k - 8 * i) else s.dev.ctxBase.testBit k) :=
  ⟨_, (regWrite_bytes (by decide) hn hi v).trans (regWord_ctxbase ha _ _),
    fun k hk => by rw [testBit_div_mul_two_pow, testBit_mergeW_bytes _ _ _ _ hk]⟩

theorem exec_partcfgWrite_accepted (ha : Accepts s) : exec .partcfgWrite s = .next (writePartcfg s (s.ev.a % 8) s.ev.c) :=
  congrArg Host.Outcome.next (regWrite_partcfg ha (mod_eight_lt _) _)

theorem exec_basincfgWrite_accepted (ha : Accepts s) : exec .basincfgWrite s = .next (writeBasincfg s s.ev.c) :=
  congrArg Host.Outcome.next (regWrite_basincfg ha _)

theorem exec_sluicepoolWrite_accepted (ha : Accepts s) : exec .sluicepoolWrite s = .next (writeSluicepool s (s.ev.a % 8) s.ev.c) :=
  congrArg Host.Outcome.next (regWrite_sluicepool ha (mod_eight_lt _) _)

theorem exec_inspcfgWrite_accepted (ha : Accepts s) : exec .inspcfgWrite s = .next (writeInspcfg s (s.ev.a % 8) s.ev.c) :=
  congrArg Host.Outcome.next (regWrite_inspcfg ha (mod_eight_lt _) _)

/-- Settles O9: each write goes through the word that it leaves (`testBit_mergeW`) to the function of its register, and a register's fields
are those of the word written. -/
theorem registersWritten : Obligations.RegistersWritten := by
  unfold Obligations.RegistersWritten
  refine ⟨?regs, ?bytes, ?refused, ?partcfg, ?basincfg, ?sluicepool, ?inspcfg⟩
  case regs =>
    intro s t o w ha h hw hr hea heb hec
    rw [exec_registerWrite, execRegisterWrite, hea, heb, hec, registerWrite_of_regSets ha h hr hw]
  case bytes =>
    intro s i n ha hn hi hea heb
    obtain ⟨x, hx, hbits⟩ := regWrite_ctxbase ha hn hi s.ev.c
    exact ⟨x, by rw [exec_registerWrite, execRegisterWrite, hea, heb, hx], hbits⟩
  case refused =>
    intro s h hb ho
    rw [exec_registerWrite, execRegisterWrite, regWrite_refused h hb ho]
  case partcfg =>
    intro s ha
    dsimp only
    rw [exec_partcfgWrite_accepted ha]
    exact ⟨fun h => congrArg _ (writePartcfg_kept h), fun h => congrArg _ (writePartcfg_set h)⟩
  case basincfg =>
    intro s ha
    dsimp only
    rw [exec_basincfgWrite_accepted ha]
    exact ⟨fun h => congrArg _ (writeBasincfg_ignored h), fun h => congrArg _ (writeBasincfg_set h)⟩
  case sluicepool =>
    intro s ha
    exact exec_sluicepoolWrite_accepted ha
  case inspcfg =>
    intro s ha
    dsimp only
    rw [exec_inspcfgWrite_accepted ha]
    exact ⟨fun hen h => congrArg _ (writeInspcfg_ignored hen h), fun hen h => ⟨_, rfl, writeInspcfg_enters hen h⟩,
      fun hen => ⟨_, rfl, writeInspcfg_leaves hen⟩⟩

end Sys2Proof.Machine
end

section
/-! SUPPORT. Rounding: the bits of a format and the finite values that they stand for (R150), magnitudes rounded to a grid (R154, R173), and what
the rounding of a value of the format leaves (R160). Dyadic numbers are compared as integers, in units of a power of two below them (`dyAt`). -/

namespace Sys2Proof.Machine

open Sys2Proof.Stated

/-! ### Dyadic numbers in units of 2^b -/

/-- 2^e in units of 2^b. -/
def weight (b e : Int) : Int := 2 ^ (e - b).toNat

/-- A dyadic number in units of 2^b. -/
def dyAt (b : Int) (a : Dy) : Int := a.1 * weight b a.2

theorem weight_pos (b e : Int) : 0 < weight b e := Int.pow_pos (by decide)

theorem weight_add {b e : Int} (h : b ≤ e) (n : Nat) : weight b (e + n) = 2 ^ n * weight b e := by
  rw [weight, weight, ← Int.pow_add, show (e + n - b).toNat = n + (e - b).toNat by omega]

theorem weight_succ {b e : Int} (h : b ≤ e) : weight b (e + 1) = 2 * weight b e := weight_add h 1

theorem weight_mul {b c e : Int} (hb : b ≤ c) (hc : c ≤ e) : weight c e * weight b c = weight b e := by
  rw [weight, weight, weight, ← Int.pow_add, show (e - c).toNat + (c - b).toNat = (e - b).toNat by omega]

theorem weight_mono {b e f : Int} (hb : b ≤ e) (h : e ≤ f) : weight b e ≤ weight b f := by
  rw [← weight_mul hb h]
  have hone : 1 ≤ weight e f := weight_pos e f
  have hmul := Int.mul_le_mul_of_nonneg_right hone (Int.le_of_lt (weight_pos b e))
  rwa [Int.one_mul] at hmul

theorem dyAt_mul_weight {b c : Int} {a : Dy} (hb : b ≤ c) (hc : c ≤ a.2) : dyAt c a * weight b c = dyAt b a := by
  rw [dyAt, dyAt, Int.mul_assoc, weight_mul hb hc]

section units
variable {b : Int} {a c : Dy} (ha : b ≤ a.2) (hc : b ≤ c.2)
include ha hc

theorem dyLt_iff : dyLt a c = true ↔ dyAt b a < dyAt b c := by
  have hmin : b ≤ min a.2 c.2 := by omega
  rw [← dyAt_mul_weight hmin (Int.min_le_left a.2 c.2), ← dyAt_mul_weight hmin (Int.min_le_right a.2 c.2),
    Int.mul_lt_mul_right (weight_pos ..)]
  exact decide_eq_true_iff

theorem dyLt_eq_false_iff : dyLt a c = false ↔ dyAt b c ≤ dyAt b a := by
  rw [← Int.not_lt, ← dyLt_iff ha hc, Bool.not_eq_true]

theorem dyAt_dySub : dyAt b (dySub a c) = dyAt b a - dyAt b c := by
  have hmin : b ≤ min a.2 c.2 := by omega
  rw [← dyAt_mul_weight hmin (Int.min_le_left a.2 c.2), ← dyAt_mul_weight hmin (Int.min_le_right a.2 c.2), ← Int.sub_mul]
  rfl

end units

theorem dyAt_dyAbs (b : Int) (a : Dy) : dyAt b (dyAbs a) = (dyAt b a).natAbs := by
  rw [dyAt, dyAt, Int.natAbs_mul, Int.natCast_mul, Int.natAbs_of_nonneg (Int.le_of_lt (weight_pos b a.2))]
  rfl

/-- A sign as a factor. -/
def sgn (neg : Bool) : Int := if neg then -1 else 1

theorem sgn_mul_sgn (a b : Bool) : sgn a * sgn b = sgn (a != b) := by cases a <;> cases b <;> rfl

theorem natAbs_sgn_mul (a : Bool) (x : Int) : (sgn a * x).natAbs = x.natAbs := by
  rw [Int.natAbs_mul]
  cases a <;> exact Nat.one_mul _

theorem dyAt_fin (b : Int) (neg : Bool) (m : Nat) (e : Int) : dyAt b (FV.fin neg m e).dy = sgn neg * (m * weight b e) := by
  cases neg
  · exact (Int.one_mul _).symm
  · rw [← Int.mul_assoc, sgn, if_pos rfl, Int.neg_one_mul]
    rfl

/-- A sign common to both numbers does not change their distance. -/
theorem natAbs_sgn_mul_sub (a : Bool) (x y : Int) : (sgn a * x - y).natAbs = (x - sgn a * y).natAbs := by
  cases a
  · rw [sgn, if_neg Bool.false_ne_true, Int.one_mul, Int.one_mul]
  · rw [sgn, if_pos rfl]
    omega

/-! ### The formats of the statement, and their bits (R150) -/

/-- What the formats of 16 bits or more, which hold infinities, have in common. -/
structure Interchange (t : Ty) : Prop where
  ieee : fIeee t = true
  two_pow_expb : 2 ^ fExpb t = 2 * fBias t + 2
  bias_pos : 0 < fBias t
  fdec_maxBits : fdec t (maxBits t) = .fin false (2 ^ (fFrac t + 1) - 1) (fBias t - fFrac t)

theorem interchange_of_mem {t : Ty} (h : t ∈ [Ty.f64, .f32, .f16, .bf16]) : Interchange t :=
  ⟨by revert t; decide, by revert t; decide, by revert t; decide, by revert t; decide⟩

/-- The bits of a format with the given sign, exponent field and fraction field. -/
def fieldBits (t : Ty) (neg : Bool) (E f : Nat) : Nat := fSign t neg + E * 2 ^ fFrac t + f

section formats
variable {t : Ty} (ht : Interchange t) {neg : Bool} {E f : Nat}
include ht

theorem Interchange.ne_of_not_ieee {u : Ty} (hu : fIeee u = false) : (t == u) = false := by
  rw [beq_eq_false_iff_ne]
  rintro rfl
  exact Bool.false_ne_true (hu.symm.trans ht.ieee)

theorem Interchange.ne_e8m0 : (t == .e8m0) = false := ht.ne_of_not_ieee rfl
theorem Interchange.ne_e4m3 : (t == .e4m3) = false := ht.ne_of_not_ieee rfl
theorem Interchange.ne_e2m1 : (t == .e2m1) = false := ht.ne_of_not_ieee rfl

theorem Interchange.fWidth_eq : fWidth t = fFrac t + fExpb t + 1 := by
  rw [fWidth, ht.ne_e8m0, if_neg Bool.false_ne_true]
  omega

theorem Interchange.fSign_eq (neg : Bool) : fSign t neg = neg.toNat * 2 ^ fExpb t * 2 ^ fFrac t := by
  rw [fSign, ht.fWidth_eq, Nat.add_sub_cancel, Nat.mul_assoc, ← Nat.pow_add, Nat.add_comm (fExpb t)]
  cases neg
  · exact (Nat.zero_mul _).symm
  · exact (Nat.one_mul _).symm

theorem Interchange.fieldBits_eq : fieldBits t neg E f = (neg.toNat * 2 ^ fExpb t + E) * 2 ^ fFrac t + f := by
  rw [fieldBits, ht.fSign_eq, Nat.add_mul]

theorem Interchange.fieldBits_mod (hf : f < 2 ^ fFrac t) : fieldBits t neg E f % 2 ^ fFrac t = f := by
  rw [ht.fieldBits_eq, Nat.mul_add_mod_self_right, Nat.mod_eq_of_lt hf]

theorem Interchange.fieldBits_div (hf : f < 2 ^ fFrac t) : fieldBits t neg E f / 2 ^ fFrac t = neg.toNat * 2 ^ fExpb t + E := by
  rw [ht.fieldBits_eq, Nat.add_comm, Nat.add_mul_div_right _ _ (Nat.two_pow_pos _), Nat.div_eq_of_lt hf, Nat.zero_add]

theorem Interchange.fieldBits_exponent (hE : E < 2 ^ fExpb t) (hf : f < 2 ^ fFrac t) :
    fieldBits t neg E f / 2 ^ fFrac t % 2 ^ fExpb t = E := by
  rw [ht.fieldBits_div hf, Nat.mul_add_mod_self_right, Nat.mod_eq_of_lt hE]

theorem Interchange.fieldBits_sign (hE : E < 2 ^ fExpb t) (hf : f < 2 ^ fFrac t) :
    fieldBits t neg E f / 2 ^ (fFrac t + fExpb t) = neg.toNat := by
  rw [Nat.pow_add, ← Nat.div_div_eq_div_mul, ht.fieldBits_div hf, Nat.add_comm, Nat.add_mul_div_right _ _ (Nat.two_pow_pos _),
    Nat.div_eq_of_lt hE, Nat.zero_add]

theorem Interchange.fieldBits_lt (hE : E < 2 ^ fExpb t) (hf : f < 2 ^ fFrac t) : fieldBits t neg E f < 2 ^ fWidth t := by
  rw [ht.fWidth_eq, Nat.pow_succ', ← Nat.div_lt_iff_lt_mul (Nat.two_pow_pos _), ht.fieldBits_sign hE hf]
  exact neg.toNat_lt

/-- Bits are put together again from their fields. -/
theorem Interchange.fieldBits_of_fields {c : Nat} (hc : c < 2 ^ fWidth t) :
    fieldBits t (c.testBit (fFrac t + fExpb t)) (c / 2 ^ fFrac t % 2 ^ fExpb t) (c % 2 ^ fFrac t) = c := by
  have hs : (c.testBit (fFrac t + fExpb t)).toNat = c / 2 ^ fFrac t / 2 ^ fExpb t := by
    rw [Nat.toNat_testBit, Nat.div_div_eq_div_mul, ← Nat.pow_add, Nat.mod_eq_of_lt]
    rw [ht.fWidth_eq, Nat.pow_succ'] at hc
    exact (Nat.div_lt_iff_lt_mul (Nat.two_pow_pos _)).mpr hc
  rw [ht.fieldBits_eq, hs, Nat.div_add_mod', Nat.div_add_mod']

/-- Bits whose exponent field is not all ones stand for a number. -/
theorem Interchange.fdec_fieldBits (hE : E < 2 ^ fExpb t - 1) (hf : f < 2 ^ fFrac t) :
    fdec t (fieldBits t neg E f) =
      if E = 0 then .fin neg f (fEmin t - fFrac t) else .fin neg (2 ^ fFrac t + f) ((E : Int) - fBias t - fFrac t) := by
  have hE' : E < 2 ^ fExpb t := by omega
  have hs : (fieldBits t neg E f).testBit (fWidth t - 1) = neg := by
    rw [ht.fWidth_eq, Nat.add_sub_cancel, Nat.testBit_eq_decide_div_mod_eq, ht.fieldBits_sign hE' hf]
    cases neg <;> rfl
  simp only [fdec, Nat.mod_eq_of_lt (ht.fieldBits_lt hE' hf), ht.fieldBits_exponent hE' hf, ht.fieldBits_mod hf, hs,
    ht.ne_e8m0, ht.ne_e4m3, beq_eq_false_iff_ne.mpr (Nat.ne_of_lt hE),
    Bool.and_false, Bool.false_and, Bool.false_eq_true, if_false]

end formats

/-! ### The finite values of a format -/

/-- `m × 2^e` is a finite magnitude of the format in its own form: a fraction at the least exponent, or a leading bit with a fraction. -/
structure Canonical (t : Ty) (m : Nat) (e : Int) : Prop where
  lt : m < 2 ^ (fFrac t + 1)
  least : fEmin t - fFrac t ≤ e
  greatest : e ≤ fBias t - fFrac t
  subnormal : m < 2 ^ fFrac t → e = fEmin t - fFrac t

section finite
variable {t : Ty} {neg : Bool} {m : Nat} {e : Int}

/-- A magnitude below the leading bit is encoded with exponent field 0. -/
theorem fenc_of_lt (h : m < 2 ^ fFrac t) : fenc t neg m e = fieldBits t neg 0 m := by
  rw [fenc, if_pos h, fieldBits, Nat.zero_mul, Nat.add_zero]

theorem log2_of_leading (h : 2 ^ fFrac t ≤ m) (hm : m < 2 ^ (fFrac t + 1)) : Nat.log2 m = fFrac t :=
  (Nat.log2_eq_iff (Nat.ne_of_gt (Nat.lt_of_lt_of_le (Nat.two_pow_pos _) h))).mpr ⟨h, hm⟩

/-- A magnitude with its leading bit is encoded by the exponent of that bit and the fraction below it. -/
theorem fenc_of_ge (h : 2 ^ fFrac t ≤ m) (hm : m < 2 ^ (fFrac t + 1)) :
    fenc t neg m e = fieldBits t neg (e + fFrac t + fBias t).toNat (m - 2 ^ fFrac t) := by
  simp only [fenc, if_neg (Nat.not_lt.mpr h), log2_of_leading h hm, fieldBits, Nat.sub_self, Nat.pow_zero, Nat.div_one, Int.natCast_zero,
    Int.add_zero]

/-- Decoding undoes encoding on the finite values of a format. -/
theorem Canonical.fdec_fenc (ht : Interchange t) (h : Canonical t m e) : fdec t (fenc t neg m e) = .fin neg m e := by
  have hones := ht.two_pow_expb
  obtain ⟨hlt, hleast, hgreatest, hsub⟩ := h
  rw [fEmin] at hleast
  by_cases hm : m < 2 ^ fFrac t
  · rw [fenc_of_lt hm, ht.fdec_fieldBits (by omega) hm, if_pos rfl, hsub hm]
  · have hm' : 2 ^ fFrac t ≤ m := Nat.not_lt.mp hm
    have hexp : ((e + fFrac t + fBias t).toNat : Int) - fBias t - fFrac t = e := by omega
    rw [fenc_of_ge hm' hlt, ht.fdec_fieldBits (by omega) (by rw [Nat.pow_succ] at hlt; omega), if_neg (by omega), hexp,
      Nat.add_sub_cancel' hm']

/-- Bits whose exponent field is not all ones encode a finite value. -/
theorem Interchange.exists_canonical (ht : Interchange t) {c : Nat} (hc : FiniteBits t c) :
    ∃ neg m e, Canonical t m e ∧ fenc t neg m e = c := by
  obtain ⟨hlt, hE⟩ := hc
  have hf : c % 2 ^ fFrac t < 2 ^ fFrac t := Nat.mod_lt _ (Nat.two_pow_pos _)
  have hE' := Nat.mod_lt (c / 2 ^ fFrac t) (Nat.two_pow_pos (fExpb t))
  have hones := ht.two_pow_expb
  have hbias := ht.bias_pos
  have hfields := ht.fieldBits_of_fields hlt
  generalize c / 2 ^ fFrac t % 2 ^ fExpb t = E at hE hE' hfields
  generalize c % 2 ^ fFrac t = f at hf hfields
  generalize c.testBit (fFrac t + fExpb t) = neg at hfields
  by_cases h0 : E = 0
  · subst h0
    refine ⟨neg, f, fEmin t - fFrac t, ⟨by rw [Nat.pow_succ]; omega, Int.le_refl _, by rw [fEmin]; omega, fun _ => rfl⟩, ?_⟩
    rw [fenc_of_lt hf, hfields]
  · refine ⟨neg, 2 ^ fFrac t + f, (E : Int) - fBias t - fFrac t,
      ⟨by rw [Nat.pow_succ]; omega, by rw [fEmin]; omega, by omega, fun h => absurd h (by omega)⟩, ?_⟩
    rw [fenc_of_ge (Nat.le_add_right _ _) (by rw [Nat.pow_succ]; omega), Nat.add_sub_cancel_left,
      show ((E : Int) - fBias t - fFrac t + fFrac t + fBias t).toNat = E by omega, hfields]

/-- ULP of a finite value is the exponent of its own form. -/
theorem Canonical.ulpExp_eq (h : Canonical t m e) : ulpExp t m e = e := by
  obtain ⟨hlt, hleast, -, hsub⟩ := h
  by_cases hm : m < 2 ^ fFrac t
  · have he := hsub hm
    rw [ulpExp]
    split
    · exact he.symm
    · next h0 =>
      have hlog : Nat.log2 m < fFrac t := (Nat.log2_lt h0).mpr hm
      rw [ilog]
      omega
  · have hm' := Nat.not_lt.mp hm
    have h0 : m ≠ 0 := Nat.ne_of_gt (Nat.lt_of_lt_of_le (Nat.two_pow_pos _) hm')
    rw [ulpExp, if_neg h0, ilog, log2_of_leading hm' hlt]
    omega

end finite

/-! ### Rounding to a grid, and overflow (R154, R155) -/

/-- Whether a result is tiny (R156): rounded with an unbounded exponent it is below the smallest normal value. -/
def tiny (t : Ty) (mode : RM) (neg : Bool) (u m : Nat) (e : Int) : Bool :=
  dyLt (((roundGrid mode neg u m e (ilog m e - fFrac t)).1 : Int), ilog m e - fFrac t) (1, fEmin t)

/-- A multiple of the grid's spacing is not changed by rounding. -/
theorem roundGrid_self (mode : RM) (neg : Bool) (u m : Nat) (e : Int) : roundGrid mode neg u m e e = (m, false) := by
  have hgrid : gridOf m e e = (m, 0, 0) := by
    rw [gridOf, if_pos (Int.le_refl e), Int.sub_self, Int.toNat_zero, Nat.pow_zero, Nat.mul_one]
  rw [roundGrid, hgrid]
  rfl

section overflow
variable {t : Ty} (ht : Interchange t)
include ht

/-- The rounding of a number that is not zero: it is rounded to the grid of its ULP. -/
theorem Interchange.frnd_fin (mode : RM) (u : Nat) (sat neg : Bool) {m : Nat} (hm : m ≠ 0) (e : Int) :
    frnd t mode u sat (.fin neg m e) =
      let r := roundGrid mode neg u m e (ulpExp t m e)
      if tooBig t r.1 (ulpExp t m e) then (overBits t mode neg sat, fOF + fIX)
      else (fenc t neg r.1 (ulpExp t m e), (if r.2 then fIX else 0) + if r.2 && tiny t mode neg u m e then fUF else 0) := by
  obtain ⟨m, rfl⟩ := Nat.exists_eq_succ_of_ne_zero hm
  simp only [frnd, ht.ne_e8m0, ulpExp, if_neg hm, Bool.false_eq_true, if_false, tiny]

theorem Interchange.frnd_zero (mode : RM) (u : Nat) (sat neg : Bool) (e : Int) :
    frnd t mode u sat (.fin neg 0 e) = (fSign t neg, 0) := by
  simp only [frnd, ht.ne_e8m0, Bool.false_eq_true, if_false]

/-- A magnitude is too big where it exceeds that of the largest exponent with all fraction bits set. -/
theorem Interchange.tooBig_iff {b : Int} (r : Nat) {q : Int} (hb : b ≤ fBias t - fFrac t) (hq : b ≤ q) :
    tooBig t r q = true ↔ (2 ^ (fFrac t + 1) - 1 : Nat) * weight b (fBias t - fFrac t) < r * weight b q := by
  have hnonneg : 0 ≤ ((2 ^ (fFrac t + 1) - 1 : Nat) : Int) * weight b (fBias t - fFrac t) :=
    Int.mul_nonneg (Int.natCast_nonneg _) (Int.le_of_lt (weight_pos ..))
  rw [tooBig, ht.fdec_maxBits, dyLt_iff (b := b) hb hq, dyAt_dyAbs, dyAt_fin, natAbs_sgn_mul, Int.natAbs_of_nonneg hnonneg]
  rfl

theorem Canonical.not_tooBig {m : Nat} {e : Int} (h : Canonical t m e) : tooBig t m e = false := by
  obtain ⟨hlt, -, hgreatest, -⟩ := h
  have hm : (m : Int) ≤ (2 ^ (fFrac t + 1) - 1 : Nat) := Int.ofNat_le.mpr (Nat.le_sub_one_of_lt hlt)
  rw [← Bool.not_eq_true, ht.tooBig_iff m hgreatest (Int.le_refl e), Int.not_lt]
  exact Int.mul_le_mul hm (weight_mono (Int.le_refl e) hgreatest) (Int.le_of_lt (weight_pos ..)) (Int.natCast_nonneg _)

/-- A magnitude with its leading bit that is not too big has an exponent of the format. -/
theorem Interchange.le_greatest {r : Nat} {q : Int} (hr : 2 ^ fFrac t ≤ r) (h : tooBig t r q = false) : q ≤ fBias t - fFrac t := by
  refine Int.not_lt.mp fun hq => ?_
  have hb : (fBias t : Int) - fFrac t ≤ q := by omega
  rw [← Bool.not_eq_true, ht.tooBig_iff r (Int.le_refl _) hb, Int.not_lt] at h
  have hw : 2 * weight (fBias t - fFrac t) (fBias t - fFrac t) ≤ weight (fBias t - fFrac t) q := by
    rw [← weight_succ (Int.le_refl _)]
    exact weight_mono (by omega) (by omega)
  have hpos := weight_pos (fBias t - fFrac t) (fBias t - fFrac t)
  have hone : weight ((fBias t : Int) - fFrac t) (fBias t - fFrac t) = 1 := by rw [weight, Int.sub_self]; rfl
  rw [hone] at h hw
  have hle := Int.mul_le_mul (Int.ofNat_le.mpr hr) hw (by decide) (Int.natCast_nonneg _)
  have hpow : 2 ^ (fFrac t + 1) = 2 ^ fFrac t * 2 := Nat.pow_succ ..
  have hlead := Nat.two_pow_pos (fFrac t)
  omega

theorem Interchange.canonical_of_not_tooBig {r : Nat} {q : Int} (hlt : r < 2 ^ (fFrac t + 1)) (hleast : fEmin t - fFrac t ≤ q)
    (hsub : r < 2 ^ fFrac t → q = fEmin t - fFrac t) (h : tooBig t r q = false) : Canonical t r q := by
  refine ⟨hlt, hleast, ?_, hsub⟩
  by_cases hr : r < 2 ^ fFrac t
  · have hbias := ht.bias_pos
    rw [hsub hr, fEmin]
    omega
  · exact ht.le_greatest (Nat.not_lt.mp hr) h

/-! ### Values that the format holds -/

/-- A finite value of the format is rounded to itself, with no flag. -/
theorem Canonical.frnd_eq {m : Nat} {e : Int} (h : Canonical t m e) (mode : RM) (u : Nat) (sat neg : Bool) :
    frnd t mode u sat (.fin neg m e) = (fenc t neg m e, 0) := by
  by_cases hm : m = 0
  · rw [hm, ht.frnd_zero, fenc_of_lt (Nat.two_pow_pos _), fieldBits, Nat.zero_mul]
    rfl
  · rw [ht.frnd_fin mode u sat neg hm, h.ulpExp_eq, roundGrid_self]
    dsimp only
    rw [h.not_tooBig ht]
    rfl

end overflow

theorem roundsExactly : Stated.RoundsExactly := by
  intro t mode u c sat ht hc
  have ht := interchange_of_mem ht
  obtain ⟨neg, m, e, h, rfl⟩ := ht.exists_canonical hc
  rw [h.fdec_fenc ht, h.frnd_eq ht]

/-! ### Rounding to nearest (R154, R173) -/

section grid
variable {mode : RM} {neg : Bool} {u m : Nat} {b e q : Int} (he : b ≤ e) (hq : b ≤ q)

section bounds
include he hq

/-- A magnitude in units of 2^b: the multiple below it and a remainder, where the spacing is 2^sh parts of size `w`. -/
theorem gridOf_spec {a rem sh : Nat} (h : gridOf m e q = (a, rem, sh)) :
    rem < 2 ^ sh ∧ ∃ w, 0 < w ∧ weight b q = 2 ^ sh * w ∧ m * weight b e = a * weight b q + rem * w := by
  rw [gridOf] at h
  split at h
  · next hle =>
    obtain ⟨rfl, rfl, rfl⟩ := h
    refine ⟨Nat.one_pos, weight b q, weight_pos b q, (Int.one_mul _).symm, ?_⟩
    rw [← weight_mul hq hle, weight, Int.natCast_mul, Int.natCast_pow, Int.natCast_zero, Int.zero_mul, Int.add_zero, Int.mul_assoc]
    rfl
  · next hle =>
    obtain ⟨rfl, rfl, rfl⟩ := h
    have hw : weight b q = 2 ^ (q - e).toNat * weight b e := (weight_mul he (by omega)).symm
    refine ⟨Nat.mod_lt m (Nat.two_pow_pos _), weight b e, weight_pos b e, hw, ?_⟩
    generalize (q - e).toNat = sh at *
    have hdiv : (m : Int) = (m / 2 ^ sh : Nat) * 2 ^ sh + (m % 2 ^ sh : Nat) := by
      have h := congrArg Int.ofNat (Nat.div_add_mod' m (2 ^ sh)).symm
      exact h.trans (by rw [Int.ofNat_eq_natCast, Int.natCast_add, Int.natCast_mul, Int.natCast_pow]; rfl)
    rw [hw, ← Int.mul_assoc, ← Int.add_mul, ← hdiv]

/-- The remainder is less than the spacing. -/
theorem gridOf_bounds {a rem sh : Nat} (h : gridOf m e q = (a, rem, sh)) :
    a * weight b q ≤ m * weight b e ∧ m * weight b e < (a + 1) * weight b q := by
  obtain ⟨hlt, w, hw, hgrid, hval⟩ := gridOf_spec he hq h
  have hrem : (rem : Int) * w < 2 ^ sh * w := Int.mul_lt_mul_of_pos_right (by exact_mod_cast hlt) hw
  have hnonneg : 0 ≤ (rem : Int) * w := Int.mul_nonneg (Int.natCast_nonneg _) (Int.le_of_lt hw)
  rw [Int.add_mul, Int.one_mul]
  omega

end bounds

theorem roundGrid_fst {a rem sh : Nat} (h : gridOf m e q = (a, rem, sh)) :
    (roundGrid mode neg u m e q).1 = if moveUp mode neg (a % 2 == 1) rem sh u then a + 1 else a := by rw [roundGrid, h]

/-- Rounding to nearest moves up from half of the spacing on only, and stays up to half of it only. -/
theorem moveUp_rne {odd : Bool} {rem sh : Nat} :
    (moveUp .rne neg odd rem sh u = true → 2 ^ sh ≤ 2 * rem) ∧ (moveUp .rne neg odd rem sh u = false → 2 * rem ≤ 2 ^ sh) := by
  unfold moveUp
  split
  · next hrem => exact ⟨fun h => absurd h Bool.false_ne_true, fun _ => by rw [hrem]; exact Nat.zero_le _⟩
  · simp only [Bool.or_eq_true, Bool.and_eq_true, Bool.or_eq_false_iff, decide_eq_true_eq, decide_eq_false_iff_not, beq_iff_eq]
    omega

section bounds
include he hq

/-- A magnitude below a multiple of the spacing is not rounded beyond it. -/
theorem roundGrid_le {n : Nat} (h : m * weight b e < n * weight b q) : (roundGrid mode neg u m e q).1 ≤ n := by
  rcases hg : gridOf m e q with ⟨a, rem, sh⟩
  have ha : (a : Int) < n := Int.lt_of_mul_lt_mul_right (Int.lt_of_le_of_lt (gridOf_bounds he hq hg).1 h) (Int.le_of_lt (weight_pos b q))
  rw [roundGrid_fst hg]
  split <;> omega

/-- A magnitude from a multiple of the spacing on is not rounded below it. -/
theorem le_roundGrid {n : Nat} (h : n * weight b q ≤ m * weight b e) : n ≤ (roundGrid mode neg u m e q).1 := by
  rcases hg : gridOf m e q with ⟨a, rem, sh⟩
  have ha : (n : Int) < a + 1 := Int.lt_of_mul_lt_mul_right (Int.lt_of_le_of_lt h (gridOf_bounds he hq hg).2) (Int.le_of_lt (weight_pos b q))
  rw [roundGrid_fst hg]
  split <;> omega

/-- Rounding to nearest moves a magnitude by half of the spacing at most. -/
theorem roundGrid_rne_half : 2 * (m * weight b e - (roundGrid .rne neg u m e q).1 * weight b q).natAbs ≤ weight b q := by
  rcases hg : gridOf m e q with ⟨a, rem, sh⟩
  obtain ⟨hlt, w, hw, hgrid, hval⟩ := gridOf_spec he hq hg
  have hbounds := gridOf_bounds he hq hg
  rw [Int.add_mul, Int.one_mul] at hbounds
  rw [roundGrid_fst hg]
  split
  · next h =>
    have hrem : (2 ^ sh : Int) * w ≤ (2 * rem : Int) * w :=
      Int.mul_le_mul_of_nonneg_right (by exact_mod_cast moveUp_rne.1 h) (Int.le_of_lt hw)
    rw [Int.mul_assoc] at hrem
    rw [Int.natCast_add, Int.natCast_one, Int.add_mul, Int.one_mul]
    omega
  · next h =>
    have hrem : (2 * rem : Int) * w ≤ (2 ^ sh : Int) * w :=
      Int.mul_le_mul_of_nonneg_right (by exact_mod_cast moveUp_rne.2 (eq_false_of_ne_true h)) (Int.le_of_lt hw)
    rw [Int.mul_assoc] at hrem
    omega

end bounds

/-- No multiple of the spacing is nearer than one at half of the spacing. -/
theorem nearest_of_half {x g r : Int} (h : 2 * (x - r * g).natAbs ≤ g) (k : Int) : (x - r * g).natAbs ≤ (x - k * g).natAbs := by
  have hg : 0 ≤ g := by omega
  have apart {i j : Int} (hij : i < j) : i * g + g ≤ j * g := by
    have hmul := Int.mul_le_mul_of_nonneg_right (show i + 1 ≤ j from hij) hg
    rwa [Int.add_mul, Int.one_mul] at hmul
  rcases Int.lt_trichotomy k r with hlt | rfl | hgt
  · have hapart := apart hlt
    omega
  · exact Nat.le_refl _
  · have hapart := apart hgt
    omega

end grid

/-! ### The magnitude's leading bit -/

section magnitude
variable {t : Ty} {m : Nat} {b e : Int} (hm : m ≠ 0)
include hm

theorem ulpExp_of_ne : ulpExp t m e = max (ilog m e) (fEmin t) - fFrac t := if_neg hm

/-- A magnitude lies between the power of two of its leading bit and the next one. -/
theorem weight_ilog_bounds (he : b ≤ e) : weight b (ilog m e) ≤ m * weight b e ∧ m * weight b e < weight b (ilog m e + 1) := by
  have hlog : ilog m e = e + (Nat.log2 m : Nat) := Int.add_comm _ _
  have hnext : ilog m e + 1 = e + (Nat.log2 m + 1 : Nat) := by omega
  rw [hnext, hlog, weight_add he, weight_add he]
  refine ⟨Int.mul_le_mul_of_nonneg_right ?_ (Int.le_of_lt (weight_pos b e)), Int.mul_lt_mul_of_pos_right ?_ (weight_pos b e)⟩
  · exact_mod_cast Nat.log2_self_le hm
  · exact_mod_cast Nat.lt_log2_self

/-- Where the magnitude is not subnormal, the power of two of its leading bit is a multiple of its ULP. -/
theorem two_pow_mul_ulp (hq : b ≤ ulpExp t m e) (h : fEmin t ≤ ilog m e) :
    2 ^ fFrac t * weight b (ulpExp t m e) = weight b (ilog m e) := by
  rw [← weight_add hq, show ulpExp t m e + fFrac t = ilog m e by rw [ulpExp_of_ne hm]; omega]

/-- A magnitude has no more bits on the grid of its ULP than the format, or is the next power of two. -/
theorem roundGrid_ulp_le (mode : RM) (neg : Bool) (u : Nat) : (roundGrid mode neg u m e (ulpExp t m e)).1 ≤ 2 ^ (fFrac t + 1) := by
  obtain ⟨b, he, hq⟩ : ∃ b, b ≤ e ∧ b ≤ ulpExp t m e := ⟨min e (ulpExp t m e), Int.min_le_left .., Int.min_le_right ..⟩
  refine roundGrid_le he hq ?_
  have hulp := ulpExp_of_ne (t := t) hm (e := e)
  have hlog : e ≤ ilog m e := by rw [ilog]; omega
  calc m * weight b e < weight b (ilog m e + 1) := (weight_ilog_bounds hm he).2
    _ ≤ weight b (ulpExp t m e + (fFrac t + 1 : Nat)) := weight_mono (by omega) (by omega)
    _ = (2 ^ (fFrac t + 1) : Nat) * weight b (ulpExp t m e) := by rw [weight_add hq, Int.natCast_pow]; rfl

/-- A magnitude that is not subnormal keeps a leading bit. -/
theorem le_roundGrid_ulp (h : fEmin t ≤ ilog m e) (mode : RM) (neg : Bool) (u : Nat) :
    2 ^ fFrac t ≤ (roundGrid mode neg u m e (ulpExp t m e)).1 := by
  obtain ⟨b, he, hq⟩ : ∃ b, b ≤ e ∧ b ≤ ulpExp t m e := ⟨min e (ulpExp t m e), Int.min_le_left .., Int.min_le_right ..⟩
  refine le_roundGrid he hq ?_
  calc (2 ^ fFrac t : Nat) * weight b (ulpExp t m e) = 2 ^ fFrac t * weight b (ulpExp t m e) := by rw [Int.natCast_pow]; rfl
    _ = weight b (ilog m e) := two_pow_mul_ulp hm hq h
    _ ≤ m * weight b e := (weight_ilog_bounds hm he).1

/-- A finite value of the format is a multiple of the ULP of `m × 2^e`, or its magnitude is not above the power of two of the leading
bit. -/
theorem Canonical.multiple_or_le {n : Nat} {f : Int} (h : Canonical t n f) (hq : b ≤ ulpExp t m e) (hf : b ≤ f) :
    (∃ k : Int, n * weight b f = k * weight b (ulpExp t m e)) ∨ fEmin t ≤ ilog m e ∧ n * weight b f ≤ weight b (ilog m e) := by
  obtain ⟨hlt, hleast, -, -⟩ := h
  by_cases hle : ulpExp t m e ≤ f
  · exact .inl ⟨n * weight (ulpExp t m e) f, by rw [Int.mul_assoc, weight_mul hq hle]⟩
  · rw [ulpExp_of_ne hm] at hle
    refine .inr ⟨by omega, ?_⟩
    calc n * weight b f ≤ 2 ^ (fFrac t + 1) * weight b f :=
          Int.mul_le_mul_of_nonneg_right (by exact_mod_cast Nat.le_of_lt hlt) (Int.le_of_lt (weight_pos b f))
      _ = weight b (f + (fFrac t + 1 : Nat)) := (weight_add hf _).symm
      _ ≤ weight b (ilog m e) := weight_mono (by omega) (by omega)

/-- No finite value of the format is nearer to a magnitude than the magnitude rounded to the grid of its ULP. -/
theorem Canonical.nearest {n : Nat} {f : Int} (h : Canonical t n f) (he : b ≤ e) (hq : b ≤ ulpExp t m e) (hf : b ≤ f)
    (a neg : Bool) (u : Nat) :
    (m * weight b e - (roundGrid .rne neg u m e (ulpExp t m e)).1 * weight b (ulpExp t m e)).natAbs
      ≤ (m * weight b e - sgn a * (n * weight b f)).natAbs := by
  have hnear := nearest_of_half (roundGrid_rne_half (neg := neg) (u := u) (m := m) he hq)
  obtain ⟨k, hk⟩ | ⟨hlead, hle⟩ := h.multiple_or_le hm hq hf (e := e)
  · rw [hk, ← Int.mul_assoc]
    exact hnear _
  · have hnear := hnear (2 ^ fFrac t)
    rw [two_pow_mul_ulp hm hq hlead] at hnear
    have hlow := (weight_ilog_bounds hm he).1
    have habs := natAbs_sgn_mul a (n * weight b f)
    have hnonneg : 0 ≤ n * weight b f := Int.mul_nonneg (Int.natCast_nonneg _) (Int.le_of_lt (weight_pos b f))
    omega

end magnitude

/-! ### The value of a rounded magnitude -/

section rounded
variable {t : Ty} (ht : Interchange t) {neg : Bool} {m : Nat} {e : Int}

/-- A magnitude that rounding brought to the next power of two is encoded as the leading bit at the next exponent. -/
theorem fenc_carry (t : Ty) (neg : Bool) (q : Int) : fenc t neg (2 ^ (fFrac t + 1)) q = fenc t neg (2 ^ fFrac t) (q + 1) := by
  have hge : ¬ 2 ^ (fFrac t + 1) < 2 ^ fFrac t := by rw [Nat.pow_succ]; omega
  have hhalf : 2 ^ (fFrac t + 1) / 2 ^ 1 = 2 ^ fFrac t := by rw [Nat.pow_succ, Nat.pow_one, Nat.mul_div_cancel _ Nat.two_pos]
  simp only [fenc, if_neg hge, if_neg (Nat.lt_irrefl _), Nat.log2_two_pow, Nat.add_sub_cancel_left, Nat.sub_self, hhalf, Nat.pow_zero,
    Nat.div_one, Int.natCast_zero, Int.natCast_one, Int.add_zero]

include ht

theorem Interchange.tooBig_carry (q : Int) : tooBig t (2 ^ (fFrac t + 1)) q = tooBig t (2 ^ fFrac t) (q + 1) := by
  obtain ⟨b, hb, hq⟩ : ∃ b : Int, b ≤ fBias t - fFrac t ∧ b ≤ q := ⟨min (fBias t - fFrac t) q, Int.min_le_left .., Int.min_le_right ..⟩
  rw [Bool.eq_iff_iff, ht.tooBig_iff _ hb hq, ht.tooBig_iff _ hb (by omega), weight_succ hq, Nat.pow_succ, Int.natCast_mul (2 ^ fFrac t),
    Int.mul_assoc]
  rfl

/-- A magnitude on the grid of its ULP that is not too big is a value of the format, up to the carry to the next power of two. -/
theorem Interchange.fdec_rounded (hm : m ≠ 0) (mode : RM) (u : Nat)
    (h : tooBig t (roundGrid mode neg u m e (ulpExp t m e)).1 (ulpExp t m e) = false) :
    ∃ r q, fdec t (fenc t neg (roundGrid mode neg u m e (ulpExp t m e)).1 (ulpExp t m e)) = .fin neg r q ∧ ulpExp t m e ≤ q
      ∧ ∀ b, b ≤ ulpExp t m e → r * weight b q = (roundGrid mode neg u m e (ulpExp t m e)).1 * weight b (ulpExp t m e) := by
  have hle := roundGrid_ulp_le (t := t) hm (e := e) mode neg u
  have hlead := le_roundGrid_ulp (t := t) hm (e := e) (mode := mode) (neg := neg) (u := u)
  have hulp := ulpExp_of_ne (t := t) hm (e := e)
  generalize (roundGrid mode neg u m e (ulpExp t m e)).1 = r at *
  rcases Nat.lt_or_eq_of_le hle with hlt | rfl
  · have hsub (hr : r < 2 ^ fFrac t) : ulpExp t m e = fEmin t - fFrac t := by
      have hlow : ilog m e < fEmin t := Int.not_le.mp fun hl => absurd (hlead hl) (Nat.not_le.mpr hr)
      omega
    have hc : Canonical t r (ulpExp t m e) := ht.canonical_of_not_tooBig hlt (by omega) hsub h
    exact ⟨r, _, hc.fdec_fenc ht, Int.le_refl _, fun _ _ => rfl⟩
  · rw [ht.tooBig_carry] at h
    have hc : Canonical t (2 ^ fFrac t) (ulpExp t m e + 1) :=
      ht.canonical_of_not_tooBig (Nat.pow_lt_pow_right Nat.one_lt_two (Nat.lt_succ_self _)) (by omega)
        (fun hr => absurd hr (Nat.lt_irrefl _)) h
    refine ⟨2 ^ fFrac t, ulpExp t m e + 1, by rw [fenc_carry, hc.fdec_fenc ht], by omega, fun b hb => ?_⟩
    rw [weight_succ hb, Nat.pow_succ, Int.natCast_mul (2 ^ fFrac t), Int.mul_assoc]
    rfl

/-- An overflow in rounding to nearest leaves an infinity. -/
theorem Interchange.not_finiteBits_overBits_rne (neg : Bool) : ¬ FiniteBits t (overBits t .rne neg false) := by
  have hinf : overBits t .rne neg false = fieldBits t neg (2 ^ fExpb t - 1) 0 := by
    simp only [overBits, ht.ne_e8m0, ht.ne_e4m3, ht.ne_e2m1, infBits, fExpOnes, fieldBits, Bool.not_false, Bool.not_true, Bool.and_self,
      Bool.or_self, Bool.false_eq_true, if_false, Nat.add_zero]
  rw [hinf]
  exact fun h => h.2 (ht.fieldBits_exponent (Nat.sub_lt (Nat.two_pow_pos _) Nat.one_pos) (Nat.two_pow_pos _))

end rounded

theorem roundsToNearest : Stated.RoundsToNearest := by
  intro t neg m e c ht hm hc
  have ht := interchange_of_mem ht
  obtain ⟨neg', n, f, hn, rfl⟩ := ht.exists_canonical hc
  dsimp only
  rw [ht.frnd_fin _ _ _ _ hm]
  dsimp only
  split
  · exact fun h => absurd h (ht.not_finiteBits_overBits_rne neg)
  · next hbig =>
    intro _
    obtain ⟨r, q, hdec, hulp, hval⟩ := ht.fdec_rounded hm _ _ (eq_false_of_ne_true hbig)
    obtain ⟨b, he, hq, hf⟩ : ∃ b, b ≤ e ∧ b ≤ ulpExp t m e ∧ b ≤ f := ⟨min e (min (ulpExp t m e) f), by omega, by omega, by omega⟩
    have hq' : b ≤ q := Int.le_trans hq hulp
    rw [hdec, hn.fdec_fenc ht,
      dyLt_eq_false_iff (b := b) (Int.le_min.mpr ⟨he, hf⟩) (Int.le_min.mpr ⟨he, hq'⟩), dyAt_dyAbs, dyAt_dyAbs,
      dyAt_dySub (a := (FV.fin neg m e).dy) (c := (FV.fin neg' n f).dy) he hf, dyAt_dySub (a := (FV.fin neg m e).dy) (c := (FV.fin neg r q).dy) he hq',
      dyAt_fin, dyAt_fin, dyAt_fin, hval b hq, ← Int.mul_sub, natAbs_sgn_mul, natAbs_sgn_mul_sub, ← Int.mul_assoc, sgn_mul_sgn]
    exact Int.ofNat_le.mpr (hn.nearest hm he hq hf _ _ _)

/-- Settles O38: the multiples of the ULP and the values below the leading bit are all a format has (`Canonical.multiple_or_le`), and a value of the
format stands on its own grid (`Canonical.frnd_eq`). -/
theorem rounding : Obligations.Rounding := ⟨roundsToNearest, roundsExactly⟩

end Sys2Proof.Machine
end

section
/-! Floating-point arithmetic in lone and packed forms (R160, R221 to R231). Every lone instruction is the shell `fLone` on its result in a lane, and
every packed one `fPair` on its result in a lane's element; what the shells leave is said once, and each form names its shell. -/

namespace Sys2Proof.Machine

open Sys2Proof.Stated

/-! ### Lone results -/

/-- The sign of a 32-bit operand, as the model and as bit vectors have it. -/
theorem sextI_toNat (x : Word) : sextI 32 x.toNat = x.toInt := by
  have hx : x.toNat < 2 ^ 32 := x.isLt
  rw [sextI, BitVec.toInt_eq_toNat_cond, Nat.mod_eq_of_lt hx]
  split <;> split <;> omega

section lone
variable {s : State} {v : View} {t : Ty} {d : Nat}

/-- A lone instruction has written its results in the lanes of EXEC and ORed its flags into FSTAT (R160). -/
abbrev LoneForm (s : State) (v : View) (o : Host.Outcome State Fault Refusal) (t : Ty) (d : Nat) (f : Nat → FOut) : Prop :=
  Completes s v o (flagW v d (tyRegs1 t))
    (fun h => (∀ L, v.exec.getLsbD L = true → vbits h t d L = (f L).bits % 2 ^ (32 * tyRegs1 t))
      ∧ h.fstat = laneOr v.exec (fun L => (f L).fl) v.g.fstat) (NoWeirs s v ∧ v.g.fptrap = 0)

/-- An instruction whose effect is `fLone`. -/
theorem loneForm_run {u : Uses} (h : Ready s v u) {F : View → State} {wr : Bool} {f : Nat → FOut} (hF : F v = fLone s v t d wr f) :
    LoneForm s v (run s u F) t d f := by
  rw [run_ready h, hF]
  exact fLone_completes h.own t d wr f

theorem loneForm_short2 {i : Instr} {p : S3} (h : Ready s v (uses i)) (f : Ty → RM → Nat → FV → FV → FOut) :
    LoneForm s v (short2 s i p f) .f32 p.d fun L => f .f32 .rne 0 (fop v .f32 p.a L) (fopB v .f32 p.b L) :=
  loneForm_run h rfl

theorem loneForm_arith2 {i : Instr} {p : L} (h : Ready s v (uses i)) (hp : isPacked p = false) (wr : Bool)
    (f : Ty → RM → Nat → FV → FV → FOut) :
    LoneForm s v (arith2 s i p wr f) p.ty p.d fun L => f p.ty p.rm (uOf v p L) (fop v p.ty p.a L) (fopB v p.ty p.b L) :=
  loneForm_run h (wr := wr) (if_neg (ne_true_of_eq_false hp))

theorem loneForm_absNeg {i : Instr} {p : L} (h : Ready s v (uses i)) (hp : isPacked p = false) (isNeg : Bool) :
    LoneForm s v (absNeg s i p isNeg) p.ty p.d fun L => fAbsNeg p.ty isNeg (fop v p.ty p.a L) :=
  loneForm_run h (wr := false) (if_neg (ne_true_of_eq_false hp))

theorem loneForm_unary {i : Instr} {p : L} (h : Ready s v (uses i)) (f : Nat → FOut) :
    LoneForm s v (unary s i p f) p.ty p.d fun L => f (vbits v.g p.ty p.a L % 2 ^ fWidth p.ty) :=
  loneForm_run h rfl

/-- FFMA takes its addend from `c`: C for .f64 and .f32, and D for the 16-bit types. -/
theorem loneForm_ffma {p : L} (h : Ready s v (uses (.ffma p))) (hp : isPacked p = false) {c : Nat} (hc : (if tyPk p.ty then p.d else p.c) = c) :
    LoneForm s v (execFfma p s) p.ty p.d
      fun L => fFma p.ty p.rm (uOf v p L) (fop v p.ty p.a L) (fopB v p.ty p.b L) (fop v p.ty c L) := by
  subst hc
  exact loneForm_run h (wr := true) (if_neg (ne_true_of_eq_false hp))

theorem loneForm_fscale {p : L} (h : Ready s v (uses (.fscale p))) :
    LoneForm s v (execFscale p s) p.ty p.d fun L => fScale p.ty p.rm (fdec p.ty (vbits v.g p.ty p.a L)) (bval v.g p.b L).toInt :=
  loneForm_run h (wr := false) (congrArg _ (funext fun L => by rw [sextI_toNat]))

theorem isPacked_of_not_tyPk {p : L} (h : tyPk p.ty = false) : isPacked p = false := by rw [isPacked, h]; rfl

end lone

theorem floatLoneForms : Stated.FloatLoneForms := by
  intro i t d f s v form h
  cases form with
  | faddS | fsubS | fmulS => exact loneForm_short2 h _
  | ffmaS => exact loneForm_run h rfl
  | fadd _ hp | fsub _ hp | fmul _ hp => exact loneForm_arith2 h hp true _
  | ffmaC _ hc => exact loneForm_ffma h (isPacked_of_not_tyPk hc) (if_neg (ne_true_of_eq_false hc))
  | ffmaD _ hd hp => exact loneForm_ffma h hp (if_pos hd)
  | fmin _ hp => exact loneForm_arith2 h hp false fun t _ _ => fMinMax t false false
  | fmax _ hp => exact loneForm_arith2 h hp false fun t _ _ => fMinMax t true false
  | fminnum _ hp => exact loneForm_arith2 h hp false fun t _ _ => fMinMax t false true
  | fmaxnum _ hp => exact loneForm_arith2 h hp false fun t _ _ => fMinMax t true true
  | fdiv => exact loneForm_run h rfl
  | fscale => exact loneForm_fscale h
  | fabs _ hp => exact loneForm_absNeg h hp false
  | fneg _ hp => exact loneForm_absNeg h hp true
  | fsqrt p => exact loneForm_unary h fun x => fSqrt p.ty p.rm (fdec p.ty x)
  | frnd p => exact loneForm_unary h fun x => fRndInt p.ty p.rm (fdec p.ty x)
  | frcp | frsq | fex2 | flg2 | fsin | fcos => exact loneForm_unary h _

/-! ### Packed pairs -/

section pair
variable {s : State} {v : View} {p : L}

/-- A packed instruction has written two elements of 16 bits in each register and ORed the flags of both into FSTAT (R222). -/
abbrev PairForm (s : State) (v : View) (o : Host.Outcome State Fault Refusal) (d : Nat) (f : Nat → Nat → FOut) : Prop :=
  Completes s v o (flagW v d 1)
    (fun h => (∀ L, v.exec.getLsbD L = true → (vget h d L).toNat = ((f L 0).bits + (f L 1).bits * 2 ^ 16) % 2 ^ 32)
      ∧ h.fstat = laneOr v.exec (fun L => Nat.lor (f L 0).fl (f L 1).fl) v.g.fstat) (NoWeirs s v ∧ v.g.fptrap = 0)

theorem fWidth_of_tyPk {t : Ty} (h : tyPk t = true) : fWidth t = 16 := by
  cases t with
  | f16 | bf16 => rfl
  | _ => exact Bool.noConfusion h

/-- An instruction whose effect is `fPair`. -/
theorem pairForm_run {u : Uses} (h : Ready s v u) (ht : tyPk p.ty = true) {F : View → State} {f : Nat → Nat → FOut}
    (hF : F v = fPair s v p.ty p.d f) : PairForm s v (run s u F) p.d f := by
  rw [run_ready h, hF, fPair, fWidth_of_tyPk ht]
  exact laneResults_completes h.own .n32 p.d _

section packed
variable (ht : tyPk p.ty = true) (hp : isPacked p = true)
include ht hp

theorem pairForm_arith2 {i : Instr} (h : Ready s v (uses i)) (wr : Bool) (f : Ty → RM → Nat → FV → FV → FOut) :
    PairForm s v (arith2 s i p wr f) p.d
      fun L j => f p.ty p.rm 0 (felem p.ty (vget v.g p.a L) j) (felem p.ty (bval v.g p.b L) j) :=
  pairForm_run h ht (if_pos hp)

theorem pairForm_absNeg {i : Instr} (h : Ready s v (uses i)) (isNeg : Bool) :
    PairForm s v (absNeg s i p isNeg) p.d fun L j => fAbsNeg p.ty isNeg (felem p.ty (vget v.g p.a L) j) :=
  pairForm_run h ht (if_pos hp)

theorem pairForm_ffma (h : Ready s v (uses (.ffma p))) :
    PairForm s v (execFfma p s) p.d
      fun L j => fFma p.ty p.rm 0 (felem p.ty (vget v.g p.a L) j) (felem p.ty (bval v.g p.b L) j) (felem p.ty (vget v.g p.d L) j) :=
  pairForm_run h ht (if_pos hp)

end packed
end pair

theorem floatPairForms : Stated.FloatPairForms := by
  intro i p f s v form ht hc hrm h
  have hp : isPacked p = true := by simp [isPacked, ht, hc, hrm]
  cases form with
  | fadd | fsub | fmul => exact pairForm_arith2 ht hp h true _
  | ffma => exact pairForm_ffma ht hp h
  | fmin => exact pairForm_arith2 ht hp h false fun t _ _ => fMinMax t false false
  | fmax => exact pairForm_arith2 ht hp h false fun t _ _ => fMinMax t true false
  | fminnum => exact pairForm_arith2 ht hp h false fun t _ _ => fMinMax t false true
  | fmaxnum => exact pairForm_arith2 ht hp h false fun t _ _ => fMinMax t true true
  | fabs => exact pairForm_absNeg ht hp h false
  | fneg => exact pairForm_absNeg ht hp h true

/-- Settles O37: each form is the shell of lone results (`loneForm_run`) or of packed pairs (`pairForm_run`) on its result. -/
theorem floatForms : Obligations.FloatForms := ⟨floatLoneForms, floatPairForms⟩

end Sys2Proof.Machine
end

section
/-! Floating-point conversions, comparison, packing and unpacking (R232 to R239). The conversions are the shell `laneResults`; a comparison writes a
predicate with flags, said once for FCMP and XCMP; FPACK puts two elements among those of a register (`testBit_putElem`). -/

namespace Sys2Proof.Machine

open Sys2Proof.Stated

/-! ### Results that raise no flag -/

theorem laneOr_zero (m : Word) (a : Nat) : laneOr m (fun _ => 0) a = a := by
  unfold laneOr
  induction lanesOf m with
  | nil => rfl
  | cons L r ih => exact (congrArg (fun x => r.foldl _ x) (Nat.or_zero a)).trans ih

section noFlags
variable {s : State} {v : View} {o : Host.Outcome State Fault Refusal} {w : Written} {R : Group → Prop} {q : Prop}

/-- What completes without a write of FSTAT leaves it as it was, and completes where FSTAT may be written as well. -/
theorem Completes.withFlags (h : Completes s v o w R q) (hw : ¬ w.fstat) :
    Completes s v o { w with fstat := True } (fun g => R g ∧ g.fstat = v.g.fstat) q := by
  obtain ⟨t, g, ho, hg, hR, hkept, hquiet⟩ := h
  exact ⟨t, g, ho, hg, ⟨hR, hkept.fstat hw⟩, hkept.withFlags, hquiet⟩

theorem Completes.quieter {q' : Prop} (h : Completes s v o w R q) (hq : q' → q) : Completes s v o w R q' := by
  obtain ⟨t, g, ho, hg, hR, hkept, hquiet⟩ := h
  exact ⟨t, g, ho, hg, hR, hkept, fun h => hquiet (hq h)⟩

end noFlags

/-! ### Conversions (R232, R234 to R237) -/

section conv
variable {s : State} {v : View} {t : Ty} {d : Nat}

/-- A conversion has written its results in the lanes of EXEC and ORed its flags into FSTAT. -/
abbrev ConvForm (s : State) (v : View) (o : Host.Outcome State Fault Refusal) (t : Ty) (d : Nat) (f : Nat → Nat × Nat) : Prop :=
  Completes s v o (flagW v d (tyRegs1 t))
    (fun h => (∀ L, v.exec.getLsbD L = true → vbits h t d L = (f L).1 % 2 ^ (32 * tyRegs1 t))
      ∧ h.fstat = laneOr v.exec (fun L => (f L).2) v.g.fstat) (NoWeirs s v ∧ v.g.fptrap = 0)

/-- An instruction whose effect is `laneResults`. -/
theorem convForm_run {u : Uses} (h : Ready s v u) {F : View → State} {f : Nat → Nat × Nat} (hF : F v = laneResults s v t d f) :
    ConvForm s v (run s u F) t d f := by
  rw [run_ready h, hF]
  exact laneResults_completes h.own t d f

/-- FCLASS raises no flag. -/
theorem convForm_runT {u : Uses} (h : Ready s v u) (f : Group → Nat → Nat) : ConvForm s v (runT s u t d f) t d fun L => (f v.g L, 0) :=
  (((runT_completes h t d f).withFlags id).quieter And.left).mono fun _ hg => ⟨hg.1, hg.2.trans (laneOr_zero _ _).symm⟩

end conv

/-- An integer operand, as the model and as bit vectors have it. -/
theorem tyVal_eq_intOf (t : Ty) (x : Nat) : tyVal t x = intOf t x := by
  unfold tyVal intOf
  split
  · rw [sextI, BitVec.toInt_eq_toNat_cond, BitVec.toNat_ofNat]
    have hpos : 0 < tyBits t := by cases t <;> decide
    have hpow : 2 ^ tyBits t = 2 * 2 ^ (tyBits t - 1) := by rw [← Nat.pow_succ', Nat.succ_eq_add_one, Nat.sub_add_cancel hpos]
    have hhalf : x % 2 ^ tyBits t < 2 ^ (tyBits t - 1) ↔ 2 * (x % 2 ^ tyBits t) < 2 ^ tyBits t := by omega
    simp only [hhalf]
    split <;> rfl
  · rw [BitVec.toNat_ofNat]

theorem floatConv_completes {i : Instr} {t : Ty} {d : Nat} {f : Nat → Nat × Nat} {s : State} {v : View} (form : FloatConv v i t d f)
    (h : Ready s v (uses i)) : ConvForm s v (exec i s) t d f := by
  cases form with
  | fclass p => exact convForm_runT (t := .n32) h fun g L => fClass p.ty (fdec p.ty (vbits g p.ty p.a L))
  | fcvt | fcvti => exact convForm_run h rfl
  | icvtf p src =>
    rw [exec_icvtf, execIcvtf]
    exact convForm_run h (congrArg _ (funext fun L => by rw [tyVal_eq_intOf]; rfl))

/-! ### Predicates with flags (R233, R255) -/

theorem any_lane (l : List Nat) (r : Nat → Bool × Nat) (L : Nat) :
    ((l.map fun M => (M, r M)).any fun e => e.1 == L && e.2.1) = (decide (L ∈ l) && (r L).1) := by
  rw [Bool.eq_iff_iff]
  simp only [List.any_map, List.any_eq_true, Function.comp_apply, Bool.and_eq_true, beq_iff_eq, decide_eq_true_eq]
  constructor
  · rintro ⟨M, hM, rfl, hr⟩
    exact ⟨hM, hr⟩
  · exact fun ⟨hL, hr⟩ => ⟨L, hL, rfl, hr⟩

/-- What FCMP and XCMP do: a predicate with the results `r` in the lanes of EXEC, and their flags. -/
def predEff (v : View) (d : Nat) (r : Nat → Bool × Nat) : Eff :=
  let rs := (lanesOf v.exec).map fun L => (L, r L)
  { g := pset v.g d v.exec (maskOf fun L => rs.any fun e => e.1 == L && e.2.1), flags := (rs.filter fun e => e.2.2 != 0).map fun e => (e.1, e.2.2) }

theorem flags_predEff (v : View) (d : Nat) (r : Nat → Bool × Nat) :
    (predEff v d r).flags = ((lanesOf v.exec).map fun L => (L, (r L).2)).filter fun e => e.2 != 0 := by
  rw [predEff, List.filter_map, List.map_map, List.filter_map]
  rfl

theorem getLsbD_predEff {v : View} {L : Nat} (d : Nat) (r : Nat → Bool × Nat) (h : v.exec.getLsbD L = true) :
    (pget (predEff v d r).g d).getLsbD L = (r L).1 := by
  have hlt : L < 32 := BitVec.lt_of_getLsbD h
  rw [predEff, pget_pset_bit hlt, if_pos ⟨rfl, h⟩, getLsbD_maskOf, any_lane, decide_eq_true hlt, decide_eq_true (mem_lanesOf.mpr h), Bool.true_and,
    Bool.true_and]

/-- A comparison writes its predicate in the lanes of EXEC and ORs its flags into FSTAT. -/
theorem predResults_completes {s : State} {v : View} (own : v.is.step = none) (d : Nat) (r : Nat → Bool × Nat) :
    Completes s v (.next (finish s v (predEff v d r))) { p := fun n L => n = d ∧ v.exec.getLsbD L = true, fstat := True }
      (fun h => (∀ L, v.exec.getLsbD L = true → (pget h d).getLsbD L = (r L).1) ∧ h.fstat = laneOr v.exec (fun L => (r L).2) v.g.fstat)
      (NoWeirs s v ∧ v.g.fptrap = 0) := by
  have kept : RegsKept v.g (flagged (predEff v d r)) { p := fun n L => n = d ∧ v.exec.getLsbD L = true, fstat := True } :=
    (RegsKept.pset v.g d v.exec _).withFlags.flagged (e := predEff v d r) (.inr trivial)
  refine completes_finish (predEff v d r) own rfl rfl rfl kept (fun h m => ⟨fun L hL => ?_, ?_⟩) And.left fun q => .inr q.2
  · rw [m.same.pget]
    exact getLsbD_predEff d r hL
  · exact m.same.2.trans (fstat_flagged _ (lanesOf v.exec) (fun L => (r L).2) (flags_predEff v d r))

theorem floatConversions : Stated.FloatConversions := by
  refine ⟨fun i t d f s v form h => floatConv_completes form h, fun p c s v hc h => ?_⟩
  rw [exec_fcmp, execFcmp, run_ready h, hc]
  exact predResults_completes h.own p.d fun L =>
    fCmp c (fop v p.ty p.a L) (fopB v p.ty p.b L) (isSig p.ty (fop v p.ty p.a L) || isSig p.ty (fopB v p.ty p.b L))

/-! ### Elements of a register (R238, R239) -/

/-- A register with element `k` of width `w` replaced. -/
def putElem (w x k y : Nat) : Nat := x - x / 2 ^ (w * k) % 2 ^ w * 2 ^ (w * k) + y % 2 ^ w * 2 ^ (w * k)

theorem testBit_putElem (w x k y i : Nat) :
    (putElem w x k y).testBit i = if w * k ≤ i ∧ i < w * k + w then y.testBit (i - w * k) else x.testBit i := by
  have hsplit : putElem w x k y = 2 ^ (w * k) * (2 ^ w * (x / 2 ^ (w * k) / 2 ^ w) + y % 2 ^ w) + x % 2 ^ (w * k) := by
    have hlow := Nat.div_add_mod x (2 ^ (w * k))
    have hhigh := Nat.div_add_mod (x / 2 ^ (w * k)) (2 ^ w)
    have hmul := congrArg (2 ^ (w * k) * ·) hhigh
    simp only [Nat.mul_add] at hmul
    rw [putElem, Nat.mul_add, Nat.mul_comm (x / _ % _), Nat.mul_comm (y % _)]
    omega
  rw [hsplit, Nat.testBit_two_pow_mul_add _ (Nat.mod_lt x (Nat.two_pow_pos _)), Nat.testBit_two_pow_mul_add _ (Nat.mod_lt y (Nat.two_pow_pos _)),
    Nat.testBit_mod_two_pow, Nat.testBit_mod_two_pow, Nat.testBit_div_two_pow, Nat.testBit_div_two_pow]
  by_cases hlo : i < w * k
  · simp [hlo, show ¬ w * k ≤ i by omega]
  · by_cases hhi : i - w * k < w
    · simp [hlo, hhi, show w * k ≤ i ∧ i < w * k + w by omega]
    · simp [hlo, hhi, show ¬ i < w * k + w by omega, show i - w * k - w + w + w * k = i by omega]

theorem testBit_bitsOf (x k n i : Nat) : (bitsOf x k n).testBit i = (decide (i < n) && x.testBit (i + k)) := by
  rw [bitsOf, Nat.testBit_mod_two_pow, Nat.testBit_div_two_pow]

/-- An element of a register of which one has been replaced. -/
theorem bitsOf_putElem (w x k y j : Nat) : bitsOf (putElem w x k y) (j * w) w = if j = k then y % 2 ^ w else bitsOf x (j * w) w := by
  apply Nat.eq_of_testBit_eq
  intro i
  rw [testBit_bitsOf, testBit_putElem]
  by_cases hi : i < w
  · by_cases hj : j = k
    · subst hj
      rw [if_pos rfl, if_pos (by rw [Nat.mul_comm j w]; omega), Nat.testBit_mod_two_pow, Nat.mul_comm j w, Nat.add_sub_cancel]
    · have hout : ¬ (w * k ≤ i + j * w ∧ i + j * w < w * k + w) := by
        rintro ⟨hge, hlt⟩
        rcases Nat.lt_or_gt_of_ne hj with h | h
        · have := Nat.mul_le_mul_right w (Nat.succ_le_of_lt h)
          rw [Nat.succ_mul, Nat.mul_comm k] at this
          omega
        · have := Nat.mul_le_mul_right w (Nat.succ_le_of_lt h)
          rw [Nat.succ_mul, Nat.mul_comm k] at this
          omega
      rw [if_neg hj, if_neg hout, testBit_bitsOf]
  · rw [decide_eq_false hi, Bool.false_and]
    split
    · rw [Nat.testBit_mod_two_pow, decide_eq_false hi, Bool.false_and]
    · rw [testBit_bitsOf, decide_eq_false hi, Bool.false_and]

/-- An element that lies in a register's 32 bits. -/
theorem bitsOf_word {w j : Nat} (h : (j + 1) * w ≤ 32) (x : Nat) : bitsOf (x % 2 ^ 32) (j * w) w = bitsOf x (j * w) w := by
  rw [Nat.succ_mul] at h
  apply Nat.eq_of_testBit_eq
  intro i
  rw [testBit_bitsOf, testBit_bitsOf, Nat.testBit_mod_two_pow]
  by_cases hi : i < w
  · rw [decide_eq_true (show i + j * w < 32 by omega), Bool.true_and]
  · rw [decide_eq_false hi, Bool.false_and, Bool.false_and]

/-- Elements 2c and 2c + 1 of a register replaced. -/
theorem bitsOf_putElem_pair (w x c j : Nat) (y : Nat → Nat) :
    bitsOf (putElem w (putElem w x (2 * c + 0) (y 0)) (2 * c + 1) (y 1)) (j * w) w
      = if j / 2 = c then y (j % 2) % 2 ^ w else bitsOf x (j * w) w := by
  rw [bitsOf_putElem, bitsOf_putElem]
  by_cases h1 : j = 2 * c + 1
  · rw [if_pos h1, if_pos (by omega), show j % 2 = 1 by omega]
  · by_cases h0 : j = 2 * c + 0
    · rw [if_neg h1, if_pos h0, if_pos (by omega), show j % 2 = 0 by omega]
    · rw [if_neg h1, if_neg h0, if_neg (by omega)]

/-- The element `j` that FPACK makes in a lane, and its flags. -/
def packElem (v : View) (p : L) (src : Ty) (L j : Nat) : Nat × Nat :=
  fPack1 src p.ty p.rm (p.aux % 2 == 1) ((bval v.g p.b L).toNat % 256) (fdec src (vget v.g (p.a + j) L).toNat)

/-- The element `j` that FUNPK makes in a lane, and its flags. -/
def unpackElem (v : View) (p : L) (src : Ty) (L j : Nat) : Nat × Nat :=
  fUnpk1 src p.ty p.rm (p.aux % 2 == 1) ((bval v.g p.b L).toNat % 256) (felem src (vget v.g p.a L) (2 * p.c + j))

section packing
variable {s : State} {v : View} {p : L} {src : Ty}

/-- FPACK is a conversion to the register with its two elements replaced. -/
theorem convForm_fpack (h : Ready s v (uses (.fpack p src))) :
    ConvForm s v (execFpack p src s) .n32 p.d fun L =>
      (putElem (fWidth p.ty) (putElem (fWidth p.ty) (vget v.g p.d L).toNat (2 * p.c + 0) (packElem v p src L 0).1) (2 * p.c + 1)
        (packElem v p src L 1).1, Nat.lor (packElem v p src L 0).2 (packElem v p src L 1).2) :=
  convForm_run h rfl

/-- FUNPK writes two registers with flags. -/
theorem funpk_completes (h : Ready s v (uses (.funpk p src))) :
    Completes s v (execFunpk p src s) (flagW v p.d 2)
      (fun g => ∀ L j, v.exec.getLsbD L = true → j < 2 → (vget g (p.d + j) L).toNat = (unpackElem v p src L j).1 % 2 ^ 32)
      (NoWeirs s v ∧ v.g.fptrap = 0) := by
  rw [execFunpk, run_ready h]
  have two : LaneWrite (fun g L => vset (vset g p.d L (BitVec.ofNat 32 (unpackElem v p src L 0).1)) (p.d + 1) L
      (BitVec.ofNat 32 (unpackElem v p src L 1).1)) p.d 2 fun L j => BitVec.ofNat 32 (unpackElem v p src L j).1 :=
    ((LaneWrite.vset p.d fun L => BitVec.ofNat 32 (unpackElem v p src L 0).1).comp
      (LaneWrite.vset (p.d + 1) fun L => BitVec.ofNat 32 (unpackElem v p src L 1).1)).congr rfl fun L j hj => by
        rcases j with _ | _ | j
        · rfl
        · rfl
        · omega
  refine (aluF_completes two _ (congrArg (fun g : Group => { g with ext := g.ext }) (List.foldl_map ..)) h.own _ _ _
    (fun L => Nat.lor (unpackElem v p src L 0).2 (unpackElem v p src L 1).2) ?_).mono fun g hg L j hL hj => ?_
  · rw [List.map_map]
    rfl
  · rw [hg.1 L j hL hj, BitVec.toNat_ofNat]

end packing

theorem floatPacking : Stated.FloatPacking := by
  refine fun p src s v => ⟨fun _ _ h => (convForm_fpack h).mono fun g hg L hL j hj => ?_, funpk_completes⟩
  have hval := hg.1 L hL
  rw [show (vget g p.d L).toNat = vbits g .n32 p.d L from rfl, hval]
  exact (bitsOf_word hj _).trans (bitsOf_putElem_pair _ _ _ _ fun j => (packElem v p src L j).1)

/-- Settles O39: a conversion is the shell of results with flags (`convForm_run`), a comparison writes its predicate (`predResults_completes`), and
FPACK replaces two elements of a register (`bitsOf_putElem_pair`). -/
theorem floatChanges : Obligations.FloatChanges := ⟨floatConversions, floatPacking⟩

end Sys2Proof.Machine
end

section
/-! Error-free transforms, expansions and random numbers (R241 to R260). Every transform and expansion is the shell `wordResults`, whose words must be
as many as the registers that it writes: so each function of words has a lemma about its length. SPOUT is a round folded over the numbers 0 to 7
on either side. -/

namespace Sys2Proof.Machine

open Sys2Proof.Stated

/-! ### The number of words -/

@[simp] theorem length_tSpecial (n : Nat) (r : FOut) : (tSpecial n r).words.length = n + 1 := by simp [tSpecial]

@[simp] theorem length_xSpecial {n : Nat} (b fl : Nat) (hn : 0 < n) : (xSpecial n b fl).1.length = n := by
  rw [xSpecial, List.length_cons, List.length_replicate, Nat.sub_add_cancel hn]

theorem length_tTwo (t : Ty) (r : FOut) (x : Dy) : (tTwo t r x).words.length = 2 := by
  unfold tTwo
  split
  · exact length_tSpecial 1 r
  · rfl

theorem length_tFast (t : Ty) (a b : FV) : (tFast t a b).words.length = 2 := by
  unfold tFast
  dsimp only
  split
  · exact length_tSpecial 1 _
  · rfl

theorem length_tFma3 (t : Ty) (a b c : FV) : (tFma3 t a b c).words.length = 3 := by
  unfold tFma3
  dsimp only
  split
  · exact length_tSpecial 2 _
  · rfl

theorem length_tSplit (src dst : Ty) {n : Nat} (hn : n = 2 ∨ n = 3) (a : FV) : (tSplit src dst n a).words.length = n := by
  unfold tSplit
  split
  · rcases hn with rfl | rfl <;> rfl
  · dsimp only
    split
    · rw [length_tSpecial]
      omega
    · rcases hn with rfl | rfl <;> rfl

theorem length_xRepair {t : Ty} {j : Nat} {c c' : List Dy} (h : xRepair t j c = some c') : c'.length = c.length := by
  induction j generalizing c with
  | zero => exact congrArg List.length (Option.some.inj h).symm
  | succ j ih =>
    unfold xRepair at h
    dsimp only at h
    split at h
    · exact congrArg List.length (Option.some.inj h).symm
    · split at h
      · exact congrArg List.length (Option.some.inj h).symm
      · split at h
        · exact nomatch h
        · rw [ih h, List.length_set, List.length_set]

theorem length_xLoop {t : Ty} {k i : Nat} {c c' : List Dy} {x rem : Dy} (h : xLoop t k i c x = some (c', rem)) : c'.length = c.length + k := by
  induction k generalizing i c x with
  | zero => exact congrArg (List.length ∘ Prod.fst) (Option.some.inj h).symm
  | succ k ih =>
    unfold xLoop at h
    dsimp only at h
    split at h
    · exact nomatch h
    · split at h
      · exact nomatch h
      · next hr =>
        rw [ih h, length_xRepair hr, List.length_append, List.length_singleton]
        omega

theorem length_xnorm (t : Ty) {n : Nat} (hn : 0 < n) (v : FV) : (xnorm t n v).1.length = n := by
  have hone (x : Nat) : (x :: List.replicate (n - 1) 0).length = n := by rw [List.length_cons, List.length_replicate, Nat.sub_add_cancel hn]
  unfold xnorm
  dsimp only
  split
  · exact hone _
  · split
    · exact hone _
    · next hl =>
      rw [List.length_map, length_xLoop hl, List.length_nil, Nat.zero_add]

theorem length_xOp (t : Ty) {n : Nat} (hn : 0 < n) (args : List (List FV)) (op : List FV → Option FV) : (xOp t n args op).1.length = n := by
  unfold xOp
  dsimp only
  split
  · exact length_xSpecial _ _ hn
  · split
    · exact length_xSpecial _ _ hn
    · split
      · exact length_xSpecial _ _ hn
      · exact length_xSpecial _ _ hn
      · exact length_xnorm t hn _

theorem length_xNegAbs (t : Ty) {n : Nat} (hn : 0 < n) (isNeg : Bool) (cs : List FV) {bits : List Nat} (hb : bits.length = n) :
    (xNegAbs t n isNeg cs bits).1.length = n := by
  unfold xNegAbs
  dsimp only
  split
  · exact length_xSpecial _ _ hn
  · exact length_xSpecial _ _ hn
  · split
    · rw [List.length_map, hb]
    · split
      · split
        · rw [List.length_map, hb]
        · split
          · rw [List.length_map, hb]
          · exact hb
      · split
        · rw [List.length_map, hb]
        · exact hb

theorem length_xConv (src dst : Ty) {n : Nat} (hn : 0 < n) (cs : List FV) : (xConv src dst n cs).1.length = n := by
  unfold xConv
  dsimp only
  split
  · exact length_xSpecial _ _ hn
  · exact length_xSpecial _ _ hn
  · exact length_xSpecial _ _ hn
  · exact length_xnorm dst hn _

theorem length_compsBits (g : Group) (t : Ty) (r L : Nat) : (compsBits g t r L).length = tyN t := by
  rw [compsBits, List.length_map, List.length_range]

theorem tyN_pos (t : Ty) : 0 < tyN t := by cases t <;> decide

/-- A type that is no expansion is its own one component. -/
theorem plain_of_not_tyExp {t : Ty} (h : tyExp t = false) : tyComp t = t ∧ tyN t = 1 := by
  cases t with
  | x2f32 | x3f32 | x4f32 | x2f64 | x2f16 | x3f16 | x4f16 | x2bf16 | x3bf16 | x4bf16 => exact Bool.noConfusion h
  | _ => exact ⟨rfl, rfl⟩

/-! ### Transforms and expansions -/

section words
variable {s : State} {v : View} {t : Ty} {d n : Nat}

/-- A transform or an expansion instruction has written its words in the lanes of EXEC and ORed its flags into FSTAT. -/
abbrev WordForm (s : State) (v : View) (o : Host.Outcome State Fault Refusal) (t : Ty) (d n : Nat) (f : Nat → List Nat × Nat) : Prop :=
  Completes s v o (flagW v d (n * tyRegs1 t))
    (fun h => (∀ L i, v.exec.getLsbD L = true → i < n → vbits h t (d + i * tyRegs1 t) L = (f L).1.getD i 0 % 2 ^ (32 * tyRegs1 t))
      ∧ h.fstat = laneOr v.exec (fun L => (f L).2) v.g.fstat) (NoWeirs s v ∧ v.g.fptrap = 0)

/-- An instruction whose effect is `wordResults`. -/
theorem wordForm_run {u : Uses} (h : Ready s v u) {F : View → State} {f : Nat → List Nat × Nat} (hF : F v = wordResults s v t d n f)
    (hn : ∀ L, (f L).1.length = n) : WordForm s v (run s u F) t d n f := by
  rw [run_ready h, hF]
  exact wordResults_completes h.own t d n f hn

theorem wordForm_twoWord {i : Instr} {p : L} (h : Ready s v (uses i)) {f : Ty → FV → FV → TOut} (hf : ∀ t a b, (f t a b).words.length = 2) :
    WordForm s v (twoWord s i p f) p.ty p.d 2 fun L =>
      let o := f p.ty (fdec p.ty (vbits v.g p.ty p.a L)) (fdec p.ty (bbits v.g p.ty p.b L)); (o.words, o.fl) :=
  wordForm_run h rfl fun _ => hf _ _ _

theorem wordForm_splitWords {i : Instr} {p : L} {src : Ty} (h : Ready s v (uses i)) (hn : n = 2 ∨ n = 3) (hc : tyOf p.c = some src) :
    WordForm s v (splitWords s i p n) p.ty p.d n fun L => let o := tSplit src p.ty n (fdec src (vbits v.g src p.a L)); (o.words, o.fl) := by
  rw [splitWords, hc]
  exact wordForm_run h rfl fun _ => length_tSplit _ _ hn _

/-- Operations that agree on two values make the same words of two operands. -/
theorem xOp_pair_congr (t : Ty) (n : Nat) (a b : List FV) {f g : List FV → Option FV} (h : ∀ x y, f [x, y] = g [x, y]) :
    xOp t n [a, b] f = xOp t n [a, b] g := by
  simp only [xOp, List.map_cons, List.map_nil, h]

theorem wordForm_xArith {i : Instr} {p : L} {b : Nat} (h : Ready s v (uses i)) (hb : p.b = .reg b) {op : FV → FV → Option FV}
    {f : List FV → Option FV} (hf : ∀ x y, op x y = f [x, y]) :
    WordForm s v (xArith s i p op) (tyComp p.ty) p.d (tyN p.ty)
      fun L => xOp (tyComp p.ty) (tyN p.ty) [compsVal v.g p.ty p.a L, compsVal v.g p.ty b L] f := by
  refine wordForm_run h (congrArg _ (funext fun L => ?_)) fun L => length_xOp _ (tyN_pos _) _ _
  rw [hb]
  exact xOp_pair_congr _ _ _ _ hf

theorem wordForm_xSignOp {i : Instr} {p : L} (h : Ready s v (uses i)) (isNeg : Bool) :
    WordForm s v (xSignOp s i p isNeg) (tyComp p.ty) p.d (tyN p.ty)
      fun L => xNegAbs (tyComp p.ty) (tyN p.ty) isNeg (compsVal v.g p.ty p.a L) (compsBits v.g p.ty p.a L) :=
  wordForm_run h rfl fun _ => length_xNegAbs _ (tyN_pos _) _ _ (length_compsBits _ _ _ _)

/-- XCOMP to one component rounds once. -/
theorem wordForm_xcomp_one {p : L} (h : Ready s v (uses (.xcomp p))) (hc : p.c = 1) :
    WordForm s v (execXcomp p s) (tyComp p.ty) p.d 1 fun L =>
      let r := xRound (tyComp p.ty) (tyComp p.ty) p.rm 0 false (compsVal v.g p.ty p.a L); ([r.1], r.2) :=
  wordForm_run h (by simp only [hc, if_true]) fun _ => rfl

theorem wordForm_xcomp {p : L} (h : Ready s v (uses (.xcomp p))) (hc : 2 ≤ p.c) :
    WordForm s v (execXcomp p s) (tyComp p.ty) p.d p.c fun L => xOp (tyComp p.ty) p.c [compsVal v.g p.ty p.a L] List.head? :=
  wordForm_run h (by simp only [show ¬ p.c = 1 by omega, if_false]; rfl) fun _ => length_xOp _ (by omega) _ _

/-- XCVT to an expansion. -/
theorem wordForm_xcvt {p : L} {src : Ty} (h : Ready s v (uses (.xcvt p src))) (hp : tyExp p.ty = true) :
    WordForm s v (execXcvt p src s) (tyComp p.ty) p.d (tyN p.ty)
      fun L => xConv (tyComp src) (tyComp p.ty) (tyN p.ty) (compsVal v.g src p.a L) :=
  wordForm_run h (by simp only [hp, if_true]) fun _ => length_xConv _ _ (tyN_pos _) _

/-- XCVT to a plain format rounds once. -/
theorem wordForm_xcvt_plain {p : L} {src : Ty} (h : Ready s v (uses (.xcvt p src))) (hp : tyExp p.ty = false) :
    WordForm s v (execXcvt p src s) p.ty p.d 1 fun L =>
      let r := xRound (tyComp src) p.ty p.rm (uOf v p L) (p.aux % 2 == 1) (compsVal v.g src p.a L); ([r.1], r.2) := by
  obtain ⟨hcomp, hn⟩ := plain_of_not_tyExp hp
  exact wordForm_run h (by simp only [hp, hcomp, hn]; rfl) fun _ => rfl

theorem wordOp_completes {i : Instr} {f : Nat → List Nat × Nat} (form : WordOp v i t d n f) (h : Ready s v (uses i)) :
    WordForm s v (exec i s) t d n f := by
  cases form with
  | ftwosum => exact wordForm_twoWord h (f := fun t a b => tTwo t (fAdd t .rne 0 a b) (dyAdd a.dy b.dy)) fun _ _ _ => length_tTwo _ _ _
  | ffastsum => exact wordForm_twoWord h length_tFast
  | ftwoprod => exact wordForm_twoWord h (f := fun t a b => tTwo t (fMul t .rne 0 a b) (dyMul a.dy b.dy)) fun _ _ _ => length_tTwo _ _ _
  | ffma3 => exact wordForm_run h rfl fun _ => length_tFma3 _ _ _ _
  | fsplit _ _ hc => exact wordForm_splitWords h (.inl rfl) hc
  | fsplit3 _ _ hc => exact wordForm_splitWords h (.inr rfl) hc
  | xadd _ _ hb | xsub _ _ hb | xmul _ _ hb => exact wordForm_xArith h hb fun _ _ => rfl
  | xren => exact wordForm_run h rfl fun _ => length_xOp _ (tyN_pos _) _ _
  | xcomp1 _ hc => exact wordForm_xcomp_one h hc
  | xcomp _ hc => exact wordForm_xcomp h hc
  | xneg => exact wordForm_xSignOp h true
  | xabs => exact wordForm_xSignOp h false
  | xcvt _ _ hp => exact wordForm_xcvt h hp
  | xcvt1 _ _ hp => exact wordForm_xcvt_plain h hp

end words

theorem expansionForms : Stated.ExpansionForms := by
  refine ⟨fun i t d n f s v form h => wordOp_completes form h, fun p b c s v hb hc h => ?_⟩
  rw [exec_xcmp, execXcmp, run_ready h, hb, hc]
  exact predResults_completes h.own p.d _

/-! ### Exactness of the transforms (R242, R244, R246) -/

section sums
variable {b : Int} {x y : Dy} (hx : b ≤ x.2) (hy : b ≤ y.2)
include hx hy

theorem dyAt_dyAdd : dyAt b (dyAdd x y) = dyAt b x + dyAt b y := by
  have hmin : b ≤ min x.2 y.2 := by omega
  rw [← dyAt_mul_weight hmin (Int.min_le_left x.2 y.2), ← dyAt_mul_weight hmin (Int.min_le_right x.2 y.2), ← Int.add_mul]
  rfl

theorem dyEq_iff : dyEq x y = true ↔ dyAt b x = dyAt b y := by
  have hmin : b ≤ min x.2 y.2 := by omega
  rw [← dyAt_mul_weight hmin (Int.min_le_left x.2 y.2), ← dyAt_mul_weight hmin (Int.min_le_right x.2 y.2),
    Int.mul_eq_mul_right_iff (Int.ne_of_gt (weight_pos ..))]
  exact beq_iff_eq

end sums

/-- What makes up a difference makes up the sum. -/
theorem dyEq_dyAdd_of_dySub {x r w : Dy} (h : dyEq w (dySub x r) = true) : dyEq (dyAdd r w) x = true := by
  obtain ⟨b, hr, hw, hx⟩ : ∃ b, b ≤ r.2 ∧ b ≤ w.2 ∧ b ≤ x.2 := ⟨min r.2 (min w.2 x.2), by omega, by omega, by omega⟩
  rw [dyEq_iff hw (Int.le_min.mpr ⟨hx, hr⟩), dyAt_dySub hx hr] at h
  rw [dyEq_iff (Int.le_min.mpr ⟨hr, hw⟩) hx, dyAt_dyAdd hr hw, h]
  omega

/-- Where RL is clear, nothing was lost. -/
theorem not_lost_of_rl {fl : Nat} {lost : Bool} (h : Nat.land (lostFl fl lost) fRL = 0) : lost = false := by
  refine eq_false_of_ne_true fun hl => ?_
  have hbit : (Nat.land (lostFl fl lost) fRL).testBit 5 = true := by
    have hland : (Nat.land (lostFl fl lost) fRL).testBit 5 = ((lostFl fl lost).testBit 5 && fRL.testBit 5) := Nat.testBit_and _ _ 5
    have hlor (y : Nat) : (Nat.lor fl y).testBit 5 = (fl.testBit 5 || y.testBit 5) := Nat.testBit_or _ _ 5
    rw [hland, lostFl, if_pos hl, hlor]
    split
    · rw [show (fRL + 0).testBit 5 = true by decide, show fRL.testBit 5 = true by decide, Bool.or_true, Bool.and_true]
    · rw [show (fRL + fUF).testBit 5 = true by decide, show fRL.testBit 5 = true by decide, Bool.or_true, Bool.and_true]
  rw [h, Nat.zero_testBit] at hbit
  exact Bool.false_ne_true hbit

/-- The two words of a transform whose leading word is finite and which lost nothing sum to the exact result. -/
theorem tTwo_exact (t : Ty) (r : FOut) (x : Dy) (hfin : isFinite t ((tTwo t r x).words.getD 0 0) = true) (hrl : Nat.land (tTwo t r x).fl fRL = 0) :
    dyEq (dyAdd (fdec t ((tTwo t r x).words.getD 0 0)).dy (fdec t ((tTwo t r x).words.getD 1 0)).dy) x = true := by
  by_cases hr : isFinite t r.bits = true
  · have htwo : tTwo t r x = { words := [r.bits, (rnDy t (dySub x (fdec t r.bits).dy)).1], fl := lostFl r.fl (!dyEq
        (fdec t (rnDy t (dySub x (fdec t r.bits).dy)).1).dy (dySub x (fdec t r.bits).dy)) } := by
      rw [tTwo, hr]
      rfl
    rw [htwo] at hrl ⊢
    exact dyEq_dyAdd_of_dySub (Bool.not_inj (not_lost_of_rl hrl))
  · have htwo : tTwo t r x = tSpecial 1 r := by
      rw [tTwo, eq_false_of_ne_true hr]
      rfl
    rw [htwo] at hfin
    exact absurd hfin hr

theorem transformsExact : Stated.TransformsExact := by
  refine fun t a b _ => ⟨fun o ho hfin hrl => ?_, fun o ho hfin hrl => ?_⟩
  · subst ho
    exact tTwo_exact t _ _ hfin hrl
  · subst ho
    exact tTwo_exact t _ _ hfin hrl

/-! ### SPOUT (R258 to R260) -/

/-- The four words of Spout as the model holds them. -/
def spoutQuad (x : Spout) : Machine.Quad4 := (x.x0, x.x1, x.x2, x.x3)

/-- A round of the model is a round of R258. -/
theorem spoutRound_quad (k0 k1 : Word) (i : Nat) (x : Spout) : spoutRound k0 k1 i (spoutQuad x) = spoutQuad (spoutStep k0 k1 x i) := rfl

theorem foldl_spoutRound (k0 k1 : Word) (l : List Nat) (x : Spout) :
    l.foldl (fun x i => spoutRound k0 k1 i x) (spoutQuad x) = spoutQuad (l.foldl (spoutStep k0 k1) x) := by
  induction l generalizing x with
  | nil => rfl
  | cons i r ih => exact ih (spoutStep k0 k1 x i)

theorem spout_eq_spoutOf (k : DWord) (c0 c1 c2 c3 : Word) :
    spout (k.setWidth 32) ((k >>> 32).setWidth 32) c0 c1 c2 c3 = spoutQuad (spoutOf k c0 c1 c2 c3) := by
  have hrounds := foldl_spoutRound (k.setWidth 32) ((k >>> 32).setWidth 32) (List.range 8)
    { x0 := c0 ^^^ k.setWidth 32, x1 := c1 ^^^ (k >>> 32).setWidth 32, x2 := c2 ^^^ 0x9E3779B9, x3 := c3 ^^^ 0x6A09E667 }
  unfold spout
  rw [show (c0 ^^^ k.setWidth 32, c1 ^^^ (k >>> 32).setWidth 32, c2 ^^^ 0x9E3779B9, c3 ^^^ 0x6A09E667) = spoutQuad
    { x0 := c0 ^^^ k.setWidth 32, x1 := c1 ^^^ (k >>> 32).setWidth 32, x2 := c2 ^^^ 0x9E3779B9, x3 := c3 ^^^ 0x6A09E667 } from rfl, hrounds]
  rfl

section random
variable {s : State} {v : View}

/-- Words that raise no flag are written as ALU results are. -/
theorem wordResults_noFlags (t : Ty) (d n : Nat) (ws : Nat → List Nat) :
    wordResults s v t d n (fun L => (ws L, 0))
      = alu s v ((lanesOf v.exec).foldl (fun g L => putWords g t d L (ws L)) v.g) [] d n (tyRegs1 t == 2) := by
  have hfl : (((lanesOf v.exec).map fun L => (L, (ws L, 0))).filter fun e => e.2.2 != 0) = [] :=
    List.filter_eq_nil_iff.mpr fun e he => by
      obtain ⟨L, -, rfl⟩ := List.mem_map.mp he
      exact Bool.false_ne_true
  rw [wordResults, hfl, List.foldl_map]
  rfl

/-- Words that raise no flag leave FSTAT as it was, whatever traps are enabled. -/
theorem wordResults_noFlags_completes (own : v.is.step = none) (t : Ty) (d n : Nat) {ws : Nat → List Nat} (hn : ∀ L, (ws L).length = n) :
    Completes s v (.next (wordResults s v t d n fun L => (ws L, 0))) (flagW v d (n * tyRegs1 t))
      (fun h => (∀ L i, v.exec.getLsbD L = true → i < n → vbits h t (d + i * tyRegs1 t) L = (ws L).getD i 0 % 2 ^ (32 * tyRegs1 t))
        ∧ h.fstat = v.g.fstat) (NoWeirs s v) := by
  rw [wordResults_noFlags]
  exact ((alu_completes (LaneWrite.putWords t d n ws hn) rfl own d n (tyRegs1 t == 2)).withFlags id).mono
    fun g hg => ⟨fun L i hL hi => vbits_putWords hi fun j hj => hg.1 L j hL hj, hg.2⟩

/-- A random-number instruction writes four registers of each lane, and no flag. -/
theorem spout_completes {u : Uses} (h : Ready s v u) {F : View → State} {d : Nat} {x : Nat → Spout}
    (hF : F v = wordResults s v .n32 d 4 fun L => (spoutWords (spoutQuad (x L)), 0)) :
    Completes s v (run s u F) (flagW v d 4)
      (fun h => h.fstat = v.g.fstat ∧ ∀ L, v.exec.getLsbD L = true → HoldsSpout h d L (x L)) (NoWeirs s v) := by
  rw [run_ready h, hF]
  refine (wordResults_noFlags_completes h.own .n32 d 4 fun _ => rfl).mono fun g ⟨hwords, hfstat⟩ => ⟨hfstat, fun L hL => ?_⟩
  have hword {i : Nat} (hi : i < 4) {y : Word} (hy : (spoutWords (spoutQuad (x L))).getD i 0 = y.toNat) : vget g (d + i) L = y := by
    apply BitVec.eq_of_toNat_eq
    calc (vget g (d + i) L).toNat = vbits g .n32 (d + i * 1) L := by rw [Nat.mul_one]; rfl
      _ = (spoutWords (spoutQuad (x L))).getD i 0 % 2 ^ 32 := hwords L i hL hi
      _ = y.toNat := by rw [hy, Nat.mod_eq_of_lt y.isLt]
  exact ⟨hword (i := 0) (by decide) rfl, hword (i := 1) (by decide) rfl, hword (i := 2) (by decide) rfl, hword (i := 3) (by decide) rfl⟩

/-- The key of RND and RNDG: a pair of vector registers or of scalars. -/
theorem keyOf_eq {p : L} {k : Nat} (h : p.b = .reg k ∨ p.b = .scal k) (L : Nat) :
    let x : DWord := if p.b = .reg k then vget64 v.g k L else sget64 v.g k
    keyOf v p L = (x.setWidth 32, (x >>> 32).setWidth 32) := by
  rcases h with h | h
  · simp [keyOf, h, bbits, vbits, tyRegs1]
  · simp [keyOf, h, bbits, tyRegs1]

theorem rnd_completes {p : L} {k : Nat} (hb : p.b = .reg k ∨ p.b = .scal k) (h : Ready s v (uses (.rnd p))) :
    Completes s v (execRnd p s) (flagW v p.d 4)
      (fun h => h.fstat = v.g.fstat ∧ ∀ L, v.exec.getLsbD L = true →
        HoldsSpout h p.d L (spoutOf (if p.b = .reg k then vget64 v.g k L else sget64 v.g k)
          (vget v.g p.a L) (vget v.g (p.a + 1) L) (vget v.g (p.a + 2) L) (vget v.g (p.a + 3) L))) (NoWeirs s v) :=
  spout_completes h (congrArg _ (funext fun L => by rw [keyOf_eq hb, ← spout_eq_spoutOf]; rfl))

theorem rndg_completes {p : L} {k : Nat} (hb : p.b = .scal k) (h : Ready s v (uses (.rndg p))) :
    Completes s v (execRndg p s) (flagW v p.d 4)
      (fun h => h.fstat = v.g.fstat ∧ ∀ L, v.exec.getLsbD L = true →
        HoldsSpout h p.d L (spoutOf (sget64 v.g k)
          (sget v.g p.a + BitVec.ofNat 32 L) (sget v.g (p.a + 1)) (sget v.g (p.a + 2)) (sget v.g (p.a + 3)))) (NoWeirs s v) :=
  spout_completes h (congrArg _ (funext fun L => by
    rw [keyOf_eq (.inr hb), if_neg (by rw [hb]; exact Src.noConfusion), ← spout_eq_spoutOf]; rfl))

end random

theorem randomNumbers : Stated.RandomNumbers := fun _ _ _ _ => ⟨rnd_completes, rndg_completes⟩

/-- Settles O41: the transforms and expansions give as many words as they write (`wordForm_run`), the error word of a transform that lost nothing is
the whole error (`tTwo_exact`), and the model's SPOUT is that of R258 (`spout_eq_spoutOf`). -/
theorem exactAndRandom : Obligations.ExactAndRandom := ⟨expansionForms, transformsExact, randomNumbers⟩

end Sys2Proof.Machine
end

section
/-! FSTAT and the floating-point traps (R163, R240). FSTAT.RD, FSTAT.WR and FSTAT.CLR do what the table says. The frame of a trap 0x0A
is not always what the core reads back: `CanTrap` looks at the first entry that the list of L1 lines has for a key, and the list may have a
second one under it. -/

namespace Sys2Proof.Machine

open Sys2Proof.Stated

/-! ### Access to FSTAT (R240) -/

theorem RegsKept.withFstat (g : Group) (x : Nat) : RegsKept g { g with fstat := x } { fstat := True } :=
  { RegsKept.refl g _ with fstat := fun h => absurd trivial h }

/-- A write of FSTAT is the status that the instruction leaves. -/
theorem fstatWrite_completes {s : State} {v : View} (own : v.is.step = none) (x : Nat) :
    Completes s v (.next (finish s v { g := { v.g with fstat := x } })) { fstat := True } (fun h => h.fstat = x) (NoWeirs s v) :=
  plain_completes { v.g with fstat := x } own rfl (.withFstat v.g x) fun _ m => m.same.2

/-- The lowest lane of a mask is the one below which the mask is clear. -/
theorem lowLane_of_lowestIn {m : Word} {L : Nat} (h : LowestIn m L) : lowLane m = L := by
  obtain ⟨hL, hbelow⟩ := h
  have hfind : (List.range 32).find? (fun i => m.getLsbD i) = some L := by
    rw [List.find?_range_eq_some]
    exact ⟨hL, List.mem_range.mpr (BitVec.lt_of_getLsbD hL), fun M hM => by simp [hbelow M hM]⟩
  rw [lowLane, lanesOf, List.head?_filter, hfind, Option.getD_some]

/-- The mask of FSTAT.CLR clears the flags that it names, and what is no flag. -/
theorem testBit_clearedFlags (x a i : Nat) : (Nat.land x (63 - a % 64)).testBit i = (x.testBit i && decide (i < 6) && !a.testBit i) := by
  have hmask : (2 ^ 6 - (a % 2 ^ 6 + 1)).testBit i = (decide (i < 6) && !(a % 2 ^ 6).testBit i) :=
    Nat.testBit_two_pow_sub_succ (Nat.mod_lt a (Nat.two_pow_pos 6)) i
  have hbits : (Nat.land x (63 - a % 64)).testBit i = (x.testBit i && (63 - a % 64).testBit i) := Nat.testBit_and x _ i
  have hsub : 63 - a % 64 = 2 ^ 6 - (a % 2 ^ 6 + 1) := by omega
  rw [hbits, hsub, hmask, Nat.testBit_mod_two_pow]
  cases decide (i < 6) <;> simp

theorem fstatAccess : Stated.FstatAccess := by
  intro a s v
  refine ⟨fun h => ?_, fun x L hL h => ?_, fun h => ?_⟩
  · rw [exec_fstatRd, execFstatRd]
    exact runS_sset h a fun g => BitVec.ofNat 32 g.fstat
  · rw [exec_fstatWr, execFstatWr, run_ready h, lowLane_of_lowestIn hL]
    exact fstatWrite_completes h.own _
  · have h : Ready s v {} := h
    rw [exec_fstatClr, execFstatClr, runS, run_ready h]
    exact (fstatWrite_completes h.own _).mono fun g hg i => by rw [hg, testBit_clearedFlags]

/-! ### A frame that the core does not read back (R163, R420) -/

/-- FDIV of v[4] by v[6]. -/
def divWord : L := { d := 2, a := 4, b := .reg 6, c := 0, rm := .rne, ty := .f32, aux := 0 }

/-- FDIV is the next word; lane 0 divides 1 by 0 with every floating-point trap enabled, in a kernel with a handler and room for one frame, and
the context's PASID has 21 bits. -/
def widePasidState : State :=
  let word := (encode (.fdiv divWord)).getD 0 0 + 2 ^ 32 * (encode (.fdiv divWord)).getD 1 0
  let s := modGroup (placeWord State.reset 64 word) 0 fun g => { vset g 4 0 0x3F800000 with fptrap := 63 }
  let s := modLaunch s 0 fun l => { l with kern := { l.kern with trapEntry := 0x1800 } }
  let s := modCtx s 0 fun c => { c with trapArea := 0x1400, trapSize := 1024, pasid := 2 ^ 20 }
  { s with ctlb := s.ctlb.map fun e => (e.1, e.2.map fun t => { t with tr := { t.tr with pasid := 2 ^ 20 } }) }

/-- Two lines under the key of the frame's first line: a coherent one, which holds no bytes of its own, and one that does. Where the core
takes ownership of the line, `ownLine` drops the first: the key's core number, which the PASID has carried into, is another's. -/
def doubledLines : AMap L1Line := [(l1Key 0 (2 ^ 20) 0x1400, {}), (l1Key 0 (2 ^ 20) 0x1400, { bytes := List.replicate 128 0xFF })]

/-- The same with the doubled lines in the L1. -/
def doubledState : State := { widePasidState with l1 := doubledLines }

/-- The issue of the FDIV. -/
def divView : View := (view doubledState).get (by decide +kernel)

/-- The result of the FDIV in a lane. -/
def divOut (L : Nat) : FOut :=
  fDiv .f32 .rne (uOf divView divWord L) (fdec .f32 (vbits divView.g .f32 4 L)) (fdec .f32 (bbits divView.g .f32 (.reg 6) L))

theorem ready_divView : Ready doubledState divView (uses (.fdiv divWord)) := by
  have h : usesBad divView.ln.kern (uses (.fdiv divWord)) = false ∧ divView.exec ≠ 0
      ∧ readsPoison divView.g (uses (.fdiv divWord)) divView.exec = false ∧ divView.is.step = none := by decide +kernel
  obtain ⟨hregs, hexec, hclean, hown⟩ := h
  exact ⟨(Option.some_get _).symm, hregs, hexec, hclean, hown⟩

theorem plain_divView : Plain doubledState divView := by
  have h : (coreAt doubledState divView.tm.core).weirs = [] ∧ (∀ n, n < 3 → (loopGet divView.g n).active = false)
      ∧ ∀ L, L < 32 → (laneGet divView.g L).haltPend = false := by decide +kernel
  obtain ⟨hweirs, hloops, hhalts⟩ := h
  exact ⟨hweirs, hloops, fun L hL => hhalts L (BitVec.lt_of_getLsbD hL)⟩

theorem live_divView {L : Nat} (h : divView.exec.getLsbD L = true) : (laneGet divView.g L).st ≠ .dead :=
  (by decide +kernel : ∀ L, L < 32 → (laneGet divView.g L).st ≠ .dead) L (BitVec.lt_of_getLsbD h)

theorem raises_divView : (maskOf fun L => divView.exec.getLsbD L && Nat.land (divOut L).fl divView.g.fptrap != 0) ≠ 0 := by decide +kernel

theorem linesWhole_doubledState : LinesWhole doubledState := by
  intro e he
  simp only [doubledState, doubledLines, List.mem_cons, List.not_mem_nil, or_false] at he
  rcases he with rfl | rfl
  · exact .inl rfl
  · exact .inr List.length_replicate

/-- The first of the doubled lines hides the second. -/
theorem l1Data_doubledState (cr pasid key : Nat) : l1Data doubledState cr pasid key = none := by
  simp only [l1Data, doubledState, doubledLines, mget?]
  split <;> rfl

theorem canTrap_divView : CanTrap doubledState divView 0 0x1400 where
  halt := by decide +kernel
  entry := by decide +kernel
  idle := by decide +kernel
  free := by decide +kernel
  fly := by decide +kernel
  near := by decide +kernel
  page := ⟨{ pasid := 2 ^ 20, va := 4096, size := 4096, pa := 4096, host := false, r := true, w := true, x := true }, false, by decide +kernel⟩
  one := ⟨linesWhole_doubledState, fun _ _ _ => l1Data_doubledState _ _ _⟩
  asked := by decide +kernel

/-- The PC that a core reads of the frame at 0x1400 after a word. -/
def framePc (v : View) : Host.Outcome State Fault Refusal → Option Nat
  | .next t => some (seenNat t v 0x1400 8)
  | _ => none

/-- After the FDIV the core reads the bytes of the hidden line. -/
theorem framePc_divView : framePc divView (exec (.fdiv divWord) doubledState) = some (2 ^ 64 - 1) := by decide +kernel

theorem pc_divView : divView.is.pc.toNat = 0x1004 := by decide +kernel

theorem not_floatTraps : ¬ Stated.FloatTraps := by
  intro h
  have hdiv : FloatLone divView (.fdiv divWord) .f32 2 divOut := .fdiv divWord
  obtain ⟨t, g, tr, hexec, -, took, -, word, -⟩ :=
    (h _ _ _ _ _ _ hdiv ready_divView plain_divView.weirs raises_divView fun _ => live_divView).2 0 0x1400 plain_divView canTrap_divView
  have hframe : framePc divView (.next t) = some 0x1004 :=
    congrArg some (took.frame.pc.trans ((congrArg _ word.pcs.1).trans pc_divView))
  rw [← hexec, framePc_divView] at hframe
  exact absurd hframe (by decide)

/-- Refutes O40: FSTAT is read and written as stated (`fstatAccess`), but where the L1's list holds two lines under the key of the frame and the
PASID exceeds 20 bits, the core reads back bytes other than the frame of the trap 0x0A (`not_floatTraps`); `CanTrap` excludes neither. -/
theorem not_floatStatus : ¬ Obligations.FloatStatus := fun h => not_floatTraps h.2

end Sys2Proof.Machine
end
